-- ==== Sys2Proof/Word.lean ====
section
/-!
DEFINITION. The word types of the OVQ-9128: registers are 32 bits (R4), bytes are bytes, and runs of bytes are lists in
network order, first byte first (R455).
-/
namespace Sys2Proof

/-- A 32-bit register or table word (R4). -/
abbrev Word := BitVec 32

/-- A byte of a frame, of frame memory or of an image. -/
abbrev Byte := BitVec 8

/-- A run of bytes, the first byte first. -/
abbrev Bytes := List Byte

end Sys2Proof
end

