-- ==== Sys2Proof/Syntax.lean ====
section
/-!
DEFINITION. The commands of the OVQ-9128 taken as a block: one constructor of `Instr` per row of the operation and event
table (opcode_table.json), with the row's operands. An operand names the unit the step happens in (a spar, a lane, a logical
port, an engine), carries what the host or a link partner sends, or carries what only the outside knows (the bytes of a
received frame, a sensor reading, the outcome of decoding an H.265 stream).
-/
namespace Sys2Proof

/-- A clock-gated block (R26). -/
inductive Block where
  | parse (n : Fin 128)
  | egress (n : Fin 128)
  | engine (n : Fin 128)
  | pseudo (k : Fin 128)
  deriving DecidableEq, Repr

/-- A partner's training request (R80): one of presets 1 to 3, or a step of one tap. -/
inductive TrainReq where
  | preset (k : Fin 3)
  | inc (tap : Fin 5)
  | dec (tap : Fin 5)
  | hold (tap : Fin 5)
  deriving DecidableEq, Repr

/-- A step that the receiver asks of the partner's transmitter in training (R79): one tap, up or down, and the SNR estimate after it. -/
structure TapStep where
  tap : Fin 5
  up : Bool
  snr : BitVec 8
  deriving DecidableEq, Repr

/-- A codeword decoded on a port (R97): its symbol errors, and whether the frame that comes with it lies in it in part. -/
structure Codeword where
  errors : Nat
  touches : Bool
  deriving DecidableEq, Repr

/-- The error found at a checked access (R172, R339). -/
inductive Ecc where
  | good | single | double
  deriving DecidableEq, Repr

/-- The credit FIFOs of R168. -/
inductive CreditFifo where
  | inlet | outlet | wall
  deriving DecidableEq, Repr

/-- What a slice scrubber reads (R172). -/
inductive ScrubWord where
  | data (cell : Fin 8192)
  | descriptor (cell : Fin 8192)
  | freeStack
  deriving DecidableEq, Repr

/-- A protected word of a parse engine (R138, R139): a control store, or an entry of a rule, action, policer or exact-match table. -/
inductive ParseWord where
  | store
  | rule (i : Fin 4096)
  | action (i : Fin 4096)
  | policer (i : Fin 2048)
  | exact (i : Fin 1048576)
  deriving DecidableEq, Repr

/-- The operand fields of an ALU or ALUI microword (R227). -/
inductive Alu where
  | reg (rd ra rb : Fin 64) (p f : Bool)
  | imm (rd ra : Fin 64) (f : Bool) (v : BitVec 10)
  deriving DecidableEq, Repr

/-- A region of a picture slot of the segment, an operand of SCALE and COLOUR (R239): the slot's word index, and the region in luma
samples. -/
structure Region where
  pic : Word
  x : BitVec 16
  y : BitVec 16
  w : BitVec 16
  h : BitVec 16
  deriving DecidableEq, Repr

/-- A state change that the unit registers of a routine name, held until COMMIT (R241): a mark or a picture's completion, which a word of the
segment holds, or the completion entry of the job. -/
inductive Change where
  | word (i v : Word)
  | entry (status : BitVec 8) (user : Word)
  deriving DecidableEq, Repr

/-- Whose grant a memory request ends in: its direction and its bytes (R341). -/
inductive MemOp where
  | read (len : Nat)
  | write (data : Bytes)
  deriving DecidableEq, Repr

/-- A frame memory request: the requester port, the byte address, the context priority (engines), the tenant (0 none). -/
structure MemReq where
  port : Fin 512
  addr : BitVec 37
  prio : Fin 4
  tenant : Fin 64
  op : MemOp
  deriving DecidableEq, Repr

/-- How a SQ's ring looks in host memory to a fetch pass: the entries from the cached end on, and the shadow tail. -/
structure RingView where
  sq : Fin 4096
  shadow : Nat
  entries : List (List Word)
  deriving DecidableEq, Repr

/-- A host or peripheral-bus outcome of a host memory access. -/
inductive HostAccess where
  | ok | bad
  deriving DecidableEq, Repr

/-- A request that waits for a host read (R386, source 43). -/
inductive HostReq where
  | dma (ch : Fin 64)
  | list (sq : Fin 4096) (jobId : Word)
  deriving DecidableEq, Repr

/-- How a stack message arrived (R427): the spar of its Halyard link, and its HOPS. -/
structure Via where
  link : Fin 128
  hops : Fin 8
  deriving DecidableEq, Repr

/-- A packet that the decoder's ring holds past what it has read: the words that it takes there, and its receive stamp (R281, R286). How the ring
marks them is not in the rules (log 31). -/
structure RingPacket where
  words : Nat
  stamp : BitVec 64
  deriving DecidableEq, Repr

/-- What an xSPI flash holds: its half from 0x0000_0000 on, with the primary copy, and its half from 0x0040_0000 on, with the fallback
copy (R38). Bytes that are not listed are erased. -/
structure Flash where
  low : Bytes := []
  high : Bytes := []
  deriving DecidableEq, Repr

/-- The commands: one constructor per row of the operation and event table. -/
inductive Instr where
  -- registers, images, commit
  | registerWrite (addr size : Nat) (value : Word)
  | heldWriteEnterShadow
  | counterLowRead (addr size : Nat)
  | imgGo (delta : Bool)
  | hostImageReadDone
  | imageExpansionDone
  | flashCopyReadDone (x0 x1 : Flash)
  | commitArm (view stack mode disarm : Bool)
  | commitDisarm (view stack mode : Bool)
  | viewShadow (on stack mode : Bool)
  | commitWindowOpen
  | boundary
  | stackCommitDecide
  | boundaryMarkSend
  | boundaryMarkReceive (edge : Nat) (word : BitVec 128)
  | boundaryInTimeout
  -- the PTP time base
  | ptpFreqWrite (adj : Word)
  | ptpOffsetWrite (hi : Word)
  | offsetSlewDone
  | ptpStep (hi : Word)
  | ptpLock
  | ptpUnlock
  | lockWatchdogExpire
  | ppsInEdge
  | ppsOutRise
  | ppsOutFall
  | clockGate (b : Block)
  | clockUngate (b : Block)
  -- lanes
  | losAssert (l : Fin 1024) (peak cclks : Nat)
  | losDeassert (l : Fin 1024) (floor cclks : Nat)
  | lolAssert (l : Fin 1024) (ppm : BitVec 16) (wide : Nat)
  | lolDeassert (l : Fin 1024) (ppm : BitVec 16) (run : Nat)
  | alignLockLoss (p : Fin 1024)
  | resumeLock (l : Fin 1024) (snr : BitVec 8)
  | resumeTimeout (l : Fin 1024)
  | trainLocalDone (l : Fin 1024) (snr : BitVec 8) (partner : Fin 8) (inverted : Bool) (steps : List TapStep)
  | partnerReady (l : Fin 1024)
  | trainTimeout (l : Fin 1024) (ms : Nat) (partnerFailed : Bool)
  | failRetry (l : Fin 1024)
  | trainingRequest (l : Fin 1024) (r : TrainReq)
  | adaptationUpdate (l : Fin 1024) (ffe : List Int) (dfe : Int)
  | burstDetect (l : Fin 1024)
  | burstFreezeEnd (l : Fin 1024)
  | laneLpEnter (l : Fin 1024)
  | laneLpExit (l : Fin 1024)
  | laneLpExitDone (l : Fin 1024)
  | checkerLock (l : Fin 1024) (syms : List (Fin 4))
  | checkerUnlock (l : Fin 1024) (syms : List (Fin 4))
  | prbsInject (l : Fin 1024) (again : Bool)
  | prbsClr (l : Fin 1024)
  | laneRestartDone
  -- ports
  | frameReceive (p : Fin 1024) (frame : Bytes) (late : Bool) (cws : List Codeword) (shared : Bool)
  | fecWindowEnd (p : Fin 1024) (cws : List Nat)
  | pfcReceive (p : Fin 1024) (frame : Bytes)
  | pfcPauseExpire (p : Fin 1024) (c : Fin 8)
  | pfcRepeat (p : Fin 1024)
  | portFence (p : Fin 1024) (on : Bool)
  | anRestart (p : Fin 1024)
  | anPageReceive (p : Fin 1024) (rates : List Nat)
  | anRetry (p : Fin 1024)
  | macCntClr (p : Fin 1024)
  | ptpTsPop (p : Fin 1024)
  -- parse
  | frameParse (n : Fin 128) (found : Option (ParseWord × Ecc))
  | parseReloadDone (n : Fin 128)
  | prsCntClr (n : Fin 128)
  -- buffer and core
  | firstCellOffer (n : Fin 128)
  | coreSlot
  | reorderTimeout (o i : Fin 128) (queue : Nat)
  | flushWalkerFree (m : Fin 128)
  | coreCntClr (n : Fin 128)
  | auditPassEnd
  | auditQuery (owner : BitVec 12)
  | poolGet (k : Fin 4)
  | poolFree (handle : Word)
  | occPeakRead (n : Fin 128)
  | bufCntClr (n : Fin 128)
  | creditReturn (n : Fin 128) (f : CreditFifo)
  | sliceScrubRead (m : Fin 128) (w : ScrubWord) (e : Ecc)
  -- egress
  | portSelect (p : Fin 1024)
  | telemetrySample (n : Fin 128)
  | engineInletServe (n : Fin 128)
  | eqCntClr (n : Fin 128)
  | telCntClr (n : Fin 128)
  | histClr (n : Fin 128)
  -- engine commands
  | routineStart (e : Fin 128)
  | setctx (e : Fin 128) (off : Word)
  | ingest (e : Fin 128)
  | fetch (e : Fin 128) (src : Word) (count : Nat)
  | decCtus (e : Fin 128) (ring : List RingPacket)
  | decEnd (e : Fin 128)
  | encCtus (e : Fin 128)
  | encEnd (e : Fin 128)
  | scale (e : Fin 128) (src dst : Region) (filter : Fin 16)
  | colour (e : Fin 128) (src dst : Region) (slot : Fin 1024)
  | emit (e : Fin 128) (off : Word) (count dest cls : Nat)
  | complete (e : Fin 128) (status : Nat) (user : Word)
  | mark (e : Fin 128) (slot : BitVec 8) (mark : Fin 4)
  | gsync (e : Fin 128) (bar : Fin 16)
  -- engine microwords
  | uNop (e : Fin 128)
  | uAdd (e : Fin 128) (a : Alu)
  | uSub (e : Fin 128) (a : Alu)
  | uAnd (e : Fin 128) (a : Alu)
  | uOr (e : Fin 128) (a : Alu)
  | uXor (e : Fin 128) (a : Alu)
  | uShl (e : Fin 128) (a : Alu)
  | uShr (e : Fin 128) (a : Alu)
  | uSar (e : Fin 128) (a : Alu)
  | uNeg (e : Fin 128) (a : Alu)
  | uMul (e : Fin 128) (a : Alu)
  | uMulh (e : Fin 128) (a : Alu)
  | uDiv (e : Fin 128) (a : Alu)
  | uRem (e : Fin 128) (a : Alu)
  | uMin (e : Fin 128) (a : Alu)
  | uMax (e : Fin 128) (a : Alu)
  | uAbs (e : Fin 128) (a : Alu)
  | uLdi (e : Fin 128) (rd : Fin 64) (high : Bool) (imm : BitVec 16)
  | uLd (e : Fin 128) (rd ra : Fin 64) (sp : Fin 4) (off : BitVec 13)
  | uSt (e : Fin 128) (rs ra : Fin 64) (sp : Fin 4) (off : BitVec 13)
  | uBr (e : Fin 128) (cond : Fin 16) (target : BitVec 13)
  | uCall (e : Fin 128) (target : BitVec 13)
  | uRet (e : Fin 128)
  | uUnit (e : Fin 128) (unit : Fin 16) (uop : BitVec 8)
  | unitDone (e : Fin 128) (unit : Fin 16) (results : List (Fin 16 × Word)) (writes : List (Word × Word)) (changes : List Change)
  | uWait (e : Fin 128) (mask : BitVec 16)
  | stallEnd (e : Fin 128)
  | uIn (e : Fin 128) (rd : Fin 64)
  | uOut (e : Fin 128) (rs : Fin 64) (last : Bool)
  | uCommit (e : Fin 128)
  | uEnd (e : Fin 128)
  | raiseException (e : Fin 128) (code : BitVec 7)
  | raiseNotice (e : Fin 128) (code : BitVec 7)
  | reservedOpcode (e : Fin 128)
  | routineWatchdogExpire (e : Fin 128)
  | machineCheck (e : Fin 128) (contextMemory : Bool)
  | engineReloadDone (e : Fin 128) (copyGood : Bool)
  | engineForceReload (e : Fin 128)
  | inletResume (e : Fin 128)
  | inletSkip (e : Fin 128)
  | engineFence (e : Fin 128) (on : Bool)
  | ceCntClr (e : Fin 128)
  | outletRelease (e : Fin 128)
  -- wall output
  | pipeFrameSkip (n : Fin 128) (pipe : Fin 4)
  | wallCntClr (n : Fin 128)
  -- frame memory
  | memoryRequest (r : MemReq)
  | bankRefresh (pc : Fin 128) (bank : Fin 48) (idle : Bool)
  | retrainPause (pc : Fin 128)
  | retrainStale (pc : Fin 128)
  | patrolScrub (addr : BitVec 37) (raced : Bool)
  | holdWatchdogBite (r : MemReq)
  | portReadmit (port : Fin 512)
  | bar2Move (base : BitVec 7)
  | bar2MoveDone
  | bar2Access (offset : BitVec 34) (op : MemOp)
  | fmcCntClr
  -- host queues and DMA
  | sqTailDoorbell (q : Fin 4096) (tail : BitVec 16)
  | cqHeadDoorbell (q : Fin 4096) (head : BitVec 16)
  | fetchPass (rings : List RingView) (frames : List Bytes)
  | nopEntry (q : Fin 4096) (entry : List Word)
  | job (q : Fin 4096) (entry : List Word)
  | inject (q : Fin 4096) (entry : List Word) (frame : Bytes)
  | injectDone
  | poolAlloc (q : Fin 4096) (entry : List Word)
  | poolFreeEntry (q : Fin 4096) (entry : List Word)
  | rxbuf (q : Fin 4096) (entry : List Word)
  | dmaEntry (q : Fin 4096) (entry : List Word)
  | hostFrameDeliver (h : Fin 66)
  | sqStop (q : Fin 4096) (on : Bool)
  | sqPause (q : Fin 4096) (on : Bool)
  | sqInv (q : Fin 4096)
  | tenantResetWrite (f : Fin 64)
  | functionLevelReset (f : Fin 64)
  | tenantResetStuck (f : Fin 64)
  | cqHoldoffExpire (c : Fin 4096)
  | pcieLinkL0
  | vectorUnmask (f : Fin 64) (vec : Option (Fin 2048))
  | functionEnterD0 (f : Fin 64)
  | hostWritesResume
  | perstAssert
  | dmaSwreq (lines : BitVec 16)
  | dmaBurst (ch : Fin 64) (data : Bytes) (access : HostAccess)
  | dmaStop (ch : Fin 64)
  | hqCntClr
  -- interrupts
  | irqClaim (t : Fin 8)
  | irqComplete (t : Fin 8) (src : BitVec 11)
  | irqPendSet (w : Fin 36) (v : Word)
  | irqPendClear (w : Fin 36) (v : Word)
  | irqMaskWrite (w : Fin 36) (form : Fin 3) (v : Word)
  | irqSwi (edges : BitVec 8)
  | targetHoldoffExpire (t : Fin 8)
  -- faults
  | pllLockLoss (pll : Fin 13)
  | blockResetDone (c : Fin 16)
  | classAutoClear (c : Fin 16)
  | fltClassClr (v : BitVec 16)
  | fltBlackClr
  | firstLatchClear (c : Fin 16)
  | faultBusLow
  | faultBusRelease
  | faultBusIgnoreEnd (low : Bool)
  | faultInjectArm (src : BitVec 9) (mode : Bool)
  | logClear
  | logClearDone (pass : Bool)
  | fltCntClr
  -- Masthead island
  | powerOnReset
  | coldCrystalReady
  | wakePin (k : Fin 4) (high : Bool) (edges : Nat)
  | rtcAlarm
  | rtcSecondTick
  | smbusAddressMatch (addr : BitVec 7)
  | stackWakeRelay
  | perstRise
  | pwrGoodRise (g : Fin 4)
  | pwrGoodTimeout (g : Fin 4)
  | brownout (g : Fin 4)
  | autoRestart
  | railDownStep
  | pllLockDone
  | hbmTrainingDone
  | sleepRequest
  | sleepCancel
  | snapshotWriteDone (good : Bool)
  | snapshotEraseSector
  | wrstnAssert
  | warmReset
  | uartCharacterReceive (samples : BitVec 10)
  | monitorRead (addr : Word)
  | monitorWrite (addr data : Word)
  | monitorStatus
  | monitorErr
  | fclkStop
  | uartDataRead
  | uartDataWrite (c : Byte)
  | rtcSet (sec : Word)
  | rtcSubRead
  -- stacking
  | helloSend
  | hello (v : Via) (src : Fin 8) (size : BitVec 8) (peerMaster : Bool) (imageId : Word)
  | arm (v : Via) (target imageId : Word)
  | ready (v : Via) (src : Fin 8) (target : Word)
  | notReady (v : Via) (src : Fin 8) (target : Word) (cause : BitVec 8)
  | missed (v : Via) (src : Fin 8) (count : Word)
  | barrier (v : Via) (src : Fin 8) (gang : Fin 64) (bar : Fin 16) (gen : Word) (member : Fin 16)
  | time (v : Via) (src : Fin 8) (tx : BitVec 64)
  | timeResp (v : Via) (src : Fin 8) (tx rxThere txThere : BitVec 64)
  | halyardCellFrame (n : Fin 128) (frame : Bytes)
  | halyardAckFrame (n : Fin 128) (ack : BitVec 8) (creditGen : BitVec 12) (creditMgmt : BitVec 6)
  | replayTimeout (n : Fin 128)
  | stkCalStart
  | calibrationDone
  | stkCntClr
  -- environment, windows, and the rest of the table
  | sensorRead (junction : List Nat) (hbm : Nat)
  | supplyOutOfRange (rail : Fin 8) (mv us : Nat)
  | thermalTrip (junction us : Nat)
  | droopDetect (core sram : Nat) (since : Option Nat)
  | stretchEnd (core sram cycles : Nat)
  | envStretchRead
  | tableWindowRead (w : Fin 8)
  | tableWindowWrite (w : Fin 8)
  | tableWindowDone (w : Fin 8)
  | alignLockGain (p : Fin 1024)
  | parseScrubRead (n : Fin 128) (w : ParseWord) (e : Ecc)
  | dieToDieLinkError (k : Fin 13)
  | activeBankParityError
  | pcieInternalError
  | pcieCompletionTimeout (r : HostReq)
  | faultLogCheckFail
  | supplyBackInRange (rail : Fin 8) (mv : Nat)
  | pornAssert
  | pcieLinkDown (l2 : Bool)
  | functionEnterD3hot (f : Fin 64)
  | wallPipeCellBuild (n : Fin 128)
  | rhWindowEnd (pc : Fin 128) (bank : Fin 48)
  | helloReachExpire (id : Fin 8)
  | uartCharacterSent
  deriving DecidableEq, Repr

end Sys2Proof
end

