-- ==== Sys2Proof/Decode.lean ====
section
/-!
DEFINITION. The commands have no encoding: no row of the operation and event table gives bits, so no word spells a command. The microwords
that an engine's control store holds have one (R227): the decoder of the sequencers.
-/
namespace Sys2Proof

/-- The command that a word spells by the table's bits: none, for no row of the table gives bits. -/
def decodeTableWord (_nbits _w : Nat) : Option Instr := none

/-- A six-bit field of a microword: a register. -/
def microReg (w : Word) (lo : Nat) : Fin 64 := (w.extractLsb' lo 6).toFin
/-- The row of an ALU function FN (R231). -/
def microAlu (e : Fin 128) (fn : BitVec 4) (a : Alu) : Instr :=
  match fn with
  | 0 => .uAdd e a
  | 1 => .uSub e a
  | 2 => .uAnd e a
  | 3 => .uOr e a
  | 4 => .uXor e a
  | 5 => .uShl e a
  | 6 => .uShr e a
  | 7 => .uSar e a
  | 8 => .uNeg e a
  | 9 => .uMul e a
  | 10 => .uMulh e a
  | 11 => .uDiv e a
  | 12 => .uRem e a
  | 13 => .uMin e a
  | 14 => .uMax e a
  | _ => .uAbs e a
/-- The microword that engine `e` decodes from a word of its control store (R227): OPC is bits [31:27]. Fields not named are not checked. -/
def microDecode (e : Fin 128) (w : Word) : Instr :=
  match w.extractLsb' 27 5 with
  | 0x00 => .uNop e
  | 0x01 => microAlu e (w.extractLsb' 5 4) (.reg (microReg w 21) (microReg w 15) (microReg w 9) (w.getLsbD 4) (w.getLsbD 3))
  | 0x02 => microAlu e (w.extractLsb' 11 4) (.imm (microReg w 21) (microReg w 15) (w.getLsbD 10) (w.extractLsb' 0 10))
  | 0x03 => .uLdi e (microReg w 21) (w.getLsbD 20) (w.extractLsb' 4 16)
  | 0x04 => .uLd e (microReg w 21) (microReg w 15) (w.extractLsb' 13 2).toFin (w.extractLsb' 0 13)
  | 0x05 => .uSt e (microReg w 21) (microReg w 15) (w.extractLsb' 13 2).toFin (w.extractLsb' 0 13)
  | 0x06 => .uBr e (w.extractLsb' 23 4).toFin (w.extractLsb' 0 13)
  | 0x07 => .uCall e (w.extractLsb' 0 13)
  | 0x08 => .uRet e
  | 0x09 => .uUnit e (w.extractLsb' 23 4).toFin (w.extractLsb' 15 8)
  | 0x0A => .uWait e (w.extractLsb' 11 16)
  | 0x0B => .uIn e (microReg w 21)
  | 0x0C => .uOut e (microReg w 21) (w.getLsbD 20)
  | 0x0D => .uCommit e
  | 0x0E => .uEnd e
  | 0x0F => if w.getLsbD 26 then .raiseNotice e (w.extractLsb' 19 7) else .raiseException e (w.extractLsb' 19 7)
  | _ => .reservedOpcode e

end Sys2Proof
end

