-- ==== Sys2Proof/Machine/Bits.lean ====
section
/-!
DEFINITION. Bit fields, byte order, signed readings and the two cyclic redundancy checks the spec names. Every other file
takes its fields apart with these.
-/
namespace Sys2Proof.Machine

/-- Bits `[hi:lo]` of a natural number. -/
def bits (x hi lo : Nat) : Nat := (x >>> lo) % 2 ^ (hi + 1 - lo)

/-- Bit `i` of a natural number. -/
def bit (x i : Nat) : Bool := (x >>> i) % 2 == 1

/-- One or zero. -/
def b2n (b : Bool) : Nat := if b then 1 else 0

/-- `x` with bits `[hi:lo]` replaced by the low bits of `v`. -/
def putBits (x hi lo v : Nat) : Nat :=
  x - (bits x hi lo) * 2 ^ lo + (v % 2 ^ (hi + 1 - lo)) * 2 ^ lo

/-- Bits `[hi:lo]` of a word, right-aligned. -/
def fld (w : Word) (hi lo : Nat) : Nat := bits w.toNat hi lo

/-- Bit `i` of a word. -/
def wbit (w : Word) (i : Nat) : Bool := w.getLsbD i

/-- A word with bits `[hi:lo]` replaced. -/
def setFld (w : Word) (hi lo v : Nat) : Word := BitVec.ofNat 32 (putBits w.toNat hi lo v)

/-- A word with bit `i` replaced. -/
def setBit (w : Word) (i : Nat) (b : Bool) : Word := setFld w i i (b2n b)

/-- A word of a natural number, modulo 2³². -/
def wd (x : Nat) : Word := BitVec.ofNat 32 x

/-- A byte of a natural number, modulo 256. -/
def by8 (x : Nat) : Byte := BitVec.ofNat 8 x

/-- The signed reading of an `n`-bit value. -/
def sgn (n x : Nat) : Int := if x % 2 ^ n < 2 ^ (n - 1) then (x % 2 ^ n : Nat) else ((x % 2 ^ n : Nat) : Int) - 2 ^ n

/-- The `n`-bit two's complement pattern of an integer. -/
def unsgn (n : Nat) (x : Int) : Nat := (x % (2 ^ n : Nat)).toNat

/-- Quotient rounded up. -/
def ceilDiv (a b : Nat) : Nat := (a + b - 1) / b

/-- A value of which 0 acts as 1 (so many fields say so). -/
def atLeast1 (x : Nat) : Nat := if x = 0 then 1 else x

/-- `n` bytes of `x`, most significant first. -/
def beBytes : Nat → Nat → Bytes
  | 0, _ => []
  | n + 1, x => by8 (x >>> (8 * n)) :: beBytes n x

/-- `n` bytes of `x`, least significant first. -/
def leBytes : Nat → Nat → Bytes
  | 0, _ => []
  | n + 1, x => by8 x :: leBytes n (x >>> 8)

/-- The value of bytes, most significant first. -/
def beNat (bs : Bytes) : Nat := bs.foldl (fun a b => a * 256 + b.toNat) 0

/-- The value of bytes, least significant first. -/
def leNat : Bytes → Nat
  | [] => 0
  | b :: bs => b.toNat + 256 * leNat bs

/-- `n` bytes from offset `o`; bytes past the end are left out. -/
def slice (bs : Bytes) (o n : Nat) : Bytes := (bs.drop o).take n

/-- Big-endian value of `n` bytes at offset `o`. -/
def beAt (bs : Bytes) (o n : Nat) : Nat := beNat (slice bs o n)

/-- Little-endian value of `n` bytes at offset `o`. -/
def leAt (bs : Bytes) (o n : Nat) : Nat := leNat (slice bs o n)

/-- Bytes with the run `v` written at offset `o`, where the run lies inside. -/
def patch (bs : Bytes) (o : Nat) (v : Bytes) : Bytes :=
  bs.take o ++ v.take (bs.length - o) ++ bs.drop (o + v.length)

/-- The little-endian 32-bit words of a run of bytes; a short last word is padded with zeros (R455). -/
def wordsOf : Bytes → List Word
  | a :: b :: c :: d :: r => wd (leNat [a, b, c, d]) :: wordsOf r
  | [] => []
  | r => [wd (leNat r)]

/-- The bytes of words, little-endian (R4, R455). -/
def bytesOf : List Word → Bytes
  | [] => []
  | w :: ws => leBytes 4 w.toNat ++ bytesOf ws

/-- Word `i` of a list, zero past its end. -/
def wAt (ws : List Word) (i : Nat) : Nat := (ws.getD i 0).toNat

/-- The wide value of consecutive words, least significant first (R455). -/
def wide : List Word → Nat
  | [] => 0
  | w :: ws => w.toNat + 2 ^ 32 * wide ws

/-- Eight steps of a reflected CRC register. -/
def crcBits (poly : Nat) : Nat → Nat → Nat
  | 0, c => c
  | k + 1, c => crcBits poly k (if c % 2 = 1 then (c / 2).xor poly else c / 2)

/-- A reflected 32-bit CRC with initial value and final XOR all ones. -/
def crcRefl (poly : Nat) (bs : Bytes) : Nat :=
  (bs.foldl (fun c b => crcBits poly 8 (c.xor b.toNat)) 0xFFFFFFFF).xor 0xFFFFFFFF

/-- CRC-32C, Castagnoli (R31). -/
def crc32c (bs : Bytes) : Nat := crcRefl 0x82F63B78 bs

/-- CRC-32 of IEEE 802.3, the frame check sequence. -/
def crc32 (bs : Bytes) : Nat := crcRefl 0xEDB88320 bs

/-- The four FCS bytes in the order they are sent. -/
def fcsBytes (bs : Bytes) : Bytes := leBytes 4 (crc32 bs)

/-- A stomped FCS: the complement of the right one (R104). -/
def stompBytes (bs : Bytes) : Bytes := leBytes 4 ((crc32 bs).xor 0xFFFFFFFF)

/-- One bit of the CRC-8 of R428 over a register value. -/
def crc8Step (c : Nat) (b : Bool) : Nat :=
  let t := (c / 128 % 2).xor (b2n b)
  if t = 1 then ((c * 2) % 256).xor 0x07 else (c * 2) % 256

/-- CRC-8 of the top `n` bits of a number of `n` bits, fed from the highest down (R428). -/
def crc8 (x : Nat) : Nat → Nat → Nat
  | 0, c => c
  | n + 1, c => crc8 x n (crc8Step c (bit x n))

/-- The one's complement sum of 16-bit words, folded, of a run of bytes. -/
def onesSum : Bytes → Nat
  | a :: b :: r => a.toNat * 256 + b.toNat + onesSum r
  | [a] => a.toNat * 256
  | [] => 0

/-- A sum folded to 16 bits. -/
def fold16 (x : Nat) : Nat :=
  let y := x % 65536 + x / 65536
  let z := y % 65536 + y / 65536
  z % 65536 + z / 65536

/-- The Internet checksum of a run of bytes. -/
def inetSum (bs : Bytes) : Nat := 65535 - fold16 (onesSum bs)

/-- The numbers `0 … n - 1`. -/
def upto (n : Nat) : List Nat := List.range n

/-- A member put into a list in order, after its equals. -/
def insertBy {α : Type} (le : α → α → Bool) (x : α) : List α → List α
  | [] => [x]
  | y :: ys => if le y x then y :: insertBy le x ys else x :: y :: ys
/-- A list put in order, equals in the order they had. -/
def sortBy {α : Type} (le : α → α → Bool) (xs : List α) : List α := xs.foldl (fun acc x => insertBy le x acc) []

end Sys2Proof.Machine
end

