-- ==== Sys2Proof/Config.lean ====
section
/-!
DEFINITION. What the spec leaves open, as constants without a body: nothing can be proved of their values, so a statement
that holds holds whatever they are. Each is named in the assumption log.
-/
namespace Sys2Proof.Config

/-- A fresh free word for each count of the model's counter (log 4). -/
opaque freeWord : Nat → Word

/-- The rounding of a chroma sample between two lines, and of a subsampled one, in quarters (R305, R318, log 33). -/
opaque chromaRound : Nat → Nat

/-- The sample of a subsampled chroma plane that a unit forms of the 4:4:4 values under it (R224, R239, log 31). -/
opaque chromaDown : List Nat → Nat

/-- The two bits of SSPRQ that follow the bits before, a standard outside the spec (R88, log 120). -/
opaque ssprqNext : Nat → BitVec 2

/-- SHA-384 of bytes, a standard outside the spec (R35, log 5). -/
opaque sha384 : Bytes → Bytes

/-- ECDSA P-384: does the signature (r, s) of a digest verify under the key (R35, log 5). -/
opaque ecdsaP384 : (key digest r s : Bytes) → Bool

/-- The public key hash in the fuses: 48 bytes, all zero where none is fused (R36, log 6). -/
opaque fuseKeyHash : Bytes

/-- The SAMPLE fuse (R1, R449, log 6). -/
opaque fuseSample : Bool

/-- The 64-bit serial number in the fuses (R449, log 6). -/
opaque fuseSerial : BitVec 64

/-- The MASTER strap (R419, log 6). -/
opaque strapMaster : Bool

/-- The STACK_ID straps (R419, log 6). -/
opaque strapId : Fin 8

/-! What the tools of H.265 yield where the rules leave the choice to the encoder (R253, log 128). -/

/-- A prediction unit as the encoder decides it: a merge candidate, or vectors that it picks from the search, by number. -/
structure Part where
  merge : Option Nat
  picks : List Nat
  deriving DecidableEq, Repr, Inhabited
/-- A coding unit at a place of its CTU: size, intra with its mode, skip, the split into prediction units (0 none, 1 and 2 in halves, 3 in
quarters), and the quantized coefficients, none where every cbf is 0. -/
structure Cu where
  x : Nat
  y : Nat
  size : Nat
  intra : Bool
  mode : Nat := 1
  skip : Bool := false
  split : Nat := 0
  parts : List Part := []
  coefs : List Int := []
  deriving DecidableEq, Repr, Inhabited
/-- The decisions for a CTU: SAO parameters, none where SAO is off, and its coding units. -/
structure Choice where
  sao : List Nat := []
  cus : List Cu
  deriving DecidableEq, Repr, Inhabited
/-- What the coding of a CTU depends on besides samples: the session block, the slice type (0 B, 1 P, 2 I), the CTU's column and row, its
QP, whether temporal candidates may be used, whether it ends its slice segment, and the data that its neighbours left. -/
structure CtuIn where
  esb : List Word
  kind : Nat
  x : Nat
  y : Nat
  qp : Int
  tmvp : Bool
  ends : Bool
  near : List (List Nat)
  deriving DecidableEq, Repr, Inhabited

/-- The decisions for a CTU coded normally, from its source samples (plane, column, row), the samples of the active references, and the
vectors that the search found. -/
opaque ctuChoice : (i : CtuIn) → (src : Nat → Nat → Nat → Nat) → (ref : Nat → Nat → Int → Int → Nat) → (vectors : List (Int × Int)) → Choice

/-- The vectors of a prediction unit by its merge candidate: the reference's place in list 0 and the vector in quarter samples. -/
opaque mergeVectors : (i : CtuIn) → (before : List Cu) → (cu : Cu) → (part : Nat) → List (Nat × Int × Int)

/-- The bits that the arithmetic coder gives out for a CTU, its state after them, and the data left for the neighbours; the empty state
is that of an initialization. -/
opaque ctuBits : (i : CtuIn) → (c : Choice) → (cabac : List Nat) → List Bool × List Nat × List Nat

/-- A sample of the reconstruction after a CTU (plane, column, row), loop filters included. -/
opaque ctuRecon : (i : CtuIn) → (c : Choice) → (ref : Nat → Nat → Int → Int → Nat) → (plane : Nat) → (x y : Nat) → Nat

/-- A sample beside a tile edge after the loop filters that go across it (R276). -/
opaque edgeFilter : (esb : List Word) → (rec : Nat → Int → Int → Nat) → (plane : Nat) → (x y : Nat) → Nat

/-! What the syntax of an H.265 stream gives (R280, R283–R295, log 133). -/

/-- A parameter set as its syntax gives it (R283): the PROFILE code of R250, 5 and above where it is none of them, the first columns and rows of
its tiles in CTUs, and the bounds of its output process. -/
structure ParamSet where
  profile : Nat
  level : Nat
  highTier : Bool
  width : Nat
  height : Nat
  depth : Nat
  chroma : Nat
  ctuSize : Nat
  maxDecBuf : Nat
  maxReorder : Nat := 0
  maxLatency : Option Nat := none
  tileCols : List Nat := [0]
  tileRows : List Nat := [0]
  wpp : Bool := false
  deriving DecidableEq, Repr, Inhabited
/-- A slice segment header: does it name known and accepted parameter sets, its CTU address, does it depend on the segment before, the entry points that it gives, the picture's order count, pic_output_flag, the order counts that its RPS keeps as short-term and long-term references, and that of list 0 entry 0. -/
structure SliceHead where
  known : Bool
  addr : Nat
  depends : Bool
  entries : Nat
  poc : Int
  output : Bool
  shortRefs : List Int
  longRefs : List Int
  list0 : Option Int
  deriving DecidableEq, Repr, Inhabited
/-- A CTU decoded: a CABAC error, the end of its slice segment, the CTUs of references (order count, address) and of its own picture that it predicts
from, its list 0 vector at the centre where it is inter-coded, the arithmetic coder's state after it, and the data left for its neighbours. -/
structure DecCtu where
  error : Bool
  ends : Bool
  refs : List (Int × Nat)
  near : List Nat
  vector : Option (Int × Int)
  cabac : List Nat
  left : List Nat
  deriving DecidableEq, Repr, Inhabited

/-- What the parameter sets received so far, newest first, give; none where they are not complete. -/
opaque paramSet : (sets : List Bytes) → Option ParamSet

/-- The header of a slice segment, after a picture of an order count. -/
opaque sliceHead : (nal : Bytes) → (sets : List Bytes) → (before : Int) → SliceHead

/-- What the decoding of a CTU depends on besides samples: the NAL unit, the parameter sets, the number of the CTU in its segment, its address, the
arithmetic coder's state before it and the data that its neighbours left. -/
structure DecAt where
  nal : Bytes
  sets : List Bytes
  k : Nat
  addr : Nat
  cabac : List Nat
  near : List (List Nat)
  deriving DecidableEq, Repr, Inhabited

/-- A CTU of a slice segment decoded. -/
opaque decodeCtu : DecAt → DecCtu

/-- A sample of the decoded picture after that CTU (plane, column, row), loop filters included, from those of its references by order count and
those of the picture so far. -/
opaque decodedSample : DecAt → (ref : Int → Nat → Int → Int → Nat) → (rec : Nat → Int → Int → Nat) → (plane x y : Nat) → Nat

/-- Does a decoded picture hash SEI differ from the picture's samples (plane, column, row)? -/
opaque hashWrong : (sei : Bytes) → (rec : Nat → Int → Int → Nat) → Bool

/-- The samples of padding around a reference that a concealment vector may reach (R292). -/
opaque refPadding : Nat

/-- The rounding of a weighted mean: a numerator and a denominator give 0 for down, 1 for up (R293). -/
opaque meanRound : (num den : Nat) → Nat

/-- The weight of a vector's bits in the cost of the search, in sixteenths, for a QP (R261). -/
opaque lambda : Int → Nat

/-- The bits of a vector in the cost of the search (R261). -/
opaque vectorBits : (i : CtuIn) → (ref x y size : Nat) → (vx vy : Int) → Nat

/-- Which of the vectors of equal cost the search takes (R261). -/
opaque tie : (i : CtuIn) → (ref x y size : Nat) → Nat

/-- The state of the arithmetic coder, and the data of a neighbour, that a gang member on another device has left (R276, log 128). -/
opaque farMember : (row : Nat) → List Nat

/-- The MD5 (1) or the CRC (2) of a colour component of the picture (R271). -/
opaque pictureHash : (kind : Nat) → (samples : List Nat) → Bytes

/-- The bytes of a header template past the 64 that the session block holds (R255, R273). -/
opaque templateTail : Nat → Byte

/-- The words of a gang ring entry beyond its ready word (R277). -/
opaque ringWords : Nat

/-- The choice by which the loader places the golden copy of engine `n` in the reserved region (R332, log 7). -/
opaque goldenBase : Nat → Word

/-- The choice by which the loader places, in the reserved region, the copy of an entry of a parse store or table (R138, log 7). -/
opaque parseBase : Nat → Word

end Sys2Proof.Config
end

