-- ==== Sys2Proof/Machine/SMap.lean ====
section
/-!
DEFINITION. A sparse map with a default: pairs of a key and a value, keys strictly rising, no value equal to what its key
reads as when it is not listed. One shape serves frame memory, the register banks, the tables and every array of units, so
that equal contents are equal data.
-/
namespace Sys2Proof.Machine

/-- A sparse map of natural keys. -/
abbrev SMap (α : Type) := List (Nat × α)

/-- The value at `k`, or the default. -/
def SMap.get {α : Type} (d : Nat → α) : SMap α → Nat → α
  | [], k => d k
  | (j, v) :: m, k => if j = k then v else SMap.get d m k

/-- The value listed at `k`. -/
def SMap.get? {α : Type} : SMap α → Nat → Option α
  | [], _ => none
  | (j, v) :: m, k => if j = k then some v else SMap.get? m k

/-- The map without key `k`. -/
def SMap.erase {α : Type} : SMap α → Nat → SMap α
  | [], _ => []
  | (j, v) :: m, k => if j = k then SMap.erase m k else (j, v) :: SMap.erase m k

/-- The map with `v` listed at `k`. -/
def SMap.put {α : Type} : SMap α → Nat → α → SMap α
  | [], k, v => [(k, v)]
  | (j, u) :: m, k, v =>
    if j = k then (k, v) :: m else if k < j then (k, v) :: (j, u) :: m else (j, u) :: SMap.put m k v

/-- A write: writing the default removes the entry. -/
def SMap.set {α : Type} [DecidableEq α] (d : Nat → α) (m : SMap α) (k : Nat) (v : α) : SMap α :=
  if v = d k then SMap.erase m k else SMap.put m k v

/-- A change of the value at `k`. -/
def SMap.upd {α : Type} [DecidableEq α] (d : Nat → α) (m : SMap α) (k : Nat) (f : α → α) : SMap α :=
  SMap.set d m k (f (SMap.get d m k))

/-- The keys rise strictly, all of them above `lo` where `lo` is given. -/
def SMap.rising {α : Type} : Option Nat → SMap α → Bool
  | _, [] => true
  | none, (k, _) :: m => SMap.rising (some k) m
  | some lo, (k, _) :: m => decide (lo < k) && SMap.rising (some k) m

/-- The canonical form: keys rise and no listed value is the default of its key. -/
def SMap.wf {α : Type} [DecidableEq α] (d : Nat → α) (m : SMap α) : Bool :=
  SMap.rising none m && m.all (fun p => decide (p.2 ≠ d p.1))

end Sys2Proof.Machine
end

