-- ==== Sys2Proof/Machine/State.lean ====
section
/-!
DEFINITION. The state of the block, as plain data: the register banks, counters and tables that software sees (kept by
their addresses), frame memory, and everything the spec gives the device behind them (cells, slices, streams, engines,
queues, latches, the island, the Halyard links). Every array of units is a sparse map whose unlisted units are as at reset.
-/
namespace Sys2Proof.Machine

/-- An instant in seconds since the PTP epoch, as an exact fraction (R56). -/
structure Instant where
  num : Nat := 0
  den : Nat := 1
  deriving DecidableEq, Repr

/-- The time base and the period (R54–R66, R176, R178). `ticks` counts 1/(3·2¹⁶·10⁶) of 0.25 ns, so that a CCLK at any
PTP_FREQ is a whole number of them. `firstMark` waits for the first good mark (R59); `markCount`, `markSeen`, `markNext` and `edgeOff`
are the count of a first mark, whether the mark of the coming boundary came, its NEXT, and the delay that the last good mark was placed
with (R429). -/
structure TimeBase where
  cclk : Nat := 0
  ticks : Int := 0
  slew : Int := 0
  offLo : Word := 0
  stepLo : Word := 0
  ppsOut : Bool := false
  last : Instant := {}
  next : Instant := {}
  setCount : Bool := false
  stepped : Bool := false
  firstMark : Bool := false
  markCount : Option Nat := none
  markSeen : Bool := false
  markNext : Option Nat := none
  edgeOff : Int := 0
  transition : Bool := false
  pround : Nat := 0
  freshRound : Bool := false
  perSeq : Nat := 0
  showAt : Nat := 0
  holdAt : Bool := false
  stretch : Bool := false
  deriving DecidableEq, Repr

/-- An arm (R46): the count of its boundary, whether it is a stack commit (R52), and whether it is of MODE 0, for the next window that
opens. -/
structure Arm where
  target : Nat
  stack : Bool
  next : Bool := false
  deriving DecidableEq, Repr

/-- The commit machinery (R46–R53): `swap` says that the swap of the coming boundary is decided, `decided` that the stack master marks
it with the commit flag, `hold` is the hold buffer of class B writes, `readyFor` the target that a member has reported READY for. -/
structure Commit where
  arm : Option Arm := none
  window : Bool := false
  swap : Bool := false
  decided : Bool := false
  hold : List (Nat × Word) := []
  readyFor : Option Nat := none
  deriving DecidableEq, Repr

/-- An image load in progress (R37–R42). `late` says that the expansion of a delta waits for the end of a commit window. -/
structure Load where
  image : Bytes := []
  delta : Bool := false
  flash : Bool := false
  expanding : Bool := false
  late : Bool := false
  deriving DecidableEq, Repr

/-- The loader (R38–R42). -/
structure Loader where
  job : Option Load := none
  reading : Bool := false
  fallback : Bool := false
  firstCode : Nat := 0
  hostDone : Bool := false
  fence : Bool := false
  deriving DecidableEq, Repr

/-- Fuses and straps: facts of the part and of the board (R36, R449, R419). -/
structure Fuses where
  keyHash : Bytes := []
  sample : Bool := false
  serial : Nat := 0
  master : Bool := true
  stackId : Nat := 0
  deriving DecidableEq, Repr

/-- A pattern checker (R89): the bits before, and the error-free symbols in a row, as the input is and as it would be inverted; which of
the two it has locked to; and which of the last 64 symbols were in error, the newest first. -/
structure Checker where
  hist : Nat := 0
  run : Nat := 0
  invHist : Nat := 0
  invRun : Nat := 0
  inv : Bool := false
  missed : List Bool := []
  deriving DecidableEq, Repr

/-- What a lane keeps outside its registers (R73–R90): held coefficients, the training timer, whether the preset of this training has been
asked for, the requests sent in it, whether it stopped below MIN_SNR, the feed-forward taps, and the checker. -/
structure Lane where
  held : Bool := false
  timer : Bool := false
  asked : Bool := false
  sent : Nat := 0
  lowSnr : Bool := false
  ffe : List Int := List.replicate 24 0
  chk : Checker := {}
  deriving DecidableEq, Repr

/-- A parse result (R133) with what the rest of the path needs of the parse: the punt reason (255 none), PRUNE, and the
ingress port (1024 for an engine or the host), and the frame's length as received (0 where a link's header does not tell). -/
structure Result where
  dest : Nat := 0
  cls : Nat := 0
  colour : Nat := 0
  owner : Nat := 0
  marks : List Nat := List.replicate 9 255
  edit : Nat := 0
  stamp : Nat := 0
  rule : Nat := 0
  reason : Nat := 255
  prune : Bool := false
  inPort : Nat := 1024
  len : Nat := 0
  hops : Nat := 0
  srcId : Nat := 0
  stackMask : Nat := 0
  members : List Nat := []
  queue : Nat := 0
  deriving DecidableEq, Repr

/-- A received frame between the MAC and admission. `bad` says that its end shows it oversize or failing FCS (R104). -/
structure Frame where
  bytes : Bytes
  port : Nat
  stamp : Nat
  bad : Bool
  res : Result
  deriving DecidableEq, Repr

/-- A cell with its descriptor (R145, R181). `tag` numbers the host-injected frame it is of, 0 for every other cell. -/
structure Cell where
  owner : Nat := 0
  first : Bool := false
  last : Bool := false
  mgmt : Bool := false
  stamp : Nat := 0
  old : Bool := false
  discard : Bool := false
  inSpar : Nat := 0
  queue : Nat := 0
  cls : Nat := 0
  seq : Nat := 0
  mc : Bool := false
  hole : Bool := false
  ref : Nat := 1
  data : Bytes := []
  res : Result := {}
  bad : Bool := false
  ct : Bool := false
  group : Nat := 0
  left : List Nat := []
  heldAt : Nat := 0
  tag : Nat := 0
  home : Nat := 0
  deriving DecidableEq, Repr

/-- A frame that a port cuts through and whose last cell has not come yet (R104): its queue, its stream, the cells so far, the transmit stamp of its start (R106) and how much of it has been sent. -/
structure Cut where
  queue : Nat
  stream : Nat
  cells : List Cell
  tx : Nat := 0
  sent : Nat := 0
  deriving DecidableEq, Repr

/-- What a port keeps outside its registers (R100, R101, R108–R110, R203–R205). -/
structure Port where
  fecCount : Nat := 0
  fecFired : Bool := false
  cwBad : Bool := false
  pfcDue : List (Nat × Nat) := []
  tsFifo : List (Nat × Nat) := []
  txPause : Nat := 0
  ownerPause : Bool := false
  deficit : List Int := List.replicate 8 0
  turn : Nat := 0
  granted : Bool := false
  credit : List Int := List.replicate 8 0
  bucket : Int := 0
  sendCls : Nat := 9
  sendLeft : Nat := 0
  cut : Option Cut := none
  deriving DecidableEq, Repr

/-- A tabled cell (R191–R193, R303). -/
structure TabCell where
  tag : Nat
  slot : Nat
  num : Nat
  inSpar : Nat
  outSpar : Nat
  port : Nat
  entry : Nat
  frame : Nat
  period : Nat
  first : Bool
  last : Bool
  size : Nat := 0
  data : Bytes
  deriving DecidableEq, Repr

/-- A word of a credit FIFO with its sideband bits (R168). -/
structure FWord where
  data : BitVec 64
  v : Bool
  l : Bool
  deriving DecidableEq, Repr

/-- Token state of a policer (R134, R135). -/
structure Policer where
  committed : Nat
  peak : Nat
  upd : Int
  deriving DecidableEq, Repr

/-- A token bucket of frames: `tokens` in millionths, filled up to `upd` (R136, R137, R218). -/
structure Bucket where
  tokens : Nat := 0
  upd : Int := 0
  started : Bool := false
  deriving DecidableEq, Repr

/-- A tile pipe of a wall output stage (R302, R319): the entry, frame and cell it builds next, the cells of the entry so far, the
frames of the entry sent and skipped, and the bytes of the frame under way. -/
structure Pipe where
  entry : Nat := 0
  frame : Nat := 0
  cell : Nat := 0
  k : Nat := 0
  sent : Nat := 0
  skipped : Nat := 0
  body : Bytes := []
  deriving DecidableEq, Repr

/-- A picture fixed for the period (R300): its publish block and its slot, both in 32-byte units, the POC, the publication count. -/
structure Picture where
  pub : Nat
  slot : Nat
  poc : Nat
  count : Nat
  deriving DecidableEq, Repr

/-- A frame still arriving at the ingress FIFO (R179): its ingress port, the cells reserved for it at its start, those that have entered,
and those to come. -/
structure Entering where
  port : Nat
  need : Nat
  inn : Nat
  rest : List Cell
  deriving DecidableEq, Repr

/-- What a spar keeps outside its registers: parse, core input and output, egress and wall output. `badEntries` are the keys of
parse table entries in error (R139), each with: was its shadow rewritten since. `sources` and `prevSources` are the slot and the
publication count that each entry reads in this period and read in the last one (R313), `frameStats` its frames sent and skipped in
this period (R328), `underrun` the periods and entries counted as underrun (R321). A word of the wall output FIFO goes with the head of its
tabled cell, whose `data` is empty; `inletHold` and `wallHold` are the words that their producers hold for want of credit (R169). -/
structure Spar where
  rx : List Frame := []
  rxTurn : Nat := 0
  parsed : List Frame := []
  inFifo : List Cell := []
  entering : List Entering := []
  inject : List Cell := []
  inlet : List FWord := []
  inletHold : List FWord := []
  outlet : List FWord := []
  outHead : Option Cell := none
  outLeft : Nat := 0
  wall : List (TabCell × FWord) := []
  wallHold : List (TabCell × FWord) := []
  inletCr : Nat := 1024
  outletCr : Nat := 1024
  wallCr : Nat := 2048
  arbOutlet : Bool := false
  arbLeft : Nat := 0
  latched : Option TabCell := none
  seqNext : SMap Nat := []
  locked : SMap Nat := []
  inPause : Bool := false
  expected : SMap Nat := []
  reorder : List Cell := []
  arriving : List Cell := []
  checked : List Cell := []
  staging : SMap (List Cell) := []
  mcRefused : List (Nat × Nat) := []
  tabArriving : List TabCell := []
  tabChecked : List TabCell := []
  tabExpected : SMap Nat := []
  tabRun : SMap Nat := []
  tabLane : List TabCell := []
  tabBase : SMap Nat := []
  tabNext : SMap Nat := []
  mgmtBucket : Bucket := {}
  puntBuckets : SMap Bucket := []
  policers : SMap Policer := []
  pcBucket : Bucket := {}
  pcCount : Nat := 0
  reloading : Bool := false
  badEntries : List (Nat × Bool) := []
  wallPipes : SMap Pipe := []
  pictures : List Picture := []
  sources : SMap (Nat × Nat) := []
  prevSources : SMap (Nat × Nat) := []
  frameStats : SMap (Nat × Nat) := []
  underrun : List (Nat × Nat) := []
  deriving DecidableEq, Repr

/-- An entry of a virtual output queue: a stored cell, or a placeholder without data (R186). -/
inductive VEntry where
  | cell (i : Nat)
  | hole (c : Cell)
  deriving DecidableEq, Repr

/-- A buffer slice, which is also a core intermediate (R145–R151, R182, R189). A free stack is what was pushed back, over
the cells never used yet; `freed` are the cells whose count reached zero in this CCLK, which it pushes at its end (R147). -/
structure Slice where
  cells : SMap Cell := []
  genFree : List Nat := []
  genFresh : Nat := 512
  mgmtFree : List Nat := []
  mgmtFresh : Nat := 0
  arriving : Option Cell := none
  bypass : Option TabCell := none
  bypassNext : Option TabCell := none
  voq : SMap (List VEntry) := []
  holes : Nat := 0
  mcLists : SMap (List VEntry) := []
  rotMgmt : SMap Nat := []
  rotData : SMap Nat := []
  unlinked : List Nat := []
  freed : List Nat := []
  level : Nat := 0
  deriving DecidableEq, Repr

/-- A slice segment that is not complete (R270, R277): its bits so far with the NAL unit header, before emulation prevention, the bytes of
the NAL unit sent in fragments, and the arithmetic coder's state. -/
structure OpenSeg where
  bits : List Bool := []
  sent : Nat := 0
  cabac : List Nat := []
  deriving DecidableEq, Repr

/-- The picture of an encode session under way (R263–R277): pictures ended, *d* of R272, the bits spent on this member's own CTUs and its next
QP, the open slice segments by their number, the data that its coded CTUs left for their neighbours, the coder's state after the second CTU of a row,
one more than the order count of the picture in a pool slot, and, of the leader, the picture's time stamp, first sequence number and F, the next
entry of the gang ring to emit, with the bits and packets emitted of the picture. -/
structure EncPicture where
  pics : Nat := 0
  since : Nat := 0
  spent : Nat := 0
  qp : Int := 0
  segs : SMap OpenSeg := []
  near : SMap (List Nat) := []
  rows : SMap (List Nat) := []
  pocs : SMap Nat := []
  stamp : Nat := 0
  seq : Nat := 0
  full : Int := 0
  emitSeg : Nat := 0
  emitBits : Nat := 0
  packets : Nat := 0
  deriving DecidableEq, Repr

/-- A window of the motion search (R261): the context, picture, CTU and pool slot that it was loaded for, and the columns of its luma and chroma
samples. -/
structure SearchWin where
  ctx : Nat
  pic : Nat
  ctu : Nat
  slot : Nat
  luma : List (List Nat)
  chroma : List (List Nat × List Nat)
  deriving DecidableEq, Repr

/-- A NAL unit received, with the RTP time stamp and the receive stamp of its packet. -/
structure DecUnit where
  nal : Bytes
  time : Nat
  stamp : Nat
  deriving DecidableEq, Repr

/-- A slice segment under way: its NAL unit, does it give entry points, the substreams after the one under way, does its first CTU
initialize the arithmetic coder, the CTUs decoded of it, the place in tile scan
of the next, and the arithmetic coder's state. -/
structure DecSeg where
  nal : Bytes
  entries : Bool
  more : Nat
  fresh : Bool
  count : Nat := 0
  pos : Nat
  cabac : List Nat := []
  deriving DecidableEq, Repr

/-- The stream of a decode session (R281, R284–R292): the next word of the ring, the last RTP sequence number, the NAL unit in fragments (empty where it
is lost already), the NAL units that wait, the parameter sets, newest first, and whether one has come since the last
activation, the slice segment under way and whether the last one was lost; of the picture
under way, its order count, RTP time stamp, first and last receive stamps, list 0 entry 0, hash SEI, whether it and whether the last IRAP picture starts a sequence, the data its
CTUs left, the arithmetic coder's state after the second CTU of a row and at the end of the last slice segment; whether a slice of the next picture waits; and of the slots, the CTU size of each picture, the
pictures decoded since it, for the output process, and the newest decoded one. -/
structure DecStream where
  read : Nat := 0
  seq : Option Nat := none
  part : Option Bytes := none
  units : List DecUnit := []
  sets : List Bytes := []
  setsNew : Bool := false
  seg : Option DecSeg := none
  segLost : Bool := false
  poc : Int := 0
  time : Nat := 0
  stamp : Nat := 0
  last : Nat := 0
  list0 : Option Int := none
  hash : List Bytes := []
  starts : Bool := false
  fromIrap : Bool := false
  near : SMap (List Nat) := []
  rows : SMap (List Nat) := []
  tail : List Nat := []
  newPic : Bool := false
  sizes : SMap Nat := []
  ages : SMap Nat := []
  newest : Option Nat := none
  deriving DecidableEq, Repr

/-- An engine context (R225). `state`: 0 free, 1 ready, 2 running, 3 waiting, 4 abandoned, 5 halted. The `enc` and `dec` fields are the
session that SETCTX opened (R255, R281) and the picture under way; `decMotion` holds the vectors of temporally concealed CTUs,
under 2²⁰ × slot + CTU (R292). -/
structure Ctx where
  a : List Word := List.replicate 16 0
  job : Word := 0
  owner : Nat := 0
  tenant : Nat := 0
  seg : Nat := 0
  prio : Nat := 0
  cmdIdx : Nat := 0
  list : Nat := 0
  count : Nat := 0
  state : Nat := 0
  gens : SMap Nat := []
  fails : Nat := 0
  resumed : Bool := false
  sq : Nat := 0
  gang : Option Nat := none
  ended : Option (Nat × Word) := none
  encEsb : Option (List Word) := none
  encFresh : Nat := 0
  encNext : Nat := 0
  encRecon : Option Nat := none
  encOrder : List Nat := []
  enc : EncPicture := {}
  decDsb : Option (List Word) := none
  decParams : Option Config.ParamSet := none
  decWaitIrap : Bool := true
  decSlot : Option Nat := none
  decNext : Nat := 0
  decDone : List Nat := []
  decGone : List Nat := []
  decInter : SMap (Int × Int) := []
  decMotion : SMap (Int × Int) := []
  decLost : Nat := 0
  decMissing : Bool := false
  decOutput : Bool := true
  decPics : Nat := 0
  decWithheld : Nat := 0
  decFrozen : Bool := false
  str : DecStream := {}
  deriving DecidableEq, Repr

/-- Why a sequencer stands still. -/
inductive Stall where
  | none
  | unit (u uop : Nat)
  | outlet (w : BitVec 64) (l : Bool)
  | wait (mask : Nat)
  | barrier (b g : Nat)
  | memory
  | rows
  | hostStore
  deriving DecidableEq, Repr

/-- A coding engine (R224–R246). `changes` and `post` are the state changes and the completion entry that the routine's unit registers name
(R241), `windows` the motion search's on-chip windows (R261). -/
structure Engine where
  uregs : SMap Word := []
  z : Bool := false
  nf : Bool := false
  c : Bool := false
  v : Bool := false
  dz : Bool := false
  iv : Bool := false
  il : Bool := false
  mpc : Nat := 0
  stack : List Nat := []
  scratch : SMap Word := []
  ctxs : SMap Ctx := []
  cur : Option Nat := none
  lastCtx : Nat := 0
  cmd : List Word := List.replicate 8 0
  committed : Bool := false
  tail : Nat := 0
  hold : List FWord := []
  replay : Nat := 0
  openStage : List FWord := []
  sealedStages : List (Nat × List FWord) := []
  releasing : List FWord := []
  unitBusy : List (Nat × Nat) := []
  unitRegs : SMap Word := []
  notices : List Nat := []
  changes : List (Word × Word) := []
  post : Option (Nat × Word) := none
  windows : List SearchWin := []
  gsync : List (Nat × Nat) := []
  stall : Stall := .none
  failed : Bool := false
  reloading : Bool := false
  deriving DecidableEq, Repr

/-- A transfer of a port that its arbiter has not finished (R341, R342): its class (3 WALL, 2 DEADLINE, 1 NORMAL, 0 BACKGROUND), the bursts
moved to bank queues, those issued, and what they have read. -/
structure Xfer where
  id : Nat
  req : MemReq
  cls : Nat
  moved : Nat := 0
  issued : Nat := 0
  got : List (Nat × Bytes) := []
  bad : Bool := false
  deriving DecidableEq, Repr

/-- An entry of a bank queue (R334): a burst of a transfer, its place in the order of arrival, and the bytes that it writes. -/
structure BankReq where
  seq : Nat
  xfer : Nat
  addr : Nat
  len : Nat
  data : Option Bytes
  port : Nat
  cls : Nat
  deriving DecidableEq, Repr

/-- Frame memory and its controllers (R329–R344). `bad` lists the bursts that hold a double-bit
error, `single` those that hold a single-bit error (R399), `age` the core clock at each
pseudo-channel's last retraining pause, `bar2Held` the BAR2 accesses that wait. `xfers` are the transfers under way, oldest first, `queues`
the bank queues (under 48·pc + bank), `openRow` the open row of a bank and one more, `ordered` the writes that hold a bank in in-order mode,
`bankTurn` the bank after the one that a pseudo-channel served last, `portTurn` the port after the one granted last (under 4·group + class),
`holder` the transfer that holds an arbiter's grant and the bursts of the grant so far, `lastAct` the CCLK of the last activation by a
throttled port of a bank, `wallMaint` the banks that had a maintenance operation while a WALL request waits for them. -/
structure FrameMem where
  bytes : List Host.Cell := []
  bad : List Nat := []
  single : List Nat := []
  debt : SMap Nat := []
  age : SMap Nat := []
  acts : SMap Nat := []
  actPort : SMap Nat := []
  throttled : List (Nat × Nat) := []
  fenced : List Nat := []
  bar2Held : List (Nat × MemOp) := []
  xfers : List Xfer := []
  queues : SMap (List BankReq) := []
  nextSeq : Nat := 0
  openRow : SMap Nat := []
  ordered : SMap (List Nat) := []
  bankTurn : SMap Nat := []
  portTurn : SMap Nat := []
  holder : SMap (Nat × Nat) := []
  lastAct : SMap Nat := []
  wallMaint : List Nat := []
  rfmOwed : List Nat := []
  deriving DecidableEq, Repr

/-- A completion queue entry waiting to be posted: the CQ and its eight words (R356, R365). -/
structure Cqe where
  cq : Nat
  words : List Word
  deriving DecidableEq, Repr

/-- A submission queue behind its registers (R357–R362). -/
structure Sq where
  cache : List (List Word) := []
  running : Nat := 0
  deriving DecidableEq, Repr

/-- A completion queue behind its registers (R356, R359, R364). -/
structure Cq where
  phase : Bool := true
  used : Nat := 0
  reserved : Nat := 0
  unsignalled : Nat := 0
  pend : Bool := false
  deriving DecidableEq, Repr

/-- A function's power and reset state (R363, R365). -/
structure Fn where
  d3 : Bool := false
  pme : Bool := false
  unmasked : List Nat := []
  vectors : SMap (List Word) := []
  allMasked : Bool := true
  pba : List Nat := []
  resetting : Bool := false
  audit : Nat := 0
  mirror : List Nat := []
  deriving DecidableEq, Repr

/-- A DMA channel (R366–R370). -/
structure Dma where
  active : Bool := false
  src : Nat := 0
  dst : Nat := 0
  burst : Nat := 0
  count : Nat := 0
  srcMem : Bool := false
  dstMem : Bool := false
  swap : Nat := 0
  paced : Bool := false
  line : Nat := 0
  wrapSrc : Nat := 0
  wrapDst : Nat := 0
  fn : Nat := 0
  moved : Nat := 0
  pend : Nat := 0
  sq : Nat := 0
  job : Word := 0
  deriving DecidableEq, Repr

/-- The state of the PCIe link (R365). -/
inductive LinkState where
  | l0 | l1 | l2 | down
  deriving DecidableEq, Repr

/-- The host queues (R351–R373). `perst` says that PERST# is low (R365, R408); `injecting` holds the INJECT entries under way: their frames' tags, queues and JOB_IDs. -/
structure HostQ where
  sqs : SMap Sq := []
  cqs : SMap Cq := []
  fns : SMap Fn := []
  dmas : SMap Dma := []
  link : LinkState := .down
  taking : Bool := false
  wake : Bool := false
  perst : Bool := false
  heldCqe : List Cqe := []
  heldMsix : List (Nat × Nat) := []
  rrPos : Nat := 0
  rxTurn : Nat := 0
  injecting : List (Nat × Nat × Word) := []
  injTag : Nat := 1
  poolDepth : SMap Nat := []
  inUse : List Nat := []
  deriving DecidableEq, Repr

/-- Moderation of one interrupt target (R380). -/
structure Target where
  u : Nat := 0
  d : Bool := false
  counting : Bool := false
  deriving DecidableEq, Repr

/-- The interrupt controller behind its registers (R375–R382). -/
structure Irq where
  targets : SMap Target := []
  claimedBy : SMap Nat := []
  deriving DecidableEq, Repr

/-- A fault log entry of eight words (R397). -/
structure LogEntry where
  words : List Word
  deriving DecidableEq, Repr

/-- A report of a checker that the collector has not handled yet: its source, its detail word, whether an injection made it,
whether it is of a corrected error, which is Grey (R139, R172, R399), and the requester port of a frame memory report. -/
structure Due where
  src : Nat
  detail : Nat
  inj : Bool := false
  grey : Bool := false
  aux : Nat := 0
  deriving DecidableEq, Repr

/-- The fault collector behind its registers (R386–R399). `due` holds the reports of the command under way; `causes` the sources whose cause lasts, with 512 + n for a link n and 1024 + e for an engine e that reported (log 139). -/
structure Faults where
  due : List Due := []
  causes : List Nat := []
  reported : SMap (List Nat) := []
  lastSrc : SMap Nat := []
  resetting : List (Nat × Nat × Nat) := []
  downChips : List Nat := []
  fencedWalls : List Nat := []
  clearing : Bool := false
  fencedEngines : List Nat := []
  flushing : Bool := false
  pulling : Bool := false
  ignoring : Bool := false
  seq : Nat := 0
  heldLog : List LogEntry := []
  deriving DecidableEq, Repr

/-- A lane record of a snapshot (R84, R85): the lane number and IMAGE_ID, the taps, peaking code and decision-feedback tap, frequency
offset and detection as their registers hold them, the feed-forward taps, whether the lane left training successfully, and the CRC-32C
over the rest. -/
structure LaneRec where
  lane : Nat
  image : Word
  held : Bool
  taps : Word
  eq : Word
  ppm : Nat
  rev : Bool
  inv : Bool
  ffe : List Int
  crc : Word
  deriving DecidableEq, Repr

/-- A snapshot slot of the flashes (R407). -/
structure Snapshot where
  seq : Nat
  imageId : Word
  count : Nat
  instant : Nat
  freq : Word
  locked : Bool
  lanes : List LaneRec
  deriving DecidableEq, Repr

/-- The power states of R402; the code is what GLB_SLEEP_STATUS.STATE and the console report. -/
inductive Power where
  | off | cold | waking | run | entering | furled
  deriving DecidableEq, Repr

/-- The Masthead island behind its registers (R401–R418): `snaps` are the snapshot slots of the flashes that hold a good snapshot,
`snapNew` the snapshot of an entry under way, `dropping` the enables still to drop. -/
structure Island where
  power : Power := .off
  dropping : List Nat := []
  autoWait : Bool := false
  rx : List Nat := []
  tx : List Byte := []
  fclk : Bool := false
  line : List Byte := []
  secLatch : Word := 0
  pins : BitVec 4 := 0
  snaps : SMap Snapshot := []
  snapNew : Option Snapshot := none
  slotUsed : Option Snapshot := none
  eraseAt : Nat := 0
  writeTry : Nat := 0
  entryArmed : Bool := false
  entryOpen : Bool := false
  wakeHeld : Bool := false
  woken : Bool := false
  lanesDone : Bool := false
  hbmDone : Bool := false
  imageDone : Bool := false
  deriving DecidableEq, Repr

/-- A Halyard link (R420–R424). -/
structure Link where
  up : Bool := false
  heldDown : Bool := false
  nextSeq : Nat := 0
  expSeq : Nat := 0
  lastAck : Nat := 255
  dupAcks : Nat := 0
  replays : Nat := 0
  store : List (Nat × Bytes) := []
  credGen : Nat := 448
  credMgmt : Nat := 64
  retGen : Nat := 0
  retMgmt : Nat := 0
  refused : List Nat := []
  deriving DecidableEq, Repr

/-- Stacking behind its registers (R419–R432): `missedRun` counts the marks missed in a row with no message from ID 0. -/
structure Stacking where
  links : SMap Link := []
  missedRun : Nat := 0
  calRun : Bool := false
  calTimes : Nat := 0
  calOffset : Int := 0
  calMarks : Nat := 0
  calSum : Int := 0
  gangGen : SMap Nat := []
  arrived : SMap Nat := []
  deriving DecidableEq, Repr

/-- What leaves the device: the model's own record of frames, messages, host writes, read data and pins, oldest first. -/
inductive Output where
  | frame (port : Nat) (bytes : Bytes)
  | pfc (port : Nat) (bytes : Bytes)
  | basePage (port gbps : Nat)
  | readData (addr : Nat) (value : Word)
  | memData (bytes : Bytes) (poisoned : Bool)
  | answer (lane : Nat) (code : Nat)
  | request (lane : Nat) (code : Nat)
  | requestStep (lane tap : Nat) (up : Bool)
  | symbols (lane : Nat) (levels : List Nat)
  | injectedSymbol (lane : Nat)
  | msix (fn vec : Nat)
  | pme (fn : Nat)
  | wakeLine (low : Bool)
  | intn (t : Nat) (low : Bool)
  | cqe (cq fn addr : Nat) (words : List Word)
  | hostWrite (fn addr : Nat) (bytes : Bytes)
  | hostRead (fn addr len : Nat)
  | uart (c : Byte)
  | smbusAck (addr : Nat)
  | faultBus (low : Bool)
  | pps (high : Bool)
  | boundaryMark (edge : Nat) (word : Nat)
  | halyard (spar : Nat) (bytes : Bytes)
  | rail (k : Nat) (on : Bool)
  | flashWrite (flash addr : Nat) (bytes : Bytes)
  | rfm (pc bank : Nat)
  | refresh (pc bank : Nat)
  deriving DecidableEq, Repr

/-- Why the machine stops: raised by no command of this table; an access the spec says does not exist completes (R4, R331,
R448), so no fault is needed. -/
inductive Fault where
  /-- Raised by nothing: kept so that the outcome type has a name. Safe. -/
  | unreachable
  deriving DecidableEq, Repr

/-- Why a command has no meaning. -/
inductive Refusal where
  /-- An arm of exec whose meaning is not written yet. Safe: the model stops where the device goes on. -/
  | notModelled (mnemonic : String)
  deriving DecidableEq, Repr

/-- A store of the command under way into frame memory: a run of bytes, or the loss of every byte (R406). -/
inductive Store where
  | put (addr : Nat) (bytes : Bytes)
  | lose
  deriving DecidableEq, Repr

/-- The canonical form of frame memory: addresses rise strictly, no listed byte is the zero that an unlisted one reads. -/
def Memory.wf (m : List Host.Cell) : Bool := SMap.wf (fun _ => (0 : Byte)) m

/-- The device: everything but the queue of commands that wait. `stores` holds the frame memory stores of the command under
way, newest first; it is empty between commands. `winPend` lists the table windows whose WRITE has not finished, in the order of
their commands (R451). -/
structure Dev where
  regs : SMap Word := []
  shadow : SMap Word := []
  cnts : SMap (BitVec 64) := []
  latch : SMap Word := []
  tabs : SMap (List Word) := []
  shTabs : SMap (List Word) := []
  fmem : FrameMem := {}
  commit : Commit := {}
  loader : Loader := {}
  fuses : Fuses := {}
  time : TimeBase := {}
  lanes : SMap Lane := []
  ports : SMap Port := []
  spars : SMap Spar := []
  slices : SMap Slice := []
  engines : SMap Engine := []
  host : HostQ := {}
  irq : Irq := {}
  fault : Faults := {}
  island : Island := {}
  stack : Stacking := {}
  gated : List Block := []
  outs : List Output := []
  freeCtr : Nat := 0
  audit : Nat := 0
  auditOf : Nat := 0
  wallHeld : SMap Nat := []
  stores : List Store := []
  winPend : List Nat := []
  deriving DecidableEq, Repr

/-- The state of the block: the device, and the commands that wait, first in first out. -/
structure State extends Dev where
  pending : List Instr := []
  deriving DecidableEq, Repr

/-- The device right after reset: every register, table, counter and unit at its reset value, the fuses as they are. -/
def Dev.reset : Dev :=
  { fuses := { keyHash := Config.fuseKeyHash, sample := Config.fuseSample, serial := Config.fuseSerial.toNat,
               master := Config.strapMaster, stackId := Config.strapId.val }
    time := { next := { num := 1, den := 60 } }
    island := { power := .cold } }

/-- The state right after reset: the device at reset and an empty queue. -/
def State.reset : State := { toDev := Dev.reset, pending := [] }

end Sys2Proof.Machine
end

