-- ==== Sys2Proof/Machine/RegMap.lean ====
section
/-!
DEFINITION. The register map of BAR0 (R448): every named register of the spec's register tables, by its offset, with its
reset value, its commit class (R12) and its fields' access types (R6); and the decode of an offset to its register.
Offsets inside a block follow the block's own rule (R93, R114, R142, R174, R198, R220, R222, R247, R326, R348, R372, R384,
R400, R418, R435, R447, R449, R450). The 64-bit counters are in `Reg.counterAt?`.
-/
namespace Sys2Proof.Machine

/-- The access types of R6; a bit of no field is reserved (R5). -/
inductive Acc where
  | rw | ro | wo | w1c | w1s | rc
  deriving DecidableEq, Repr

/-- The commit classes of R12. -/
inductive Cls where
  | L | B | I
  deriving DecidableEq, Repr

/-- One field of a register: its bits and its access type (R6). -/
structure Fld where
  hi : Nat
  lo : Nat
  acc : Acc
  deriving DecidableEq, Repr

/-- One register, or one array of registers `off + stride * k`, `k < count`, of a block. -/
structure RegDef where
  off : Nat
  stride : Nat
  count : Nat
  reset : Nat
  cls : Cls
  fields : List Fld
  deriving DecidableEq, Repr

namespace Reg

/-- Base of the block of spar `n` (R448). -/
def spar (n : Nat) : Nat := 0x01000000 + n * 0x00040000
/-- Base of the block of lane `l` = 8n + i of the device (R93). -/
def lane (l : Nat) : Nat := spar (l / 8) + (l % 8) * 0x1000
/-- Base of the MAC block of logical port `p` = 8n + i (R95, R114). -/
def mac (p : Nat) : Nat := spar (p / 8) + 0x8000 + (p % 8) * 0x400
/-- Base of table access window `w` (R450). -/
def win (w : Nat) : Nat := 0x00600000 + w * 0x00040000


def PTP_TIME_LO : Nat := 0x580000
def PTP_TIME_HI : Nat := 0x580004
def PTP_FREQ : Nat := 0x580008
def PTP_OFFSET_LO : Nat := 0x58000C
def PTP_OFFSET_HI : Nat := 0x580010
def PTP_STEP_LO : Nat := 0x580014
def PTP_STEP_HI : Nat := 0x580018
def PTP_CMD : Nat := 0x58001C
def PTP_STATUS : Nat := 0x580020
def PTP_CFG : Nat := 0x580024
def PTP_EVENT : Nat := 0x580028
def PTP_EVENT_EN : Nat := 0x58002C
def PTP_PPS_IN_TS_LO : Nat := 0x580030
def PTP_PPS_IN_TS_HI : Nat := 0x580034

def GLB_RATE_N : Nat := 0x200
def GLB_RATE_D : Nat := 0x204
def GLB_PERIOD_CTRL : Nat := 0x208
def GLB_PERIOD_STATUS : Nat := 0x20C
def GLB_PERIOD_COUNT : Nat := 0x210
def GLB_BOUNDARY_TIME_LO : Nat := 0x214
def GLB_BOUNDARY_TIME_HI : Nat := 0x218
def GLB_COMMIT_CTRL : Nat := 0x300
def GLB_COMMIT_TARGET : Nat := 0x304
def GLB_COMMIT_STATUS : Nat := 0x308
def GLB_COMMIT_EN : Nat := 0x30C
def GLB_IMG_ADDR : Nat := 0x400
def GLB_IMG_LEN : Nat := 0x404
def GLB_IMG_CTRL : Nat := 0x408
def GLB_IMG_STATUS : Nat := 0x40C
def GLB_IMG_ACTIVE_ID : Nat := 0x410
def GLB_IMG_SHADOW_ID : Nat := 0x414
def GLB_SLEEP_CTRL : Nat := 0x500
def GLB_SLEEP_STATUS : Nat := 0x504
def MHI_RTC_SEC : Nat := 0x800
def MHI_RTC_SUB : Nat := 0x804
def MHI_RTC_ALARM : Nat := 0x808
def MHI_RTC_CTRL : Nat := 0x80C
def MHI_WAKE_EN : Nat := 0x810
def MHI_WAKE_CFG : Nat := 0x814
def MHI_WAKE_CAUSE : Nat := 0x818
def MHI_UART_CFG : Nat := 0x820
def MHI_UART_DATA : Nat := 0x824
def MHI_UART_STATUS : Nat := 0x828
def MHI_SMB_ADDR : Nat := 0x82C
def MHI_PMIC_CFG : Nat := 0x830
def MHI_PMIC_STATUS : Nat := 0x834
def MHI_SNAP_STATUS : Nat := 0x838
def MHI_RESET_CTRL : Nat := 0x83C
def GLB_THERM_CFG : Nat := 0x600
def GLB_ENV_STATUS : Nat := 0x604
def GLB_ENV_EVENT : Nat := 0x608
def GLB_ENV_EVENT_EN : Nat := 0x60C
def GLB_ENV_STRETCH : Nat := 0x610
def GLB_ID : Nat := 0x0
def GLB_REV : Nat := 0x4
def GLB_SERIAL_LO : Nat := 0x8
def GLB_SERIAL_HI : Nat := 0xC

def LANE_CFG (l : Nat) : Nat := lane l + 0x0
def LANE_TRAIN_CTRL (l : Nat) : Nat := lane l + 0x4
def LANE_TX_OVR (l : Nat) : Nat := lane l + 0x8
def LANE_TX_TAPS (l : Nat) : Nat := lane l + 0xC
def LANE_TRAIN_STATUS (l : Nat) : Nat := lane l + 0x10
def LANE_STATE (l : Nat) : Nat := lane l + 0x14
def LANE_RX_STATUS (l : Nat) : Nat := lane l + 0x18
def LANE_RX_EQ (l : Nat) : Nat := lane l + 0x1C
def LANE_DET_CFG (l : Nat) : Nat := lane l + 0x20
def LANE_LP_CTRL (l : Nat) : Nat := lane l + 0x24
def LANE_TEST_CTRL (l : Nat) : Nat := lane l + 0x28
def LANE_PRBS_INJ (l : Nat) : Nat := lane l + 0x2C
def LANE_PRBS_ERR_LO (l : Nat) : Nat := lane l + 0x30
def LANE_PRBS_ERR_HI (l : Nat) : Nat := lane l + 0x34
def LANE_PRBS_BITS_LO (l : Nat) : Nat := lane l + 0x38
def LANE_PRBS_BITS_HI (l : Nat) : Nat := lane l + 0x3C
def LANE_EVENT (l : Nat) : Nat := lane l + 0x40
def LANE_EVENT_EN (l : Nat) : Nat := lane l + 0x44

def MAC_SPAR_MODE (n : Nat) : Nat := spar n + 0xA000

def MAC_CFG (p : Nat) : Nat := mac p + 0x0
def MAC_STATUS (p : Nat) : Nat := mac p + 0x4
def MAC_CMD (p : Nat) : Nat := mac p + 0x8
def MAC_PFC_CFG (p : Nat) : Nat := mac p + 0xC
def MAC_PTP_CFG (p : Nat) : Nat := mac p + 0x10
def MAC_PTP_TX_SEQ (p : Nat) : Nat := mac p + 0x14
def MAC_PTP_TX_TS_LO (p : Nat) : Nat := mac p + 0x18
def MAC_PTP_TX_TS_HI (p : Nat) : Nat := mac p + 0x1C
def MAC_FEC_THRESH (p : Nat) : Nat := mac p + 0x20
def MAC_EVENT (p : Nat) : Nat := mac p + 0x24
def MAC_EVENT_EN (p : Nat) : Nat := mac p + 0x28
def MAC_FLUSH_CNT (p : Nat) (k : Nat) : Nat := mac p + 0x200 + k * 4

def PRS_PORT_CFG (n : Nat) (k : Nat) : Nat := spar n + 0x10000 + k * 4
def PRS_PCP_MAP (n : Nat) (k : Nat) : Nat := spar n + 0x10020 + k * 4
def PRS_MGMT_RATE (n : Nat) : Nat := spar n + 0x10040
def PRS_PUNT_RATE (n : Nat) (k : Nat) : Nat := spar n + 0x10080 + k * 4
def PRS_EVENT (n : Nat) : Nat := spar n + 0x100C0
def PRS_EVENT_EN (n : Nat) : Nat := spar n + 0x100C4
def PRS_STATUS (n : Nat) : Nat := spar n + 0x100C8
def PRS_CMD (n : Nat) : Nat := spar n + 0x100CC

def BUF_REEF_THR (n : Nat) : Nat := spar n + 0x18000
def BUF_REEF_HYST (n : Nat) : Nat := spar n + 0x18004
def BUF_REEF_ACT (n : Nat) : Nat := spar n + 0x18008
def BUF_STATUS (n : Nat) : Nat := spar n + 0x1800C
def BUF_OCC (n : Nat) : Nat := spar n + 0x18010
def BUF_OCC_PEAK (n : Nat) : Nat := spar n + 0x18014
def BUF_FLUSH_PEND (n : Nat) : Nat := spar n + 0x18018
def BUF_EVENT (n : Nat) : Nat := spar n + 0x18020
def BUF_EVENT_EN (n : Nat) : Nat := spar n + 0x18024
def BUF_CMD (n : Nat) : Nat := spar n + 0x18028

def BUF_MODE : Nat := spar 0 + 0x18000 + 0x800
def BUF_LEAK_AGE_LIMIT : Nat := spar 0 + 0x18000 + 0x804
def BUF_AUDIT_CTRL : Nat := spar 0 + 0x18000 + 0x808
def BUF_AUDIT_PASS : Nat := spar 0 + 0x18000 + 0x80C
def BUF_POOL_BASE : Nat := spar 0 + 0x18000 + 0x810
def BUF_POOL_CNT (k : Nat) : Nat := spar 0 + 0x18000 + 0x820 + k * 4
def BUF_POOL_AVAIL (k : Nat) : Nat := spar 0 + 0x18000 + 0x830 + k * 4
def BUF_POOL_FREE : Nat := spar 0 + 0x18000 + 0x840
def BUF_POOL_GET (k : Nat) : Nat := spar 0 + 0x18000 + 0x850 + k * 4

def CORE_ROUND (n : Nat) : Nat := spar n + 0x1C000
def CORE_TAB_MAP (n : Nat) (k : Nat) : Nat := spar n + 0x1C010 + k * 4
def CORE_ARB (n : Nat) : Nat := spar n + 0x1C020
def CORE_IN_THR (n : Nat) : Nat := spar n + 0x1C024
def CORE_SEQ_TIMEOUT (n : Nat) : Nat := spar n + 0x1C028
def CORE_STATUS (n : Nat) : Nat := spar n + 0x1C02C
def CORE_EVENT (n : Nat) : Nat := spar n + 0x1C030
def CORE_EVENT_EN (n : Nat) : Nat := spar n + 0x1C034
def CORE_CMD (n : Nat) : Nat := spar n + 0x1C038

def EQ_PORT_CFG (n : Nat) (k : Nat) : Nat := spar n + 0x20000 + k * 4
def EQ_PORT_RATE (n : Nat) (k : Nat) : Nat := spar n + 0x20020 + k * 4
def EQ_OVERHEAD (n : Nat) (k : Nat) : Nat := spar n + 0x20040 + k * 4
def EQ_EVENT (n : Nat) : Nat := spar n + 0x20060
def EQ_EVENT_EN (n : Nat) : Nat := spar n + 0x20064
def EQ_CMD (n : Nat) : Nat := spar n + 0x20068
def EQ_STATUS (n : Nat) : Nat := spar n + 0x2006C

def TEL_SAMPLE (n : Nat) : Nat := spar n + 0x28000
def TEL_HIST_CFG (n : Nat) : Nat := spar n + 0x28004
def TEL_PC_CFG (n : Nat) : Nat := spar n + 0x28008
def TEL_PC_THR (n : Nat) : Nat := spar n + 0x2800C
def TEL_PC_DEST (n : Nat) : Nat := spar n + 0x28010
def TEL_PC_RATE (n : Nat) : Nat := spar n + 0x28014
def TEL_PC_LEN (n : Nat) : Nat := spar n + 0x28018
def TEL_EVENT (n : Nat) : Nat := spar n + 0x28020
def TEL_EVENT_EN (n : Nat) : Nat := spar n + 0x28024
def TEL_CMD (n : Nat) : Nat := spar n + 0x28028
def TEL_PC_SEQ (n : Nat) : Nat := spar n + 0x2802C

def CE_CFG (n : Nat) : Nat := spar n + 0x30000
def CE_GANG (n : Nat) : Nat := spar n + 0x30004
def CE_STATUS (n : Nat) : Nat := spar n + 0x30008
def CE_CTX_STATE (n : Nat) (k : Nat) : Nat := spar n + 0x30010 + k * 4
def CE_CTX_JOB (n : Nat) (k : Nat) : Nat := spar n + 0x30020 + k * 4
def CE_EXC (n : Nat) : Nat := spar n + 0x30030
def CE_CMD (n : Nat) : Nat := spar n + 0x30034
def CE_EVENT (n : Nat) : Nat := spar n + 0x30038
def CE_EVENT_EN (n : Nat) : Nat := spar n + 0x3003C
def CE_NOTE (n : Nat) : Nat := spar n + 0x30040
def CE_GOLDEN (n : Nat) : Nat := spar n + 0x30044
def CE_INLET_LIST (n : Nat) : Nat := spar n + 0x30048
def CE_INLET_LEN (n : Nat) : Nat := spar n + 0x3004C
def CE_INLET_SEG (n : Nat) : Nat := spar n + 0x30050

def WALL_CFG (n : Nat) : Nat := spar n + 0x38000
def WALL_SCHED (n : Nat) : Nat := spar n + 0x38004
def WALL_SAFE_RGB (n : Nat) : Nat := spar n + 0x38008
def WALL_SAFE_PUB (n : Nat) : Nat := spar n + 0x3800C
def WALL_STATUS (n : Nat) : Nat := spar n + 0x38010
def WALL_COUNT (n : Nat) : Nat := spar n + 0x38014
def WALL_EVENT (n : Nat) : Nat := spar n + 0x38020
def WALL_EVENT_EN (n : Nat) : Nat := spar n + 0x38024
def WALL_CMD (n : Nat) : Nat := spar n + 0x38028

def FMC_CFG : Nat := 0x400000
def FMC_RSV_BASE : Nat := 0x400004
def FMC_RSV_SIZE : Nat := 0x400008
def FMC_BAR2 : Nat := 0x40000C
def FMC_HOLD_WDOG : Nat := 0x400010
def FMC_RH_CFG : Nat := 0x400014
def FMC_MAINT : Nat := 0x400018
def FMC_EVENT : Nat := 0x400020
def FMC_EVENT_EN : Nat := 0x400024
def FMC_ERR_ADDR_LO : Nat := 0x400028
def FMC_ERR_ADDR_HI : Nat := 0x40002C
def FMC_ERR_INFO : Nat := 0x400030
def FMC_CMD : Nat := 0x400034
def FMC_PORT_CLR : Nat := 0x400038
def FMC_PC_STATUS (k : Nat) : Nat := 0x400400 + k * 4

def HQ_CFG : Nat := 0x300000
def HQ_RXQ : Nat := 0x300004
def HQ_TEN_CFG : Nat := 0x300008
def HQ_TEN_CTRL : Nat := 0x30000C
def HQ_TEN_BUSY_LO : Nat := 0x300010
def HQ_TEN_BUSY_HI : Nat := 0x300014
def HQ_TEN_STUCK_LO : Nat := 0x300018
def HQ_TEN_STUCK_HI : Nat := 0x30001C
def HQ_EVENT : Nat := 0x300020
def HQ_EVENT_EN : Nat := 0x300024
def HQ_CMD : Nat := 0x300028
def HQ_SQ_TAIL (k : Nat) : Nat := 0x310000 + k % 4096 * 16
def HQ_SQ_HEAD (k : Nat) : Nat := 0x310004 + k % 4096 * 16
def HQ_SQ_CTRL (k : Nat) : Nat := 0x310008 + k % 4096 * 16
def HQ_CQ_HEAD (k : Nat) : Nat := 0x320000 + k % 4096 * 16
def HQ_CQ_TAIL (k : Nat) : Nat := 0x320004 + k % 4096 * 16

def DMA_SWREQ : Nat := 0x380000
def DMA_CMD : Nat := 0x380004
def DMA_EVENT : Nat := 0x380008
def DMA_EVENT_EN : Nat := 0x38000C
def DMA_CH_STATUS (k : Nat) : Nat := 0x380100 + k % 64 * 8
def DMA_CH_MOVED (k : Nat) : Nat := 0x380104 + k % 64 * 8

def IRQ_MASK (k : Nat) : Nat := 0x101000 + k * 16
def IRQ_MASK_SET (k : Nat) : Nat := 0x101004 + k * 16
def IRQ_MASK_CLEAR (k : Nat) : Nat := 0x101008 + k * 16
def IRQ_PEND (k : Nat) : Nat := 0x102000 + k * 16
def IRQ_PEND_SET (k : Nat) : Nat := 0x102004 + k * 16
def IRQ_PEND_CLEAR (k : Nat) : Nat := 0x102008 + k * 16
def IRQ_ACTIVE (k : Nat) : Nat := 0x103000 + k * 4
def IRQ_RAW (k : Nat) : Nat := 0x103400 + k * 4
def IRQ_WAKE_EN : Nat := 0x100040
def IRQ_SWI : Nat := 0x100044
def IRQ_STATUS : Nat := 0x100048
def IRQ_CLAIM (k : Nat) : Nat := 0x100100 + k * 32
def IRQ_COMPLETE (k : Nat) : Nat := 0x100104 + k * 32
def IRQ_TGT_CFG (k : Nat) : Nat := 0x100108 + k * 32
def IRQ_TGT_STATUS (k : Nat) : Nat := 0x10010C + k * 32

def FLT_CFG : Nat := 0x200000
def FLT_STATUS : Nat := 0x200004
def FLT_CLASS_STATE (k : Nat) : Nat := 0x200040 + k * 4
def FLT_CLASS_CLR : Nat := 0x200080
def FLT_BLACK_CLR : Nat := 0x200084
def FLT_FIRST (k : Nat) : Nat := 0x200100 + k * 4
def FLT_COUNT (k : Nat) : Nat := 0x200140 + k * 4
def FLT_RECOV (k : Nat) : Nat := 0x200180 + k * 4
def FLT_INJ : Nat := 0x200200
def FLT_LOG_STATUS : Nat := 0x200204
def FLT_LOG_CTRL : Nat := 0x200208
def FLT_CMD : Nat := 0x20020C
def FLT_LOG (k : Nat) : Nat := 0x200400 + k * 4

def STK_STATUS : Nat := 0x500000
def STK_CFG : Nat := 0x500004
def STK_REPLAY : Nat := 0x500008
def STK_BIN_DELAY : Nat := 0x50000C
def STK_CAL_CTRL : Nat := 0x500010
def STK_EVENT : Nat := 0x500020
def STK_EVENT_EN : Nat := 0x500024
def STK_CMD : Nat := 0x500028
def STK_HL_STATUS (k : Nat) : Nat := 0x500400 + k % 128 * 4

def GLB_TW_SEL (w : Nat) : Nat := win w + 0x0
def GLB_TW_INDEX (w : Nat) : Nat := win w + 0x4
def GLB_TW_CTRL (w : Nat) : Nat := win w + 0x8
def GLB_TW_DATA (w : Nat) (k : Nat) : Nat := win w + 0x1000 + k * 4

/-- The ptp registers (R66). -/
def ptpDefs : List RegDef :=
  [ ⟨0x580000, 0, 1, 0x0, .I, [⟨31, 0, .ro⟩]⟩,
    ⟨0x580004, 0, 1, 0x0, .I, [⟨31, 0, .ro⟩]⟩,
    ⟨0x580008, 0, 1, 0x0, .I, [⟨31, 0, .rw⟩]⟩,
    ⟨0x58000C, 0, 1, 0x0, .I, [⟨31, 0, .rw⟩]⟩,
    ⟨0x580010, 0, 1, 0x0, .I, [⟨31, 0, .rw⟩]⟩,
    ⟨0x580014, 0, 1, 0x0, .I, [⟨31, 0, .wo⟩]⟩,
    ⟨0x580018, 0, 1, 0x0, .I, [⟨31, 0, .wo⟩]⟩,
    ⟨0x58001C, 0, 1, 0x0, .I, [⟨1, 1, .wo⟩, ⟨0, 0, .wo⟩]⟩,
    ⟨0x580020, 0, 1, 0x4, .I, [⟨2, 2, .ro⟩, ⟨1, 1, .ro⟩, ⟨0, 0, .ro⟩]⟩,
    ⟨0x580024, 0, 1, 0x800003E8, .B, [⟨31, 31, .rw⟩, ⟨15, 0, .rw⟩]⟩,
    ⟨0x580028, 0, 1, 0x0, .I, [⟨3, 3, .w1c⟩, ⟨2, 2, .w1c⟩, ⟨1, 1, .w1c⟩, ⟨0, 0, .w1c⟩]⟩,
    ⟨0x58002C, 0, 1, 0x7, .B, [⟨3, 3, .rw⟩, ⟨2, 2, .rw⟩, ⟨1, 1, .rw⟩, ⟨0, 0, .rw⟩]⟩,
    ⟨0x580030, 0, 1, 0x0, .I, [⟨31, 0, .ro⟩]⟩,
    ⟨0x580034, 0, 1, 0x0, .I, [⟨31, 0, .ro⟩]⟩ ]
/-- The glb registers (R67, R418, R447, R449). -/
def glbDefs0 : List RegDef :=
  [ ⟨0x200, 0, 1, 0x3C, .B, [⟨19, 0, .rw⟩]⟩,
    ⟨0x204, 0, 1, 0x1, .B, [⟨19, 0, .rw⟩]⟩,
    ⟨0x208, 0, 1, 0x2, .L, [⟨1, 0, .rw⟩]⟩,
    ⟨0x20C, 0, 1, 0x0, .I, [⟨4, 4, .w1c⟩, ⟨3, 3, .w1c⟩, ⟨2, 2, .w1c⟩, ⟨1, 1, .ro⟩, ⟨0, 0, .ro⟩]⟩,
    ⟨0x210, 0, 1, 0x0, .I, [⟨31, 0, .ro⟩]⟩,
    ⟨0x214, 0, 1, 0x0, .I, [⟨31, 0, .ro⟩]⟩,
    ⟨0x218, 0, 1, 0x0, .I, [⟨31, 0, .ro⟩]⟩,
    ⟨0x300, 0, 1, 0x0, .I, [⟨4, 4, .rw⟩, ⟨3, 3, .rw⟩, ⟨2, 2, .rw⟩, ⟨1, 1, .wo⟩, ⟨0, 0, .w1s⟩]⟩,
    ⟨0x304, 0, 1, 0x0, .I, [⟨31, 0, .rw⟩]⟩,
    ⟨0x308, 0, 1, 0x0, .I, [⟨3, 3, .w1c⟩, ⟨2, 2, .w1c⟩, ⟨1, 1, .w1c⟩, ⟨0, 0, .w1c⟩]⟩,
    ⟨0x30C, 0, 1, 0xE, .B, [⟨3, 0, .rw⟩]⟩,
    ⟨0x400, 0, 1, 0x0, .I, [⟨31, 0, .rw⟩]⟩,
    ⟨0x404, 0, 1, 0x0, .I, [⟨31, 0, .rw⟩]⟩,
    ⟨0x408, 0, 1, 0x0, .I, [⟨1, 1, .rw⟩, ⟨0, 0, .wo⟩]⟩,
    ⟨0x40C, 0, 1, 0x0, .I, [⟨7, 7, .ro⟩, ⟨6, 6, .ro⟩, ⟨5, 5, .ro⟩, ⟨4, 4, .ro⟩, ⟨3, 0, .ro⟩]⟩,
    ⟨0x410, 0, 1, 0x0, .I, [⟨31, 0, .ro⟩]⟩,
    ⟨0x414, 0, 1, 0x0, .I, [⟨31, 0, .ro⟩]⟩,
    ⟨0x500, 0, 1, 0x0, .I, [⟨0, 0, .rw⟩]⟩,
    ⟨0x504, 0, 1, 0x0, .I, [⟨11, 8, .ro⟩, ⟨5, 5, .w1c⟩, ⟨4, 4, .ro⟩, ⟨2, 0, .ro⟩]⟩,
    ⟨0x800, 0, 1, 0x0, .I, [⟨31, 0, .rw⟩]⟩ ]
/-- The glb registers (R67, R418, R447, R449). -/
def glbDefs1 : List RegDef :=
  [ ⟨0x804, 0, 1, 0x0, .I, [⟨14, 0, .ro⟩]⟩,
    ⟨0x808, 0, 1, 0x0, .I, [⟨31, 0, .rw⟩]⟩,
    ⟨0x80C, 0, 1, 0x20000, .I, [⟨17, 17, .rw⟩, ⟨16, 16, .rw⟩, ⟨15, 0, .rw⟩]⟩,
    ⟨0x810, 0, 1, 0x0, .I, [⟨15, 0, .rw⟩]⟩,
    ⟨0x814, 0, 1, 0xF0, .I, [⟨7, 4, .rw⟩, ⟨3, 0, .rw⟩]⟩,
    ⟨0x818, 0, 1, 0x10000, .I, [⟨20, 20, .w1c⟩, ⟨19, 19, .w1c⟩, ⟨18, 18, .w1c⟩, ⟨17, 17, .w1c⟩, ⟨16, 16, .w1c⟩, ⟨15, 0, .w1c⟩]⟩,
    ⟨0x820, 0, 1, 0xD0101, .I, [⟨23, 16, .rw⟩, ⟨8, 8, .rw⟩, ⟨3, 0, .rw⟩]⟩,
    ⟨0x824, 0, 1, 0x0, .I, [⟨31, 31, .ro⟩, ⟨9, 9, .ro⟩, ⟨8, 8, .ro⟩, ⟨7, 0, .rw⟩]⟩,
    ⟨0x828, 0, 1, 0x0, .I, [⟨16, 16, .w1c⟩, ⟨12, 8, .ro⟩, ⟨4, 0, .ro⟩]⟩,
    ⟨0x82C, 0, 1, 0x58, .I, [⟨6, 0, .rw⟩]⟩,
    ⟨0x830, 0, 1, 0x7D0, .I, [⟨16, 16, .rw⟩, ⟨15, 0, .rw⟩]⟩,
    ⟨0x834, 0, 1, 0x0, .I, [⟨11, 8, .ro⟩, ⟨7, 4, .ro⟩, ⟨3, 0, .ro⟩]⟩,
    ⟨0x838, 0, 1, 0x0, .I, [⟨31, 16, .ro⟩, ⟨8, 8, .ro⟩, ⟨5, 0, .ro⟩]⟩,
    ⟨0x83C, 0, 1, 0x0, .I, [⟨0, 0, .wo⟩]⟩,
    ⟨0x600, 0, 1, 0x64, .B, [⟨7, 0, .rw⟩]⟩,
    ⟨0x604, 0, 1, 0x0, .I, [⟨31, 24, .ro⟩, ⟨23, 16, .ro⟩, ⟨11, 8, .ro⟩, ⟨7, 0, .ro⟩]⟩,
    ⟨0x608, 0, 1, 0x0, .I, [⟨4, 4, .w1c⟩, ⟨3, 3, .w1c⟩, ⟨2, 2, .w1c⟩, ⟨1, 1, .w1c⟩, ⟨0, 0, .w1c⟩]⟩,
    ⟨0x60C, 0, 1, 0x1F, .B, [⟨4, 4, .rw⟩, ⟨3, 3, .rw⟩, ⟨2, 2, .rw⟩, ⟨1, 1, .rw⟩, ⟨0, 0, .rw⟩]⟩,
    ⟨0x610, 0, 1, 0x0, .I, [⟨31, 0, .rc⟩]⟩,
    ⟨0x0, 0, 1, 0x91280100, .I, [⟨31, 16, .ro⟩, ⟨15, 8, .ro⟩]⟩ ]
/-- The glb registers (R67, R418, R447, R449). -/
def glbDefs2 : List RegDef :=
  [ ⟨0x4, 0, 1, 0x10, .I, [⟨9, 9, .ro⟩, ⟨8, 8, .ro⟩, ⟨7, 4, .ro⟩, ⟨3, 0, .ro⟩]⟩,
    ⟨0x8, 0, 1, 0x0, .I, [⟨31, 0, .ro⟩]⟩,
    ⟨0xC, 0, 1, 0x0, .I, [⟨31, 0, .ro⟩]⟩ ]
/-- All glb registers. -/
def glbDefs : List RegDef := glbDefs0 ++ glbDefs1 ++ glbDefs2
/-- The lane registers (R93). -/
def laneDefs : List RegDef :=
  [ ⟨0x0, 0, 1, 0x10000, .L, [⟨17, 16, .ro⟩, ⟨5, 4, .rw⟩, ⟨3, 3, .rw⟩, ⟨2, 1, .rw⟩, ⟨0, 0, .rw⟩]⟩,
    ⟨0x4, 0, 1, 0x31E8803, .B, [⟨25, 25, .rw⟩, ⟨24, 24, .rw⟩, ⟨22, 16, .rw⟩, ⟨15, 8, .rw⟩, ⟨2, 1, .rw⟩, ⟨0, 0, .rw⟩]⟩,
    ⟨0x8, 0, 1, 0x200000, .B, [⟨31, 31, .rw⟩, ⟨26, 22, .rw⟩, ⟨21, 15, .rw⟩, ⟨14, 9, .rw⟩, ⟨8, 4, .rw⟩, ⟨3, 0, .rw⟩]⟩,
    ⟨0xC, 0, 1, 0x200000, .I, [⟨31, 0, .ro⟩]⟩,
    ⟨0x10, 0, 1, 0x0, .I, [⟨31, 16, .ro⟩, ⟨13, 13, .ro⟩, ⟨12, 12, .ro⟩, ⟨11, 8, .ro⟩, ⟨7, 5, .ro⟩, ⟨4, 4, .ro⟩, ⟨3, 3, .ro⟩]⟩,
    ⟨0x14, 0, 1, 0x0, .I, [⟨3, 0, .ro⟩]⟩,
    ⟨0x18, 0, 1, 0x1, .I, [⟨31, 16, .ro⟩, ⟨15, 8, .ro⟩, ⟨4, 4, .ro⟩, ⟨3, 3, .ro⟩, ⟨2, 2, .ro⟩, ⟨1, 1, .ro⟩, ⟨0, 0, .ro⟩]⟩,
    ⟨0x1C, 0, 1, 0x0, .I, [⟨13, 8, .ro⟩, ⟨4, 0, .ro⟩]⟩,
    ⟨0x20, 0, 1, 0x12C2D1E, .B, [⟨27, 16, .rw⟩, ⟨15, 8, .rw⟩, ⟨7, 0, .rw⟩]⟩,
    ⟨0x24, 0, 1, 0x0, .I, [⟨2, 2, .ro⟩, ⟨1, 1, .ro⟩, ⟨0, 0, .rw⟩]⟩,
    ⟨0x28, 0, 1, 0x0, .B, [⟨10, 8, .rw⟩, ⟨7, 4, .rw⟩, ⟨3, 0, .rw⟩]⟩,
    ⟨0x2C, 0, 1, 0x0, .I, [⟨1, 1, .wo⟩, ⟨0, 0, .wo⟩]⟩,
    ⟨0x30, 0, 1, 0x0, .I, [⟨31, 0, .ro⟩]⟩,
    ⟨0x34, 0, 1, 0x0, .I, [⟨31, 0, .ro⟩]⟩,
    ⟨0x38, 0, 1, 0x0, .I, [⟨31, 0, .ro⟩]⟩,
    ⟨0x3C, 0, 1, 0x0, .I, [⟨31, 0, .ro⟩]⟩,
    ⟨0x40, 0, 1, 0x0, .I, [⟨8, 8, .w1c⟩, ⟨7, 7, .w1c⟩, ⟨6, 6, .w1c⟩, ⟨5, 5, .w1c⟩, ⟨4, 4, .w1c⟩, ⟨3, 3, .w1c⟩, ⟨2, 2, .w1c⟩, ⟨1, 1, .w1c⟩, ⟨0, 0, .w1c⟩]⟩,
    ⟨0x44, 0, 1, 0x8B, .B, [⟨8, 8, .rw⟩, ⟨7, 7, .rw⟩, ⟨6, 6, .rw⟩, ⟨5, 5, .rw⟩, ⟨4, 4, .rw⟩, ⟨3, 3, .rw⟩, ⟨2, 2, .rw⟩, ⟨1, 1, .rw⟩, ⟨0, 0, .rw⟩]⟩ ]
/-- The macSpar registers (R114). -/
def macSparDefs : List RegDef :=
  [ ⟨0xA000, 0, 1, 0x0, .L, [⟨2, 0, .ro⟩]⟩ ]
/-- The mac registers (R114, R115). -/
def macDefs : List RegDef :=
  [ ⟨0x0, 0, 1, 0x24000006, .B, [⟨29, 16, .rw⟩, ⟨2, 2, .rw⟩, ⟨1, 1, .rw⟩, ⟨0, 0, .rw⟩]⟩,
    ⟨0x4, 0, 1, 0x0, .I, [⟨15, 8, .ro⟩, ⟨4, 4, .ro⟩, ⟨3, 3, .ro⟩, ⟨2, 2, .ro⟩, ⟨1, 1, .ro⟩, ⟨0, 0, .ro⟩]⟩,
    ⟨0x8, 0, 1, 0x0, .I, [⟨2, 2, .wo⟩, ⟨1, 1, .wo⟩, ⟨0, 0, .rw⟩]⟩,
    ⟨0xC, 0, 1, 0xFFFF, .B, [⟨31, 24, .rw⟩, ⟨23, 16, .rw⟩, ⟨15, 0, .rw⟩]⟩,
    ⟨0x10, 0, 1, 0x0, .B, [⟨2, 2, .rw⟩, ⟨1, 1, .rw⟩, ⟨0, 0, .rw⟩]⟩,
    ⟨0x14, 0, 1, 0x0, .I, [⟨31, 31, .ro⟩, ⟨15, 0, .ro⟩]⟩,
    ⟨0x18, 0, 1, 0x0, .I, [⟨31, 0, .ro⟩]⟩,
    ⟨0x1C, 0, 1, 0x0, .I, [⟨31, 0, .ro⟩]⟩,
    ⟨0x20, 0, 1, 0x3E80010, .B, [⟨31, 16, .rw⟩, ⟨15, 0, .rw⟩]⟩,
    ⟨0x24, 0, 1, 0x0, .I, [⟨4, 4, .w1c⟩, ⟨3, 3, .w1c⟩, ⟨2, 2, .w1c⟩, ⟨1, 1, .w1c⟩, ⟨0, 0, .w1c⟩]⟩,
    ⟨0x28, 0, 1, 0x1F, .B, [⟨4, 4, .rw⟩, ⟨3, 3, .rw⟩, ⟨2, 2, .rw⟩, ⟨1, 1, .rw⟩, ⟨0, 0, .rw⟩]⟩,
    ⟨0x200, 4, 9, 0x0, .I, [⟨31, 0, .ro⟩]⟩ ]
/-- The prs registers (R142). -/
def prsDefs : List RegDef :=
  [ ⟨0x0, 4, 8, 0x14010, .B, [⟨31, 24, .rw⟩, ⟨22, 20, .rw⟩, ⟨17, 16, .rw⟩, ⟨14, 6, .rw⟩, ⟨4, 0, .rw⟩]⟩,
    ⟨0x20, 4, 8, 0xFAC688, .B, [⟨23, 0, .rw⟩]⟩,
    ⟨0x40, 0, 1, 0xFF0186A0, .B, [⟨31, 24, .rw⟩, ⟨23, 0, .rw⟩]⟩,
    ⟨0x80, 4, 16, 0x40002710, .B, [⟨31, 24, .rw⟩, ⟨23, 0, .rw⟩]⟩,
    ⟨0xC0, 0, 1, 0x0, .I, [⟨5, 5, .w1c⟩, ⟨4, 4, .w1c⟩, ⟨3, 3, .w1c⟩, ⟨2, 2, .w1c⟩, ⟨1, 1, .w1c⟩, ⟨0, 0, .w1c⟩]⟩,
    ⟨0xC4, 0, 1, 0x39, .B, [⟨5, 5, .rw⟩, ⟨4, 4, .rw⟩, ⟨3, 3, .rw⟩, ⟨2, 2, .rw⟩, ⟨1, 1, .rw⟩, ⟨0, 0, .rw⟩]⟩,
    ⟨0xC8, 0, 1, 0x0, .I, [⟨0, 0, .ro⟩]⟩,
    ⟨0xCC, 0, 1, 0x0, .I, [⟨0, 0, .wo⟩]⟩ ]
/-- The buf registers (R174). -/
def bufDefs : List RegDef :=
  [ ⟨0x0, 0, 1, 0x3E0E0300, .B, [⟨29, 20, .rw⟩, ⟨19, 10, .rw⟩, ⟨9, 0, .rw⟩]⟩,
    ⟨0x4, 0, 1, 0x80, .B, [⟨12, 0, .rw⟩]⟩,
    ⟨0x8, 0, 1, 0x291503, .B, [⟨23, 16, .rw⟩, ⟨15, 8, .rw⟩, ⟨7, 0, .rw⟩]⟩,
    ⟨0xC, 0, 1, 0x0, .I, [⟨5, 5, .ro⟩, ⟨4, 4, .ro⟩, ⟨3, 2, .ro⟩, ⟨1, 0, .ro⟩]⟩,
    ⟨0x10, 0, 1, 0x0, .I, [⟨25, 16, .ro⟩, ⟨12, 0, .ro⟩]⟩,
    ⟨0x14, 0, 1, 0x0, .I, [⟨12, 0, .rc⟩]⟩,
    ⟨0x18, 0, 1, 0x0, .I, [⟨12, 0, .ro⟩]⟩,
    ⟨0x20, 0, 1, 0x0, .I, [⟨7, 7, .w1c⟩, ⟨6, 6, .w1c⟩, ⟨5, 5, .w1c⟩, ⟨4, 4, .w1c⟩, ⟨3, 3, .w1c⟩, ⟨2, 2, .w1c⟩, ⟨1, 1, .w1c⟩, ⟨0, 0, .w1c⟩]⟩,
    ⟨0x24, 0, 1, 0xED, .B, [⟨7, 7, .rw⟩, ⟨6, 6, .rw⟩, ⟨5, 5, .rw⟩, ⟨4, 4, .rw⟩, ⟨3, 3, .rw⟩, ⟨2, 2, .rw⟩, ⟨1, 1, .rw⟩, ⟨0, 0, .rw⟩]⟩,
    ⟨0x28, 0, 1, 0x0, .I, [⟨0, 0, .wo⟩]⟩ ]
/-- The bufDev registers (R174). -/
def bufDevDefs : List RegDef :=
  [ ⟨0x800, 0, 1, 0x0, .L, [⟨0, 0, .rw⟩]⟩,
    ⟨0x804, 0, 1, 0x186A0, .B, [⟨23, 0, .rw⟩]⟩,
    ⟨0x808, 0, 1, 0x0, .I, [⟨31, 31, .wo⟩, ⟨30, 30, .ro⟩, ⟨29, 29, .ro⟩, ⟨11, 0, .rw⟩]⟩,
    ⟨0x80C, 0, 1, 0x0, .I, [⟨31, 0, .ro⟩]⟩,
    ⟨0x810, 0, 1, 0x0, .L, [⟨31, 0, .rw⟩]⟩,
    ⟨0x820, 4, 4, 0x0, .L, [⟨23, 0, .rw⟩]⟩,
    ⟨0x830, 4, 4, 0x0, .I, [⟨23, 0, .ro⟩]⟩,
    ⟨0x840, 0, 1, 0x0, .I, [⟨31, 0, .wo⟩]⟩,
    ⟨0x850, 4, 4, 0x0, .I, [⟨31, 0, .rc⟩]⟩ ]
/-- The core registers (R198). -/
def coreDefs : List RegDef :=
  [ ⟨0x0, 0, 1, 0x0, .I, [⟨26, 7, .ro⟩, ⟨6, 0, .ro⟩]⟩,
    ⟨0x10, 4, 4, 0x0, .B, [⟨31, 0, .rw⟩]⟩,
    ⟨0x20, 0, 1, 0x108, .B, [⟨15, 8, .rw⟩, ⟨7, 0, .rw⟩]⟩,
    ⟨0x24, 0, 1, 0x1800100, .B, [⟨25, 16, .rw⟩, ⟨9, 0, .rw⟩]⟩,
    ⟨0x28, 0, 1, 0x64, .B, [⟨15, 0, .rw⟩]⟩,
    ⟨0x2C, 0, 1, 0x0, .I, [⟨25, 16, .ro⟩, ⟨10, 0, .ro⟩]⟩,
    ⟨0x30, 0, 1, 0x0, .I, [⟨5, 5, .w1c⟩, ⟨4, 4, .w1c⟩, ⟨3, 3, .w1c⟩, ⟨2, 2, .w1c⟩, ⟨1, 1, .w1c⟩, ⟨0, 0, .w1c⟩]⟩,
    ⟨0x34, 0, 1, 0x3F, .B, [⟨5, 5, .rw⟩, ⟨4, 4, .rw⟩, ⟨3, 3, .rw⟩, ⟨2, 2, .rw⟩, ⟨1, 1, .rw⟩, ⟨0, 0, .rw⟩]⟩,
    ⟨0x38, 0, 1, 0x0, .I, [⟨0, 0, .wo⟩]⟩ ]
/-- The eq registers (R220). -/
def eqDefs : List RegDef :=
  [ ⟨0x0, 4, 8, 0x0, .B, [⟨15, 8, .rw⟩, ⟨0, 0, .rw⟩]⟩,
    ⟨0x20, 4, 8, 0x10186A00, .B, [⟨31, 24, .rw⟩, ⟨20, 0, .rw⟩]⟩,
    ⟨0x40, 4, 8, 0x14, .B, [⟨7, 0, .rw⟩]⟩,
    ⟨0x60, 0, 1, 0x0, .I, [⟨2, 2, .w1c⟩, ⟨1, 1, .w1c⟩, ⟨0, 0, .w1c⟩]⟩,
    ⟨0x64, 0, 1, 0x0, .B, [⟨2, 2, .rw⟩, ⟨1, 1, .rw⟩, ⟨0, 0, .rw⟩]⟩,
    ⟨0x68, 0, 1, 0x0, .I, [⟨0, 0, .wo⟩]⟩,
    ⟨0x6C, 0, 1, 0x0, .I, [⟨7, 0, .ro⟩]⟩ ]
/-- The tel registers (R222). -/
def telDefs : List RegDef :=
  [ ⟨0x0, 0, 1, 0xA, .B, [⟨15, 0, .rw⟩]⟩,
    ⟨0x4, 0, 1, 0x40, .B, [⟨15, 0, .rw⟩]⟩,
    ⟨0x8, 0, 1, 0x0, .B, [⟨31, 16, .rw⟩, ⟨3, 1, .rw⟩, ⟨0, 0, .rw⟩]⟩,
    ⟨0xC, 0, 1, 0xFFFFFFFF, .B, [⟨31, 0, .rw⟩]⟩,
    ⟨0x10, 0, 1, 0x80000, .B, [⟨19, 0, .rw⟩]⟩,
    ⟨0x14, 0, 1, 0x400F4240, .B, [⟨31, 24, .rw⟩, ⟨23, 0, .rw⟩]⟩,
    ⟨0x18, 0, 1, 0xAA, .B, [⟨7, 7, .rw⟩, ⟨6, 0, .rw⟩]⟩,
    ⟨0x20, 0, 1, 0x0, .I, [⟨0, 0, .w1c⟩]⟩,
    ⟨0x24, 0, 1, 0x1, .B, [⟨0, 0, .rw⟩]⟩,
    ⟨0x28, 0, 1, 0x0, .I, [⟨1, 1, .wo⟩, ⟨0, 0, .wo⟩]⟩,
    ⟨0x2C, 0, 1, 0x0, .I, [⟨31, 0, .ro⟩]⟩ ]
/-- The ce registers (R247). -/
def ceDefs : List RegDef :=
  [ ⟨0x0, 0, 1, 0xFA01339, .B, [⟨31, 16, .rw⟩, ⟨12, 12, .rw⟩, ⟨11, 8, .rw⟩, ⟨5, 4, .rw⟩, ⟨3, 3, .rw⟩, ⟨0, 0, .rw⟩]⟩,
    ⟨0x4, 0, 1, 0x21000, .L, [⟨17, 17, .ro⟩, ⟨16, 12, .ro⟩, ⟨11, 8, .ro⟩, ⟨6, 6, .ro⟩, ⟨5, 0, .ro⟩]⟩,
    ⟨0x8, 0, 1, 0x0, .I, [⟨27, 24, .ro⟩, ⟨20, 8, .ro⟩, ⟨5, 4, .ro⟩, ⟨2, 0, .ro⟩]⟩,
    ⟨0x10, 4, 4, 0x0, .I, [⟨31, 16, .ro⟩, ⟨15, 10, .ro⟩, ⟨9, 8, .ro⟩, ⟨2, 0, .ro⟩]⟩,
    ⟨0x20, 4, 4, 0x0, .I, [⟨31, 0, .ro⟩]⟩,
    ⟨0x30, 0, 1, 0x0, .I, [⟨31, 31, .w1c⟩, ⟨30, 30, .w1c⟩, ⟨29, 28, .ro⟩, ⟨27, 20, .ro⟩, ⟨19, 16, .ro⟩, ⟨12, 0, .ro⟩]⟩,
    ⟨0x34, 0, 1, 0x0, .I, [⟨4, 4, .wo⟩, ⟨3, 3, .wo⟩, ⟨2, 2, .wo⟩, ⟨1, 1, .rw⟩, ⟨0, 0, .wo⟩]⟩,
    ⟨0x38, 0, 1, 0x0, .I, [⟨5, 5, .w1c⟩, ⟨4, 4, .w1c⟩, ⟨3, 3, .w1c⟩, ⟨2, 2, .w1c⟩, ⟨1, 1, .w1c⟩, ⟨0, 0, .w1c⟩]⟩,
    ⟨0x3C, 0, 1, 0x37, .B, [⟨5, 5, .rw⟩, ⟨4, 4, .rw⟩, ⟨3, 3, .rw⟩, ⟨2, 2, .rw⟩, ⟨1, 1, .rw⟩, ⟨0, 0, .rw⟩]⟩,
    ⟨0x40, 0, 1, 0x0, .I, [⟨8, 7, .ro⟩, ⟨6, 0, .ro⟩]⟩,
    ⟨0x44, 0, 1, 0x0, .L, [⟨31, 0, .ro⟩]⟩,
    ⟨0x48, 0, 1, 0x0, .B, [⟨31, 0, .rw⟩]⟩,
    ⟨0x4C, 0, 1, 0x0, .B, [⟨15, 0, .rw⟩]⟩,
    ⟨0x50, 0, 1, 0x0, .B, [⟨31, 0, .rw⟩]⟩ ]
/-- The wall registers (R326). -/
def wallDefs : List RegDef :=
  [ ⟨0x0, 0, 1, 0x4002, .B, [⟨15, 8, .rw⟩, ⟨2, 1, .rw⟩, ⟨0, 0, .rw⟩]⟩,
    ⟨0x4, 0, 1, 0x0, .B, [⟨12, 0, .rw⟩]⟩,
    ⟨0x8, 0, 1, 0x0, .B, [⟨29, 20, .rw⟩, ⟨19, 10, .rw⟩, ⟨9, 0, .rw⟩]⟩,
    ⟨0xC, 0, 1, 0x0, .B, [⟨31, 0, .rw⟩]⟩,
    ⟨0x10, 0, 1, 0x0, .I, [⟨18, 18, .ro⟩, ⟨17, 17, .ro⟩, ⟨16, 16, .ro⟩, ⟨12, 0, .ro⟩]⟩,
    ⟨0x14, 0, 1, 0x0, .I, [⟨31, 0, .ro⟩]⟩,
    ⟨0x20, 0, 1, 0x0, .I, [⟨6, 6, .w1c⟩, ⟨5, 5, .w1c⟩, ⟨4, 4, .w1c⟩, ⟨3, 3, .w1c⟩, ⟨2, 2, .w1c⟩, ⟨1, 1, .w1c⟩, ⟨0, 0, .w1c⟩]⟩,
    ⟨0x24, 0, 1, 0x4D, .B, [⟨6, 6, .rw⟩, ⟨5, 5, .rw⟩, ⟨4, 4, .rw⟩, ⟨3, 3, .rw⟩, ⟨2, 2, .rw⟩, ⟨1, 1, .rw⟩, ⟨0, 0, .rw⟩]⟩,
    ⟨0x28, 0, 1, 0x0, .I, [⟨0, 0, .wo⟩]⟩ ]
/-- The fmc registers (R348). -/
def fmcDefs : List RegDef :=
  [ ⟨0x400000, 0, 1, 0x30, .L, [⟨5, 4, .rw⟩, ⟨0, 0, .rw⟩]⟩,
    ⟨0x400004, 0, 1, 0x0, .L, [⟨31, 0, .rw⟩]⟩,
    ⟨0x400008, 0, 1, 0x0, .L, [⟨31, 0, .rw⟩]⟩,
    ⟨0x40000C, 0, 1, 0x0, .I, [⟨31, 31, .ro⟩, ⟨6, 0, .rw⟩]⟩,
    ⟨0x400010, 0, 1, 0x1000, .B, [⟨15, 0, .rw⟩]⟩,
    ⟨0x400014, 0, 1, 0x3E80FA0, .B, [⟨31, 16, .rw⟩, ⟨15, 0, .rw⟩]⟩,
    ⟨0x400018, 0, 1, 0x184001, .B, [⟨23, 16, .rw⟩, ⟨15, 8, .rw⟩, ⟨0, 0, .rw⟩]⟩,
    ⟨0x400020, 0, 1, 0x0, .I, [⟨7, 7, .w1c⟩, ⟨6, 6, .w1c⟩, ⟨5, 5, .w1c⟩, ⟨4, 4, .w1c⟩, ⟨3, 3, .w1c⟩, ⟨2, 2, .w1c⟩, ⟨1, 1, .w1c⟩, ⟨0, 0, .w1c⟩]⟩,
    ⟨0x400024, 0, 1, 0x96, .B, [⟨7, 7, .rw⟩, ⟨6, 6, .rw⟩, ⟨5, 5, .rw⟩, ⟨4, 4, .rw⟩, ⟨3, 3, .rw⟩, ⟨2, 2, .rw⟩, ⟨1, 1, .rw⟩, ⟨0, 0, .rw⟩]⟩,
    ⟨0x400028, 0, 1, 0x0, .I, [⟨31, 0, .ro⟩]⟩,
    ⟨0x40002C, 0, 1, 0x0, .I, [⟨31, 0, .ro⟩]⟩,
    ⟨0x400030, 0, 1, 0x0, .I, [⟨31, 31, .w1c⟩, ⟨30, 30, .w1c⟩, ⟨9, 9, .ro⟩, ⟨8, 0, .ro⟩]⟩,
    ⟨0x400034, 0, 1, 0x0, .I, [⟨0, 0, .wo⟩]⟩,
    ⟨0x400038, 0, 1, 0x0, .I, [⟨8, 0, .wo⟩]⟩,
    ⟨0x400400, 4, 128, 0x0, .I, [⟨24, 24, .ro⟩, ⟨23, 16, .ro⟩, ⟨15, 8, .ro⟩, ⟨2, 2, .ro⟩, ⟨1, 1, .ro⟩, ⟨0, 0, .ro⟩]⟩ ]
/-- The hq registers (R372). -/
def hqDefs : List RegDef :=
  [ ⟨0x300000, 0, 1, 0x4003E8, .B, [⟨22, 16, .rw⟩, ⟨15, 0, .rw⟩]⟩,
    ⟨0x300004, 0, 1, 0x0, .B, [⟨27, 16, .rw⟩, ⟨11, 0, .rw⟩]⟩,
    ⟨0x300008, 0, 1, 0x640000, .B, [⟨31, 16, .rw⟩, ⟨11, 0, .rw⟩]⟩,
    ⟨0x30000C, 0, 1, 0x0, .I, [⟨31, 31, .wo⟩, ⟨5, 0, .rw⟩]⟩,
    ⟨0x300010, 0, 1, 0x0, .I, [⟨31, 0, .ro⟩]⟩,
    ⟨0x300014, 0, 1, 0x0, .I, [⟨31, 0, .ro⟩]⟩,
    ⟨0x300018, 0, 1, 0x0, .I, [⟨31, 0, .ro⟩]⟩,
    ⟨0x30001C, 0, 1, 0x0, .I, [⟨31, 0, .ro⟩]⟩,
    ⟨0x300020, 0, 1, 0x0, .I, [⟨3, 3, .w1c⟩, ⟨2, 2, .w1c⟩, ⟨1, 1, .w1c⟩, ⟨0, 0, .w1c⟩]⟩,
    ⟨0x300024, 0, 1, 0x7, .B, [⟨3, 3, .rw⟩, ⟨2, 2, .rw⟩, ⟨1, 1, .rw⟩, ⟨0, 0, .rw⟩]⟩,
    ⟨0x300028, 0, 1, 0x0, .I, [⟨0, 0, .wo⟩]⟩,
    ⟨0x310000, 16, 4096, 0x0, .I, [⟨15, 0, .rw⟩]⟩,
    ⟨0x310004, 16, 4096, 0x0, .I, [⟨15, 0, .ro⟩]⟩,
    ⟨0x310008, 16, 4096, 0x0, .I, [⟨4, 4, .ro⟩, ⟨3, 3, .ro⟩, ⟨2, 2, .wo⟩, ⟨1, 1, .rw⟩, ⟨0, 0, .rw⟩]⟩,
    ⟨0x320000, 16, 4096, 0x0, .I, [⟨15, 0, .rw⟩]⟩,
    ⟨0x320004, 16, 4096, 0x0, .I, [⟨15, 0, .ro⟩]⟩ ]
/-- The dma registers (R372). -/
def dmaDefs : List RegDef :=
  [ ⟨0x380000, 0, 1, 0x0, .I, [⟨15, 0, .w1s⟩]⟩,
    ⟨0x380004, 0, 1, 0x0, .I, [⟨31, 31, .wo⟩, ⟨5, 0, .rw⟩]⟩,
    ⟨0x380008, 0, 1, 0x0, .I, [⟨2, 2, .w1c⟩, ⟨1, 1, .w1c⟩, ⟨0, 0, .w1c⟩]⟩,
    ⟨0x38000C, 0, 1, 0x6, .B, [⟨2, 2, .rw⟩, ⟨1, 1, .rw⟩, ⟨0, 0, .rw⟩]⟩,
    ⟨0x380100, 8, 64, 0x0, .I, [⟨31, 31, .ro⟩, ⟨7, 0, .ro⟩]⟩,
    ⟨0x380104, 8, 64, 0x0, .I, [⟨31, 0, .ro⟩]⟩ ]
/-- The irq registers (R384). -/
def irqDefs : List RegDef :=
  [ ⟨0x101000, 16, 36, 0xFFFFFFFF, .I, [⟨31, 0, .rw⟩]⟩,
    ⟨0x101004, 16, 36, 0x0, .I, [⟨31, 0, .w1s⟩]⟩,
    ⟨0x101008, 16, 36, 0x0, .I, [⟨31, 0, .w1c⟩]⟩,
    ⟨0x102000, 16, 36, 0x0, .I, [⟨31, 0, .ro⟩]⟩,
    ⟨0x102004, 16, 36, 0x0, .I, [⟨31, 0, .w1s⟩]⟩,
    ⟨0x102008, 16, 36, 0x0, .I, [⟨31, 0, .w1c⟩]⟩,
    ⟨0x103000, 4, 36, 0x0, .I, [⟨31, 0, .ro⟩]⟩,
    ⟨0x103400, 4, 36, 0x0, .I, [⟨31, 0, .ro⟩]⟩,
    ⟨0x100040, 0, 1, 0x0, .B, [⟨4, 0, .rw⟩]⟩,
    ⟨0x100044, 0, 1, 0x0, .I, [⟨7, 0, .w1s⟩]⟩,
    ⟨0x100048, 0, 1, 0x0, .I, [⟨31, 31, .w1c⟩, ⟨10, 0, .ro⟩]⟩,
    ⟨0x100100, 32, 8, 0x0, .I, [⟨31, 31, .ro⟩, ⟨19, 16, .ro⟩, ⟨10, 0, .ro⟩]⟩,
    ⟨0x100104, 32, 8, 0x0, .I, [⟨10, 0, .wo⟩]⟩,
    ⟨0x100108, 32, 8, 0x8F010000, .B, [⟨31, 31, .rw⟩, ⟨27, 24, .rw⟩, ⟨23, 16, .rw⟩, ⟨12, 0, .rw⟩]⟩,
    ⟨0x10010C, 32, 8, 0x0, .I, [⟨15, 8, .ro⟩, ⟨1, 1, .ro⟩, ⟨0, 0, .ro⟩]⟩ ]
/-- The flt registers (R400). -/
def fltDefs : List RegDef :=
  [ ⟨0x200000, 0, 1, 0x800186A0, .B, [⟨31, 31, .rw⟩, ⟨23, 0, .rw⟩]⟩,
    ⟨0x200004, 0, 1, 0x0, .I, [⟨4, 4, .w1c⟩, ⟨3, 3, .ro⟩, ⟨2, 2, .ro⟩, ⟨1, 1, .ro⟩, ⟨0, 0, .ro⟩]⟩,
    ⟨0x200040, 4, 16, 0x0, .I, [⟨4, 4, .w1c⟩, ⟨3, 3, .ro⟩, ⟨2, 2, .ro⟩, ⟨1, 0, .ro⟩]⟩,
    ⟨0x200080, 0, 1, 0x0, .I, [⟨15, 0, .wo⟩]⟩,
    ⟨0x200084, 0, 1, 0x0, .I, [⟨0, 0, .wo⟩]⟩,
    ⟨0x200100, 4, 16, 0x0, .I, [⟨31, 31, .w1c⟩, ⟨30, 30, .w1c⟩, ⟨11, 11, .ro⟩, ⟨10, 9, .ro⟩, ⟨8, 0, .ro⟩]⟩,
    ⟨0x200140, 4, 16, 0x0, .I, [⟨31, 0, .ro⟩]⟩,
    ⟨0x200180, 4, 16, 0x0, .I, [⟨31, 0, .ro⟩]⟩,
    ⟨0x200200, 0, 1, 0x0, .I, [⟨31, 31, .rw⟩, ⟨30, 30, .w1c⟩, ⟨16, 16, .rw⟩, ⟨8, 0, .rw⟩]⟩,
    ⟨0x200204, 0, 1, 0x0, .I, [⟨31, 31, .ro⟩, ⟨20, 5, .ro⟩, ⟨4, 0, .ro⟩]⟩,
    ⟨0x200208, 0, 1, 0x0, .I, [⟨1, 1, .ro⟩, ⟨0, 0, .wo⟩]⟩,
    ⟨0x20020C, 0, 1, 0x0, .I, [⟨0, 0, .wo⟩]⟩,
    ⟨0x200400, 4, 256, 0x0, .I, [⟨31, 0, .ro⟩]⟩ ]
/-- The stk registers (R435). -/
def stkDefs : List RegDef :=
  [ ⟨0x500000, 0, 1, 0x0, .I, [⟨31, 31, .ro⟩, ⟨30, 28, .ro⟩, ⟨27, 24, .ro⟩, ⟨23, 16, .ro⟩, ⟨15, 8, .ro⟩, ⟨2, 2, .w1c⟩, ⟨1, 1, .ro⟩, ⟨0, 0, .ro⟩]⟩,
    ⟨0x500004, 0, 1, 0x3E80408, .B, [⟨31, 16, .rw⟩, ⟨15, 8, .rw⟩, ⟨7, 0, .rw⟩]⟩,
    ⟨0x500008, 0, 1, 0x7D0, .B, [⟨15, 0, .rw⟩]⟩,
    ⟨0x50000C, 0, 1, 0x0, .I, [⟨31, 0, .ro⟩]⟩,
    ⟨0x500010, 0, 1, 0x0, .I, [⟨1, 1, .ro⟩, ⟨0, 0, .wo⟩]⟩,
    ⟨0x500020, 0, 1, 0x0, .I, [⟨6, 6, .w1c⟩, ⟨5, 5, .w1c⟩, ⟨4, 4, .w1c⟩, ⟨3, 3, .w1c⟩, ⟨2, 2, .w1c⟩, ⟨1, 1, .w1c⟩, ⟨0, 0, .w1c⟩]⟩,
    ⟨0x500024, 0, 1, 0x5F, .B, [⟨6, 6, .rw⟩, ⟨5, 5, .rw⟩, ⟨4, 4, .rw⟩, ⟨3, 3, .rw⟩, ⟨2, 2, .rw⟩, ⟨1, 1, .rw⟩, ⟨0, 0, .rw⟩]⟩,
    ⟨0x500028, 0, 1, 0x0, .I, [⟨0, 0, .wo⟩]⟩,
    ⟨0x500400, 4, 128, 0x0, .I, [⟨31, 31, .ro⟩, ⟨30, 28, .ro⟩, ⟨6, 0, .ro⟩]⟩ ]
/-- The tw registers (R450). -/
def twDefs : List RegDef :=
  [ ⟨0x0, 0, 1, 0x0, .I, [⟨31, 16, .rw⟩, ⟨6, 0, .rw⟩]⟩,
    ⟨0x4, 0, 1, 0x0, .I, [⟨19, 0, .rw⟩]⟩,
    ⟨0x8, 0, 1, 0x0, .I, [⟨8, 8, .rw⟩, ⟨7, 4, .ro⟩, ⟨2, 2, .ro⟩, ⟨1, 1, .wo⟩, ⟨0, 0, .wo⟩]⟩,
    ⟨0x1000, 4, 2048, 0x0, .I, [⟨31, 0, .rw⟩]⟩ ]

/-- The block an offset of BAR0 lies in (R448): the block's registers and the offset they are reckoned from. -/
def blockOf (a : Nat) : Option (List RegDef × Nat) :=
  if a < 0x1000 then some (glbDefs, 0)
  else if a < 0x00100000 then none
  else if a < 0x00200000 then some (irqDefs, 0)
  else if a < 0x00300000 then some (fltDefs, 0)
  else if a < 0x00380000 then some (hqDefs, 0)
  else if a < 0x00400000 then some (dmaDefs, 0)
  else if a < 0x00500000 then some (fmcDefs, 0)
  else if a < 0x00580000 then some (stkDefs, 0)
  else if a < 0x00600000 then some (ptpDefs, 0)
  else if a < 0x00800000 then some (twDefs, win ((a - 0x00600000) / 0x40000))
  else if a < 0x01000000 then none
  else if a < 0x03000000 then
    let n := (a - 0x01000000) / 0x40000
    let r := (a - 0x01000000) % 0x40000
    if r < 0x8000 then some (laneDefs, spar n + r / 0x1000 * 0x1000)
    else if r < 0xA000 then some (macDefs, spar n + 0x8000 + (r - 0x8000) / 0x400 * 0x400)
    else if r < 0x10000 then some (macSparDefs, spar n)
    else if r < 0x18000 then some (prsDefs, spar n + 0x10000)
    else if r < 0x18800 then some (bufDefs, spar n + 0x18000)
    else if r < 0x1C000 then if n = 0 then some (bufDevDefs, spar n + 0x18000) else none
    else if r < 0x20000 then some (coreDefs, spar n + 0x1C000)
    else if r < 0x28000 then some (eqDefs, spar n + 0x20000)
    else if r < 0x30000 then some (telDefs, spar n + 0x28000)
    else if r < 0x38000 then some (ceDefs, spar n + 0x30000)
    else some (wallDefs, spar n + 0x38000)
  else none

/-- Does the relative offset `r` name a register of the row `d`? -/
def defHit (d : RegDef) (r : Nat) : Bool :=
  if d.count = 1 then r == d.off
  else d.off ≤ r && (r - d.off) % d.stride == 0 && (r - d.off) / d.stride < d.count

/-- The register that the aligned offset `a` names, if any (R4, R448). -/
def at? (a : Nat) : Option RegDef :=
  if a % 4 ≠ 0 then none else
  match blockOf a with
  | none => none
  | some (ds, base) => ds.find? (fun d => defHit d (a - base))

/-- The reset value of the register at `a`; zero where the offset names none (R448). -/
def resetVal (a : Nat) : BitVec 32 :=
  match at? a with
  | some d => BitVec.ofNat 32 d.reset
  | none => 0

/-! The 64-bit counters: the offset of each pair's low word. -/
def C_MAC_RX_FRAMES_OK (p : Nat) : Nat := mac p + 0x100
def C_MAC_RX_BYTES_OK (p : Nat) : Nat := mac p + 0x108
def C_MAC_RX_RUNT (p : Nat) : Nat := mac p + 0x110
def C_MAC_RX_OVERSIZE (p : Nat) : Nat := mac p + 0x118
def C_MAC_RX_FCS_ERR (p : Nat) : Nat := mac p + 0x120
def C_MAC_RX_PFC (p : Nat) : Nat := mac p + 0x128
def C_MAC_RX_PAUSE_IGN (p : Nat) : Nat := mac p + 0x130
def C_MAC_RX_FENCE_DROP (p : Nat) : Nat := mac p + 0x138
def C_MAC_TX_FRAMES (p : Nat) : Nat := mac p + 0x140
def C_MAC_TX_BYTES (p : Nat) : Nat := mac p + 0x148
def C_MAC_TX_STOMP (p : Nat) : Nat := mac p + 0x150
def C_MAC_TX_OVERSIZE_DROP (p : Nat) : Nat := mac p + 0x158
def C_MAC_TX_PFC (p : Nat) : Nat := mac p + 0x160
def C_MAC_TX_DOWN_DROP (p : Nat) : Nat := mac p + 0x168
def C_MAC_FEC_CORR_CW (p : Nat) : Nat := mac p + 0x170
def C_MAC_FEC_CORR_SYM (p : Nat) : Nat := mac p + 0x178
def C_MAC_FEC_UNCORR_CW (p : Nat) : Nat := mac p + 0x180
def C_MAC_PTP_TS_OVF (p : Nat) : Nat := mac p + 0x188
def C_PRS_PARSE_FAIL (p : Nat) : Nat := spar (p / 8) + 0x10200 + (p % 8) * 0x80 + 0x0
def C_PRS_DEPTH_HIT (p : Nat) : Nat := spar (p / 8) + 0x10200 + (p % 8) * 0x80 + 0x8
def C_PRS_NO_MATCH (p : Nat) : Nat := spar (p / 8) + 0x10200 + (p % 8) * 0x80 + 0x10
def C_PRS_EM_MISS (p : Nat) : Nat := spar (p / 8) + 0x10200 + (p % 8) * 0x80 + 0x18
def C_PRS_RED_DROP (p : Nat) : Nat := spar (p / 8) + 0x10200 + (p % 8) * 0x80 + 0x20
def C_PRS_PUNT_DROP (p : Nat) : Nat := spar (p / 8) + 0x10200 + (p % 8) * 0x80 + 0x28
def C_PRS_MGMT_DROP (p : Nat) : Nat := spar (p / 8) + 0x10200 + (p % 8) * 0x80 + 0x30
def C_PRS_MEM_ERR_DROP (p : Nat) : Nat := spar (p / 8) + 0x10200 + (p % 8) * 0x80 + 0x38
def C_PRS_RULE_DROP (p : Nat) : Nat := spar (p / 8) + 0x10200 + (p % 8) * 0x80 + 0x40
def C_PRS_PUNT_OK (p : Nat) : Nat := spar (p / 8) + 0x10200 + (p % 8) * 0x80 + 0x48
def C_BUF_REEF_DROP_RED (n : Nat) : Nat := spar n + 0x18100
def C_BUF_REEF_DROP_YELLOW (n : Nat) : Nat := spar n + 0x18108
def C_BUF_REEF_DROP_GREEN (n : Nat) : Nat := spar n + 0x18110
def C_BUF_OWNER_DROP (n : Nat) : Nat := spar n + 0x18118
def C_BUF_ALLOC_FAIL (n : Nat) : Nat := spar n + 0x18120
def C_BUF_MGMT_OVER (n : Nat) : Nat := spar n + 0x18128
def C_BUF_FLUSH_FREED (n : Nat) : Nat := spar n + 0x18130
def C_BUF_ECC_CORR (n : Nat) : Nat := spar n + 0x18138
def C_BUF_ECC_UNCORR_DROP (n : Nat) : Nat := spar n + 0x18140
def C_BUF_MC_FREED (n : Nat) : Nat := spar n + 0x18148
def C_CORE_TAB_CELLS (n : Nat) : Nat := spar n + 0x1C100
def C_CORE_UNTAB_CELLS (n : Nat) : Nat := spar n + 0x1C108
def C_CORE_MC_CELLS (n : Nat) : Nat := spar n + 0x1C110
def C_CORE_WALL_UNDERRUN (n : Nat) : Nat := spar n + 0x1C118
def C_CORE_TAB_GAP_DROP (n : Nat) : Nat := spar n + 0x1C120
def C_CORE_TAB_BAD (n : Nat) : Nat := spar n + 0x1C128
def C_CORE_IN_DROP (n : Nat) : Nat := spar n + 0x1C130
def C_CORE_REORDER_REFUSE (n : Nat) : Nat := spar n + 0x1C138
def C_CORE_WINDOW_STALL (n : Nat) : Nat := spar n + 0x1C140
def C_CORE_HOLE_CELLS (n : Nat) : Nat := spar n + 0x1C148
def C_CORE_SEQ_SKIP (n : Nat) : Nat := spar n + 0x1C150
def C_CORE_SEQ_ERR (n : Nat) : Nat := spar n + 0x1C158
def C_EQ_QDROP_GREEN (n : Nat) : Nat := spar n + 0x20100
def C_EQ_QDROP_YELLOW (n : Nat) : Nat := spar n + 0x20108
def C_EQ_QDROP_RED (n : Nat) : Nat := spar n + 0x20110
def C_EQ_MC_COPY_DROP (n : Nat) : Nat := spar n + 0x20118
def C_EQ_TTL_DROP (n : Nat) : Nat := spar n + 0x20120
def C_EQ_MGMT_TX (n : Nat) : Nat := spar n + 0x20128
def C_EQ_TAB_TX (n : Nat) : Nat := spar n + 0x20130
def C_TEL_PC_SENT (n : Nat) : Nat := spar n + 0x28100
def C_TEL_PC_DROP (n : Nat) : Nat := spar n + 0x28108
def C_TEL_STAMPS (n : Nat) : Nat := spar n + 0x28110
def C_TEL_STAMP_SKIP (n : Nat) : Nat := spar n + 0x28118
def C_CE_COMMANDS (n : Nat) : Nat := spar n + 0x30100
def C_CE_COMMITS (n : Nat) : Nat := spar n + 0x30108
def C_CE_AB_PREEMPT (n : Nat) : Nat := spar n + 0x30110
def C_CE_AB_FAULT (n : Nat) : Nat := spar n + 0x30118
def C_CE_AB_SWAP (n : Nat) : Nat := spar n + 0x30120
def C_CE_AB_RESET (n : Nat) : Nat := spar n + 0x30128
def C_CE_EXC_CNT (n : Nat) : Nat := spar n + 0x30130
def C_CE_MCHK_CNT (n : Nat) : Nat := spar n + 0x30138
def C_CE_BUSY_ECLK (n : Nat) : Nat := spar n + 0x30140
def C_CE_OUT_BAD (n : Nat) : Nat := spar n + 0x30148
def C_CE_INLET_SKIPS (n : Nat) : Nat := spar n + 0x30150
def C_CE_ENC_PICTURES (n : Nat) : Nat := spar n + 0x30180
def C_CE_ENC_NAL_BYTES (n : Nat) : Nat := spar n + 0x30188
def C_CE_ENC_FALLBACK (n : Nat) : Nat := spar n + 0x30190
def C_CE_ENC_FILLER_BYTES (n : Nat) : Nat := spar n + 0x30198
def C_CE_ENC_STAGE_CAP (n : Nat) : Nat := spar n + 0x301A0
def C_CE_ENC_QP_CLAMP (n : Nat) : Nat := spar n + 0x301A8
def C_CE_DEC_PICTURES (n : Nat) : Nat := spar n + 0x301C0
def C_CE_DEC_CONC_CTUS (n : Nat) : Nat := spar n + 0x301C8
def C_CE_DEC_TAINT_CTUS (n : Nat) : Nat := spar n + 0x301D0
def C_CE_DEC_NAL_DISCARD (n : Nat) : Nat := spar n + 0x301D8
def C_CE_DEC_PS_REFUSED (n : Nat) : Nat := spar n + 0x301E0
def C_CE_DEC_WITHHELD (n : Nat) : Nat := spar n + 0x301E8
def C_CE_DEC_LATE_CLOSE (n : Nat) : Nat := spar n + 0x301F0
def C_CE_DEC_MISSING_REF (n : Nat) : Nat := spar n + 0x301F8
def C_WALL_TILES_SENT (n : Nat) : Nat := spar n + 0x38100
def C_WALL_TILES_UNDERRUN (n : Nat) : Nat := spar n + 0x38108
def C_WALL_FRAMES_SENT (n : Nat) : Nat := spar n + 0x38110
def C_WALL_FRAMES_SKIPPED (n : Nat) : Nat := spar n + 0x38118
def C_WALL_CELLS_LATE (n : Nat) : Nat := spar n + 0x38120
def C_WALL_SHOW_SENT (n : Nat) : Nat := spar n + 0x38128
def C_WALL_NO_PIC_TILES (n : Nat) : Nat := spar n + 0x38130
def C_WALL_SAFE_TILES (n : Nat) : Nat := spar n + 0x38138
def C_WALL_REPEAT_TILES (n : Nat) : Nat := spar n + 0x38140
def C_WALL_MEM_ERR_FRAMES (n : Nat) : Nat := spar n + 0x38148
def C_FMC_CORR_CNT : Nat := 0x400100
def C_FMC_UNCORR_CNT : Nat := 0x400108
def C_FMC_HOLD_BITES : Nat := 0x400110
def C_FMC_RH_RFM : Nat := 0x400118
def C_FMC_RH_THROTTLE : Nat := 0x400120
def C_FMC_PREEMPT : Nat := 0x400128
def C_FMC_RETRAIN_SKIP : Nat := 0x400130
def C_FMC_ISO_REFUSE : Nat := 0x400138
def C_FMC_HOLE_ACCESS : Nat := 0x400140
def C_FMC_SCRUB_PASSES : Nat := 0x400148
def C_HQ_JOBS : Nat := 0x300100
def C_HQ_CQE_POSTED : Nat := 0x300108
def C_HQ_ABORTED : Nat := 0x300110
def C_HQ_RX_FRAMES : Nat := 0x300118
def C_HQ_RX_DROP : Nat := 0x300120
def C_HQ_INJ_FRAMES : Nat := 0x300128
def C_HQ_DB_BAD : Nat := 0x300130
def C_HQ_DISPATCH_STALL : Nat := 0x300138
def C_HQ_DMA_BURSTS : Nat := 0x300140
def C_HQ_REQ_OVF : Nat := 0x300148
def C_HQ_DMA_ERRORS : Nat := 0x300150
def C_STK_HL_REPLAY : Nat := 0x500100
def C_STK_HL_CRC_ERR : Nat := 0x500108
def C_STK_HL_LOST : Nat := 0x500110
def C_STK_PATH_DROP : Nat := 0x500118
def C_STK_HOP_DROP : Nat := 0x500120
def C_STK_MARK_MISSED : Nat := 0x500128
def C_LANE_PRBS_ERR (l : Nat) : Nat := lane l + 0x30
def C_LANE_PRBS_BITS (l : Nat) : Nat := lane l + 0x38
def C_BUF_POOL_EMPTY : Nat := spar 0 + 0x18860
def C_BUF_POOL_BAD_FREE : Nat := spar 0 + 0x18868

/-- The counter pairs of one block: the low-word offset of the first and the number of pairs. -/
structure Span where
  base : Nat
  pairs : Nat
  deriving DecidableEq, Repr

/-- The spans of counters inside a spar (R115, R143, R174, R199, R221, R248, R279, R299, R327, R89), reckoned from its base. -/
def sparSpans : List Span :=
  [ ⟨0x8100, 18⟩, ⟨0x8500, 18⟩, ⟨0x8900, 18⟩, ⟨0x8D00, 18⟩, ⟨0x9100, 18⟩, ⟨0x9500, 18⟩, ⟨0x9900, 18⟩, ⟨0x9D00, 18⟩, ⟨0x10200, 10⟩, ⟨0x10280, 10⟩, ⟨0x10300, 10⟩, ⟨0x10380, 10⟩, ⟨0x10400, 10⟩, ⟨0x10480, 10⟩, ⟨0x10500, 10⟩, ⟨0x10580, 10⟩ ] ++
  [ ⟨0x18100, 10⟩, ⟨0x1C100, 12⟩, ⟨0x20100, 7⟩, ⟨0x28100, 4⟩, ⟨0x30100, 11⟩, ⟨0x30180, 6⟩, ⟨0x301C0, 8⟩, ⟨0x38100, 10⟩, ⟨0x30, 2⟩, ⟨0x1030, 2⟩, ⟨0x2030, 2⟩, ⟨0x3030, 2⟩, ⟨0x4030, 2⟩, ⟨0x5030, 2⟩, ⟨0x6030, 2⟩, ⟨0x7030, 2⟩ ]

/-- The device-wide counters (R349, R373, R436) and spar 0's pool counters (R174). -/
def deviceSpans : List Span := [⟨0x400100, 10⟩, ⟨0x300100, 11⟩, ⟨0x500100, 6⟩, ⟨spar 0 + 0x18860, 2⟩]

/-- `some (lo, isHigh)` where `a` is a word of the counter pair whose low word is at `lo`. -/
def Span.hit? (s : Span) (a : Nat) : Option (Nat × Bool) :=
  if s.base ≤ a ∧ a < s.base + 8 * s.pairs ∧ (a - s.base) % 4 = 0 then
    some (s.base + (a - s.base) / 8 * 8, (a - s.base) % 8 == 4)
  else none

/-- The counter that offset `a` is a word of: the pair's low offset, and whether `a` is its high word. -/
def counterAt? (a : Nat) : Option (Nat × Bool) :=
  if 0x01000000 ≤ a ∧ a < 0x03000000 then
    let n := (a - 0x01000000) / 0x40000
    match sparSpans.findSome? (fun s => s.hit? (a - spar n)) with
    | some (lo, h) => some (spar n + lo, h)
    | none => deviceSpans.findSome? (fun s => s.hit? a)
  else deviceSpans.findSome? (fun s => s.hit? a)

end Reg
end Sys2Proof.Machine
end

