-- ==== Sys2Proof/Machine/Tables.lean ====
section
/-!
DEFINITION. The tables of R453: their sizes, scope and commit class (R140, R175, R223, R249, R328, R350, R354, R385, R387,
R425 and the lane taps of R453), the default entry that an entry without a value of its own has, the key under which the
model keeps an entry, and the fault sources' classes and default severities (R386).
-/
namespace Sys2Proof.Machine

/-- How a table may be written: class L, class B, or not at all. -/
inductive TabCls where
  | L | B | ro
  deriving DecidableEq, Repr

/-- A table: its ID, entry count, words per entry, whether each spar has its own, and its class. -/
structure TabDef where
  id : Nat
  entries : Nat
  words : Nat
  perSpar : Bool
  cls : TabCls
  deriving DecidableEq, Repr

/-- The tables of R453. -/
def tabDefs : List TabDef :=
  [ ⟨0x0301, 8, 24, true, .ro⟩, ⟨0x0501, 256, 9, true, .L⟩, ⟨0x0502, 256, 4, true, .L⟩, ⟨0x0510, 4096, 21, true, .B⟩,
    ⟨0x0511, 4096, 2, true, .B⟩, ⟨0x0512, 2048, 5, true, .B⟩, ⟨0x0520, 1048576, 6, false, .B⟩,
    ⟨0x0521, 65536, 1, false, .B⟩, ⟨0x0522, 524288, 1, false, .B⟩, ⟨0x0601, 4096, 3, false, .B⟩,
    ⟨0x0602, 4096, 2, false, .ro⟩, ⟨0x0801, 72, 4, true, .B⟩, ⟨0x0802, 16, 3, true, .B⟩, ⟨0x0803, 256, 6, true, .B⟩,
    ⟨0x0810, 72, 6, true, .ro⟩, ⟨0x0811, 1152, 2, true, .ro⟩, ⟨0x0812, 1, 16, true, .B⟩, ⟨0x0901, 256, 1, true, .L⟩,
    ⟨0x0902, 64, 5, false, .L⟩, ⟨0x0C01, 4096, 8, true, .B⟩, ⟨0x0C02, 64, 24, true, .B⟩, ⟨0x0C03, 1024, 1544, true, .B⟩,
    ⟨0x0C04, 16, 256, true, .B⟩, ⟨0x0C10, 4096, 4, true, .ro⟩, ⟨0x0D01, 64, 1, false, .B⟩, ⟨0x0E01, 4096, 6, false, .B⟩,
    ⟨0x0E02, 4096, 4, false, .B⟩, ⟨0x0E03, 64, 4, false, .B⟩, ⟨0x0E04, 64, 1, false, .B⟩, ⟨0x0F01, 1152, 1, false, .B⟩,
    ⟨0x1001, 448, 1, false, .B⟩, ⟨0x1201, 1032, 1, false, .L⟩ ]

/-- The table with an ID. -/
def tab? (id : Nat) : Option TabDef := tabDefs.find? (fun t => t.id == id)

/-- The key of an entry: table, spar (0 for a device table), index. -/
def tkey (id spar idx : Nat) : Nat := id * 2 ^ 28 + spar * 2 ^ 20 + idx

/-- The pseudo-table of the parse control stores: index 64·stage + address (R118). -/
def tidParse : Nat := 0x2000
/-- The pseudo-table of the engine control stores (R224). -/
def tidEngine : Nat := 0x2001

/-- The parity bit that makes the 33 bits of an engine microword odd (R228). -/
def oddParity (w : Word) : Word := wd (b2n ((upto 32).foldl (fun a i => a != wbit w i) true))

/-- The fault class of a source (R386); `none` for the reserved sources. -/
def fltClass? (src : Nat) : Option Nat :=
  if src < 13 then some 0 else if src < 26 then some 1 else
  match src with
  | 26 => some 5 | 27 => some 6 | 28 => some 6 | 29 => some 8 | 30 => some 9 | 31 => some 10 | 32 => some 11
  | 33 => some 11 | 34 => some 11 | 35 => some 12 | 36 => some 12 | 37 => some 12 | 38 => some 12 | 39 => some 13
  | 40 => some 14 | 41 => some 14 | 42 => some 15 | 43 => some 15
  | _ => if src < 64 ∨ 448 ≤ src then none else some (3 + (if (src - 64) % 3 = 2 then 4 else (src - 64) % 3))

/-- The default severity of a source (R386): 0 Grey, 1 Amber, 2 Crimson, 3 Black. -/
def fltDefault (src : Nat) : Nat :=
  match src with
  | 12 => 3 | 21 => 3 | 34 => 3 | 36 => 3 | 37 => 3 | 41 => 3
  | 38 => 0
  | 26 => 1 | 27 => 1 | 28 => 1 | 29 => 1 | 30 => 1 | 31 => 1 | 32 => 1 | 35 => 1 | 43 => 1
  | _ => if 44 ≤ src ∧ src < 64 then 0 else 2

/-- The identity colour slot (R310). -/
def identitySlot : List Word :=
  [wd 4096, 0, wd 4096, 0, wd 4096, 0, 0, 0] ++ (upto 1536).map (fun j =>
    let lut := fun (i : Nat) => 64 * i + i / 16
    wd (lut (2 * j % 1024) + lut ((2 * j + 1) % 1024) * 65536))
/-- The bilinear filter set (R306): tap q takes 256 − 4·phase, tap q + 1 takes 4·phase. -/
def bilinearSet : List Word :=
  (upto 64).flatMap (fun h => [0, wd (256 - 4 * h + 4 * h * 1024), 0, wd (256 - 4 * h + 4 * h * 1024)])

/-- The default entry of a table (R175, R223, R306, R310, R344, R385, R387); zeros where the rules give none. -/
def tabDefault (key : Nat) : List Word :=
  let id := key / 2 ^ 28
  let idx := key % 2 ^ 20
  match id with
  | 0x0601 => [wd 1048576, wd 1048576, 0]
  | 0x0801 => [0, 0, 0, wd 1]
  | 0x0802 => [wd 0x1FFFFF, wd 0x1FFFFF, wd 0x1FFFFF]
  | 0x0C03 => identitySlot
  | 0x0C04 => bilinearSet
  | 0x0D01 => [wd 0xFFFF]
  | 0x0F01 => [wd 0x41]
  | 0x1001 => [wd (fltDefault idx)]
  | 0x2000 => [0, 0]
  | 0x2001 => [0]
  | _ => match tab? id with
    | some t => List.replicate t.words 0
    | none => []

end Sys2Proof.Machine
end

