-- ==== Sys2Proof/Machine/Ops.lean ====
section
/-!
DEFINITION. The named operations over the device: registers and their fields, counters, tables, frame memory, the units, the
time base, free values, the interrupt controller with its event registers, and the outcome of a command.
-/
namespace Sys2Proof.Machine

namespace Dev

/-! Registers (R4–R14). -/

/-- The active value at an offset. -/
def rd (d : Dev) (a : Nat) : Word := SMap.get Reg.resetVal d.regs a
/-- The shadow value of a class B register (R44). -/
def rdSh (d : Dev) (a : Nat) : Word := SMap.get Reg.resetVal d.shadow a
/-- The device with an active value set. -/
def wr (d : Dev) (a : Nat) (v : Word) : Dev := { d with regs := SMap.set Reg.resetVal d.regs a v }
/-- The device with a shadow value set. -/
def wrSh (d : Dev) (a : Nat) (v : Word) : Dev := { d with shadow := SMap.set Reg.resetVal d.shadow a v }
/-- The device with one value in both banks. -/
def wrBoth (d : Dev) (a : Nat) (v : Word) : Dev := (d.wr a v).wrSh a v
/-- Bits `[hi:lo]` of an active value. -/
def fget (d : Dev) (a hi lo : Nat) : Nat := fld (d.rd a) hi lo
/-- Bit `i` of an active value. -/
def bget (d : Dev) (a i : Nat) : Bool := wbit (d.rd a) i
/-- The device with bits `[hi:lo]` of an active value replaced. -/
def fset (d : Dev) (a hi lo v : Nat) : Dev := d.wr a (setFld (d.rd a) hi lo v)
/-- The device with bit `i` of an active value replaced. -/
def bset (d : Dev) (a i : Nat) (b : Bool) : Dev := d.fset a i i (b2n b)

/-! Counters (R9, R10): 64 bits, saturating at all ones. -/

/-- A counter's value. -/
def cnt (d : Dev) (a : Nat) : BitVec 64 := SMap.get (fun _ => 0) d.cnts a
/-- A counter set. -/
def cntSet (d : Dev) (a : Nat) (v : BitVec 64) : Dev := { d with cnts := SMap.set (fun _ => 0) d.cnts a v }
/-- A counter advanced by `n`; it stops at all ones (R9). -/
def cntAdd (d : Dev) (a n : Nat) : Dev := d.cntSet a (BitVec.ofNat 64 (min (2 ^ 64 - 1) ((d.cnt a).toNat + n)))
/-- A counter advanced by one. -/
def inc (d : Dev) (a : Nat) : Dev := d.cntAdd a 1
/-- Counters cleared: every pair of a span that starts at `base`. -/
def cntClr (d : Dev) (base pairs : Nat) : Dev :=
  { d with cnts := d.cnts.filter (fun p => !(decide (base ≤ p.1) && decide (p.1 < base + 8 * pairs))) }
/-- The latch of a low-word read (R10). -/
def latchSet (d : Dev) (a : Nat) (v : Word) : Dev := { d with latch := SMap.set (fun _ => 0) d.latch a v }
/-- A 32-bit register counter advanced, saturating (R9). -/
def regInc (d : Dev) (a : Nat) : Dev := d.wr a (wd (min (2 ^ 32 - 1) ((d.rd a).toNat + 1)))

/-! Tables (R44, R45, R451). -/

/-- An entry of the active bank. -/
def tab (d : Dev) (id spar idx : Nat) : List Word := SMap.get tabDefault d.tabs (tkey id spar idx)
/-- An entry of the shadow bank. -/
def tabSh (d : Dev) (id spar idx : Nat) : List Word := SMap.get tabDefault d.shTabs (tkey id spar idx)
/-- An active entry set. -/
def tabSet (d : Dev) (id spar idx : Nat) (ws : List Word) : Dev :=
  { d with tabs := SMap.set tabDefault d.tabs (tkey id spar idx) ws }
/-- A shadow entry set, by key. -/
def shTabPut (d : Dev) (key : Nat) (ws : List Word) : Dev := { d with shTabs := SMap.set tabDefault d.shTabs key ws }
/-- An entry set in both banks. -/
def tabBoth (d : Dev) (id spar idx : Nat) (ws : List Word) : Dev := (d.tabSet id spar idx ws).shTabPut (tkey id spar idx) ws
/-- Bits of word `w` of an active entry. -/
def tf (d : Dev) (id spar idx w hi lo : Nat) : Nat := fld ((d.tab id spar idx).getD w 0) hi lo

/-! Frame memory (R329–R331): a list of byte cells in canonical form; what nothing has written reads 0 (log 3). A command's
stores wait in `stores` until it is done, and its own later reads see them. -/

/-- The byte that the stores of the command under way leave at an address. -/
def storeByte (m : List Host.Cell) : List Store → Nat → Byte
  | [], a => SMap.get (fun _ => 0) m a
  | .lose :: _, _ => 0
  | .put b bs :: ss, a => if b ≤ a ∧ a < b + bs.length then bs.getD (a - b) 0 else storeByte m ss a
/-- One byte of frame memory. -/
def fmByte (d : Dev) (a : Nat) : Byte := storeByte d.fmem.bytes d.stores a
/-- `n` bytes from an address. -/
def fmRead (d : Dev) (a n : Nat) : Bytes := (upto n).map (fun i => d.fmByte (a + i))
/-- The cells with a run of bytes stored. -/
def cellsPut : List Host.Cell → Nat → Bytes → List Host.Cell
  | m, _, [] => m
  | m, a, b :: bs => cellsPut (SMap.set (fun _ => 0) m a b) (a + 1) bs
/-- The cells with stores applied, the oldest first. -/
def cellsStore (m : List Host.Cell) : List Store → List Host.Cell
  | [] => m
  | .lose :: _ => []
  | .put a bs :: ss => cellsPut (cellsStore m ss) a bs
/-- A run of bytes stored; the bursts that it writes whole hold no error any more (R339). -/
def fmWrite (d : Dev) (a : Nat) (bs : Bytes) : Dev :=
  { d with stores := .put a bs :: d.stores
           fmem := { d.fmem with
             bad := d.fmem.bad.filter (fun x => !(decide (a ≤ x * 32) && decide (x * 32 + 32 ≤ a + bs.length)))
             single := d.fmem.single.filter (fun x => !(decide (a ≤ x * 32) && decide (x * 32 + 32 ≤ a + bs.length))) } }
/-- A little-endian word of frame memory. -/
def fmWord (d : Dev) (a : Nat) : Word := wd (leNat (d.fmRead a 4))
/-- `n` little-endian words. -/
def fmWords (d : Dev) (a n : Nat) : List Word := (upto n).map (fun i => d.fmWord (a + 4 * i))
/-- The device when a command that began at `d0` is done: its stores are in frame memory, and the fuses are as they were. -/
def settle (d0 d : Dev) : Dev :=
  { d with fmem := { d.fmem with bytes := cellsStore d0.fmem.bytes d.stores }, stores := [], fuses := d0.fuses }

/-! Clock gating (R26). -/

/-- Is the device in NO_IMAGE (R39)? -/
def noImage (d : Dev) : Bool := d.bget Reg.GLB_IMG_STATUS 7
/-- The table that a window names. -/
def winTab? (d : Dev) (w : Nat) : Option TabDef := tab? (d.fget (Reg.GLB_TW_SEL w) 31 16)
/-- A trigger ungates the blocks of a kind. -/
def ungateIf (d : Dev) (p : Block → Bool) : Dev := { d with gated := d.gated.filter (fun b => !p b) }
/-- A trigger ungates a block. -/
def ungate (d : Dev) (b : Block) : Dev := d.ungateIf (fun x => x == b)
/-- A frame start ungates a spar's parse engine. -/
def ungateParse (d : Dev) (n : Nat) : Dev := d.ungateIf (fun b => match b with | .parse k => k.val == n | _ => false)
/-- A cell for an output that enters an intermediate ungates the output's egress scheduler. -/
def ungateEgress (d : Dev) (o : Nat) : Dev := d.ungateIf (fun b => match b with | .egress k => k.val == o | _ => false)
/-- An inlet item or a job ungates a coding engine. -/
def ungateEngine (d : Dev) (e : Nat) : Dev := d.ungateIf (fun b => match b with | .engine k => k.val == e | _ => false)

/-! The units: each array is a sparse map of what differs from the state at reset. -/

/-- Lane `l`. -/
def lane (d : Dev) (l : Nat) : Lane := SMap.get (fun _ => {}) d.lanes l
/-- Lane `l` changed. -/
def updLane (d : Dev) (l : Nat) (f : Lane → Lane) : Dev := { d with lanes := SMap.upd (fun _ => {}) d.lanes l f }
/-- Logical port `p`. -/
def port (d : Dev) (p : Nat) : Port := SMap.get (fun _ => {}) d.ports p
/-- Logical port `p` changed. -/
def updPort (d : Dev) (p : Nat) (f : Port → Port) : Dev := { d with ports := SMap.upd (fun _ => {}) d.ports p f }
/-- Spar `n`. -/
def spar (d : Dev) (n : Nat) : Spar := SMap.get (fun _ => {}) d.spars n
/-- Spar `n` changed. -/
def updSpar (d : Dev) (n : Nat) (f : Spar → Spar) : Dev := { d with spars := SMap.upd (fun _ => {}) d.spars n f }
/-- Slice `m`. -/
def sliceOf (d : Dev) (m : Nat) : Slice := SMap.get (fun _ => {}) d.slices m
/-- Slice `m` changed. -/
def updSlice (d : Dev) (m : Nat) (f : Slice → Slice) : Dev := { d with slices := SMap.upd (fun _ => {}) d.slices m f }
/-- Engine `e`. -/
def engine (d : Dev) (e : Nat) : Engine := SMap.get (fun _ => {}) d.engines e
/-- Engine `e` changed. -/
def updEngine (d : Dev) (e : Nat) (f : Engine → Engine) : Dev := { d with engines := SMap.upd (fun _ => {}) d.engines e f }
/-- Context `c` of engine `e`. -/
def ctx (d : Dev) (e c : Nat) : Ctx := SMap.get (fun _ => {}) (d.engine e).ctxs c
/-- Context `c` of engine `e` changed. -/
def updCtx (d : Dev) (e c : Nat) (f : Ctx → Ctx) : Dev :=
  d.updEngine e (fun x => { x with ctxs := SMap.upd (fun _ => {}) x.ctxs c f })
/-- The host queues changed. -/
def updHost (d : Dev) (f : HostQ → HostQ) : Dev := { d with host := f d.host }
/-- Submission queue `q`. -/
def sq (d : Dev) (q : Nat) : Sq := SMap.get (fun _ => {}) d.host.sqs q
/-- Submission queue `q` changed. -/
def updSq (d : Dev) (q : Nat) (f : Sq → Sq) : Dev := d.updHost (fun h => { h with sqs := SMap.upd (fun _ => {}) h.sqs q f })
/-- Completion queue `c`. -/
def cq (d : Dev) (c : Nat) : Cq := SMap.get (fun _ => {}) d.host.cqs c
/-- Completion queue `c` changed. -/
def updCq (d : Dev) (c : Nat) (f : Cq → Cq) : Dev := d.updHost (fun h => { h with cqs := SMap.upd (fun _ => {}) h.cqs c f })
/-- Function `f`. -/
def fn (d : Dev) (f : Nat) : Fn := SMap.get (fun _ => {}) d.host.fns f
/-- Function `f` changed. -/
def updFn (d : Dev) (f : Nat) (g : Fn → Fn) : Dev := d.updHost (fun h => { h with fns := SMap.upd (fun _ => {}) h.fns f g })
/-- DMA channel `k`. -/
def dma (d : Dev) (k : Nat) : Dma := SMap.get (fun _ => {}) d.host.dmas k
/-- DMA channel `k` changed. -/
def updDma (d : Dev) (k : Nat) (f : Dma → Dma) : Dev := d.updHost (fun h => { h with dmas := SMap.upd (fun _ => {}) h.dmas k f })
/-- Halyard link of spar `n`. -/
def link (d : Dev) (n : Nat) : Link := SMap.get (fun _ => {}) d.stack.links n
/-- Halyard link of spar `n` changed. -/
def updLink (d : Dev) (n : Nat) (f : Link → Link) : Dev :=
  { d with stack := { d.stack with links := SMap.upd (fun _ => {}) d.stack.links n f } }

/-- Something leaves the device. -/
def emit (d : Dev) (o : Output) : Dev := { d with outs := d.outs ++ [o] }
/-- Several outputs in turn. -/
def emits (d : Dev) (os : List Output) : Dev := { d with outs := d.outs ++ os }

/-- A checker finds a fault: reported when the command is done (R388). -/
def flag (d : Dev) (src detail : Nat) (inj : Bool := false) (grey : Bool := false) (aux : Nat := 0) : Dev :=
  { d with fault := { d.fault with due := d.fault.due ++ [{ src := src, detail := detail, inj := inj, grey := grey, aux := aux }] } }
/-- Is an injection armed for a source (R399)? -/
def armed (d : Dev) (src : Nat) : Bool := d.bget Reg.FLT_INJ 31 && decide (d.fget Reg.FLT_INJ 8 0 = src)
/-- The armed injection's mode: true corrects to a single-bit error in a SECDED checker. -/
def injMode (d : Dev) : Bool := d.bget Reg.FLT_INJ 16
/-- The injection is taken by an access (R399). -/
def disarm (d : Dev) : Dev := d.bset Reg.FLT_INJ 31 false
/-- What an armed injection makes of a checked access of source `src` (R399): the error, whether it was injected. -/
def injected (d : Dev) (src : Nat) (e : Ecc) : Ecc × Bool × Dev :=
  if d.armed src then (if d.injMode then .single else .double, true, d.disarm) else (e, false, d)
/-- A report of a checker that finds an error: an armed injection of its source is taken by the access, and is what it found
(R399, log 118). -/
def flagTaken (d : Dev) (src detail : Nat) : Dev := (if d.armed src then d.disarm else d).flag src detail (d.armed src)

/-! Free values (log 4). -/

/-- A fresh free word, and the device with its counter advanced. -/
def freeWord (d : Dev) : Word × Dev := (Config.freeWord d.freeCtr, { d with freeCtr := d.freeCtr + 1 })

/-! The time base (R60): 0.25 ns units of PTP time, in `timeUnit` ticks each. -/

/-- Ticks in 0.25 ns: thirds of 2⁻¹⁶ of 10⁻⁶. -/
def timeUnit : Nat := 3 * 65536 * 1000000
/-- The time base in 0.25 ns. -/
def now (d : Dev) : Int := d.time.ticks / (timeUnit : Int)
/-- The free-running count of µs (R145, R161). -/
def usCount (d : Dev) : Nat := d.time.cclk / 1500
/-- The low 64 bits of the time base. -/
def nowU (d : Dev) : Nat := unsgn 64 d.now
/-- The time base in whole ns. -/
def nowNs (d : Dev) : Int := d.now / 4
/-- The slot of the cyclic pattern (R176). -/
def slot (d : Dev) : Nat := d.time.cclk % 128
/-- Free-running microseconds of the core clock, for rates that count by it. -/
def cclkNs (d : Dev) : Nat := d.time.cclk * 2 / 3

end Dev

/-! The interrupt controller (R374–R382). -/

/-- The word of a source in a bit vector. -/
def srcWord (s : Nat) : Nat := s / 32

namespace Dev

/-- The enabled bits of an event register, under a mask of bits. -/
def evOn (d : Dev) (ev en mask : Nat) : Bool := (d.rd ev &&& d.rd en &&& wd mask) != 0

/-- The level input of source `128 + 8n + k` (R3). -/
def sparInput (d : Dev) (n k : Nat) : Bool :=
  let ports := (upto 8).map (fun i => 8 * n + i)
  match k with
  | 0 => ports.any (fun p => d.evOn (Reg.MAC_EVENT p) (Reg.MAC_EVENT_EN p) 0x03)
  | 1 => ports.any (fun p => d.evOn (Reg.MAC_EVENT p) (Reg.MAC_EVENT_EN p) 0x1C
            || d.evOn (Reg.LANE_EVENT p) (Reg.LANE_EVENT_EN p) 0x1FF)
  | 2 => d.evOn (Reg.PRS_EVENT n) (Reg.PRS_EVENT_EN n) 0x3F
  | 3 => d.evOn (Reg.BUF_EVENT n) (Reg.BUF_EVENT_EN n) 0xE7 || d.evOn (Reg.CORE_EVENT n) (Reg.CORE_EVENT_EN n) 0x38
          || d.evOn (Reg.EQ_EVENT n) (Reg.EQ_EVENT_EN n) 0x07 || d.evOn (Reg.TEL_EVENT n) (Reg.TEL_EVENT_EN n) 0x01
  | 4 => d.evOn (Reg.BUF_EVENT n) (Reg.BUF_EVENT_EN n) 0x18
  | 5 => d.evOn (Reg.CE_EVENT n) (Reg.CE_EVENT_EN n) 0x01
  | 6 => d.evOn (Reg.CE_EVENT n) (Reg.CE_EVENT_EN n) 0x36
  | _ => d.evOn (Reg.CORE_EVENT n) (Reg.CORE_EVENT_EN n) 0x07 || d.evOn (Reg.WALL_EVENT n) (Reg.WALL_EVENT_EN n) 0x7F

/-- Is a PF completion queue of MODE 2 pending (R371)? -/
def pfCqPending (d : Dev) : Bool :=
  d.host.cqs.any (fun p => p.2.pend && decide (d.tf 0x0E02 0 p.1 2 13 12 = 2) && decide (d.tf 0x0E02 0 p.1 2 10 5 = 0))

/-- The level input of a source (R374); edge and reserved sources read 0. The SMBus match and the stack's relay act as pulses (log 11). -/
def irqInput (d : Dev) (s : Nat) : Bool :=
  if s < 16 then d.fget (Reg.FLT_CLASS_STATE s) 1 0 != 0
  else if 128 ≤ s then decide (s < 1152) && d.sparInput ((s - 128) / 8) ((s - 128) % 8)
  else match s with
  | 16 => d.fget Reg.FLT_STATUS 1 0 != 0
  | 17 => d.evOn Reg.GLB_COMMIT_STATUS Reg.GLB_COMMIT_EN 0xF
  | 18 => d.loader.hostDone && !d.bget Reg.GLB_IMG_STATUS 4
  | 19 => d.fget Reg.GLB_PERIOD_STATUS 4 2 != 0
  | 21 => d.evOn Reg.GLB_ENV_EVENT Reg.GLB_ENV_EVENT_EN 0x1F
  | 22 => d.evOn Reg.STK_EVENT Reg.STK_EVENT_EN 0x7F
  | 23 => d.evOn Reg.PTP_EVENT Reg.PTP_EVENT_EN 0xF
  | 24 => d.evOn Reg.FMC_EVENT Reg.FMC_EVENT_EN 0xFF
  | 25 => d.evOn Reg.HQ_EVENT Reg.HQ_EVENT_EN 0xF || d.evOn Reg.DMA_EVENT Reg.DMA_EVENT_EN 0x7
  | 26 => d.bget Reg.MHI_RTC_CTRL 16 && decide (d.rd Reg.MHI_RTC_SEC = d.rd Reg.MHI_RTC_ALARM)
  | 29 => d.island.pins != 0
  | 27 => d.bget Reg.MHI_UART_STATUS 16 || (!d.island.rx.isEmpty && !d.bget Reg.MHI_UART_CFG 8)
  | 32 => d.pfCqPending
  | _ => false

/-- Is a source's bit set in a bit vector whose word 0 is at `base` with the given stride? -/
def srcBit (d : Dev) (f : Nat → Nat) (s : Nat) : Bool := d.bget (f (srcWord s)) (s % 32)
/-- A source's PEND. -/
def pendOf (d : Dev) (s : Nat) : Bool := d.srcBit Reg.IRQ_PEND s
/-- A source's ACT. -/
def actOf (d : Dev) (s : Nat) : Bool := d.srcBit Reg.IRQ_ACTIVE s
/-- A source's MASK. -/
def maskOf (d : Dev) (s : Nat) : Bool := d.srcBit Reg.IRQ_MASK s
/-- A source's PRIO (R385). -/
def prioOf (d : Dev) (s : Nat) : Nat := d.tf 0x0F01 0 s 0 3 0
/-- A source's target (R385). -/
def targetOf (d : Dev) (s : Nat) : Nat := d.tf 0x0F01 0 s 0 6 4

/-- Does a source qualify for a claim (R378)? -/
def qualifies (d : Dev) (s : Nat) : Bool := d.pendOf s && !d.maskOf s && decide (0 < d.prioOf s)

/-- The pending sources, in rising order. -/
def pendSrcs (d : Dev) : List Nat :=
  (upto 36).flatMap (fun w =>
    let v := d.rd (Reg.IRQ_PEND w)
    if v = 0 then [] else ((upto 32).filter (fun j => wbit v j)).map (fun j => 32 * w + j))

/-- The sources that qualify for target `t`, in rising order. -/
def claimables (d : Dev) (t : Nat) : List Nat :=
  d.pendSrcs.filter (fun s => d.qualifies s && decide (d.targetOf s = t))

/-- Of a list in rising order, the source of highest priority, the lowest among equals (R378). -/
def bestOf (d : Dev) : List Nat → Option Nat
  | [] => none
  | s :: ss => match bestOf d ss with
    | none => some s
    | some r => if d.prioOf s < d.prioOf r then some r else some s

/-- Moderation state of a target. -/
def target (d : Dev) (t : Nat) : Target := SMap.get (fun _ => {}) d.irq.targets t
/-- Moderation state changed. -/
def updTarget (d : Dev) (t : Nat) (f : Target → Target) : Dev :=
  { d with irq := { d.irq with targets := SMap.upd (fun _ => {}) d.irq.targets t f } }
/-- The request of a target (R380): D while EN is 1. -/
def request (d : Dev) (t : Nat) : Bool := (d.target t).d && d.bget (Reg.IRQ_TGT_CFG t) 31

/-- An MSI-X message by host state (R365, R382). Vector masks and enables are the host's; a message that must wait is held. -/
def msix (d : Dev) (f v : Nat) : Dev :=
  let x := d.fn f
  if x.allMasked || !x.unmasked.contains v then
    d.updFn f (fun y => { y with pba := if y.pba.contains v then y.pba else y.pba ++ [v] })
  else
    let held := d.updHost (fun h => { h with heldMsix := if h.heldMsix.contains (f, v) then h.heldMsix
                                                          else h.heldMsix ++ [(f, v)] })
    match d.host.link with
    | .l2 => if d.host.wake then held else (held.updHost (fun h => { h with wake := true })).emit (.wakeLine true)
    | .down => held
    | .l1 => if x.d3 then (held.updFn f (fun y => { y with pme := true })).emit (.pme f) else held
    | .l0 => if x.d3 then (held.updFn f (fun y => { y with pme := true })).emit (.pme f) else d.emit (.msix f v)

/-- The outputs of a request that moves from `was` to what it is now (R381, R382). -/
def requestOut (d : Dev) (t : Nat) (was : Bool) : Dev :=
  let isNow := d.request t
  if was = isNow then d
  else if t < 4 then d.emit (.intn t isNow)
  else if isNow then d.msix 0 (t - 4) else d

/-- D of a target re-evaluated (R380): it falls, and the batch is discarded, when nothing is claimable; it rises when U
reaches COUNT, when HOLDOFF is 0, or when an urgent source is claimable. -/
def moderate (d : Dev) (t : Nat) : Dev :=
  let was := d.request t
  let cl := d.claimables t
  let cfg := Reg.IRQ_TGT_CFG t
  let x := d.target t
  let urgent := if d.fget cfg 27 24 = 0 then 16 else d.fget cfg 27 24
  let d1 :=
    if cl.isEmpty then d.updTarget t (fun _ => {})
    else if x.d then d
    else if decide (0 < x.u) && (decide (atLeast1 (d.fget cfg 23 16) ≤ x.u) || decide (d.fget cfg 12 0 = 0))
            || cl.any (fun s => decide (urgent ≤ d.prioOf s)) then
      d.updTarget t (fun _ => { u := 0, d := true, counting := false })
    else d
  d1.requestOut t was

/-- A source came to qualify (R380): counted in U while D is 0, then moderated. -/
def cameToQualify (d : Dev) (s : Nat) : Dev :=
  let t := d.targetOf s
  (if (d.target t).d then d
   else d.updTarget t (fun x => { x with u := min 255 (x.u + 1), counting := true })).moderate t

/-- PEND of a source set (R375, R376); there are 1,152 sources (R374). -/
def pendSet (d : Dev) (s : Nat) : Dev :=
  if d.pendOf s || decide (1152 ≤ s) then d
  else
    let d1 := d.bset (Reg.IRQ_PEND (srcWord s)) (s % 32) true
    if d1.qualifies s then d1.cameToQualify s else d1

/-- PEND of a source cleared; a level source whose input is 1 with ACT 0 is set again (R375). -/
def pendClear (d : Dev) (s : Nat) : Dev :=
  if 1152 ≤ s then d
  else
    let d1 := (d.bset (Reg.IRQ_PEND (srcWord s)) (s % 32) false).moderate (d.targetOf s)
    if d1.irqInput s && !d1.actOf s then d1.pendSet s else d1

/-- A level source evaluated: its input sets PEND while ACT is 0 (R375). -/
def irqSync (d : Dev) (s : Nat) : Dev := if d.irqInput s && !d.actOf s then d.pendSet s else d

/-- A rising edge of an edge source (R375), or a pulse of a level input that nothing holds. -/
def irqEdge (d : Dev) (s : Nat) : Dev := d.pendSet s
/-- A pulse on a level source: ignored while ACT is set (R375, log 11). -/
def irqPulse (d : Dev) (s : Nat) : Dev := if d.actOf s then d else d.pendSet s

/-- Level sources re-evaluated, in order. -/
def irqSyncL (d : Dev) (ss : List Nat) : Dev := ss.foldl irqSync d

/-- The spars that have a register away from its reset value: only these can have an event bit set. -/
def busySpars (d : Dev) : List Nat :=
  ((d.regs.filter (fun p => decide (0x01000000 ≤ p.1))).map (fun p => (p.1 - 0x01000000) / 0x40000)).eraseDups

/-- Every level source re-evaluated: after a swap or a change of enables. -/
def irqSyncAll (d : Dev) : Dev :=
  let ss := upto 33 ++ d.busySpars.flatMap (fun n => (upto 8).map (fun k => 128 + 8 * n + k))
  (upto 8).foldl moderate (d.irqSyncL ss)

/-! Event bits: every bit that sets a level source goes through one of these (R92, R113, R141, R173, R197, R219, R246, R298,
R325, R347, R371, R434, R65, R58). -/

/-- An event bit set, and its source evaluated. -/
def event (d : Dev) (ev i src : Nat) : Dev := (d.bset ev i true).irqSync src
/-- The source of spar `n`, event `k` (R3). -/
def sparSrc (n k : Nat) : Nat := 128 + 8 * n + k
/-- A bit of LANE_EVENT. -/
def laneEvent (d : Dev) (l i : Nat) : Dev := d.event (Reg.LANE_EVENT l) i (sparSrc (l / 8) 1)
/-- A bit of MAC_EVENT. -/
def macEvent (d : Dev) (p i : Nat) : Dev := d.event (Reg.MAC_EVENT p) i (sparSrc (p / 8) (if i < 2 then 0 else 1))
/-- A bit of PRS_EVENT. -/
def prsEvent (d : Dev) (n i : Nat) : Dev := d.event (Reg.PRS_EVENT n) i (sparSrc n 2)
/-- A bit of BUF_EVENT. -/
def bufEvent (d : Dev) (n i : Nat) : Dev := d.event (Reg.BUF_EVENT n) i (sparSrc n (if i = 3 ∨ i = 4 then 4 else 3))
/-- A bit of CORE_EVENT. -/
def coreEvent (d : Dev) (n i : Nat) : Dev := d.event (Reg.CORE_EVENT n) i (sparSrc n (if i < 3 then 7 else 3))
/-- A bit of EQ_EVENT. -/
def eqEvent (d : Dev) (n i : Nat) : Dev := d.event (Reg.EQ_EVENT n) i (sparSrc n 3)
/-- A bit of TEL_EVENT. -/
def telEvent (d : Dev) (n i : Nat) : Dev := d.event (Reg.TEL_EVENT n) i (sparSrc n 3)
/-- A bit of CE_EVENT. -/
def ceEvent (d : Dev) (n i : Nat) : Dev := d.event (Reg.CE_EVENT n) i (sparSrc n (if i = 0 then 5 else 6))
/-- A bit of WALL_EVENT. -/
def wallEvent (d : Dev) (n i : Nat) : Dev := d.event (Reg.WALL_EVENT n) i (sparSrc n 7)
/-- A bit of FMC_EVENT. -/
def fmcEvent (d : Dev) (i : Nat) : Dev := d.event Reg.FMC_EVENT i 24
/-- A bit of HQ_EVENT. -/
def hqEvent (d : Dev) (i : Nat) : Dev := d.event Reg.HQ_EVENT i 25
/-- A bit of DMA_EVENT. -/
def dmaEvent (d : Dev) (i : Nat) : Dev := d.event Reg.DMA_EVENT i 25
/-- A bit of STK_EVENT. -/
def stkEvent (d : Dev) (i : Nat) : Dev := d.event Reg.STK_EVENT i 22
/-- A bit of GLB_ENV_EVENT. -/
def envEvent (d : Dev) (i : Nat) : Dev := d.event Reg.GLB_ENV_EVENT i 21
/-- A bit of PTP_EVENT. -/
def ptpEvent (d : Dev) (i : Nat) : Dev := d.event Reg.PTP_EVENT i 23
/-- A bit of GLB_COMMIT_STATUS. -/
def commitEvent (d : Dev) (i : Nat) : Dev := d.event Reg.GLB_COMMIT_STATUS i 17
/-- A bit of GLB_PERIOD_STATUS that holds source 19. -/
def periodEvent (d : Dev) (i : Nat) : Dev := d.event Reg.GLB_PERIOD_STATUS i 19

/-- HOLDOVER of the period set to a value; each change sets HOLD_CHG (R58). -/
def setHoldover (d : Dev) (b : Bool) : Dev :=
  if d.bget Reg.GLB_PERIOD_STATUS 1 = b then d
  else (d.bset Reg.GLB_PERIOD_STATUS 1 b).periodEvent 4

end Dev

/-- A command's outcome: the device it leaves, the queue as it stood. -/
def done (s : State) (d : Dev) : Host.Outcome State Fault Refusal :=
  .next { toDev := Dev.settle s.toDev d, pending := s.pending }

end Sys2Proof.Machine
end

