-- ==== Sys2Proof/Machine/Cells.lean ====
section
/-!
DEFINITION. Cells and buffer slices: queue numbers, the free stacks, occupancy and reef levels, owners, pause toward ports, the
link and release of cells, and the flush of an output (R109, R111, R144–R159, R182–R189, R196).
-/
namespace Sys2Proof.Machine

/-! Egress queues: port p class c is 9p + c; engine inlet j is 9216 + j; host queue H h is 9344 + h at spar 64; the Halyard
link of spar n is 9410 + n (log 13). -/

/-- The queue of class `c` of logical port `p` (R200). -/
def portQ (p c : Nat) : Nat := 9 * p + c
/-- The inlet queue of engine `j`. -/
def engineQ (j : Nat) : Nat := 9216 + j
/-- Host punt queue `h`. -/
def hostQ (h : Nat) : Nat := 9344 + h
/-- The Halyard link queue of spar `n`. -/
def linkQ (n : Nat) : Nat := 9410 + n
/-- Is it a queue of a logical port? -/
def isPortQ (q : Nat) : Bool := decide (q < 9216)
/-- Is it a Halyard link queue? -/
def isLinkQ (q : Nat) : Bool := decide (9410 ≤ q)
/-- The output spar of a queue. -/
def outSpar (q : Nat) : Nat := if q < 9216 then q / 9 / 8 else if q < 9344 then q - 9216 else if q < 9410 then 64 else q - 9410
/-- Is it a class 8 queue (R182 step 2): a management queue, or the reason 5 host queue? -/
def isMgmtQ (q : Nat) : Bool := (isPortQ q && q % 9 == 8) || q == 9344
/-- The key of a stream at its output: input spar and queue (R180). -/
def streamKey (i q : Nat) : Nat := i * 2 ^ 14 + q

/-! The free-pointer stacks of a slice (R146). -/

/-- General cells free. -/
def Slice.genAvail (x : Slice) : Nat := x.genFree.length + (8192 - x.genFresh)
/-- Management cells free. -/
def Slice.mgmtAvail (x : Slice) : Nat := x.mgmtFree.length + (512 - x.mgmtFresh)
/-- Occupancy: general cells in use (R146). -/
def Slice.occ (x : Slice) : Nat := 7680 - x.genAvail
/-- Management cells in use. -/
def Slice.mgmtUsed (x : Slice) : Nat := 512 - x.mgmtAvail
/-- A pop of the general stack. -/
def Slice.popGen (x : Slice) : Option (Nat × Slice) :=
  match x.genFree with
  | i :: r => some (i, { x with genFree := r })
  | [] => if x.genFresh < 8192 then some (x.genFresh, { x with genFresh := x.genFresh + 1 }) else none
/-- A pop of the management stack. -/
def Slice.popMgmt (x : Slice) : Option (Nat × Slice) :=
  match x.mgmtFree with
  | i :: r => some (i, { x with mgmtFree := r })
  | [] => if x.mgmtFresh < 512 then some (x.mgmtFresh, { x with mgmtFresh := x.mgmtFresh + 1 }) else none
/-- Cell `i` returned to the stack that its MGMT bit names (R146). -/
def Slice.push (x : Slice) (i : Nat) : Slice :=
  match SMap.get? x.cells i with
  | none => x
  | some c =>
    let y := { x with cells := SMap.erase x.cells i }
    if c.mgmt then { y with mgmtFree := i :: y.mgmtFree } else { y with genFree := i :: y.genFree }
/-- The cells freed in a CCLK pushed. -/
def Slice.settled (x : Slice) : Slice := { x.freed.foldl Slice.push x with freed := [] }
/-- The free stacks as an image load leaves them (R146): every cell that is not in use, the lowest on top. -/
def Slice.restack (x : Slice) : Slice :=
  if x.cells.isEmpty then { x with genFree := [], genFresh := 512, mgmtFree := [], mgmtFresh := 0 }
  else
    let free := fun (i : Nat) => (SMap.get? x.cells i).isNone
    { x with genFree := ((upto 7680).map (· + 512)).filter free, genFresh := 8192
             mgmtFree := (upto 512).filter free, mgmtFresh := 512 }

namespace Dev

/-! Reef levels (R152–R154). -/

/-- Threshold `k` (1–3) of slice `m` in cells. -/
def reefThr (d : Dev) (m k : Nat) : Nat :=
  let a := Reg.BUF_REEF_THR m
  7680 * (if k = 1 then d.fget a 9 0 else if k = 2 then d.fget a 19 10 else d.fget a 29 20) / 1024
/-- The level that occupancy `o` gives slice `m`, from the level it had: level k sets at Tk, clears below Tk − HYST. -/
def reefLevel (d : Dev) (m o was : Nat) : Nat :=
  let h := d.fget (Reg.BUF_REEF_HYST m) 12 0
  let on := fun k => decide (d.reefThr m k ≤ o) || (decide (k ≤ was) && decide (d.reefThr m k ≤ o + h))
  if on 3 then 3 else if on 2 then 2 else if on 1 then 1 else 0
/-- The device level: the highest slice level. -/
def devLevel (d : Dev) : Nat := d.slices.foldl (fun a p => max a p.2.level) 0
/-- The actions of levels 1 to `k` at spar `n` (R153). -/
def reefActs (d : Dev) (n k : Nat) : Nat :=
  let a := (d.rd (Reg.BUF_REEF_ACT n)).toNat
  (if 1 ≤ k then bits a 7 0 else 0) ||| (if 2 ≤ k then bits a 15 8 else 0) ||| (if 3 ≤ k then bits a 23 16 else 0)
/-- Is an action bit in force at spar `n`? -/
def reefAct (d : Dev) (n i : Nat) : Bool := bit (d.reefActs n d.devLevel) i
/-- Engine pause at spar `n` (R157). -/
def engPause (d : Dev) (n : Nat) : Bool := d.reefAct n 5

/-! Pause toward ports (R109, R156, R179). -/

/-- The port mode of a spar (R95). -/
def portMode (d : Dev) (n : Nat) : Nat := d.fget (Reg.MAC_SPAR_MODE n) 2 0
/-- Does the breakout name logical port `p` (R95)? -/
def named (d : Dev) (p : Nat) : Bool :=
  match d.portMode (p / 8) with
  | 1 => p % 8 == 0
  | 2 => p % 4 == 0
  | 3 => p % 2 == 0
  | 4 => true
  | 5 => true
  | _ => false
/-- The ports that the breakout names, of the spars that differ from reset. -/
def namedPorts (d : Dev) : List Nat := (d.busySpars.flatMap (fun n => (upto 8).map (fun i => 8 * n + i))).filter d.named
/-- Lanes of a group in a port mode (R68). -/
def groupWidth (mode : Nat) : Nat := match mode with | 1 => 8 | 2 => 4 | 3 => 2 | 4 => 1 | 5 => 1 | 6 => 8 | _ => 0
/-- The rate of a port in Mb/s. -/
def portRate (d : Dev) (p : Nat) : Nat :=
  match d.portMode (p / 8) with | 1 => 1600000 | 2 => 800000 | 3 => 400000 | 4 => 200000 | 5 => 100000 | _ => 0
/-- Is the link of port `p` up? -/
def linkUp (d : Dev) (p : Nat) : Bool := d.bget (Reg.MAC_STATUS p) 0
/-- Is port `p` fenced, by its own fence, a load or Black (R42, R112, R393)? -/
def portFenced (d : Dev) (p : Nat) : Bool := d.bget (Reg.MAC_STATUS p) 4
/-- Does the device hold itself in Black? -/
def inBlack (d : Dev) : Bool := d.bget Reg.FLT_STATUS 0
/-- Is the output of a queue down (R111, R112, R393, R424)? Under Black the management queues stay up. -/
def outDown (d : Dev) (q : Nat) : Bool :=
  if isPortQ q then !d.linkUp (q / 9) || (d.portFenced (q / 9) && !(d.inBlack && q % 9 == 8
      && !d.bget (Reg.MAC_CMD (q / 9)) 0)) || (d.inBlack && q % 9 != 8)
  else if isLinkQ q then !(d.link (q - 9410)).up
  else false
/-- The ports whose link is up, read off the registers that stand away from reset. -/
def upPorts (d : Dev) : List Nat :=
  d.regs.filterMap (fun x =>
    let r := (x.1 - 0x01000000) % 0x40000
    if decide (0x01000000 ≤ x.1) && decide (0x8000 ≤ r) && decide (r < 0xA000) && decide (r % 0x400 = 4) && wbit x.2 0 then
      some (8 * ((x.1 - 0x01000000) / 0x40000) + (r - 0x8000) / 0x400)
    else none)

/-- The live count of an owner (R159): its cells in all slices. -/
def ownerCount (d : Dev) (o : Nat) : Nat :=
  d.slices.foldl (fun a p => a + (p.2.cells.filter (fun c => c.2.owner == o)).length) 0

/-- A PFC frame for one class (R109); the source address is zero (log 14). -/
def pfcBytes (c timer : Nat) : Bytes :=
  let body := beBytes 6 0x0180C2000001 ++ beBytes 6 0 ++ beBytes 2 0x8808 ++ beBytes 2 0x0101 ++ beBytes 2 (2 ^ c)
    ++ (upto 8).flatMap (fun i => beBytes 2 (if i = c then timer else 0)) ++ List.replicate 26 0
  body ++ fcsBytes body
/-- A PFC frame that leaves, counted in TX_PFC. -/
def pfcOut (d : Dev) (p c timer : Nat) : Dev := (d.inc (Reg.C_MAC_TX_PFC p)).emit (.pfc p (pfcBytes c timer))
/-- Is the port sending a frame? -/
def sending (d : Dev) (p : Nat) : Bool := (d.port p).cut.isSome || decide (0 < (d.port p).sendLeft)
/-- A PFC frame of an up port (R109): it leaves at once, or waits for the frame already being sent. -/
def pfcSend (d : Dev) (p c timer : Nat) : Dev :=
  if d.sending p then d.updPort p (fun x => { x with pfcDue := x.pfcDue ++ [(c, timer)] }) else d.pfcOut p c timer
/-- QUANTA of a port; 0 acts as 1. -/
def quanta (d : Dev) (p : Nat) : Nat := atLeast1 (d.fget (Reg.MAC_PFC_CFG p) 15 0)
/-- Does the device signal pause to port `p`: device level, owner, or ingress FIFO (R156, R179)? -/
def wantPause (d : Dev) (p : Nat) : Bool := d.reefAct (p / 8) 4 || (d.port p).ownerPause || (d.spar (p / 8)).inPause
/-- The pause of a port follows its signal: each class of TX_MASK that starts sends QUANTA, each that ends sends 0. -/
def pauseSync (d : Dev) (p : Nat) : Dev :=
  if !d.linkUp p || d.portFenced p then d
  else
    let want := if d.wantPause p then d.fget (Reg.MAC_PFC_CFG p) 23 16 else 0
    let was := (d.port p).txPause
    if want = was then d
    else
      let d1 := d.updPort p (fun x => { x with txPause := want })
      (upto 8).foldl (fun x c =>
        if bit want c && !bit was c then x.pfcSend p c (d.quanta p)
        else if bit was c && !bit want c then x.pfcSend p c 0 else x) d1
/-- The pauses of every up port follow their signals. -/
def pauseSyncAll (d : Dev) : Dev := d.upPorts.foldl pauseSync d

/-- The pause of owner `o` (a port) at its thresholds (R156): starts at XOFF, ends below XON. -/
def ownerSync (d : Dev) (o : Nat) : Dev :=
  if 1024 ≤ o then d
  else
    let n := d.ownerCount o
    let was := (d.port o).ownerPause
    let want := decide (d.tf 0x0601 0 o 1 20 0 ≤ n) || (was && decide (d.tf 0x0601 0 o 2 20 0 ≤ n))
    if want = was then d else (d.updPort o (fun x => { x with ownerPause := want })).pauseSync o

/-- The end of a CCLK at slice `m` (R147, R152): the cells freed in it go back to their stacks, and the peak and the slice level follow the
occupancy. -/
def sliceSettle (d : Dev) (m : Nat) : Dev :=
  let y := (d.sliceOf m).settled
  let o := y.occ
  let d1 := d.updSlice m (fun _ => { y with level := d.reefLevel m o y.level })
  let peak := Reg.BUF_OCC_PEAK m
  if d.fget peak 12 0 < o then d1.fset peak 12 0 o else d1
/-- The end of a CCLK at the slices: the device level changes once, with its events and pauses (R152, R153), and the owners of cells
freed, and those given, follow their counts (R156). -/
def slotEnd (d : Dev) (owners : List Nat) : Dev :=
  let gone := d.slices.flatMap (fun p => p.2.freed.filterMap (fun i => (SMap.get? p.2.cells i).map (·.owner)))
  let was := d.devLevel
  let d1 := (d.slices.map (·.1)).foldl sliceSettle d
  let isNow := d1.devLevel
  let hi := max was isNow
  let d2 := if isNow = was then d1 else
    ((upto 128).foldl (fun y n =>
      if bit (y.reefActs n hi) 0 then y.bufEvent n (if was < isNow then 0 else 1) else y) d1).pauseSyncAll
  (owners ++ gone).eraseDups.foldl ownerSync d2

/-! Release (R149, R150). -/

/-- A descriptor or a free stack of slice `m` accessed: an armed injection of source 65 + 3m is taken (R172, R399). -/
def descCheck (d : Dev) (m : Nat) : Dev :=
  let (err, inj, d1) := d.injected (65 + 3 * m) .good
  match err with
  | .good => d1
  | .single => (d1.inc (Reg.C_BUF_ECC_CORR m)).flag (65 + 3 * m) m inj true
  | .double => d1.flag (65 + 3 * m) m inj

/-- REF of cell `i` of slice `m` decremented `n` times: at zero the cell returns to its stack at the end of the CCLK. More than REF, or a
free cell, raises the slice accounting fault (R150). -/
def decRef (d0 : Dev) (m i n : Nat) : Dev :=
  let d := d0.descCheck m
  match (SMap.get? (d.sliceOf m).cells i).filter (fun c => c.ref != 0) with
  | none => d.flag (65 + 3 * m) m
  | some c =>
    let d1 := if c.ref < n then d.flag (65 + 3 * m) m else d
    let d2 := d1.updSlice m (fun x => { x with
      cells := SMap.put x.cells i { c with ref := c.ref - n }, freed := if c.ref ≤ n then x.freed ++ [i] else x.freed })
    if c.ref ≤ n ∧ c.mc = true then d2.inc (Reg.C_BUF_MC_FREED m) else d2
/-- The pointer of a stored cell (R145), and one more. -/
def homeOf (m i : Nat) : Nat := m * 8192 + i + 1
/-- `n` copies of a multicast cell read at the egress, refused, or dropped at a down port (R150). -/
def copiesGone (d : Dev) (c : Cell) (n : Nat) : Dev :=
  if c.home = 0 ∨ n = 0 then d else d.decRef ((c.home - 1) / 8192) ((c.home - 1) % 8192) n

/-! The input's streams (R180). -/

/-- The next number of stream `q` at input `i`. -/
def seqNext (d : Dev) (i q : Nat) : Nat := SMap.get (fun _ => 0) (d.spar i).seqNext q
/-- The expected number of the stream from `i` at the output of `q` (R185). -/
def seqExp (d : Dev) (i q : Nat) : Nat := SMap.get (fun _ => 0) (d.spar (outSpar q)).expected (streamKey i q)
/-- The expected number set. -/
def setExp (d : Dev) (i q v : Nat) : Dev :=
  d.updSpar (outSpar q) (fun x => { x with expected := SMap.set (fun _ => 0) x.expected (streamKey i q) (v % 1024) })

/-- Are two cells of one frame's stream at their input: queue, group and class, and the port they came from? -/
def sameFlow (c x : Cell) : Bool :=
  x.queue == c.queue && x.group == c.group && (c.group == 0 || x.cls == c.cls) && x.res.inPort == c.res.inPort
/-- The later cells of cell `c`'s frame, in arrival order, marked DISCARD up to its last cell. -/
def markRest (c : Cell) : List Cell → List Cell
  | [] => []
  | x :: cs =>
    if sameFlow c x then
      if x.first then x :: cs
      else if x.last then { x with discard := true, data := [] } :: cs
      else { x with discard := true, data := [] } :: markRest c cs
    else x :: markRest c cs
/-- Does the rest of cell `c`'s frame end in a list of cells that follow it? -/
def endsIn (c : Cell) (cs : List Cell) : Bool := ((cs.filter (sameFlow c)).head?.map (fun x => x.first)).getD false
  || cs.any (fun x => sameFlow c x && x.last)

/-- The input marks DISCARD every later cell of the frame that it has not sent (R148), those still arriving too. -/
def discardRest (d : Dev) (c : Cell) : Dev :=
  if c.last then d
  else d.updSpar c.inSpar (fun x => { x with
    inFifo := markRest c x.inFifo
    entering := if endsIn c x.inFifo then x.entering else x.entering.map (fun e => ({ e with rest := markRest c e.rest } : Entering))
    inject := markRest c x.inject
    outHead := match x.outHead with
      | some h => if h.queue = c.queue ∧ h.group = c.group ∧ !h.first then some { h with discard := true } else some h
      | none => none })

/-! Counting cells that a down output loses (R111). -/

/-- A cell of queue `q` counted in MAC_FLUSH_CNT of its port and class; link queues count in PATH_DROP's place HL_LOST (R423). -/
def countFlush (d : Dev) (q : Nat) : Dev :=
  if isPortQ q then d.regInc (Reg.MAC_FLUSH_CNT (q / 9) (q % 9))
  else if isLinkQ q then d.inc Reg.C_STK_HL_LOST
  else d
/-- Counted `n` times. -/
def countFlushN (d : Dev) (q : Nat) : Nat → Dev
  | 0 => d
  | n + 1 => (d.countFlush q).countFlushN q n

/-! Linking at the intermediate (R147, R148, R186). -/

/-- A HOLE placeholder linked in a cell's place, while the slice has one left of its 64 (R186). -/
def linkHole (d : Dev) (m : Nat) (c : Cell) : Dev :=
  if (d.sliceOf m).holes < 64 then
    let h := { c with hole := true, discard := true, data := [] }
    (d.inc (Reg.C_CORE_HOLE_CELLS m)).updSlice m (fun x =>
      if c.mc then { x with holes := x.holes + 1, mcLists := SMap.upd (fun _ => []) x.mcLists c.cls (· ++ [.hole h]) }
      else { x with holes := x.holes + 1, voq := SMap.upd (fun _ => []) x.voq c.queue (· ++ [.hole h]) })
  else d

/-- A cell stored in slice `m` and linked in its queue or multicast list. -/
def storeCell (d : Dev) (m i : Nat) (c : Cell) (mgmt : Bool) : Dev :=
  let c1 := { c with mgmt := mgmt, stamp := d.usCount % 2 ^ 24, old := false, ref := if c.mc then c.left.length else 1,
                      home := if c.mc then homeOf m i else 0 }
  d.updSlice m (fun x =>
    let y := { x with cells := SMap.put x.cells i c1 }
    if c.mc then { y with mcLists := SMap.upd (fun _ => []) y.mcLists c.cls (· ++ [.cell i]) }
    else { y with voq := SMap.upd (fun _ => []) y.voq c.queue (· ++ [.cell i]) })

/-- A cell takes a pointer of slice `m`: class 8 from the management stack first, then the general one in MGMT_OVER (R158);
with both empty it is discarded under R148. -/
def allocCell (d0 : Dev) (m : Nat) (c : Cell) : Dev :=
  let d := d0.descCheck m
  let x := d.sliceOf m
  let fail := (((d.inc (Reg.C_BUF_ALLOC_FAIL m)).bufEvent m 2).discardRest c).linkHole m c
  match (if c.cls = 8 then x.popMgmt else none) with
  | some (i, y) => (d.updSlice m (fun _ => y)).storeCell m i c true
  | none =>
    match x.popGen with
    | some (i, y) =>
      let d1 := if c.cls = 8 then d.inc (Reg.C_BUF_MGMT_OVER m) else d
      (d1.updSlice m (fun _ => y)).storeCell m i c false
    | none => fail

/-- The cell that crossed stage one in the slot before is linked (R456); one for a down output is dropped (R111). -/
def linkArriving (d : Dev) (m : Nat) : Dev :=
  match (d.sliceOf m).arriving with
  | none => d
  | some c =>
    let d1 := d.updSlice m (fun x => { x with arriving := none })
    if !c.mc && d1.outDown c.queue then (d1.countFlush c.queue).setExp c.inSpar c.queue (c.seq + 1)
    else if c.discard then d1.linkHole m c
    else d1.allocCell m c

/-! The flush of an output (R111, R151, R196). -/

/-- The cell pointers of a list of entries. -/
def vcells (vs : List VEntry) : List Nat := vs.filterMap (fun v => match v with | .cell i => some i | .hole _ => none)
/-- The number of placeholders of a list of entries. -/
def vholes (vs : List VEntry) : Nat := vs.length - (vcells vs).length

/-- One multicast entry without the copy for queue `q`. -/
def mcSkip (q : Nat) (d : Dev) (m i : Nat) : Dev :=
  match SMap.get? (d.sliceOf m).cells i with
  | none => d
  | some c =>
    if c.left.contains q then
      let d1 := d.updSlice m (fun x => { x with cells := SMap.put x.cells i { c with left := c.left.filter (fun y => y != q) } })
      (d1.decRef m i 1).countFlush q
    else d

/-- A multicast placeholder without its copy for queue `q`. -/
def holeWithout (q : Nat) (v : VEntry) : VEntry :=
  match v with
  | .hole c => .hole { c with left := c.left.filter (fun y => y != q) }
  | .cell i => .cell i

/-- Slice `m` unlinks queue `q`: its cells wait for the flush walker, its placeholders are free, its copies are skipped. -/
def unlinkQ (d : Dev) (m q : Nat) : Dev :=
  let x := d.sliceOf m
  let vs := SMap.get (fun _ => []) x.voq q
  let d1 := d.updSlice m (fun y => { y with voq := SMap.erase y.voq q, unlinked := y.unlinked ++ vcells vs
                                            holes := y.holes - vholes vs })
  let d2 := (d1.countFlushN q (vcells vs).length).updSlice m (fun y => { y with
    mcLists := y.mcLists.map (fun p => (p.1, p.2.map (holeWithout q))) })
  (x.mcLists.flatMap (fun p => vcells p.2)).foldl (fun z i => mcSkip q z m i) d2

/-- Has a multicast entry a member left to serve? -/
def mcLive (x : Slice) (v : VEntry) : Bool :=
  match v with
  | .hole c => !c.left.isEmpty
  | .cell i => ((SMap.get? x.cells i).map (fun c => !c.left.isEmpty)).getD false

/-- Multicast entries that no longer name a spar leave their lists; their placeholders are free. -/
def mcPrune (d : Dev) (m : Nat) : Dev :=
  d.updSlice m (fun x =>
    let gone := x.mcLists.flatMap (fun p => p.2.filter (fun v => !mcLive x v))
    let ls := x.mcLists.map (fun p => (p.1, p.2.filter (mcLive x)))
    { x with mcLists := ls.filter (fun p => !p.2.isEmpty), holes := x.holes - vholes gone })

/-- The copies for queue `q` of the multicast cells between stage two and the output's check dropped (R150). -/
def flushCopies (d : Dev) (o q : Nat) : Dev :=
  let mine := (d.spar o).arriving.filter (fun c => c.mc && c.left.contains q)
  let d1 := mine.foldl (fun x c => (if c.hole then x else x.countFlush q).copiesGone c 1) d
  d1.updSpar o (fun y => { y with arriving := (y.arriving.map (fun c =>
    if c.mc then { c with left := c.left.filter (fun z => z != q) } else c)).filter (fun c => !c.mc || !c.left.isEmpty) })
/-- The output side of a flushed queue: staging, the reorder store, the registers between, and the expected numbers. Placeholders are no
cells and are not counted. -/
def flushOutput (d : Dev) (q : Nat) : Dev :=
  let o := outSpar q
  let x := d.spar o
  let mine := fun (c : Cell) => !c.mc && c.queue == q
  let here := (((SMap.get (fun _ => []) x.staging q) ++ x.reorder.filter mine ++ x.arriving.filter mine
    ++ x.checked.filter (fun c => c.queue == q)).filter (fun c => !c.hole)).length
  let d1 := (d.updSpar o (fun y => { y with
    staging := SMap.erase y.staging q
    reorder := y.reorder.filter (fun c => !mine c)
    arriving := y.arriving.filter (fun c => !mine c)
    checked := y.checked.filter (fun c => c.queue != q) })).flushCopies o q
  let d2 := (d1.slices.map (·.1)).foldl (fun z m => (z.unlinkQ m q).mcPrune m) (d1.countFlushN q here)
  ((upto 128).foldl (fun z i =>
    if z.seqExp i q = z.seqNext i q then z else z.setExp i q (z.seqNext i q)) d2).slotEnd []

/-- A tabled cell of port `p` that reaches a down port (R111). -/
def dropTabled (d : Dev) (p : Nat) : Dev :=
  let o := p / 8
  let n := ((d.spar o).tabLane.filter (fun c => c.port == p)).length
  (d.cntAdd (Reg.C_MAC_TX_DOWN_DROP p) n).updSpar o (fun y => { y with tabLane := y.tabLane.filter (fun c => c.port != p) })

/-- The output of port `p` acts as down (R111): its queues from `lo` to `hi` are flushed; a frame being cut through ends. The
deficits of the emptied classes are 0 (R203). -/
def downFlush (d : Dev) (p lo hi : Nat) : Dev :=
  let d1 := (upto (hi + 1 - lo)).foldl (fun z c => z.flushOutput (portQ p (lo + c))) d
  d1.updPort p (fun x => { x with txPause := 0, cut := none, deficit := List.replicate 8 0 })

end Dev
end Sys2Proof.Machine
end

