-- ==== Sys2Proof/Machine/LaneOps.lean ====
section
/-!
DEFINITION. Lane states and what hangs on them: the lane groups, the training walk of R78, the transmit taps of R71 and R72, and
the ports and Halyard links that go up and down with their lanes (R76, R99, R111, R420, R423).
-/
namespace Sys2Proof.Machine

/-! Transmit taps (R71, R72): PRE3, PRE2, PRE1, MAIN, POST1. -/

/-- The five taps of a word laid out as LANE_TX_OVR. -/
def tapsOf (w : Word) : List Int :=
  [sgn 4 (fld w 3 0), sgn 5 (fld w 8 4), sgn 6 (fld w 14 9), (fld w 21 15 : Nat), sgn 5 (fld w 26 22)]
/-- The word of five taps, laid out as LANE_TX_OVR. -/
def tapsWord (ts : List Int) : Word :=
  wd (unsgn 4 (ts.getD 0 0) + unsgn 5 (ts.getD 1 0) * 2 ^ 4 + unsgn 6 (ts.getD 2 0) * 2 ^ 9 + unsgn 7 (ts.getD 3 0) * 2 ^ 15
    + unsgn 5 (ts.getD 4 0) * 2 ^ 22)
/-- The ranges of R71. -/
def tapRanges : List (Int × Int) := [(-4, 4), (-6, 12), (-20, 0), (32, 64), (-12, 0)]
/-- Are five taps inside the ranges, with a sum of magnitudes of at most 64 (R71)? -/
def tapsOk (ts : List Int) : Bool :=
  (ts.zip tapRanges).all (fun p => decide (p.2.1 ≤ p.1) && decide (p.1 ≤ p.2.2))
    && decide (ts.foldl (fun a t => a + t.natAbs) 0 ≤ 64)
/-- The presets 1 to 3 of R72. -/
def presetTaps : Nat → List Int
  | 1 => [0, 0, 0, 64, 0]
  | 2 => [0, 2, -10, 48, -4]
  | _ => [0, 4, -16, 40, -4]
/-- Taps with tap `i` moved by `x`. -/
def tapMove (ts : List Int) (i : Nat) (x : Int) : List Int := ts.set i (ts.getD i 0 + x)

/-- Lane state codes (R78). -/
def lsOff : Nat := 0
def lsLow : Nat := 1
def lsWait : Nat := 2
def lsResume : Nat := 3
def lsTrain : Nat := 4
def lsPartner : Nat := 5
def lsData : Nat := 6
def lsFail : Nat := 7
def lsTest : Nat := 8

namespace Dev

/-- The state code of lane `l`. -/
def laneState (d : Dev) (l : Nat) : Nat := d.fget (Reg.LANE_STATE l) 3 0
/-- Lanes per group at lane `l`'s spar. -/
def widthAt (d : Dev) (l : Nat) : Nat := groupWidth (d.portMode (l / 8))
/-- The lowest lane of the group of lane `l`, which is the number of its port (R95). -/
def groupBase (d : Dev) (l : Nat) : Nat := let w := atLeast1 (d.widthAt l); 8 * (l / 8) + l % 8 / w * w
/-- The lanes of the group whose lowest lane is `p`. -/
def groupLanes (d : Dev) (p : Nat) : List Nat := (upto (d.widthAt p)).map (fun i => p + i)
/-- Is spar `n` a Halyard link (R95)? -/
def isHalyard (d : Dev) (n : Nat) : Bool := d.portMode n == 6
/-- Does the spar's role use the lane, with its port enabled (R78)? -/
def laneUsed (d : Dev) (l : Nat) : Bool :=
  d.isHalyard (l / 8) || (decide (0 < d.widthAt l) && d.bget (Reg.MAC_CFG (d.groupBase l)) 0)
/-- Is a pattern generator or a loopback active on the lane (R87, R88, R91)? A checker alone takes no lane into TEST. -/
def laneTest (d : Dev) (l : Nat) : Bool :=
  let g := d.fget (Reg.LANE_TEST_CTRL l) 3 0
  let p := d.fget (Reg.LANE_TEST_CTRL l) 10 8
  (decide (1 ≤ g) && decide (g ≤ 8)) || (decide (1 ≤ p) && decide (p ≤ 3))

/-! Ports and links with their lanes. -/

/-- Does lane `l` carry data: state DATA, with neither LOS nor LOL asserted (R76)? -/
def laneGood (d : Dev) (l : Nat) : Bool := d.laneState l == lsData && d.fget (Reg.LANE_RX_STATUS l) 1 0 == 0
/-- Do the conditions of R76 and R99 hold for port `p`? -/
def portShould (d : Dev) (p : Nat) : Bool :=
  d.named p && !d.fault.downChips.contains (p / 128) && d.bget (Reg.MAC_CFG p) 0 && (d.groupLanes p).all d.laneGood
    && d.bget (Reg.MAC_STATUS p) 1 && (!d.bget (Reg.MAC_CFG p) 2 || d.bget (Reg.MAC_STATUS p) 2)
/-- Port `p` goes down (R111): LINK_CHG, its queues flushed, its pauses forgotten. -/
def portDown (d : Dev) (p : Nat) : Dev :=
  let d1 := (((d.bset (Reg.MAC_STATUS p) 0 false).fset (Reg.MAC_STATUS p) 15 8 0).updPort p (fun x => { x with pfcDue := [] })).macEvent p 0
  (d1.downFlush p 0 8).dropTabled p
/-- Port `p` comes up (R99): LINK_CHG, and the pauses that are signalled at that moment are announced (R111). -/
def portUp (d : Dev) (p : Nat) : Dev :=
  ((((d.bset (Reg.MAC_STATUS p) 0 true).updPort p (fun x => { x with txPause := 0 })).macEvent p 0).ownerSync p).pauseSync p
/-- The port follows its conditions. -/
def portEval (d : Dev) (p : Nat) : Dev :=
  if d.portShould p && !d.linkUp p then d.portUp p
  else if !d.portShould p && d.linkUp p then d.portDown p else d

/-- The Halyard link of spar `n` goes down (R423): its replay store is freed into HL_LOST, its output acts as down. -/
def linkDown (d : Dev) (n : Nat) : Dev :=
  let x := d.link n
  if !x.up then d
  else
    let lost := x.store.foldl (fun a f => a + if f.2.length < 260 then 0 else (f.2.length - 12) / 288) 0
    let d1 := d.updLink n (fun _ => { heldDown := x.heldDown })
    let d2 := (d1.wr (Reg.STK_HL_STATUS n) 0).cntAdd Reg.C_STK_HL_LOST lost
    (d2.stkEvent 2).flushOutput (linkQ n)
/-- Every unacknowledged frame of a link sent again, from the oldest (R423). -/
def linkResend (d : Dev) (n : Nat) : Dev := (d.link n).store.foldl (fun x f => x.emit (.halyard n f.2)) d
/-- The Halyard link of spar `n` comes up: 448 general and 64 management credits each way (R424). One that was only trained again
resumes from the oldest unacknowledged frame (R423). -/
def linkUpH (d : Dev) (n : Nat) : Dev :=
  let x := d.link n
  if x.up then d.linkResend n
  else if x.heldDown then d
  else (d.updLink n (fun _ => { up := true })).bset (Reg.STK_HL_STATUS n) 31 true
/-- Do the eight lanes of a Halyard spar carry data? -/
def linkData (d : Dev) (n : Nat) : Bool := (upto 8).all (fun i => d.laneGood (8 * n + i))
/-- The port or link of a lane's group follows its lanes. -/
def groupEval (d : Dev) (l : Nat) : Dev :=
  let n := l / 8
  if d.isHalyard n then
    let ls := (upto 8).map (fun i => 8 * n + i)
    if d.linkData n then d.linkUpH n
    else if ls.any (fun k => d.bget (Reg.LANE_RX_STATUS k) 0 || d.bget (Reg.LANE_RX_STATUS k) 1 || d.laneState k == lsFail
        || d.laneState k == lsLow || d.laneState k == lsTest) then d.linkDown n
    else d
  else if 0 < d.widthAt l then d.portEval (d.groupBase l) else d

/-- The port or link of a lane whose LOS or LOL ended, if that was what held it down (R76). -/
def groupClear (d : Dev) (l : Nat) : Dev :=
  let n := l / 8
  if d.isHalyard n then (if d.linkData n && !(d.link n).up then d.linkUpH n else d)
  else if 0 < d.widthAt l then d.portEval (d.groupBase l) else d

/-! The walk of R78. -/

/-- The state code of a lane set, and its port or link after it. -/
def laneTo (d : Dev) (l st : Nat) : Dev := (d.fset (Reg.LANE_STATE l) 3 0 st).groupEval l
/-- The lane of the group from `b` whose transmitter carries index `j`: TX_REV of the lowest lane remaps them (R81, R82). -/
def txLane (d : Dev) (b w j : Nat) : Nat := if d.bget (Reg.LANE_CFG b) 3 then b + (w - 1 - j) else b + j
/-- The transmit lane on which the requests of receive lane `l`, which hears partner lane `j`, go (R82). -/
def requestLane (d : Dev) (l j : Nat) : Nat := let w := atLeast1 (d.widthAt l); d.txLane (d.groupBase l) w (j % w)
/-- TRAIN entered (R78, R79): the training timer runs on inside one attempt, and with it the count of requests; the first request is
to come. -/
def laneTrain (d : Dev) (l : Nat) : Dev :=
  (d.updLane l (fun x => { x with
    timer := true, asked := false, lowSnr := false, sent := if x.timer then x.sent else 0 })).laneTo l lsTrain
/-- May the lane leave WAIT_SIGNAL: LOS deasserted, and auto-negotiation resolved where it runs (R78, R101)? -/
def maySignal (d : Dev) (l : Nat) : Bool :=
  let p := d.groupBase l
  !d.bget (Reg.LANE_RX_STATUS l) 0
    && (d.isHalyard (l / 8) || !d.bget (Reg.MAC_CFG p) 2 || d.bget (Reg.MAC_STATUS p) 2)
/-- WAIT_SIGNAL left where its condition holds (R77, R78). -/
def leaveWait (d : Dev) (l : Nat) : Dev :=
  if d.laneState l = lsWait ∧ d.maySignal l then
    if d.bget (Reg.LANE_TRAIN_CTRL l) 24 && (d.lane l).held then d.laneTo l lsResume else d.laneTrain l
  else d
/-- WAIT_SIGNAL entered, and left at once where LOS is already deasserted (log 15). -/
def laneWait (d : Dev) (l : Nat) : Dev := (d.laneTo l lsWait).leaveWait l
/-- DATA entered: TRAIN_DONE, lock, and coefficients that count as held. -/
def laneData (d : Dev) (l : Nat) : Dev :=
  (((d.updLane l (fun x => { x with held := true, timer := false })).bset (Reg.LANE_RX_STATUS l) 2 true).laneTo l lsData
    ).laneEvent l 2
/-- FAIL entered with a cause (R78): TRAIN_FAIL; the coefficients no longer count as held (R77). -/
def laneFail (d : Dev) (l cause : Nat) : Dev :=
  (((d.fset (Reg.LANE_TRAIN_STATUS l) 11 8 cause).updLane l (fun x => { x with held := false, timer := false })).laneTo l lsFail).laneEvent l 3
/-- A lane starts where its role and port want it (R78): TEST under a test, WAIT_SIGNAL where used, else OFF. -/
def laneStart (d : Dev) (l : Nat) : Dev :=
  if d.laneState l = lsLow then d
  else if d.laneTest l then d.laneTo l lsTest
  else if d.laneUsed l then d.laneWait l else d

/-- The lanes of a group evaluated again in WAIT_SIGNAL, after auto-negotiation resolved. -/
def groupLeaveWait (d : Dev) (p : Nat) : Dev := (d.groupLanes p).foldl leaveWait d
/-- The lanes of a group fall back to WAIT_SIGNAL, after negotiation restarted (R101). -/
def groupToWait (d : Dev) (p : Nat) : Dev :=
  (d.groupLanes p).foldl (fun x l => if 3 ≤ x.laneState l ∧ x.laneState l ≤ 7 then x.laneTo l lsWait else x) d

/-- A free 8-bit pattern read as signed. -/
def free8 (k : Nat) : Int := sgn 8 (Config.freeWord k).toNat

end Dev
end Sys2Proof.Machine
end

