-- ==== Sys2Proof/Machine/Ports.lean ====
section
/-!
DEFINITION. The commands of the MAC/PCS/FEC block: reception and its limits, FEC windows, PFC, fences, auto-negotiation and the
timestamp FIFO (R95–R115).
-/
namespace Sys2Proof.Machine

/-- Is it a MAC control frame (R110): EtherType 0x8808, untagged? -/
def isControl (f : Bytes) : Bool := beAt f 12 2 == 0x8808
/-- Does a frame's FCS check? -/
def fcsGood (f : Bytes) : Bool := decide (4 ≤ f.length) && decide (f.drop (f.length - 4) = fcsBytes (f.take (f.length - 4)))

namespace Dev

/-- MAX_FRAME of a port (R102). -/
def maxFrame (d : Dev) (p : Nat) : Nat := d.fget (Reg.MAC_CFG p) 29 16

/-- Symbol errors that a codeword can have and be corrected (R97). -/
def fecLimit : Nat := 15
/-- Codewords decoded on a port, by their symbol errors (R97, R100): each counted once, and the threshold of the window. -/
def fecCount (d : Dev) (p : Nat) (errs : List Nat) : Dev :=
  let fixed := errs.filter (fun e => decide (0 < e) && decide (e ≤ fecLimit))
  let uncorr := (errs.filter (fun e => decide (fecLimit < e))).length
  let d1 := ((d.cntAdd (Reg.C_MAC_FEC_CORR_CW p) fixed.length).cntAdd (Reg.C_MAC_FEC_CORR_SYM p) fixed.sum).cntAdd
    (Reg.C_MAC_FEC_UNCORR_CW p) uncorr
  let n := (d.port p).fecCount + uncorr
  let hit := decide (atLeast1 (d.fget (Reg.MAC_FEC_THRESH p) 15 0) ≤ n) && !(d.port p).fecFired && decide (0 < uncorr)
  let d2 := d1.updPort p (fun x => { x with
    fecCount := n, fecFired := x.fecFired || hit, cwBad := (errs.getLast?.map (fun e => decide (fecLimit < e))).getD x.cwBad })
  if hit then d2.macEvent p 2 else d2

/-- A control frame consumed (R110); one of another opcode is counted nowhere (log 122). -/
def macControl (d : Dev) (p : Nat) (f : Bytes) (good : Bool) : Dev :=
  if !good then d.inc (Reg.C_MAC_RX_FCS_ERR p)
  else if beAt f 14 2 = 0x0101 then
    let vec := beAt f 16 2 &&& d.fget (Reg.MAC_PFC_CFG p) 31 24
    let st := Reg.MAC_STATUS p
    (upto 8).foldl (fun x c =>
      if bit vec c then x.bset st (8 + c) (beAt f (18 + 2 * c) 2 != 0) else x) (d.inc (Reg.C_MAC_RX_PFC p))
  else if beAt f 14 2 = 0x0001 then d.inc (Reg.C_MAC_RX_PAUSE_IGN p)
  else d

/-- Does the port drop what it receives under a fence (R112)? Black alone lets class 8 reach the host (R393). -/
def rxFenced (d : Dev) (p : Nat) : Bool :=
  d.portFenced p && !(d.inBlack && !d.bget (Reg.MAC_CMD p) 0 && !d.loader.fence)

/-- A memory error of the parse drops its frame (R138, R139). -/
def memErrDrop (d : Dev) (n p : Nat) : Dev := (d.inc (Reg.C_PRS_MEM_ERR_DROP p)).prsEvent n 4
/-- A frame received on port `p` (R98, R102–R104, R106, R110, R112), with the codewords decoded since the last one, of which some
carry it; `shared` says that it begins in the codeword before those. `late` says that its badness shows only after a cut-through
decision could have been taken. One that arrives while the parse engine reloads is dropped there (R138). -/
def frameIn (d : Dev) (p : Nat) (f : Bytes) (late : Bool) (cws : List Codeword) (shared : Bool) : Dev :=
  if !d.named p || !d.linkUp p then d
  else
    let d1 := (d.ungateParse (p / 8)).fecCount p (cws.map (·.errors))
    let hit := cws.any (fun c => c.touches && decide (fecLimit < c.errors)) || (shared && (d.port p).cwBad)
    let good := fcsGood f && !hit
    let lim := d.maxFrame p
    let big := decide (lim < f.length)
    let stays := late && decide (256 < f.length)
    let take := fun (x : Dev) (bs : Bytes) (bad : Bool) =>
      if (x.spar (p / 8)).reloading then x.memErrDrop (p / 8) p
      else x.updSpar (p / 8) (fun y => { y with rx := y.rx ++ [{ bytes := bs, port := p, stamp := d.nowU, bad := bad, res := {} }] })
    if d.rxFenced p then d1.inc (Reg.C_MAC_RX_FENCE_DROP p)
    else if f.length < 64 then d1.inc (Reg.C_MAC_RX_RUNT p)
    else if isControl f && !big then d1.macControl p f good
    else if big then
      let d2 := d1.inc (Reg.C_MAC_RX_OVERSIZE p)
      if stays && !isControl f then take d2 (f.take lim) true else d2
    else if !good then
      let d2 := d1.inc (Reg.C_MAC_RX_FCS_ERR p)
      if stays then take d2 f true else d2
    else take ((d1.inc (Reg.C_MAC_RX_FRAMES_OK p)).cntAdd (Reg.C_MAC_RX_BYTES_OK p) f.length) f false

/-- A FEC window ends, after the codewords of it that carried no frame (R100). -/
def fecWindow (d : Dev) (p : Nat) (cws : List Nat) : Dev :=
  (if d.named p && d.linkUp p then d.fecCount p cws else d).updPort p (fun x => { x with fecCount := 0, fecFired := false })

/-- PFC frames of every class whose pause holds, sent again (R109). -/
def pfcAgain (d : Dev) (p : Nat) : Dev :=
  if d.linkUp p && !d.portFenced p then
    (upto 8).foldl (fun x c => if bit (d.port p).txPause c then x.pfcSend p c (d.quanta p) else x) d
  else d

/-- A port's fence put in force (R112, R42, R393): FENCED, and its output acts as down. -/
def fenceOn (d : Dev) (p : Nat) : Dev :=
  ((((d.bset (Reg.MAC_STATUS p) 4 true).fset (Reg.MAC_STATUS p) 15 8 0).updPort p (fun x => { x with pfcDue := [] })).downFlush p 0 8).dropTabled p
/-- A port's fence lifted where none of its causes is left; the pauses signalled now are announced. -/
def fenceOff (d : Dev) (p : Nat) : Dev :=
  if d.bget (Reg.MAC_CMD p) 0 || d.loader.fence || d.inBlack then d
  else ((d.bset (Reg.MAC_STATUS p) 4 false).updPort p (fun x => { x with txPause := 0 })).pauseSync p
/-- A write of MAC_CMD.FENCE (R112). -/
def fenceWrite (d : Dev) (p : Nat) (on : Bool) : Dev :=
  if !d.named p then d
  else
    let d1 := d.bset (Reg.MAC_CMD p) 0 on
    if on then (if d.rxFenced p then d1 else d1.fenceOn p) else d1.fenceOff p

/-- Negotiation restarted (R101): the base page advertises the one technology of the port's mode, by its rate in Gb/s, with RS-FEC and no
pause. Without AN_EN there is nothing to restart (log 122). -/
def anStart (d : Dev) (p : Nat) : Dev :=
  if d.named p && d.bget (Reg.MAC_CFG p) 2 then
    let d1 := (((d.bset (Reg.MAC_STATUS p) 2 false).bset (Reg.MAC_STATUS p) 3 false).groupToWait p).portEval p
    if d.bget (Reg.MAC_CFG p) 0 then d1.emit (.basePage p (d.portRate p / 1000)) else d1
  else d
/-- The partner's last page, with the rates in Gb/s that it advertises (R101): resolved to the port's mode where that is among them, or
AN_FAIL. -/
def anPage (d : Dev) (p : Nat) (rates : List Nat) : Dev :=
  if d.named p && d.bget (Reg.MAC_CFG p) 2 && d.bget (Reg.MAC_CFG p) 0 && !d.bget (Reg.MAC_STATUS p) 2 then
    if rates.contains (d.portRate p / 1000) then
      (((d.bset (Reg.MAC_STATUS p) 2 true).bset (Reg.MAC_STATUS p) 3 false).groupLeaveWait p).portEval p
    else (d.bset (Reg.MAC_STATUS p) 3 true).macEvent p 1
  else d
/-- The 1 s retry after a failed negotiation (R101). -/
def anAgain (d : Dev) (p : Nat) : Dev := if d.bget (Reg.MAC_STATUS p) 3 then d.anStart p else d

/-- Every counter of MAC block `p` cleared (R115). -/
def macClear (d : Dev) (p : Nat) : Dev :=
  if !d.named p then d
  else (upto 9).foldl (fun x c => x.wr (Reg.MAC_FLUSH_CNT p c) 0) (d.cntClr (Reg.C_MAC_RX_FRAMES_OK p) 18)

/-- A read of MAC_PTP_TX_SEQ (R108). -/
def tsPop (d : Dev) (p : Nat) : Dev :=
  if !d.named p then d.emit (.readData (Reg.MAC_PTP_TX_SEQ p) 0)
  else match (d.port p).tsFifo with
  | [] => d.emit (.readData (Reg.MAC_PTP_TX_SEQ p) 0)
  | (stamp, seq) :: r =>
    let d1 := (d.updPort p (fun x => { x with tsFifo := r })).wr (Reg.MAC_PTP_TX_TS_LO p) (wd stamp)
    (d1.wr (Reg.MAC_PTP_TX_TS_HI p) (wd (stamp >>> 32))).emit (.readData (Reg.MAC_PTP_TX_SEQ p) (wd (2 ^ 31 + seq % 65536)))

end Dev

end Sys2Proof.Machine
end

