-- ==== Sys2Proof/Machine/Parse.lean ====
section
/-!
DEFINITION. The parse engines and classification (R116–R143), and a frame's admission to the ingress FIFO (R103, R155, R179,
R208).
-/
namespace Sys2Proof.Machine

/-- `w` bits of a frame from bit offset `o` in network order. -/
def netBits (f : Bytes) (o w : Nat) : Nat :=
  let n := (o % 8 + w + 7) / 8
  let v := beNat ((f.drop (o / 8)).take n)
  v / 2 ^ (8 * n - o % 8 - w) % 2 ^ w

/-- How a parse goes on or ends. -/
inductive ParseEnd where
  | done
  | depth
  | fail (code : Nat)
  deriving DecidableEq, Repr

/-- What a parse has built: the key's low 296 bits, the flags, the stages executed, the marks (R117, R122, R123, R126). -/
structure Walk where
  key : Nat := 0
  flags : Nat := 0
  stages : Nat := 0
  marks : List Nat := List.replicate 9 255
  deriving DecidableEq, Repr

/-- A copy of an extraction entry applied at header bit offset `hb` (R122); bits above 295 are discarded. -/
def extractCopy (f : Bytes) (hb : Nat) (key : Nat) (c : Word) : Nat :=
  if wbit c 6 then
    let w := fld c 20 16 + 1
    let dst := fld c 15 7
    let v := if wbit c 31 then fld c 30 21 % 2 ^ w else netBits f (hb + fld c 30 21) w
    putBits key (dst + w - 1) dst v % 2 ^ 296
  else key

/-- A 64-bit condition evaluated at header bit offset `hb` (R121). -/
def condHolds (f : Bytes) (hb : Nat) (c : Nat) : Bool :=
  let x := netBits f (hb + bits c 63 54) (bits c 53 50 + 1) &&& bits c 47 32
  let v := bits c 31 16
  match bits c 49 48 with
  | 0 => x == v
  | 1 => x != v
  | 2 => decide (v < x)
  | _ => false

namespace Dev

/-- The parse microword at an address of a stage of spar `n` (R119). -/
def parseWord (d : Dev) (n st a : Nat) : Nat := wide (d.tab tidParse n (256 * st + a))

/-- The highest bit, from the header start, that a stage reads, plus one: its conditions but those that are always 0, its length
field where LMODE is 1, and its copies where XEN is 1 (R121, R122, R124). -/
def stageReach (d : Dev) (n st mw : Nat) : Nat :=
  let cs := d.tab 0x0501 n (16 * st + bits mw 37 34)
  let xs := d.tab 0x0502 n (16 * st + bits mw 21 18)
  let c := (upto 4).map (fun i => let w := wide ((cs.drop (2 * i)).take 2)
                                 if bits w 49 48 = 3 then 0 else bits w 63 54 + bits w 53 50 + 1)
  let l := if bit mw 29 then [bits (wAt cs 8) 31 22 + bits (wAt cs 8) 21 19 + 1] else []
  let x := if bit mw 17 then
      (xs.filter (fun w => wbit w 6 && !wbit w 31)).map (fun w => fld w 30 21 + fld w 20 16 + 1) else []
  (c ++ l ++ x).foldl max 0

/-- The walk from stage `st` at microword address `a` and header byte `h`, with `fuel` stages left (R117–R125). -/
def parseFrom (d : Dev) (n hdrs bytes : Nat) (f : Bytes) : Nat → Nat → Nat → Nat → Walk → Walk × ParseEnd
  | 0, _, _, _, w => (w, .depth)
  | fuel + 1, st, a, h, w =>
    let mw := d.parseWord n st a
    let op := bits mw 47 46
    let reach := 8 * h + d.stageReach n st mw
    if bytes ≤ h ∧ 0 < st then (w, .depth)
    else if op = 2 then ({ w with stages := w.stages + 1 }, .fail (bits mw 41 38))
    else if op = 3 then ({ w with stages := w.stages + 1 }, .fail 13)
    else if 8 * bytes < reach then (w, .depth)
    else if 8 * f.length < reach then (w, .fail 14)
    else
      let cs := d.tab 0x0501 n (16 * st + bits mw 37 34)
      let lw := wAt cs 8
      let len := if bit mw 29 then netBits f (8 * h + bits lw 31 22) (bits lw 21 19 + 1) * 2 ^ bits lw 18 17 + bits mw 28 22
                 else bits mw 28 22
      if 128 < len then ({ w with stages := w.stages + 1 }, .fail 15)
      else
        let xs := if bit mw 17 then d.tab 0x0502 n (16 * st + bits mw 21 18) else []
        let mark := bits mw 16 13
        let w1 : Walk :=
          { key := xs.foldl (extractCopy f (8 * h)) w.key
            flags := w.flags ||| bits mw 12 6
            stages := w.stages + 1
            marks := if 1 ≤ mark ∧ mark ≤ 8 then w.marks.set mark h else w.marks }
        if op = 1 then (w1, .done)
        else if st = 15 ∨ st + 1 = hdrs then (w1, .depth)
        else
          let c := (upto 4).foldl (fun x i =>
            if condHolds f (8 * h) (wide ((cs.drop (2 * i)).take 2)) then x + 2 ^ i else x) 0
          parseFrom d n hdrs bytes f fuel (st + 1) (bits mw 45 38 ||| (c &&& bits mw 33 30)) (h + len) w1

/-- The whole key (R126). -/
def parseKey (p : Nat) (w : Walk) (depth pfail : Bool) : Nat :=
  w.key + b2n pfail * 2 ^ 296 + w.stages * 2 ^ 297 + w.flags % 128 * 2 ^ 302 + b2n depth * 2 ^ 309 + p % 1024 * 2 ^ 310

/-- The rules of spar `n` that have an entry, in rising order. -/
def ruleKeys (d : Dev) (n : Nat) : List Nat :=
  (d.tabs.filter (fun p => decide (tkey 0x0510 n 0 ≤ p.1) && decide (p.1 < tkey 0x0510 n 4096))).map (fun p => p.1 % 2 ^ 20)
/-- The lowest rule that hits a key (R128). -/
def ruleHit (d : Dev) (n key : Nat) : Option Nat :=
  (d.ruleKeys n).find? (fun i =>
    let ws := d.tab 0x0510 n i
    let mask := wide ((ws.drop 10).take 10)
    wbit (ws.getD 20 0) 0 && decide (key &&& mask = wide (ws.take 10) &&& mask))
/-- The exact-match destination of a key (R129): the lowest way whose own row holds it. -/
def exactHit (d : Dev) (key : Nat) : Option Nat :=
  let k := bits key 295 152
  (upto 4).findSome? (fun w =>
    let row := crc32c (beBytes 18 k ++ [by8 w]) % 2 ^ 18
    let ws := d.tab 0x0520 0 (w * 262144 + row)
    if wbit (ws.getD 5 0) 31 && decide (wide (ws.take 4) + fld (ws.getD 4 0) 15 0 * 2 ^ 128 = k)
    then some (fld (ws.getD 5 0) 19 0) else none)

/-! Meters, by the core clock: tokens in parts of 1.5·10⁹ (frames) or 12,000 (bytes at Mb/s). -/

/-- A frame bucket that a frame is metered against: does it pass, and the bucket after (R136, R137, R218). -/
def bucketTake (d : Dev) (b : Bucket) (rate burst : Nat) : Bool × Bucket :=
  let cap := atLeast1 burst * 1500000000
  let t := if b.started then min cap (b.tokens + rate * ((d.time.cclk : Int) - b.upd).toNat) else cap
  if 1500000000 ≤ t then (true, { tokens := t - 1500000000, upd := d.time.cclk, started := true })
  else (false, { tokens := t, upd := d.time.cclk, started := true })

/-- A frame of `len` bytes metered by policer `i` of spar `n` (R134, R135): its colour and the device after. -/
def police (d : Dev) (n i len pre : Nat) : Nat × Dev :=
  let cir := d.tf 0x0512 n i 0 20 0
  let pir := max cir (d.tf 0x0512 n i 1 20 0)
  let cbs := d.tf 0x0512 n i 2 23 0 * 12000
  let pbs := d.tf 0x0512 n i 3 23 0 * 12000
  let x := (SMap.get? (d.spar n).policers i).getD { committed := cbs, peak := pbs, upd := d.time.cclk }
  let dt := ((d.time.cclk : Int) - x.upd).toNat
  let tc := min cbs (x.committed + cir * dt)
  let tp := min pbs (x.peak + pir * dt)
  let b := len * 12000
  let aware := wbit ((d.tab 0x0512 n i).getD 4 0) 1
  let put := fun (c p : Nat) =>
    d.updSpar n (fun y => { y with policers := SMap.put y.policers i { committed := c, peak := p, upd := d.time.cclk } })
  if (aware && decide (2 ≤ pre)) || decide (tp < b) then (2, put tc tp)
  else if (aware && decide (pre = 1)) || decide (tc < b) then (1, put tc (tp - b))
  else (0, put (tc - b) (tp - b))

/-- Devices that the loaded image declares for the stack (R2, R31). -/
def stackSize (d : Dev) : Nat := atLeast1 (d.fget Reg.STK_STATUS 27 24)
/-- The link spar that the path table gives row `r` for stack ID `i` (R425). -/
def path? (d : Dev) (r i : Nat) : Option Nat :=
  if d.tf 0x1201 0 (8 * r + i) 0 7 7 = 1 then some (d.tf 0x1201 0 (8 * r + i) 0 6 0) else none

/-- Where a frame of row `r` for a remote stack ID goes: its link queue, or a drop in PATH_DROP (R425). -/
def remoteQ (d : Dev) (r i : Nat) : Option Nat :=
  match d.path? r i with
  | some sp => if d.portMode sp = 6 then some (linkQ sp) else none
  | none => none

/-- The members of a group (R131): COUNT at most 1,024, none past member 524,287. -/
def groupList (d : Dev) (g : Nat) : List Nat :=
  let e := (d.tab 0x0521 0 g).getD 0 0
  (upto (min 1024 (fld e 29 19))).filterMap (fun k =>
    if fld e 18 0 + k < 524288 then some (d.tf 0x0522 0 (fld e 18 0 + k) 0 19 0) else none)
/-- Is a member one that R130 punts: a local port without a name, the device's own stack ID, or one outside the stack? A pruned member
is skipped before. -/
def memberBad (d : Dev) (prune : Option Nat) (m : Nat) : Bool :=
  match m / 2 ^ 17 with
  | 1 => prune != some (m % 1024) && !d.named (m % 1024)
  | 5 | 6 => m / 1024 % 8 == d.fuses.stackId || decide (d.stackSize ≤ m / 1024 % 8)
  | _ => false
/-- The queues of group `g` for class `c` (R131, R149, R426): local ones without the pruned port, and one link queue for each link that leads
to a remote member. The mask says which remote stack IDs the frame is for. -/
def groupMembers (d : Dev) (row g c : Nat) (prune : Option Nat) (local' : Bool) (mask0 : Nat) : List Nat × Nat :=
  let ms := d.groupList g
  let loc := ms.filterMap (fun m =>
    let p := m % 1024
    match m / 2 ^ 17 with
    | 1 => if prune = some p ∨ !d.named p then none else some (portQ p c)
    | 3 => some (engineQ (m % 128))
    | _ => none)
  let mask := if local' then mask0 else ms.foldl (fun a m =>
    let t := m / 2 ^ 17
    if (t = 5 ∨ t = 6) ∧ !d.memberBad none m then a ||| 2 ^ (m / 1024 % 8) else a) 0
  let links := (((upto 8).filter (fun i => bit mask i)).filterMap (fun i => d.remoteQ row i)).eraseDups
  (loc ++ links, mask)
/-- The remote IDs of a mask that no path leads to are counted (R425). -/
def pathLoss (d : Dev) (row mask : Nat) : Dev :=
  ((upto 8).filter (fun i => bit mask i && (d.remoteQ row i).isNone)).foldl (fun x _ => x.inc Reg.C_STK_PATH_DROP) d

end Dev

/-- Where a frame goes: on with a result, on and for a member of its group to the host too, to the host for a reason, or nowhere, counted in
the counter named. -/
inductive Verdict where
  | go (r : Result)
  | both (r : Result) (reason : Nat)
  | punt (reason : Nat)
  | drop (counter : Nat)
  deriving DecidableEq, Repr

/-- The class of an action (R132): its own, or that of the outermost tag's PCP. -/
def actionClass (d : Dev) (n p : Nat) (f : Bytes) (act : Nat) : Nat :=
  if bit act 37 then
    let tp := beAt f 12 2
    if tp = 0x8100 ∨ tp = 0x88A8 ∨ tp = 0x9100 then
      let k := beAt f 14 2 / 8192
      d.fget (Reg.PRS_PCP_MAP n (p % 8)) (3 * k + 2) (3 * k)
    else d.fget (Reg.PRS_PORT_CFG n (p % 8)) 22 20
  else if bits act 41 38 ≤ 8 then bits act 41 38 else 0

namespace Dev

/-- A destination resolved for input row `n` (R130, R131, R425). -/
def resolve (d : Dev) (n p : Nat) (r : Result) : Verdict :=
  let dest := r.dest
  let port := dest % 1024
  let id := dest / 1024 % 8
  match dest / 2 ^ 17 with
  | 0 => .drop (Reg.C_PRS_RULE_DROP p)
  | 1 => if d.named port then .go { r with queue := portQ port r.cls } else .punt 7
  | 2 =>
    let g := dest % 65536
    if d.tf 0x0521 0 g 0 29 19 = 0 then .punt 8
    else
      let prune := if r.prune then some p else none
      let (ms, mask) := d.groupMembers n g r.cls prune false 0
      let bad := (d.groupList g).any (d.memberBad prune)
      let x := { r with members := ms, stackMask := mask }
      if ms.isEmpty then (if bad then .punt 7 else if mask ≠ 0 then .drop Reg.C_STK_PATH_DROP else .drop (Reg.C_PRS_RULE_DROP p))
      else if bad then .both x 7 else .go x
  | 3 => .go { r with queue := engineQ (dest % 128) }
  | 4 => .punt (if r.cls = 8 then 5 else 3)
  | 5 | 6 =>
    if d.stackSize ≤ id ∨ id = d.fuses.stackId then .punt 7
    else match d.remoteQ n id with
      | some q => .go { r with queue := q }
      | none => .drop Reg.C_STK_PATH_DROP
  | _ => .punt 7

/-- A punt of spar `n` metered by its reason's bucket, and counted on port `p` (R137). -/
def puntTake (d : Dev) (n p reason : Nat) : Bool × Dev :=
  let cfg := Reg.PRS_PUNT_RATE n reason
  let rate := d.fget cfg 23 0
  let (ok, b) := d.bucketTake (SMap.get (fun _ => {}) (d.spar n).puntBuckets reason) rate (d.fget cfg 31 24)
  let d1 := d.updSpar n (fun y => { y with puntBuckets := SMap.set (fun _ => {}) y.puntBuckets reason b })
  if ok && rate != 0 then (true, d1.inc (Reg.C_PRS_PUNT_OK p)) else (false, (d1.inc (Reg.C_PRS_PUNT_DROP p)).prsEvent n 0)
/-- The result of a punt: for the host, under owner 1216 (R137). -/
def Result.punted (r : Result) (why : Nat) : Result :=
  { r with dest := 4 * 2 ^ 17, owner := 1216, reason := why, queue := hostQ (if why = 5 then 0 else 1) }
/-- A destination that comes with a frame from an engine or the host, resolved at input `n`, or none where the frame is dropped: what is
punted goes to the host where its bucket lets it (R130, R137); an invalid member beside valid ones is skipped (log 96). -/
def directly (d : Dev) (n : Nat) (r : Result) : Option Result × Dev :=
  match d.resolve n (8 * n) r with
  | .go x => (some x, d.pathLoss n x.stackMask)
  | .both x _ => (some x, d.pathLoss n x.stackMask)
  | .punt why => let (ok, d1) := d.puntTake n (8 * n) why; (if ok then some (Result.punted r why) else none, d1)
  | .drop c => (none, if c = Reg.C_STK_PATH_DROP then d.inc c else d)

/-- A punt (R137): metered, then queued for the host under owner 1216. A postcard of port p has 1024 + p for its port. -/
def punt (d : Dev) (n : Nat) (f : Frame) (reason cls colour rule : Nat) (marks : List Nat) : Dev :=
  let p := f.port % 1024
  let d1 := if reason = 0 then (d.inc (Reg.C_PRS_NO_MATCH p)).prsEvent n 2 else d
  let (ok, d2) := d1.puntTake n p reason
  let r : Result := { cls := cls, colour := colour, marks := marks, stamp := f.stamp, rule := rule, inPort := f.port }
  if ok then d2.updSpar n (fun y => { y with parsed := y.parsed ++ [{ f with res := Result.punted r reason }] }) else d2

/-- A received frame that Black keeps out (R393). -/
def blackDrop (d : Dev) (p : Nat) : Dev := d.inc (Reg.C_MAC_RX_FENCE_DROP p)

/-- A classified frame goes on: management is metered (R136), the rest policed (R134), a copy punted (R132), the frame queued, punted
or dropped. Under Black only class 8 goes on, to the host under reason 5 (R393). -/
def passOn (d : Dev) (n : Nat) (f : Frame) (act cls rule : Nat) (v : Verdict) (marks : List Nat) : Dev :=
  let pre := min 2 (bits act 36 35)
  let pol := bits act 34 23
  let metered := decide (cls ≠ 8 ∧ 1 ≤ pol ∧ pol < 2048)
  let (ok, d1) :=
    if cls = 8 then
      let cfg := Reg.PRS_MGMT_RATE n
      let (ok, b) := d.bucketTake (d.spar n).mgmtBucket (d.fget cfg 23 0) (d.fget cfg 31 24)
      let e := d.updSpar n (fun y => { y with mgmtBucket := b })
      (ok, if ok then e else (e.inc (Reg.C_PRS_MGMT_DROP f.port)).prsEvent n 3)
    else (true, d)
  let (colour, d2) := if cls = 8 then (0, d1) else if metered then d1.police n pol f.bytes.length pre else (pre, d1)
  let redDrop := metered && decide (colour = 2) && wbit ((d.tab 0x0512 n pol).getD 4 0) 0
  if d.inBlack && cls != 8 then d.blackDrop f.port
  else if !ok then d1
  else if redDrop then d2.inc (Reg.C_PRS_RED_DROP f.port)
  else
    let d3 := if bit act 9 && !d.inBlack then d2.punt n f 4 cls colour rule marks else d2
    match if d.inBlack then .punt 5 else v with
    | .drop c => d3.inc c
    | .punt r => d3.punt n f r cls colour rule marks
    | .go r => (d3.pathLoss n r.stackMask).updSpar n (fun y => { y with parsed := y.parsed ++ [{ f with res := { r with colour := colour } }] })
    | .both r why =>
      ((d3.pathLoss n r.stackMask).updSpar n (fun y => { y with
        parsed := y.parsed ++ [{ f with res := { r with colour := colour } }] })).punt n f why cls colour rule marks

/-- A punt without a winning rule: of class 0, and none under Black (R393). -/
def puntPlain (d : Dev) (n : Nat) (f : Frame) (reason : Nat) (marks : List Nat) : Dev :=
  if d.inBlack then d.blackDrop f.port else d.punt n f reason 0 0 0 marks

/-- Classification of a key (R128–R132). -/
def classify (d : Dev) (n : Nat) (f : Frame) (key : Nat) (marks : List Nat) : Dev :=
  match d.ruleHit n key with
  | none => d.puntPlain n f 0 marks
  | some i =>
    let act := wide (d.tab 0x0511 n i)
    let cls := actionClass d n f.port f.bytes act
    let sel := bits act 43 42
    let em := d.exactHit key
    let owner := if bit act 10 then bits act 22 11 else f.port
    let r : Result := { dest := bits act 63 44, cls := cls, owner := owner, marks := marks, edit := bits act 7 0,
                        stamp := f.stamp, rule := i, prune := bit act 8, inPort := f.port }
    let d0 := if em.isNone && (sel == 0 || sel == 2) then d.inc (Reg.C_PRS_EM_MISS f.port) else d
    let v := if 1217 ≤ owner then .punt 7
      else match sel, em with
        | 0, none => .punt 1
        | 0, some x => d.resolve n f.port { r with dest := x }
        | 2, some x => d.resolve n f.port { r with dest := x }
        | _, _ => d.resolve n f.port r
    d0.passOn n f act cls i v marks

/-- The key of a protected entry of a parse engine; a control store has none. -/
def entryKey? (n : Nat) : ParseWord → Option Nat
  | .store => none
  | .rule i => some (tkey 0x0510 n i)
  | .action i => some (tkey 0x0511 n i)
  | .policer i => some (tkey 0x0512 n i)
  | .exact i => some (tkey 0x0520 0 i)
/-- An entry found with a double-bit error: it stays in error (R139). -/
def entryBad (d : Dev) (n : Nat) (w : ParseWord) : Dev :=
  match entryKey? n w with
  | some k => d.updSpar n (fun y => { y with badEntries := y.badEntries.filter (fun q => q.1 != k) ++ [(k, false)] })
  | none => d
/-- Is an entry that a key reads in error: its rule, action or policer, or the exact-match row that answers, in the table that
all spars share (R139)? -/
def readsBad (d : Dev) (n key : Nat) : Bool :=
  let shared := d.spars.flatMap (fun p => (p.2.badEntries.map (·.1)).filter (fun k => k / 2 ^ 28 == 0x0520))
  let bad := (d.spar n).badEntries.map (·.1) ++ shared
  if bad.isEmpty then false
  else
    let em := bad.any (fun k => decide (k / 2 ^ 28 = 0x0520) &&
      decide ((k % 2 ^ 20) % 262144 = crc32c (beBytes 18 (bits key 295 152) ++ [by8 (k % 2 ^ 20 / 262144)]) % 2 ^ 18))
    let rl := match d.ruleHit n key with
      | none => false
      | some i =>
        let pol := bits (wide (d.tab 0x0511 n i)) 34 23
        bad.contains (tkey 0x0510 n i) || bad.contains (tkey 0x0511 n i) || (decide (0 < pol) && bad.contains (tkey 0x0512 n pol))
    em || rl
/-- Classification of a key whose entries are read with their check bits (R139): an entry in error drops the frame. -/
def classifyChecked (d : Dev) (n : Nat) (f : Frame) (key : Nat) (marks : List Nat) : Dev :=
  if d.readsBad n key then (d.memErrDrop n f.port).flag (64 + 3 * n) n else d.classify n f key marks

/-- The frame that enters stage 0 next (R116): the oldest of the first MAC block with one, from the place that the rotation has reached, and
the frames without it. -/
def rxNext (x : Spar) : Option (Frame × List Frame) :=
  ((upto 8).findSome? (fun k => x.rx.find? (fun f => f.port % 8 == (x.rxTurn + k) % 8))).map (fun f => (f, x.rx.erase f))
/-- The next frame of a spar parsed (R117), with the memory error that its reads find, if they find one (R138, R139): an armed
injection is taken by the control store fetch (R399). -/
def parseHead (d : Dev) (n : Nat) (found : Option (ParseWord × Ecc)) : Dev :=
  match rxNext (d.spar n) with
  | none => d
  | some (f, rest) =>
    let p := f.port
    let d0 := d.updSpar n (fun y => { y with rx := rest, rxTurn := (p + 1) % 8 })
    if (d.spar n).reloading then d0.memErrDrop n p
    else if d0.armed (64 + 3 * n) then ((d0.disarm).memErrDrop n p).flag (64 + 3 * n) n true
    else if found.any (fun q => q.2 != .good && (q.1 == .store || q.2 == .double)) then
      (((match found with | some q => d0.entryBad n q.1 | none => d0).memErrDrop n p).flag (64 + 3 * n) n)
    else
      let d0 := if found.any (fun q => q.2 == .single) then d0.flag (64 + 3 * n) n false true else d0
      let cfg := Reg.PRS_PORT_CFG n (p % 8)
      let hdrs := d0.fget cfg 4 0
      let depth := d0.fget cfg 14 6
      let (w, e) := d0.parseFrom n hdrs depth f.bytes 16 0 (d0.fget cfg 31 24) 0 {}
      match e with
      | .done => d0.classifyChecked n f (parseKey p w false false) w.marks
      | .depth => (d0.inc (Reg.C_PRS_DEPTH_HIT p)).classifyChecked n f (parseKey p w true false) w.marks
      | .fail _ =>
        let d1 := (d0.inc (Reg.C_PRS_PARSE_FAIL p)).prsEvent n 1
        match d0.fget cfg 17 16 with
        | 0 => d1
        | 2 => d1.classifyChecked n f (parseKey p w false true) w.marks
        | _ => d1.puntPlain n f 2 w.marks

/-! The ingress FIFO and admission (R103, R155, R179, R208). -/

/-- The pause signal of a spar's ingress FIFO at its thresholds (R179). -/
def inSync (d : Dev) (n : Nat) : Dev :=
  let x := d.spar n
  let fill := x.inFifo.length
  let cfg := Reg.CORE_IN_THR n
  let want := decide (d.fget cfg 25 16 ≤ fill) || (x.inPause && decide (d.fget cfg 9 0 ≤ fill))
  if want = x.inPause then d
  else (upto 8).foldl (fun y i => y.pauseSync (8 * n + i)) (d.updSpar n (fun y => { y with inPause := want }))

/-- A frame's bytes in runs of 256 (R144). -/
def chunks : Nat → Bytes → List Bytes
  | 0, _ => []
  | k + 1, f => if f.length ≤ 256 then [f] else f.take 256 :: chunks k (f.drop 256)

/-- The cells of a frame that enters at spar `n` (R144, R145, R188); its last cell says whether it is bad. -/
def cellsOf (n : Nat) (r : Result) (f : Bytes) (bad : Bool) : List Cell :=
  let cs := chunks 64 f
  let mc := decide (r.dest / 2 ^ 17 = 2)
  (upto cs.length).map (fun k =>
    { owner := r.owner, first := k == 0, last := k + 1 == cs.length, inSpar := n, queue := r.queue, cls := r.cls, mc := mc,
      data := cs.getD k [], res := { r with len := f.length }, bad := bad && k + 1 == cs.length, left := r.members,
      group := if mc then r.dest % 65536 + 1 else 0 })

/-- The depth of a queue (R184, R200): its cells in the intermediates, the reorder store and staging. -/
def depthOf (d : Dev) (q : Nat) : Nat :=
  let x := d.spar (outSpar q)
  d.slices.foldl (fun a p => a + (vcells (SMap.get (fun _ => []) p.2.voq q)).length) 0
    + (x.reorder.filter (fun c => c.queue == q)).length + (SMap.get (fun _ => []) x.staging q).length

/-- Does the drop profile of a queue refuse a colour (R208)? -/
def profileRefuses (d : Dev) (q colour : Nat) : Bool :=
  if isPortQ q && q % 9 != 8 then
    let sp := outSpar q
    let prof := d.tf 0x0801 sp (q % 72) 3 19 16
    let thr := d.tf 0x0802 sp prof colour 20 0
    decide (thr ≠ 0x1FFFFF) && decide (d.tf 0x0802 sp prof colour 23 22 ≤ d.devLevel) && decide (thr ≤ d.depthOf q)
  else false

/-- Admission of a frame of a result at spar `n` (R155, R208): the counters of a refusal, or none. -/
def refusal (d : Dev) (n : Nat) (r : Result) : Option (Dev → Dev) :=
  if r.cls = 8 then none
  else if d.tf 0x0601 0 r.owner 0 20 0 ≤ d.ownerCount r.owner then some (fun x => x.inc (Reg.C_BUF_OWNER_DROP n))
  else if d.reefAct n (3 - r.colour) then
    some (fun x => x.inc (if r.colour = 0 then Reg.C_BUF_REEF_DROP_GREEN n
      else if r.colour = 1 then Reg.C_BUF_REEF_DROP_YELLOW n else Reg.C_BUF_REEF_DROP_RED n))
  else if r.dest / 2 ^ 17 ≠ 2 ∧ d.profileRefuses r.queue r.colour then
    some (fun x => (x.inc (if r.colour = 0 then Reg.C_EQ_QDROP_GREEN n
      else if r.colour = 1 then Reg.C_EQ_QDROP_YELLOW n else Reg.C_EQ_QDROP_RED n)).eqEvent n 0)
  else none

/-- What is still to come of a frame from port `p` enters the ingress FIFO at once: the port's next frame follows it. -/
def enterRest (d : Dev) (n p : Nat) : Dev :=
  if (d.spar n).entering.any (fun e => e.port == p) then
    d.updSpar n (fun y => { y with
      inFifo := y.inFifo ++ (y.entering.filter (fun e => e.port == p)).flatMap (·.rest), entering := y.entering.filter (fun e => e.port != p) })
  else d
/-- An admitted frame begins to enter the ingress FIFO (R179): a port's by its first cell, with `need` cells reserved for it; one of this
device is there whole. -/
def enterFrame (d : Dev) (n p need : Nat) (cs : List Cell) : Dev :=
  d.updSpar n (fun y =>
    if p < 1024 ∧ 1 < cs.length then
      { y with inFifo := y.inFifo ++ cs.take 1, entering := y.entering ++ [{ port := p, need := need, inn := 1, rest := cs.drop 1 }] }
    else { y with inFifo := y.inFifo ++ cs })
/-- The first cell of a spar's oldest parsed frame offered (R103): room for a whole MAX_FRAME, then admission. -/
def offer (d : Dev) (n : Nat) : Dev :=
  match (d.spar n).parsed with
  | [] => d
  | f :: rest =>
    let d0 := d.updSpar n (fun y => { y with parsed := rest })
    let need := ceilDiv (if f.port < 1024 then d.maxFrame f.port else f.bytes.length) 256
    let d1 := d0.enterRest n f.port
    if f.port < 1024 && d.inBlack && f.res.cls != 8 then d0.blackDrop f.port
    else if 512 < (d1.spar n).inFifo.length + ((d1.spar n).entering.map (fun e => e.need - e.inn)).sum + need then
      (d1.inc (Reg.C_CORE_IN_DROP n)).coreEvent n 3
    else match d1.refusal n f.res with
      | some g => g d1
      | none => (d1.enterFrame n f.port need (cellsOf n f.res f.bytes f.bad)).inSync n

/-- The parse stores reloaded from the copy (R138). -/
def prsReloaded (d : Dev) (n : Nat) : Dev :=
  (d.updSpar n (fun y => { y with reloading := false })).bset (Reg.PRS_STATUS n) 0 false

/-- A parse scrubber reads a word (R138, R139, R399). -/
def parseScrub (d : Dev) (n : Nat) (w : ParseWord) (e : Ecc) : Dev :=
  let src := 64 + 3 * n
  let inj := d.armed src
  let err := if inj then (if d.injMode && w != .store then .single else .double) else e
  let d1 := if inj then d.disarm else d
  match err with
  | .good => d1
  | .single => if w = .store then d1.flag src n inj else d1.flag src n inj true
  | .double => (d1.entryBad n w).flag src n inj

/-- Every PRS_ counter of a spar cleared (R143). -/
def prsClear (d : Dev) (n : Nat) : Dev := (upto 8).foldl (fun x i => x.cntClr (Reg.C_PRS_PARSE_FAIL (8 * n + i)) 10) d

end Dev
end Sys2Proof.Machine
end

