-- ==== Sys2Proof/Machine/Egress.lean ====
section
/-!
DEFINITION. The egress of a port: staging and the end of a frame, header edits, stamps, telemetry and postcards, shapers and the
selection of R202 (R104–R108, R183, R200–R218).
-/
namespace Sys2Proof.Machine

/-! Frames in a staging FIFO. -/

/-- The frame that a cell belongs to, among those that its input sends at one time (R180, R188). -/
def Cell.key (c : Cell) : Nat := if c.mc then c.inSpar * 2 ^ 21 + c.group * 16 + c.cls else c.inSpar * 2 ^ 21

/-- The first frame of key `k` in a list, up to its last cell, and the other cells. -/
def takeFrame (k : Nat) : List Cell → List Cell × List Cell
  | [] => ([], [])
  | c :: cs =>
    if c.key = k then
      if c.last then ([c], cs) else let r := takeFrame k cs; (c :: r.1, r.2)
    else let r := takeFrame k cs; (r.1, c :: r.2)

/-- The cells of the frame of key `k` whose last cell has not come, in a list from the newest cell to the oldest. -/
def openCells (k : Nat) (rev : List Cell) : List Cell := ((rev.filter (fun c => c.key == k)).takeWhile (fun c => !c.last)).reverse

/-- A list, from the newest cell to the oldest, without the cells of the frame of key `k` whose last cell has not come. -/
def dropOpen (k : Nat) : List Cell → List Cell
  | [] => []
  | c :: cs => if c.key = k then (if c.last then c :: cs else dropOpen k cs) else c :: dropOpen k cs

/-- Is a run of cells a whole frame? -/
def wholeFrame (cs : List Cell) : Bool := match cs.getLast? with | some c => c.last | none => false

/-! Header edits (R211). -/

/-- Is it a tag's TPID? -/
def isTpid (x : Nat) : Bool := x == 0x8100 || x == 0x88A8 || x == 0x9100
/-- Outer tags of a frame, at most `n`. -/
def tagCount (b : Bytes) : Nat → Nat
  | 0 => 0
  | n + 1 => if isTpid (beAt b 12 2) then 1 + tagCount (b.take 12 ++ b.drop 16) n else 0

/-- The checksum at `ck` after the run of `n` bytes at `at'` became that of `b1` (RFC 1624); words are aligned to `start`. -/
def sumAfter (b b1 : Bytes) (at' n ck start : Nat) : Nat :=
  let lo := at' - (at' - start) % 2
  let m := (at' + n - lo + 1) / 2 * 2
  let old := slice b lo m
  65535 - fold16 (65535 - beAt b ck 2 + (65535 * ((old.length + 1) / 2) - onesSum old) + onesSum (slice b1 lo m))
/-- A checksum at `ck` kept right when the run at `at'` becomes `v`; words are aligned to `start`. -/
def patchSum (b : Bytes) (at' : Nat) (v : Bytes) (ck start : Nat) : Bytes :=
  let b1 := patch b at' v
  patch b1 ck (beBytes 2 (sumAfter b b1 at' v.length ck start))

/-- The offset of the L3 header of a frame without marks, past at most three tags. -/
def l3At (b : Bytes) : Nat := 14 + 4 * tagCount b 3
/-- The UDP header behind IPv6 headers from `o` on, the first of type `next`: hop-by-hop, routing, destination, fragment and
authentication headers are passed. -/
def udpPast (b : Bytes) : Nat → Nat → Nat → Option Nat
  | 0, _, _ => none
  | k + 1, next, o =>
    if next = 17 then some o
    else if next = 0 ∨ next = 43 ∨ next = 60 then udpPast b k (beAt b o 1) (o + 8 * (beAt b (o + 1) 1 + 1))
    else if next = 51 then udpPast b k (beAt b o 1) (o + 4 * (beAt b (o + 1) 1 + 2))
    else if next = 44 ∧ beAt b (o + 2) 2 / 8 = 0 then udpPast b k (beAt b o 1) (o + 8)
    else none
/-- The offset of the UDP header over an L3 header at `l3`, where it carries UDP; a later fragment carries none. -/
def udpAt (b : Bytes) (l3 : Nat) : Option Nat :=
  if beAt b l3 1 / 16 = 4 ∧ beAt b (l3 + 9) 1 = 17 ∧ beAt b (l3 + 6) 2 % 8192 = 0 then some (l3 + 4 * (beAt b l3 1 % 16))
  else if beAt b l3 1 / 16 = 6 then udpPast b 8 (beAt b (l3 + 6) 1) (l3 + 40)
  else none
/-- A run written into a frame, the checksums of the IPv4 headers and UDP datagrams around it kept right, from the innermost L3 header of
the list outwards (R107, R211). A UDP checksum of 0 stays. -/
def patchIn (b : Bytes) (at' : Nat) (v : Bytes) : List Nat → Bytes
  | [] => patch b at' v
  | l3 :: outer =>
    let b1 := patchIn b at' v outer
    let b2 := if beAt b l3 1 / 16 = 4 ∧ l3 ≤ at' ∧ at' < l3 + 4 * (beAt b l3 1 % 16) then
        patchIn b1 (l3 + 10) (beBytes 2 (sumAfter b b1 at' v.length (l3 + 10) l3)) outer else b1
    match udpAt b l3 with
    | some u => if u + 8 ≤ at' ∧ beAt b (u + 6) 2 ≠ 0 then
        let ck := sumAfter b b2 at' v.length (u + 6) u
        patchIn b2 (u + 6) (if ck = 0 then [0xFF, 0xFF] else beBytes 2 ck) outer
      else b2
    | none => b2
/-- The L3 headers of a frame, the inner one first: by its marks, or where a frame without marks has it. -/
def l3List (b : Bytes) (marks : List Nat) : List Nat :=
  (if marks.getD 5 255 ≠ 255 then [marks.getD 5 255] else []) ++ [if marks.getD 1 255 ≠ 255 then marks.getD 1 255 else l3At b]

/-- A frame under edit: its bytes without the FCS, its marks, and whether TTL_DEC found 0 or 1 (R212). -/
structure Edited where
  body : Bytes
  marks : List Nat
  ttlBad : Bool

/-- A mark moved by popped and pushed tags. -/
def moveMark (pops push m : Nat) : Nat := if m = 255 then 255 else m + 4 * push - 4 * pops

/-- DSCP set at an L3 header (R211 step 5). -/
def setDscp (b : Bytes) (l3 v : Nat) : Bytes :=
  if beAt b l3 1 / 16 = 4 then patchSum b (l3 + 1) [by8 (v * 4 + beAt b (l3 + 1) 1 % 4)] (l3 + 10) l3
  else if beAt b l3 1 / 16 = 6 then
    let x := beAt b l3 2
    patch b l3 (beBytes 2 (x / 4096 * 4096 + v * 64 + x % 64))
  else b

/-- TTL or hop limit decremented at an L3 header; true where it was 0 or 1 (R212). -/
def decTtl (b : Bytes) (l3 : Nat) : Bytes × Bool :=
  if beAt b l3 1 / 16 = 4 then
    let t := beAt b (l3 + 8) 1
    if t < 2 then (b, true) else (patchSum b (l3 + 8) [by8 (t - 1)] (l3 + 10) l3, false)
  else if beAt b l3 1 / 16 = 6 then
    let t := beAt b (l3 + 7) 1
    if t < 2 then (b, true) else (patch b (l3 + 7) [by8 (t - 1)], false)
  else (b, false)

/-- The edits of a profile, in the order of R211 (R211, R212, R223). -/
def editFrame (e : List Word) (b : Bytes) (marks : List Nat) : Edited :=
  let w0 := e.getD 0 0
  let pops := tagCount b (fld w0 4 3)
  let b1 := b.take 12 ++ b.drop (12 + 4 * pops)
  let b2 := if wbit w0 5 then b1.take 12 ++ beBytes 4 (e.getD 1 0).toNat ++ b1.drop 12 else b1
  let b3 := if wbit w0 6 then patch b2 0 (beBytes 6 ((e.getD 2 0).toNat * 65536 + fld (e.getD 3 0) 15 0)) else b2
  let b4 := if wbit w0 7 then patch b3 6 (beBytes 6 (fld (e.getD 3 0) 31 16 * 2 ^ 32 + (e.getD 4 0).toNat)) else b3
  let b5 := if wbit w0 2 && (wbit w0 5 || isTpid (beAt b4 12 2)) then
      patch b4 14 [by8 (fld w0 18 16 * 32 + beAt b4 14 1 % 32)] else b4
  let ms := marks.map (moveMark pops (b2n (wbit w0 5)))
  let l3 := ms.getD 1 255
  let b6 := if wbit w0 1 && l3 != 255 then setDscp b5 l3 (fld w0 15 10) else b5
  let (b7, bad) := if wbit w0 0 && l3 != 255 then decTtl b6 l3 else (b6, false)
  { body := b7, marks := ms, ttlBad := bad }

/-! PTP event messages (R106, R107). -/

/-- The PTP header of a frame: at the mark; for a frame of this device, which no parse has marked, after EtherType 0x88F7 or at
UDP destination port 319 (log 20). -/
def ptpAt (own : Bool) (b : Bytes) (marks : List Nat) : Option Nat :=
  if marks.getD 8 255 ≠ 255 then some (marks.getD 8 255)
  else if own then
    let l3 := l3At b
    if beAt b (l3 - 2) 2 = 0x88F7 then some l3
    else match udpAt b l3 with
      | some u => if beAt b (u + 2) 2 = 319 then some (u + 8) else none
      | none => none
  else none

namespace Dev

/-- The egress's PTP edits of a frame sent on port `p` at `tx` (R106, R108). -/
def ptpEgress (d : Dev) (p tx : Nat) (r : Result) (marks : List Nat) (b : Bytes) : Bytes × Dev :=
  let own := decide (1024 ≤ r.inPort)
  match ptpAt own b marks with
  | none => (b, d)
  | some h =>
    let kind := beAt b h 1 % 16
    if 4 ≤ kind then (b, d)
    else
      let cfg := Reg.MAC_PTP_CFG p
      let l3s := l3List b marks
      let b1 := if own && kind == 0 && d.bget cfg 0 then
          patchIn b (h + 34) (beBytes 6 (tx / 4000000000) ++ beBytes 4 (tx % 4000000000 / 4)) l3s else b
      let b2 := if !own && d.bget cfg 1 then
          patchIn b1 (h + 8) (beBytes 8 ((beAt b1 (h + 8) 8 + (unsgn 64 ((tx : Int) - r.stamp)) * 2 ^ 14) % 2 ^ 64)) l3s else b1
      let d1 := if own && d.bget cfg 2 then
          if 16 ≤ (d.port p).tsFifo.length then (d.inc (Reg.C_MAC_PTP_TS_OVF p)).macEvent p 3
          else d.updPort p (fun x => { x with tsFifo := x.tsFifo ++ [(tx, beAt b (h + 30) 2)] })
        else d
      (b2, d1)

/-! Telemetry (R213–R218). -/

/-- The histogram bin of a sojourn (R215). -/
def histBin (base s : Nat) : Nat := ((upto 15).filter (fun k => decide (base * 2 ^ k ≤ s))).length

/-- A frame counted into its queue's histogram and TX_FRAMES (R215, R223). -/
def telCount (d : Dev) (p q s : Nat) : Dev :=
  let n := p / 8
  let qi := q % 72
  let bin := histBin (atLeast1 (d.fget (Reg.TEL_HIST_CFG n) 15 0)) s
  let v := min (2 ^ 64 - 1) (wide (d.tab 0x0811 n (16 * qi + bin)) + 1)
  let d1 := d.tabSet 0x0811 n (16 * qi + bin) [wd v, wd (v >>> 32)]
  let e := d1.tab 0x0810 n qi
  let t := min (2 ^ 64 - 1) (wide (e.drop 4) + 1)
  d1.tabSet 0x0810 n qi (e.take 4 ++ [wd t, wd (t >>> 32)])

/-- The bytes of a postcard: template, payload, padding, FCS (R217). -/
def postcardBytes (d : Dev) (n p q s tx : Nat) (r : Result) (flags : Nat) : Bytes :=
  let len := d.fget (Reg.TEL_PC_LEN n) 6 0
  let t := (bytesOf (d.tab 0x0812 n 0)).take len
  let pay := [by8 1, by8 flags] ++ beBytes 2 (min r.inPort 1023) ++ beBytes 2 p
    ++ [by8 ((if q % 9 = 8 then 8 else r.cls) * 16 + r.colour * 4), by8 d.fuses.stackId] ++ beBytes 2 r.rule ++ [0, 0]
    ++ beBytes 4 (d.depthOf q) ++ beBytes 4 s ++ beBytes 8 tx ++ beBytes 4 (d.rd (Reg.TEL_PC_SEQ n)).toNat
  let t1 := if d.bget (Reg.TEL_PC_LEN n) 7 then
      let a := patch (patch (patch (patch t 16 (beBytes 2 60)) 24 [0, 0]) 38 (beBytes 2 40)) 40 [0, 0]
      patch a 24 (beBytes 2 (inetSum (slice a 14 20)))
    else t
  let b := t1 ++ pay
  let b1 := b ++ List.replicate (60 - b.length) 0
  b1 ++ fcsBytes b1

/-- A postcard of spar `n` offered to its core input as parse-engine traffic (R216): a port's is charged to the egress port. -/
def postcardSend (d : Dev) (n p : Nat) (bs : Bytes) : Dev :=
  let dest := d.fget (Reg.TEL_PC_DEST n) 19 0
  let cls := d.fget (Reg.TEL_PC_CFG n) 3 1
  let f : Frame := { bytes := bs, port := 1024 + p, stamp := d.nowU, bad := false, res := {} }
  let r : Result := { dest := dest, cls := cls, owner := p, stamp := d.nowU }
  match d.resolve n p r with
  | .go x => (d.pathLoss n x.stackMask).updSpar n (fun y => { y with parsed := y.parsed ++ [{ f with res := x }] })
  | .both x why => ((d.pathLoss n x.stackMask).updSpar n (fun y => { y with parsed := y.parsed ++ [{ f with res := x }] })).punt n f why cls 0 0 r.marks
  | .punt why => d.punt n f why cls 0 0 r.marks
  | .drop c => d.inc c

/-- The postcard decision for a frame sent (R216, R218). -/
def postcard (d : Dev) (p q s tx : Nat) (r : Result) (marked cut stomp : Bool) : Dev :=
  let n := p / 8
  let cfg := Reg.TEL_PC_CFG n
  if !d.bget cfg 0 then d
  else
    let every := d.fget cfg 31 16
    let thr := (d.rd (Reg.TEL_PC_THR n)).toNat
    let cnt := (d.spar n).pcCount + 1
    let byN := marked && every != 0 && decide (every ≤ cnt)
    let slow := decide (thr ≠ 0xFFFFFFFF ∧ thr ≤ s)
    let d1 := if marked && every != 0 then d.updSpar n (fun y => { y with pcCount := if byN then 0 else cnt }) else d
    if byN || slow then
      let rate := d1.fget (Reg.TEL_PC_RATE n) 23 0
      let (ok, b) := d1.bucketTake (d1.spar n).pcBucket rate (d1.fget (Reg.TEL_PC_RATE n) 31 24)
      let d2 := d1.updSpar n (fun y => { y with pcBucket := b })
      if ok && rate != 0 then
        let bs := d2.postcardBytes n p q s tx r (b2n byN + 2 * b2n slow + 4 * b2n cut + 8 * b2n stomp)
        let d3 := d2.wr (Reg.TEL_PC_SEQ n) (d2.rd (Reg.TEL_PC_SEQ n) + 1)
        (d3.inc (Reg.C_TEL_PC_SENT n)).postcardSend n p bs
      else (d2.inc (Reg.C_TEL_PC_DROP n)).telEvent n 0
    else d1

/-! Charges (R203–R206). Credits and the bucket count parts of 1/1,500 bit, so that a CCLK at 1 Mb/s is one of them. -/

/-- The charged length of a frame on port `p` (R206). -/
def charged (d : Dev) (p len : Nat) : Nat :=
  ((len : Int) + sgn 8 (d.fget (Reg.EQ_OVERHEAD (p / 8) (p % 8)) 7 0)).toNat |> atLeast1
/-- IDLE_SLOPE of class `c` of port `p`, in Mb/s. -/
def idleSlope (d : Dev) (p c : Nat) : Nat := d.tf 0x0801 (p / 8) (portQ p c % 72) 0 20 0
/-- Is a class of strict priority (R202)? -/
def strict (d : Dev) (p c : Nat) : Bool := d.bget (Reg.EQ_PORT_CFG (p / 8) (p % 8)) (8 + c)
/-- Is the port shaper on (R205)? -/
def pshape (d : Dev) (p : Nat) : Bool := d.bget (Reg.EQ_PORT_CFG (p / 8) (p % 8)) 0
/-- The port shaper's rate in Mb/s (R220). -/
def pshapeRate (d : Dev) (p : Nat) : Nat :=
  min (atLeast1 (d.fget (Reg.EQ_PORT_RATE (p / 8) (p % 8)) 20 0)) (d.portRate p)

/-- The deficit of a class whose queue has emptied is 0 (R203). -/
def deficitSync (d : Dev) (p q : Nat) : Dev :=
  if q % 9 < 8 ∧ d.depthOf q = 0 then d.updPort p (fun x => { x with deficit := x.deficit.set (q % 9) 0 }) else d
/-- A frame of queue `q` of `len` bytes charged: to the port's bucket, its class's deficit, and the bits that are still to be sent after the
`sent` that a cut-through has sent already. -/
def chargeFrame (d : Dev) (p q len sent : Nat) : Dev :=
  let l := d.charged p len
  let c := q % 9
  let emptied := d.depthOf q == 0
  d.updPort p (fun x => { x with
    bucket := if d.pshape p then x.bucket - l * 12000 else x.bucket
    deficit := if c < 8 && !d.strict p c then x.deficit.set c (if emptied then 0 else x.deficit.getD c 0 - l)
               else if c < 8 && emptied then x.deficit.set c 0 else x.deficit
    sendCls := c
    sendLeft := l * 12000 - sent })

/-- One CCLK of the transmitter and the shapers of port `p` (R204, R205): a frame being sent goes on by what the port rate gives, and its
class pays for just that part of the CCLK. -/
def shaperTick (d : Dev) (p : Nat) : Dev :=
  let rate := d.portRate p
  let x := d.port p
  let part := if x.cut.isSome then rate else min rate x.sendLeft
  let creditOf := fun (c : Nat) =>
    let q := portQ p c
    let now' := x.credit.getD c 0
    let slope : Int := d.idleSlope p c
    let hi := sgn 32 (wAt (d.tab 0x0801 (p / 8) (q % 72)) 1) * 1500
    let lo := sgn 32 (wAt (d.tab 0x0801 (p / 8) (q % 72)) 2) * 1500
    if slope = 0 then now'
    else if x.sendCls = c ∧ 0 < part then max lo (min hi (now' + slope * part / (rate : Int) - part))
    else if d.bget (Reg.MAC_STATUS p) (8 + c) then now'
    else if 0 < d.depthOf q then min hi (now' + slope)
    else if 0 < now' then 0 else min 0 (now' + slope)
  let cs := (upto 8).map creditOf
  let cap : Int := atLeast1 (d.fget (Reg.EQ_PORT_RATE (p / 8) (p % 8)) 31 24) * 8192 * 1500
  let b := if d.pshape p then min cap (x.bucket + d.pshapeRate p) else x.bucket
  if cs = x.credit ∧ b = x.bucket ∧ part = 0 then d
  else d.updPort p (fun y => { y with
    credit := cs, bucket := b, sendLeft := y.sendLeft - part, cut := y.cut.map (fun z => { z with sent := z.sent + part }) })

/-! Sending a frame (R104, R105, R201, R211–R216). -/

/-- A frame of queue `q` sent on port `p`, its first bit at `tx` (R106); `stomp` says that its sending began before it turned out bad, and
`sent` what a cut-through has sent of it. -/
def sendFrame (d : Dev) (p q : Nat) (cells : List Cell) (cut stomp : Bool) (tx sent : Nat) : Dev :=
  let n := p / 8
  let r := (cells.head?.map (·.res)).getD {}
  let raw := cells.flatMap (·.data)
  let e := d.tab 0x0803 n r.edit
  let w0 := e.getD 0 0
  let x := editFrame e (raw.take (raw.length - 4)) r.marks
  let lim := d.maxFrame p
  let big := decide (lim < x.body.length + 4)
  if x.ttlBad && !cut then ((d.inc (Reg.C_EQ_TTL_DROP n)).eqEvent n 2).deficitSync p q
  else if big && !cut then (d.inc (Reg.C_MAC_TX_OVERSIZE_DROP p)).deficitSync p q
  else
    let bad := stomp || x.ttlBad || big
    let b := x.body.take (lim - 4)
    let s := min 0xFFFFFFFF (unsgn 64 ((tx : Int) - r.stamp) / 4)
    let m := x.marks.getD (fld w0 31 28) 255
    let want := wbit w0 8 && m != 255
    let at' := m + fld w0 27 20
    let fits := decide (at' + 4 ≤ b.length)
    let b1 := if want && fits then patchIn b at' (beBytes 4 s) (l3List b x.marks) else b
    let d1 := if want then d.inc (if fits then Reg.C_TEL_STAMPS n else Reg.C_TEL_STAMP_SKIP n) else d
    let (b2, d2) := d1.ptpEgress p tx r x.marks b1
    let out := b2 ++ (if bad then stompBytes b2 else fcsBytes b2)
    let d3 := ((d2.emit (.frame p out)).inc (Reg.C_MAC_TX_FRAMES p)).cntAdd (Reg.C_MAC_TX_BYTES p) out.length
    let d4 := if x.ttlBad then (d3.inc (Reg.C_EQ_TTL_DROP n)).eqEvent n 2
      else if bad then d3.inc (Reg.C_MAC_TX_STOMP p) else d3
    let d5 := if q % 9 = 8 then d4.inc (Reg.C_EQ_MGMT_TX n) else d4
    ((d5.telCount p q s).chargeFrame p q out.length sent).postcard p q s tx r (wbit w0 9) cut bad

/-- A frame being cut through ends: whole, or stomped where it is bad, lost a cell, or was cut off (R104). -/
def cutEnd (d : Dev) (p : Nat) (off : Bool) : Dev :=
  match (d.port p).cut with
  | none => d
  | some x =>
    let d1 := d.updPort p (fun y => { y with cut := none })
    d1.sendFrame p x.queue x.cells true (off || x.cells.any (fun c => c.bad || c.discard)) x.tx x.sent

/-! Entering a staging FIFO. -/

/-- May a frame be cut through at the egress of queue `q`, as its first cell reaches it (R104)? A frame that the port still sends
counts as held by its queue; copies still in the
multicast lists of the slices do not, and a frame from a link is judged by the local port with its ingress port's number (log 122). -/
def mayCut (d : Dev) (q : Nat) (c : Cell) : Bool :=
  let p := q / 9
  let st := SMap.get (fun _ => []) (d.spar (outSpar q)).staging q
  let waits := d.slices.flatMap (fun s => (vcells (SMap.get (fun _ => []) s.2.voq q)).filterMap (SMap.get? s.2.cells))
  let other := fun (x : Cell) => x.key != c.key || x.first
  isPortQ q && c.first && !c.last && c.res.reason == 255 && decide (c.res.inPort < 1024) && d.bget (Reg.MAC_CFG c.res.inPort) 1
    && decide (d.portRate p ≤ d.portRate c.res.inPort) && decide (d.maxFrame c.res.inPort ≤ d.maxFrame p)
    && st.isEmpty && !((d.port p).sendCls == q % 9 && decide (0 < (d.port p).sendLeft))
    && !((d.port p).cut.map (fun x => x.queue == q)).getD false && !waits.any other && !((d.spar (outSpar q)).reorder.any (fun x => x.queue == q && other x))

/-- A cell of queue `q` enters its staging FIFO (R183, R456): appended to the frame being cut through, or held. At the last
cell of a held frame a bad or lost cell drops it (R104, R148); a cell without the start of its frame is dropped (R187). -/
def stageIn (d : Dev) (q : Nat) (c : Cell) : Dev :=
  let o := outSpar q
  let p := q / 9
  let st := SMap.get (fun _ => []) (d.spar o).staging q
  let put := fun (x : Dev) (l : List Cell) => x.updSpar o (fun y => { y with staging := SMap.set (fun _ => []) y.staging q l })
  let cutting := isPortQ q && (match (d.port p).cut with | some x => decide (x.queue = q ∧ x.stream = c.key) | none => false)
  if d.outDown q then (if c.hole then d else d.countFlush q)
  else if cutting then
    let d1 := d.updPort p (fun y => { y with cut := y.cut.map (fun x => { x with cells := x.cells ++ [c] }) })
    if c.last then d1.cutEnd p false else d1
  else if !c.first && (openCells c.key st.reverse).isEmpty then d
  else
    let l := st ++ [{ c with ct := d.mayCut q c }]
    if c.last && (openCells c.key st.reverse ++ [c]).any (fun x => x.bad || x.discard) then
      (put d (dropOpen c.key st.reverse).reverse).deficitSync p q
    else put d l

/-! Selection (R202). -/

/-- The head frame of a queue and the cells behind it. -/
def headFrame (d : Dev) (q : Nat) : List Cell × List Cell :=
  let st := SMap.get (fun _ => []) (d.spar (outSpar q)).staging q
  match st with
  | [] => ([], [])
  | c :: _ => takeFrame c.key st
/-- Is the head frame of a queue there to be sent: whole, or its first cell with cut-through decided? -/
def headReady (d : Dev) (q : Nat) : Bool :=
  let f := (d.headFrame q).1
  wholeFrame f || (f.head?.map (·.ct)).getD false
/-- Is a class queue of port `p` eligible (R202, R204, R205)? -/
def eligible (d : Dev) (p c : Nat) : Bool :=
  d.headReady (portQ p c) && !d.bget (Reg.MAC_STATUS p) (8 + c)
    && (d.idleSlope p c == 0 || decide (0 ≤ (d.port p).credit.getD c 0))
    && (!d.pshape p || decide (0 ≤ (d.port p).bucket))

/-- The length of a frame after its edits (R206), which change its head: by its length as received where its last cell has not come. -/
def editedLen (d : Dev) (n : Nat) (f : List Cell) : Nat :=
  let r := (f.head?.map (·.res)).getD {}
  let raw := f.flatMap (·.data)
  let len := if wholeFrame f then raw.length else max raw.length r.len
  (editFrame (d.tab 0x0803 n r.edit) (raw.take (raw.length - 4)) r.marks).body.length + 4 + (len - raw.length)

/-- The rotation of R203 from the port's place in it: the class that sends, and the port after it. -/
def roundRobin (d : Dev) (p : Nat) : Nat → Port → Option Nat × Port
  | 0, x => (none, x)
  | k + 1, x =>
    let c := x.turn
    let next := { x with turn := (c + 1) % 8, granted := false }
    if d.strict p c || !d.eligible p c then roundRobin d p k next
    else
      let w : Int := atLeast1 (d.tf 0x0801 (p / 8) (portQ p c % 72) 3 15 0) * 64
      let y := if x.granted then x else { x with deficit := x.deficit.set c (x.deficit.getD c 0 + w), granted := true }
      let len := d.editedLen (p / 8) (d.headFrame (portQ p c)).1
      if ((d.charged p len : Nat) : Int) ≤ y.deficit.getD c 0 then (some c, y)
      else roundRobin d p k { y with turn := (c + 1) % 8, granted := false }

/-- The frame at the head of queue `q` sent, or begun where it is cut through and its last cell has not come. -/
def sendHead (d : Dev) (p q : Nat) : Dev :=
  let (f, rest) := d.headFrame q
  let d1 := d.updSpar (outSpar q) (fun y => { y with staging := SMap.set (fun _ => []) y.staging q rest })
  let ct := (f.head?.map (·.ct)).getD false
  if wholeFrame f then d1.sendFrame p q f ct false d.nowU 0
  else d1.updPort p (fun x => { x with
    sendCls := q % 9, sendLeft := 0, cut := some { queue := q, stream := (f.head?.map Cell.key).getD 0, cells := f, tx := d.nowU } })

/-- The tabled frame of port `p` whose last cell came first (R24, R320): its cells, and the lane without them. -/
def tabFrame (p : Nat) (lane : List TabCell) : Option (List TabCell × List TabCell) :=
  match lane.find? (fun c => c.port == p && c.last) with
  | none => none
  | some l =>
    let mine := fun (c : TabCell) => c.port == p && c.inSpar == l.inSpar
    let fs := lane.filter mine
    let k := (fs.takeWhile (fun c => !c.last)).length + 1
    let f := fs.take k
    some (f, lane.filter (fun c => !mine c) ++ fs.drop k)

/-- A tabled frame sent whole, unedited (R24, R211). -/
def sendTabled (d : Dev) (p : Nat) (f rest : List TabCell) : Dev :=
  let bs := f.flatMap (·.data)
  let d1 := d.updSpar (p / 8) (fun y => { y with tabLane := rest })
  let d2 := ((d1.emit (.frame p bs)).inc (Reg.C_MAC_TX_FRAMES p)).cntAdd (Reg.C_MAC_TX_BYTES p) bs.length
  d2.inc (Reg.C_EQ_TAB_TX (p / 8))

/-- The transmitter of port `p` can take a frame (R202): a PFC frame that waits, a tabled frame, then the queues. -/
def portSelect (d : Dev) (p : Nat) : Dev :=
  if !d.linkUp p || (d.port p).cut.isSome then d
  else match (d.port p).pfcDue with
  | (c, timer) :: r => (d.updPort p (fun x => { x with pfcDue := r })).pfcOut p c timer
  | [] =>
    match (if d.outDown (portQ p 8) then none else tabFrame p (d.spar (p / 8)).tabLane) with
    | some (f, rest) => d.sendTabled p f rest
    | none =>
      if d.headReady (portQ p 8) then d.sendHead p (portQ p 8)
      else match [7, 6, 5, 4, 3, 2, 1, 0].find? (fun c => d.strict p c && d.eligible p c) with
      | some c => d.sendHead p (portQ p c)
      | none =>
        if (upto 8).any (fun c => !d.strict p c && d.eligible p c) then
          match d.roundRobin p 4400 (d.port p) with
          | (some c, x) => (d.updPort p (fun _ => x)).sendHead p (portQ p c)
          | (none, x) => d.updPort p (fun _ => x)
        else d

/-- Queue telemetry sampled for every port queue of a spar (R214). -/
def telSample (d : Dev) (n : Nat) : Dev :=
  if d.fget (Reg.TEL_SAMPLE n) 15 0 = 0 then d
  else (upto 72).foldl (fun x qi =>
    let q := portQ (8 * n + qi / 9) (qi % 9)
    let e := x.tab 0x0810 n qi
    let depth := x.depthOf q
    let delay := match (x.headFrame q).1 with
      | [] => 0
      | c :: _ => unsgn 64 ((x.nowU : Int) - c.res.stamp) / 4
    x.tabSet 0x0810 n qi ([wd depth, wd (max depth (wAt e 1)), wd delay, wd (max (wd delay).toNat (wAt e 3))] ++ e.drop 4)) d

/-- Words of a run of frame bytes for a credit FIFO: 8 bytes a word, the first in the low byte; L on the last (R168). -/
def fifoWords (last : Bool) : Bytes → List FWord
  | a :: b :: c :: e :: f :: g :: h :: i :: r =>
    { data := BitVec.ofNat 64 (leNat [a, b, c, e, f, g, h, i]), v := true, l := last && r.isEmpty } :: fifoWords last r
  | [] => []
  | r => [{ data := BitVec.ofNat 64 (leNat r), v := true, l := last }]

/-- The words that the producer of the engine inlet holds are written, one credit each, as far as credits go (R169). -/
def inletDrain (d : Dev) (n : Nat) : Dev :=
  let x := d.spar n
  let k := min (min x.inletCr (1024 - x.inlet.length)) x.inletHold.length
  d.updSpar n (fun y => { y with inlet := y.inlet ++ y.inletHold.take k, inletHold := y.inletHold.drop k, inletCr := y.inletCr - k })
/-- The engine inlet queue of spar `n` served (R207): the words held, or else the next cell of its head frame, cross under credit. -/
def inletServe (d : Dev) (n : Nat) : Dev :=
  let q := engineQ n
  let (f, rest) := d.headFrame q
  if !(d.spar n).inletHold.isEmpty then d.inletDrain n
  else match f with
  | [] => d
  | c :: cs =>
    if wholeFrame f then
      ((d.ungateEngine n).updSpar n (fun y => { y with
        staging := SMap.set (fun _ => []) y.staging q (cs ++ rest), inletHold := fifoWords c.last c.data })).inletDrain n
    else d

/-- Every histogram of a spar cleared (R222). -/
def histClear (d : Dev) (n : Nat) : Dev :=
  { d with tabs := d.tabs.filter (fun p => !(decide (tkey 0x0811 n 0 ≤ p.1) && decide (p.1 < tkey 0x0811 n 1152))) }

end Dev

end Sys2Proof.Machine
end

