-- ==== Sys2Proof/Machine/Halyard.lean ====
section
/-!
DEFINITION. Halyard link frames: their bytes, the send of cells and messages under credit and window, and the answer of
acknowledgements (R421–R424, R427).
-/
namespace Sys2Proof.Machine

/-- The link header of R421. -/
def hlHeader (kind seq ack ncell cg cm : Nat) : Bytes :=
  beBytes 8 (kind * 2 ^ 60 + seq % 256 * 2 ^ 52 + ack % 256 * 2 ^ 44 + (ncell - 1) % 16 * 2 ^ 40 + cg % 4096 * 2 ^ 28
    + cm % 64 * 2 ^ 22)
/-- A link frame with its CRC (R421). -/
def hlFrame (b : Bytes) : Bytes := b ++ beBytes 4 (crc32c b)

/-- A message of R427: kind, destination stack ID, source ID, and bytes 4 to 31. -/
structure Msg where
  kind : Nat
  dst : Nat
  src : Nat
  hops : Nat := 0
  body : Bytes := []
  deriving DecidableEq, Repr

/-- The 32 bytes of a message; HOPS rides in byte 3 (log 21). -/
def Msg.bytes (m : Msg) : Bytes :=
  [by8 m.kind, by8 m.dst, by8 m.src, by8 m.hops] ++ m.body.take 28 ++ List.replicate (28 - m.body.length) 0

namespace Dev

/-- The cell header of R422 for a cell sent on the link of spar `n`: HOPS + 1; a multicast copy carries the IDs of this link. -/
def cellHeader (d : Dev) (n : Nat) (c : Cell) : Bytes :=
  let r := c.res
  let src := if r.hops = 0 then d.fuses.stackId else r.srcId
  let mask := (upto 8).foldl (fun a i => if bit r.stackMask i && d.path? c.inSpar i == some n then a + 2 ^ i else a) 0
  let marks := (upto 8).foldl (fun a i => a * 256 + r.marks.getD (i + 1) 255 % 256) 0
  beBytes 32 (r.dest % 2 ^ 20 * 2 ^ 236 + c.cls % 16 * 2 ^ 232 + r.colour % 4 * 2 ^ 230 + c.owner % 4096 * 2 ^ 218
    + b2n c.first * 2 ^ 217 + b2n c.last * 2 ^ 216 + (c.data.length - 1) % 256 * 2 ^ 208 + b2n c.mc * 2 ^ 207
    + (c.group - 1) % 65536 * 2 ^ 191 + mask * 2 ^ 183 + src % 8 * 2 ^ 180 + (r.hops + 1) % 8 * 2 ^ 177
    + min r.inPort 1023 * 2 ^ 167 + r.rule % 4096 * 2 ^ 155 + r.edit % 256 * 2 ^ 147
    + marks * 2 ^ 83 + r.stamp % 2 ^ 64 * 2 ^ 19)

/-- A frame of TYPE 0 or 1 sent on the link of spar `n`: numbered, with the last good ACK and the credits to return, and kept
for replay (R421, R423, R424). -/
def hlSend (d : Dev) (n kind ncell : Nat) (body : Bytes) : Dev :=
  let x := d.link n
  let b := hlFrame (hlHeader kind x.nextSeq (x.expSeq + 255) ncell (min 4095 x.retGen) (min 63 x.retMgmt) ++ body)
  let d1 := d.updLink n (fun y => { y with nextSeq := (y.nextSeq + 1) % 256, store := y.store ++ [(y.nextSeq, b)]
                                           retGen := y.retGen - min 4095 y.retGen, retMgmt := y.retMgmt - min 63 y.retMgmt })
  (d1.fset (Reg.STK_HL_STATUS n) 6 0 (x.store.length + 1)).emit (.halyard n b)

/-- A TYPE 2 frame with the last good ACK and the credits to return (R423, R424). -/
def hlAck (d : Dev) (n : Nat) : Dev :=
  let x := d.link n
  let b := hlFrame (hlHeader 2 0 (x.expSeq + 255) 1 (min 4095 x.retGen) (min 63 x.retMgmt))
  (d.updLink n (fun y => { y with retGen := y.retGen - min 4095 y.retGen, retMgmt := y.retMgmt - min 63 y.retMgmt })
    ).emit (.halyard n b)

/-- A message sent on the link of spar `n`, while fewer than 64 frames are outstanding (R423, R427). -/
def hlMsg (d : Dev) (n : Nat) (m : Msg) : Dev :=
  if (d.link n).up && d.linkData n && decide ((d.link n).store.length < 64) then d.hlSend n 1 1 m.bytes else d

/-- The spars that are Halyard links with their link up. -/
def upLinks (d : Dev) : List Nat := (d.stack.links.filter (fun p => p.2.up)).map (·.1)

/-- A message for a stack ID, or 0xFF for all: by row 128 of the path table, or on every link but `from'` (R427). -/
def msgSend (d : Dev) (m : Msg) (from' : Option Nat) : Dev :=
  if m.dst = 255 then (d.upLinks.filter (fun n => some n != from')).foldl (fun x n => x.hlMsg n m) d
  else match d.path? 128 m.dst with
    | some n => d.hlMsg n m
    | none => d

/-- How many of a run of cells the credits cover, with the credits after them (R424). -/
def creditRun : List Cell → Nat → Nat → Nat → Nat × Nat × Nat
  | [], _, g, m => (0, g, m)
  | _ :: _, 0, g, m => (0, g, m)
  | c :: cs, k + 1, g, m =>
    if c.cls = 8 ∧ 0 < m then let r := creditRun cs k g (m - 1); (r.1 + 1, r.2)
    else if 0 < g then let r := creditRun cs k (g - 1) m; (r.1 + 1, r.2)
    else (0, g, m)

/-- The cells that are ready on the link of spar `n` sent, up to 8 of the head frame (R421, R423, R424). -/
def linkSend (d : Dev) (n : Nat) : Dev :=
  let q := linkQ n
  let x := d.link n
  let (f, rest) := d.headFrame q
  if !x.up || !d.linkData n || !wholeFrame f || decide (64 ≤ x.store.length) then d
  else
    let (k, g, m) := creditRun f 8 x.credGen x.credMgmt
    if k = 0 then d
    else
      let cs := f.take k
      let body := cs.flatMap (fun c => d.cellHeader n c ++ c.data ++ List.replicate (256 - c.data.length) 0)
      let d1 := d.updSpar n (fun y => { y with staging := SMap.set (fun _ => []) y.staging q (f.drop k ++ rest) })
      (d1.updLink n (fun y => { y with credGen := g, credMgmt := m })).hlSend n 0 k body

end Dev
end Sys2Proof.Machine
end

