-- ==== Sys2Proof/Machine/Period.lean ====
section
/-!
DEFINITION. The time base, its corrections and its lock (R60–R65), and the placement of boundaries in exact rational arithmetic
(R54–R57).
-/
namespace Sys2Proof.Machine

/-- The first grid point of rate N/D that lies at least half a new period after an instant (R57, R63). -/
def gridAfterHalf (t : Instant) (n dd : Nat) : Instant :=
  { num := ceilDiv (2 * t.num * n + t.den * dd) (2 * t.den * dd) * dd, den := n }

/-- The first grid point of rate N/D after an instant (R56). -/
def gridNext (t : Instant) (n dd : Nat) : Instant := { num := (t.num * n / (t.den * dd) + 1) * dd, den := n }

/-- One period of rate N/D after an instant. -/
def periodAfter (t : Instant) (n dd : Nat) : Instant := { num := t.num * n + dd * t.den, den := t.den * n }

/-- The count of an instant: ⌊t·N/D⌋ mod 2³² (R54). -/
def gridCount (t : Instant) (n dd : Nat) : Nat := t.num * n / (t.den * dd) % 2 ^ 32

/-- An instant in 0.25 ns, truncated (R56). -/
def Instant.quarterNs (t : Instant) : Nat := t.num * 4000000000 / t.den

/-- An instant of so many 0.25 ns; instants before the epoch act as the epoch (log 12). -/
def instantOf (q : Int) : Instant := { num := q.toNat, den := 4000000000 }

/-- Does a rate pass the range rule: 24,000/1,001 to 240/1, both terms from 1 (R55)? -/
def rateOk (n dd : Nat) : Bool :=
  decide (1 ≤ n) && decide (1 ≤ dd) && decide (n < 2 ^ 20) && decide (dd < 2 ^ 20)
    && decide (24000 * dd ≤ n * 1001) && decide (n ≤ 240 * dd)

namespace Dev

/-- The active rate's numerator, at least 1. -/
def rateN (d : Dev) : Nat := atLeast1 (d.fget Reg.GLB_RATE_N 19 0)
/-- The active rate's denominator, at least 1. -/
def rateD (d : Dev) : Nat := atLeast1 (d.fget Reg.GLB_RATE_D 19 0)
/-- The period source: 0 PTP, 1 BOUNDARY_IN, 2 FREE. -/
def periodSrc (d : Dev) : Nat := d.fget Reg.GLB_PERIOD_CTRL 1 0

/-- The time base and its parts changed. -/
def updTime (d : Dev) (f : TimeBase → TimeBase) : Dev := { d with time := f d.time }

/-- The largest magnitude of PTP_FREQ (R60). -/
def freqMax : Int := 32768000

/-- The signed frequency correction. -/
def ptpFreq (d : Dev) : Int := sgn 32 (d.rd Reg.PTP_FREQ).toNat

/-- One CCLK of the time base (R60, R61): 2/3 ns at the corrected rate, plus at most 1 ppm of slew. A stretched CCLK is 25 %
longer (R440). -/
def tickTime (d : Dev) : Dev :=
  let k : Int := if d.time.stretch then 10 else 8
  let lim : Int := k * 65536
  let sl : Int := max (-lim) (min lim d.time.slew)
  d.updTime (fun t => { t with cclk := t.cclk + 1
                               ticks := t.ticks + k * (65536 * 1000000 + d.ptpFreq) + sl
                               slew := t.slew - sl })

/-- A write of PTP_FREQ (R60): clamped beyond ±500 ppm. -/
def setFreq (d : Dev) (adj : Word) : Dev :=
  let x := sgn 32 adj.toNat
  if freqMax < x then (d.wr Reg.PTP_FREQ (wd (unsgn 32 freqMax))).ptpEvent 2
  else if x < -freqMax then (d.wr Reg.PTP_FREQ (wd (unsgn 32 (-freqMax)))).ptpEvent 2
  else d.wr Reg.PTP_FREQ adj

/-- A signed 64-bit value of two words. -/
def signed64 (hi lo : Word) : Int := sgn 64 (hi.toNat * 2 ^ 32 + lo.toNat)

/-- A write of PTP_OFFSET_HI (R61): a new offset replaces what remains of the old one. -/
def setOffset (d : Dev) (hi : Word) : Dev :=
  let off := signed64 hi d.time.offLo
  (d.updTime (fun t => { t with slew := off * (timeUnit : Int) })).bset Reg.PTP_STATUS 1 (off != 0)

/-- The offset has been slewed out (R61). -/
def slewDone (d : Dev) : Dev :=
  (d.updTime (fun t => { t with ticks := t.ticks + t.slew, slew := 0 })).bset Reg.PTP_STATUS 1 false

/-- An instant moved by so many 0.25 ns. -/
def shiftInstant (t : Instant) (q : Int) : Instant :=
  { num := ((t.num * 4000000000 : Nat) + q * (t.den : Int)).toNat, den := t.den * 4000000000 }

/-- A write of PTP_STEP_HI (R63). Under the PTP source the period in progress ends on the stepped grid and its count is set
there; under the other sources the boundaries keep their place (log 12). -/
def stepTime (d : Dev) (hi : Word) : Dev :=
  let off := signed64 hi d.time.stepLo
  if d.bget Reg.PTP_STATUS 2 then
    let d1 := d.updTime (fun t => { t with ticks := t.ticks + off * (timeUnit : Int) })
    if d.periodSrc = 0 then
      d1.updTime (fun t => { t with next := gridAfterHalf (instantOf d1.now) d.rateN d.rateD, setCount := true, stepped := true })
    else d1.updTime (fun t => { t with last := shiftInstant t.last off, next := shiftInstant t.next off })
  else d.ptpEvent 1

/-- GLB_PERIOD_STATUS follows PTP lock under the PTP source (R62). -/
def followLock (d : Dev) : Dev :=
  if d.periodSrc = 0 then
    (d.bset Reg.GLB_PERIOD_STATUS 0 (d.bget Reg.PTP_STATUS 0)).setHoldover (!d.bget Reg.PTP_STATUS 0)
  else d

/-- PTP_CMD.LOCK (R62, R63). -/
def ptpLockOn (d : Dev) : Dev := ((d.bset Reg.PTP_STATUS 0 true).bset Reg.PTP_STATUS 2 false).followLock
/-- PTP_CMD.UNLOCK (R62). -/
def ptpLockOff (d : Dev) : Dev := (d.bset Reg.PTP_STATUS 0 false).followLock

/-- PTP_PPS_OUT driven to a level (R64). -/
def ppsDrive (d : Dev) (b : Bool) : Dev :=
  if d.time.ppsOut = b then d else (d.updTime (fun t => { t with ppsOut := b })).emit (.pps b)

end Dev

end Sys2Proof.Machine
end

