-- ==== Sys2Proof/Machine/Switch.lean ====
section
/-!
DEFINITION. One slot of the core (R18, R23, R176–R195, R456): the outputs, stage two, stage one and the head of the wall output
FIFO; the reorder timeout, the flush walker, the leak audit, pool buffers, credits and the slice scrubber.
-/
namespace Sys2Proof.Machine

/-! The cyclic pattern (R176, R177). -/

/-- Multiplication by x in GF(2⁷) (R176). -/
def lmul (v : Nat) : Nat := (v * 2 % 128) ^^^ (if 64 ≤ v % 128 then 3 else 0)
/-- M(t) = t XOR L(t) (R177). -/
def mmul (t : Nat) : Nat := t ^^^ lmul t
/-- The tabled slot of an input and an output (R177). -/
def tabSlot (i o : Nat) : Nat := ((upto 128).find? (fun t => mmul t == i ^^^ o)).getD 0
/-- The output of intermediate `m` in slot `t` (R176). -/
def stageTwoOut (m t : Nat) : Nat := m ^^^ lmul ((t + 126) % 128)

/-- The stream of a cell at its input (R180), or its multicast flow (R188). -/
def Cell.stream (c : Cell) : Nat := if c.mc then 2 ^ 14 + c.group * 16 + c.cls else c.queue
/-- The pinned intermediate of a multicast cell (R188). -/
def Cell.pinned (c : Cell) : Nat := (c.group - 1 + 16 * c.cls) % 128
/-- The list of a cell at its input: its stream, or for a multicast cell that of its intermediate (R188; log 123). -/
def Cell.list (c : Cell) : Nat := if c.mc then 2 ^ 14 + c.pinned else c.queue
/-- What holds a stream while a frame of it crosses: the port that the frame came from, the outlet, or the host (R180). -/
def Cell.holder (src : Nat) (c : Cell) : Nat := if src = 1 then 4 + c.res.inPort else src

/-- The first cell of each list of the input among some cells. -/
def headsOf (cs : List Cell) : List Cell :=
  (cs.foldl (fun (a : List Nat × List Cell) c => if a.1.contains c.list then a else (c.list :: a.1, c :: a.2)) ([], [])).2.reverse

/-- The age that a pass reports of a cell (R161). -/
def cellAge (us : Nat) (c : Cell) : Nat :=
  let a := (us + 2 ^ 24 - c.stamp) % 2 ^ 24
  if c.old || decide (2 ^ 23 ≤ a) then 0xFFFFFF else a

/-- OLD set in the descriptors of a slice whose age a pass finds at 2²³ µs or more (R161). -/
def Slice.markOld (us : Nat) (x : Slice) : Slice :=
  { x with cells := x.cells.map (fun c => (c.1, { c.2 with old := decide (cellAge us c.2 = 0xFFFFFF) })) }

/-- The identity of a tabled cell's frame: its period, its entry and its frame number. -/
def TabCell.frameId (c : TabCell) : Nat := (c.period * 4096 + c.entry) * 65536 + c.frame

namespace Dev

/-! The output side (R183, R185, R189, R193, R209). -/

/-- How far a number lies past the expected one of its stream (R181). -/
def seqDist (d : Dev) (c : Cell) : Nat := (c.seq + 1024 - d.seqExp c.inSpar c.queue) % 1024

/-- A cell put into the register before staging. -/
def toChecked (d : Dev) (o : Nat) (c : Cell) : Dev := d.updSpar o (fun y => { y with checked := y.checked ++ [c] })

/-- A multicast cell copied into each member queue of spar `o` (R189, R209): the profile is asked at the frame's first cell, and each copy of
a cell that it refuses is counted and not made. Each copy, made or refused, decrements REF (R150). -/
def copyCell (d : Dev) (o : Nat) (c : Cell) : Dev :=
  c.left.foldl (fun x q =>
    let tag := (c.key, q)
    let refuse := if c.first then x.profileRefuses q c.res.colour else (x.spar o).mcRefused.contains tag
    let rest := (x.spar o).mcRefused.filter (fun z => z != tag)
    let x1 := x.updSpar o (fun y => { y with mcRefused := if refuse && !c.last then rest ++ [tag] else rest })
    if refuse then (x1.inc (Reg.C_EQ_MC_COPY_DROP o)).eqEvent o 1
    else x1.toChecked o { c with queue := q, left := [] }) (d.copiesGone c c.left.length)

/-- A cell that crossed stage two in the slot before is checked (R185, R456). -/
def checkCell (d : Dev) (o : Nat) (c : Cell) : Dev :=
  if c.mc then d.copyCell o c
  else
    let k := d.seqDist c
    if k = 0 then (d.setExp c.inSpar c.queue (c.seq + 1)).toChecked o c
    else if k < 256 then d.updSpar o (fun y => { y with reorder := y.reorder ++ [{ c with heldAt := d.time.cclk }] })
    else ((d.inc (Reg.C_CORE_SEQ_ERR o)).coreEvent o 5).flag 28 o

/-- A held cell that is now in order follows: at most one in a slot, while its staging FIFO has room (R183, R185). -/
def releaseHeld (d : Dev) (o : Nat) : Dev :=
  let x := d.spar o
  match x.reorder.find? (fun c => d.seqDist c == 0
      && decide ((SMap.get (fun _ => []) x.staging c.queue).length
        + ((x.checked ++ x.arriving).filter (fun y => y.queue == c.queue)).length < 64)) with
  | none => d
  | some c => ((d.updSpar o (fun y => { y with reorder := y.reorder.erase c })).setExp c.inSpar c.queue (c.seq + 1)).toChecked o c

/-! Tabled cells at the output (R193, R320). -/

/-- The cells of the tabled frame from input `i` whose last cell has not come, dropped from a list. -/
def dropTabOpen (i : Nat) (l : List TabCell) : List TabCell :=
  let mine := l.filter (fun c => c.inSpar == i)
  let n := (mine.reverse.takeWhile (fun c => !c.last)).length
  let keep := mine.take (mine.length - n)
  l.filter (fun c => c.inSpar != i || keep.contains c)

/-- The frame from input `i` being received at `o` is dropped (R193, R320). -/
def tabFrameDrop (d : Dev) (o i : Nat) : Dev :=
  d.updSpar o (fun y => let all := dropTabOpen i (y.tabLane ++ y.tabChecked)
    { y with tabLane := y.tabLane.filter all.contains, tabChecked := y.tabChecked.filter all.contains })
/-- A dropped frame counted (R193). -/
def tabGap (d : Dev) (o : Nat) : Dev := (d.inc (Reg.C_CORE_TAB_GAP_DROP o)).coreEvent o 1

/-- The number check of a tabled cell (R193). `tabRun` holds 0 while no frame is being received, 2·id + 1 while frame id is, and
2·id + 2 while the cells of a frame already counted are dropped. A cell for a down port is dropped and counted there (R111). -/
def checkTab (d : Dev) (o : Nat) (c : TabCell) : Dev :=
  let i := c.inSpar
  let run := SMap.get (fun _ => 0) (d.spar o).tabRun i
  let gap := decide (c.num ≠ SMap.get (fun _ => 0) (d.spar o).tabExpected i)
  let down := d.outDown (portQ c.port 8)
  let setRun := fun (x : Dev) (v : Nat) => x.updSpar o (fun y => { y with tabRun := SMap.set (fun _ => 0) y.tabRun i v })
  let lose := fun (x : Dev) => if down then x.inc (Reg.C_MAC_TX_DOWN_DROP c.port) else x
  let d1 := d.updSpar o (fun y => { y with tabExpected := SMap.set (fun _ => 0) y.tabExpected i ((c.num + 1) % 1024) })
  let accept := fun (x : Dev) =>
    if down then lose (setRun x 0)
    else (setRun x (if c.last then 0 else 2 * c.frameId + 1)).updSpar o (fun y => { y with tabChecked := y.tabChecked ++ [c] })
  if !gap then
    if c.first || run % 2 = 1 then accept d1 else lose d1
  else
    let d2 := if run % 2 = 1 then (d1.tabFrameDrop o i).tabGap o else d1
    if c.first then accept d2
    else
      let counted := decide (0 < run) && decide ((run - 1) / 2 = c.frameId)
      lose (setRun (if counted then d2 else d2.tabGap o) (2 * c.frameId + 2))

/-- A checked tabled cell written to the egress lane of 256 cells (R23, R320); one for a down port is dropped (R111). -/
def laneTab (d : Dev) (o : Nat) (c : TabCell) : Dev :=
  let x := d.spar o
  let started := (x.tabLane.filter (fun y => y.inSpar == c.inSpar)).reverse.takeWhile (fun y => !y.last)
  if d.outDown (portQ c.port 8) then d.inc (Reg.C_MAC_TX_DOWN_DROP c.port)
  else if !c.first && started.isEmpty then d
  else if 256 ≤ x.tabLane.length then
    ((d.tabFrameDrop o c.inSpar).tabGap o).updSpar o (fun y => { y with
      tabRun := if c.last then y.tabRun else SMap.set (fun _ => 0) y.tabRun c.inSpar (2 * c.frameId + 2) })
  else d.updSpar o (fun y => { y with tabLane := y.tabLane ++ [c] })

/-- The output side of spar `o` in one slot: staging and lane, the held cell that follows, then the cells that crossed before. -/
def outputSlot (d : Dev) (o : Nat) : Dev :=
  let x := d.spar o
  let d1 := d.updSpar o (fun y => { y with checked := [], arriving := [], tabChecked := [], tabArriving := [] })
  let d2 := x.checked.foldl (fun y c => y.stageIn c.queue c) d1
  let d3 := x.tabChecked.foldl (fun y c => y.laneTab o c) d2
  let d4 := x.arriving.foldl (fun y c => y.checkCell o c) (d3.releaseHeld o)
  let d5 := x.tabArriving.foldl (fun y c => y.checkTab o c) d4
  if d5.isHalyard o then d5.linkSend o else d5

/-! Stage two (R182, R183, R185, R189). -/

/-- Is queue `q` open: does its staging FIFO hold fewer than 60 cells (R183)? Two cells at most are on their way to it when it closes. -/
def openFor (d : Dev) (q : Nat) : Bool := decide ((SMap.get (fun _ => []) (d.spar (outSpar q)).staging q).length < 60)

/-- The cell of an entry of slice `m`. -/
def entryCell (d : Dev) (m : Nat) : VEntry → Option Cell
  | .hole c => some c
  | .cell i => SMap.get? (d.sliceOf m).cells i

/-- The head entry of queue `q` in slice `m`, where the queue is open. -/
def voqHead (d : Dev) (m q : Nat) : Option (VEntry × Cell) :=
  match SMap.get (fun _ => []) (d.sliceOf m).voq q with
  | [] => none
  | e :: _ => match d.entryCell m e with
    | some c => if d.openFor q then some (e, c) else none
    | none => none

/-- The first entry of multicast list `k` of slice `m` that names spar `o`, where its member queues there are open. -/
def mcHead (d : Dev) (m k o : Nat) : Option (VEntry × Cell) :=
  let named := fun (e : VEntry) => (d.entryCell m e).bind (fun c =>
    if c.left.any (fun q => outSpar q == o) then some (e, c) else none)
  match (SMap.get (fun _ => []) (d.sliceOf m).mcLists k).findSome? named with
  | none => none
  | some (e, c) => if (c.left.filter (fun q => outSpar q == o)).all d.openFor then some (e, c) else none

/-- Of positions that can send, the first at or past `start`, else the first (R182). -/
def rotate (ps : List Nat) (start : Nat) : Option Nat := (ps.find? (fun p => decide (start ≤ p))).orElse (fun _ => ps.head?)

/-- Is a cell refused by a full reorder store (R185)? -/
def reorderFull (d : Dev) (o : Nat) (c : Cell) : Bool :=
  let x := d.spar o
  let k := d.seqDist c
  !c.mc && decide (0 < k ∧ k < 256 ∧ 1024 ≤ x.reorder.length + x.arriving.length)

/-- The data of a cell read at slice `m` (R172): an injected double-bit error discards the frame as R148 gives (R399). -/
def cellRead (d : Dev) (m : Nat) (c : Cell) : Cell × Dev :=
  let (err, inj, d1) := d.injected 26 .good
  match err with
  | .good => (c, d1)
  | .single => (c, (d1.inc (Reg.C_BUF_ECC_CORR m)).flag 26 m inj true)
  | .double => ({ c with discard := true }, (d1.inc (Reg.C_BUF_ECC_UNCORR_DROP m)).flag 26 m inj)

/-- A unicast entry crosses stage two: the egress read (R150, R182). -/
def crossVoq (d : Dev) (m o q : Nat) (e : VEntry) (c : Cell) : Dev :=
  let d1 := d.updSlice m (fun y =>
    let l := (SMap.get (fun _ => []) y.voq q).drop 1
    { y with voq := SMap.set (fun _ => []) y.voq q l })
  let (c1, d2) := match e with
    | .cell i => let (x, y) := d1.cellRead m c
                 (x, y.decRef m i 1)
    | .hole _ => (c, d1.updSlice m (fun y => { y with holes := y.holes - 1 }))
  d2.updSpar o (fun y => { y with arriving := y.arriving ++ [c1] })

/-- An entry's copies for spar `o` taken out of it. -/
def entryWithout (o : Nat) (e : VEntry) : VEntry :=
  match e with
  | .hole c => .hole { c with left := c.left.filter (fun q => outSpar q != o) }
  | .cell i => .cell i

/-- The first entry of a list that is `e` without its copies for spar `o`. -/
def withoutAt (o : Nat) (e : VEntry) : List VEntry → List VEntry
  | [] => []
  | x :: xs => if x = e then entryWithout o x :: xs else x :: withoutAt o e xs

/-- A multicast entry crosses once to spar `o`, for its copies there (R189). -/
def crossMc (d : Dev) (m o k : Nat) (e : VEntry) (c : Cell) : Dev :=
  let qs := c.left.filter (fun q => outSpar q == o)
  let c1 : Cell := { c with left := c.left.filter (fun q => outSpar q != o) }
  let (c2, d1) := match e with
    | .cell i => (d.updSlice m (fun y => { y with cells := SMap.put y.cells i c1 })).cellRead m c
    | .hole _ => (c, d.updSlice m (fun y => { y with
        mcLists := SMap.set (fun _ => []) y.mcLists k (withoutAt o e (SMap.get (fun _ => []) y.mcLists k)) }))
  (d1.mcPrune m).updSpar o (fun y => { y with arriving := y.arriving ++ [{ c2 with left := qs }] })

/-- Stage two of intermediate `m` in slot `t` (R182). A queue whose cell is refused has had its turn, so that a full store stops no
stream (R185). -/
def stageTwo (d : Dev) (t m : Nat) : Dev :=
  let o := stageTwoOut m t
  let x := d.sliceOf m
  match x.bypass with
  | some c => (d.updSlice m (fun y => { y with bypass := none })).updSpar o (fun y => { y with tabArriving := y.tabArriving ++ [c] })
  | none =>
    let qs := (x.voq.map (·.1)).filter (fun q => outSpar q == o && (d.voqHead m q).isSome)
    match rotate (qs.filter isMgmtQ) (SMap.get (fun _ => 0) x.rotMgmt o) with
    | some q => match d.voqHead m q with
      | some (e, c) =>
        let d1 := d.updSlice m (fun y => { y with rotMgmt := SMap.set (fun _ => 0) y.rotMgmt o (q + 1) })
        if d.reorderFull o c then d1.inc (Reg.C_CORE_REORDER_REFUSE o) else d1.crossVoq m o q e c
      | none => d
    | none =>
      let ls := ((x.mcLists.map (·.1)).filter (fun k => (d.mcHead m k o).isSome)).map (fun k => 100000 + k)
      match rotate (qs.filter (fun q => !isMgmtQ q) ++ ls) (SMap.get (fun _ => 0) x.rotData o) with
      | none => d
      | some p =>
        let d1 := d.updSlice m (fun y => { y with rotData := SMap.set (fun _ => 0) y.rotData o (p + 1) })
        if p < 100000 then match d.voqHead m p with
          | some (e, c) => if d.reorderFull o c then d1.inc (Reg.C_CORE_REORDER_REFUSE o) else d1.crossVoq m o p e c
          | none => d
        else match d.mcHead m (p - 100000) o with
          | some (e, c) => d1.crossMc m o (p - 100000) e c
          | none => d

/-- The cells that crossed stage one in the slot before: linked, and passed to the bypass register (R23, R456). -/
def linkSlot (d : Dev) (m : Nat) : Dev :=
  (d.linkArriving m).updSlice m (fun y => { y with bypass := y.bypassNext, bypassNext := none })

/-! Stage one (R18, R180, R181, R188, R192). -/

/-- Is a stream free for a cell of source 1 parse, 2 outlet or 3 host: does no other frame hold it (R180)? -/
def lockFree (d : Dev) (i src : Nat) (c : Cell) : Bool :=
  let l := SMap.get (fun _ => 0) (d.spar i).locked c.stream
  if c.first then l == 0 else l == c.holder src
/-- Does a cell's number stay inside the window (R181)? -/
def inWindow (d : Dev) (i : Nat) (c : Cell) : Bool :=
  c.mc || decide ((d.seqNext i c.queue + 1024 - d.seqExp i c.queue) % 1024 < 256)
/-- Can a cell cross from input `i` to intermediate `m` in this slot (R180, R181, R188, R189)? -/
def canCross (d : Dev) (i m src : Nat) (c : Cell) : Bool :=
  d.lockFree i src c && d.inWindow i c
    && (!c.mc || (decide (m = c.pinned) && decide ((SMap.get (fun _ => []) (d.sliceOf m).mcLists c.cls).length < 2048)))

/-- A cell crosses stage one from input `i` to intermediate `m` (R180, R199). -/
def cross (d : Dev) (i m src : Nat) (c : Cell) : Dev :=
  let c1 := { c with inSpar := i, seq := if c.mc then 0 else d.seqNext i c.queue }
  let d1 := d.updSpar i (fun y => { y with
    seqNext := if c.mc then y.seqNext else SMap.set (fun _ => 0) y.seqNext c.queue ((d.seqNext i c.queue + 1) % 1024)
    locked := SMap.set (fun _ => 0) y.locked c.stream (if c.last then 0 else c.holder src) })
  let d2 := (if c.mc then c.left else [c.queue]).foldl (fun x q => x.ungateEgress (outSpar q)) d1
  (d2.updSlice m (fun y => { y with arriving := some c1 })).inc (if c.mc then Reg.C_CORE_MC_CELLS i else Reg.C_CORE_UNTAB_CELLS i)

/-- A cell of the ingress FIFO crosses; on a Halyard spar its credit is to be returned (R424). -/
def crossIn (d : Dev) (i m : Nat) (c : Cell) : Dev :=
  let d1 := (d.updSpar i (fun y => { y with inFifo := y.inFifo.erase c })).cross i m 1 c
  let d2 := if d.isHalyard i then
      d1.updLink i (fun y => if c.mgmt then { y with retMgmt := y.retMgmt + 1 } else { y with retGen := y.retGen + 1 }) else d1
  d2.inSync i

/-- What the core input does with a packet of an engine's outlet (R133, R234, R361): a host-bound one goes to its owner's queue. -/
def outletResult (d : Dev) (n : Nat) (w : BitVec 64) : Option Result × Dev :=
  let x := w.toNat
  let r : Result := { dest := bits x 19 0, cls := bits x 23 20, owner := bits x 35 24, stamp := d.nowU }
  if r.dest / 2 ^ 17 = 4 then
    (some { r with queue := hostQ (2 + (if 1152 ≤ r.owner ∧ r.owner < 1216 then r.owner - 1152 else 0)) }, d)
  else d.directly n r

/-- The descriptor at the head of the outlet FIFO taken; a packet without a destination is read to its end. -/
def outletOpen (d : Dev) (i : Nat) : Dev :=
  let x := d.spar i
  match x.outHead, x.outlet with
  | none, w :: ws =>
    match d.outletResult i w.data with
    | (some r, d0) => d0.updSpar i (fun y => { y with
        outlet := ws, outLeft := bits w.data.toNat 49 36
        outHead := some { owner := r.owner, first := true, inSpar := i, queue := r.queue, cls := r.cls, res := r
                          mc := decide (r.dest / 2 ^ 17 = 2), left := r.members
                          group := if r.dest / 2 ^ 17 = 2 then r.dest % 65536 + 1 else 0 } })
    | (none, d0) => d0.updSpar i (fun y => { y with outlet := (y.outlet.dropWhile (fun z => !z.l)).drop 1 })
  | _, _ => d

/-- The next cell of the outlet packet, once its words are readable (R168). -/
def outletCell (d : Dev) (i : Nat) : Option Cell :=
  let x := d.spar i
  match x.outHead with
  | none => none
  | some h =>
    let n := min 256 x.outLeft
    let k := ceilDiv n 8
    if x.outlet.length < k then none
    else
      let bs := ((x.outlet.take k).flatMap (fun w => leBytes 8 w.data.toNat)).take n
      some { h with data := if h.discard then [] else bs, last := decide (x.outLeft = n) }

/-- A cell of the outlet crosses: its words are read; the first takes its stamp (R213). -/
def crossOut (d : Dev) (i m : Nat) (c : Cell) : Dev :=
  let x := d.spar i
  let n := min 256 x.outLeft
  let c1 := if c.first then { c with res := { c.res with stamp := d.nowU } } else c
  (d.updSpar i (fun y => { y with
    outlet := y.outlet.drop (ceilDiv n 8), outLeft := y.outLeft - n
    outHead := if c.last then none else y.outHead.map (fun h => { h with first := false }) })).cross i m 2 c1

/-- A host-injected cell crosses. -/
def crossInject (d : Dev) (i m : Nat) (c : Cell) : Dev :=
  let c1 := if c.first then { c with res := { c.res with stamp := d.nowU } } else c
  (d.updSpar i (fun y => { y with inject := y.inject.erase c })).cross i m 3 c1

/-- The heads of the ingress lists: of each, the oldest cell whose stream no other frame holds. -/
def ingressHeads (d : Dev) (i : Nat) : List Cell := headsOf ((d.spar i).inFifo.filter (d.lockFree i 1))
/-- The untabled cell of input `i` in a slot: management first, then the weighted turn; multicast cells, of class 8 too, take part in the
turn alone (R18, R188). Of several list heads that can cross, the oldest in the FIFO goes (DESIGN CHOICE, log 123: R18 and R179 leave it
open). -/
def takeUntabled (d : Dev) (i m : Nat) : Dev :=
  let x := d.spar i
  let heads := d.ingressHeads i
  match heads.find? (fun c => c.cls == 8 && !c.mc && d.canCross i m 1 c) with
  | some c => d.crossIn i m c
  | none =>
    let parse := heads.find? (d.canCross i m 1)
    let paused := d.engPause i
    let out := if paused then none else (d.outletCell i).filter (d.canCross i m 2)
    let inj := if paused then none else (headsOf (x.inject.filter (d.lockFree i 3))).find? (d.canCross i m 3)
    let has := fun (o : Bool) => if o then out.isSome || inj.isSome else parse.isSome
    let weight := fun (o : Bool) => atLeast1 (if o then d.fget (Reg.CORE_ARB i) 15 8 else d.fget (Reg.CORE_ARB i) 7 0)
    let cur := if has x.arbOutlet then x.arbOutlet else !x.arbOutlet
    let left := if cur = x.arbOutlet ∧ 0 < x.arbLeft then x.arbLeft else weight cur
    let d1 := d.updSpar i (fun y => { y with arbOutlet := if left = 1 then !cur else cur, arbLeft := left - 1 })
    if cur then
      match out, inj with
      | some c, _ => d1.crossOut i m c
      | none, some c => d1.crossInject i m c
      | none, none => d
    else match parse with
      | some c => d1.crossIn i m c
      | none => d

/-- One cell of each frame that is still arriving enters the ingress FIFO (R179; log 123). -/
def enterCells (d : Dev) (i : Nat) : Dev :=
  if (d.spar i).entering.isEmpty then d
  else (d.updSpar i (fun y => { y with
    inFifo := y.inFifo ++ y.entering.flatMap (fun e => e.rest.take 1)
    entering := (y.entering.map (fun e => { e with inn := e.inn + 1, rest := e.rest.drop 1 })).filter (fun e => !e.rest.isEmpty) })).inSync i

/-- The streams whose head cell waits for its window, counted in every slot (R181). -/
def stallCount (d : Dev) (i : Nat) : Dev :=
  let n := ((d.ingressHeads i).filter (fun c => !d.inWindow i c)).length
  if n = 0 then d else d.cntAdd (Reg.C_CORE_WINDOW_STALL i) n

/-- Stage one of input `i` in slot `t` (R18): the latched tabled cell, else an untabled one; none of these in a core flush. -/
def stageOne (d0 : Dev) (t i : Nat) : Dev :=
  let d := d0.stallCount i
  let m := i ^^^ t
  match (d.spar i).latched with
  | some c =>
    (((d.ungateEgress c.outSpar).updSpar i (fun y => { y with latched := none })).updSlice m (fun y => { y with bypassNext := some c })).inc
      (Reg.C_CORE_TAB_CELLS i)
  | none =>
    if d.fault.flushing then d
    else (if d.engPause i then d else d.outletOpen i).takeUntabled i m

/-! The head of the wall output FIFO (R191, R192, R321). -/

/-- A tile counted as underrun for period `per`, once (R321). -/
def tileUnderrun (d : Dev) (n per e : Nat) : Dev :=
  if (d.spar n).underrun.contains (per, e) then d
  else
    let st := d.tab 0x0C10 n e
    let d1 := (d.updSpar n (fun y => { y with underrun := (per, e) :: y.underrun })).tabSet 0x0C10 n e
      (st.set 0 (setFld (st.getD 0 0) 15 0 (fld (st.getD 0 0) 15 0 + 1)))
    (d1.inc (Reg.C_WALL_TILES_UNDERRUN n)).wallEvent n 0

/-- The period round of the next slot, and the sequence number of its period. -/
def nextRound (d : Dev) : Nat × Nat :=
  if (d.time.cclk + 1) % 128 = 0 then
    if d.time.freshRound then (0, d.time.perSeq) else ((d.time.pround + 1) % 2 ^ 20, d.time.perSeq)
  else (d.time.pround, d.time.perSeq - b2n d.time.freshRound)

/-- A late head discarded and reported to the wall stage (R192, R321). -/
def wallLate (d : Dev) (n : Nat) (c : TabCell) : Dev :=
  (((d.inc (Reg.C_CORE_WALL_UNDERRUN n)).coreEvent n 0).inc (Reg.C_WALL_CELLS_LATE n)).tileUnderrun n c.period c.entry

/-- The words of the cell at the head of the wall output FIFO: up to 32, or to the packet's last (R168). -/
def headWords : Nat → List (TabCell × FWord) → List (TabCell × FWord)
  | 0, _ => []
  | _, [] => []
  | k + 1, w :: ws => if w.2.l then [w] else w :: headWords k ws
/-- The cell at the head of the wall output FIFO, once all its words are there, and the words after it. -/
def wallHead (ws : List (TabCell × FWord)) : Option (TabCell × List (TabCell × FWord)) :=
  let h := headWords 32 ws
  match h.head? with
  | none => none
  | some (c, _) =>
    if h.length = ceilDiv c.size 8 then
      some ({ c with data := (h.flatMap (fun w => leBytes 8 w.2.data.toNat)).take c.size }, ws.drop h.length)
    else none

/-- The head of the wall output FIFO examined against the next slot, with at most `k` discards (R192). -/
def wallExamine (d : Dev) (n : Nat) : Nat → Dev
  | 0 => d
  | k + 1 =>
    match wallHead (d.spar n).wall with
    | none => d
    | some (c, cs) =>
      let d1 := d.updSpar n (fun y => { y with wall := cs })
      let (pr, per) := d.nextRound
      let s := (d.time.cclk + 1) % 128
      if c.period < per then (d1.wallLate n c).wallExamine n k
      else if !d.bget (Reg.CORE_TAB_MAP n (c.slot / 32)) (c.slot % 32) then
        ((d1.inc (Reg.C_CORE_TAB_BAD n)).coreEvent n 2).wallExamine n k
      else if per < c.period ∨ pr < c.tag ∨ (pr = c.tag ∧ s < c.slot) then d
      else if pr = c.tag ∧ s = c.slot then d1.updSpar n (fun y => { y with latched := some c })
      else (d1.wallLate n c).wallExamine n k

/-- The period rounds after a slot (R178). -/
def roundTick (d : Dev) : Dev :=
  if d.time.cclk % 128 = 0 then
    if d.time.freshRound then d.updTime (fun t => { t with pround := 0, freshRound := false })
    else d.updTime (fun t => { t with pround := (t.pround + 1) % 2 ^ 20 })
  else d

/-- One slot of the core (R176). Only spars and slices that differ from reset have anything to move.
The cells linked take their pointers before those freed go back, so a pointer is never pushed and popped in one CCLK (R147). -/
def coreSlot (d : Dev) : Dev :=
  let t := d.slot
  let owners := d.slices.filterMap (fun p => p.2.arriving.map (·.owner))
  let d1 := (d.spars.map (·.1)).foldl outputSlot d
  let d2 := (d1.slices.map (·.1)).foldl (fun x m => x.stageTwo t m) d1
  let d3 := ((d2.slices.map (·.1)).foldl linkSlot d2).slotEnd owners
  let d4 := (d3.spars.map (·.1)).foldl (fun x i => (x.stageOne t i).enterCells i) d3
  let d5 := (d4.spars.map (·.1)).foldl (fun x n => x.wallExamine n 8) d4
  ((d5.namedPorts.foldl shaperTick d5).tickTime).roundTick

/-! The reorder timeout (R187). -/

/-- The lowest number held for a stream (R187). -/
def lowestHeld (d : Dev) (o i q : Nat) : Option Cell :=
  ((d.spar o).reorder.filter (fun c => c.inSpar == i && c.queue == q)).foldl (fun (a : Option Cell) c =>
    match a with
    | none => some c
    | some b => if d.seqDist c < d.seqDist b then some c else some b) none

/-- The frame of a stream that has begun at queue `q` lost a cell: what of it is staged or just checked is dropped, or it is stomped if
sending has begun. -/
def loseFrame (d : Dev) (q k : Nat) : Dev :=
  let st := SMap.get (fun _ => []) (d.spar (outSpar q)).staging q
  let ck := (d.spar (outSpar q)).checked
  let mine := fun (c : Cell) => c.queue == q && c.key == k
  let closed := ck.any (fun c => mine c && c.last)
  let keep := if closed then (dropOpen k (ck.filter mine).reverse).reverse else []
  let d1 := d.updSpar (outSpar q) (fun y => { y with
    checked := ck.filter (fun c => !mine c || keep.contains c)
    staging := if closed then y.staging else SMap.set (fun _ => []) y.staging q (dropOpen k st.reverse).reverse })
  let d2 := if isPortQ q then d1.deficitSync (q / 9) q else d1
  match (d.port (q / 9)).cut with
  | some x => if isPortQ q ∧ x.queue = q ∧ x.stream = k then d2.cutEnd (q / 9) true else d2
  | none => d2

/-- CORE_SEQ_TIMEOUT has passed for a stream with a cell missing (R187). -/
def seqSkip (d : Dev) (o i q : Nat) : Dev :=
  match d.lowestHeld o i q with
  | none => d
  | some c =>
    if d.seqDist c = 0 ∨ outSpar q ≠ o then d
    else ((((d.setExp i q c.seq).loseFrame q c.key).inc (Reg.C_CORE_SEQ_SKIP o)).coreEvent o 4).flag 28 o

/-! The flush walker (R151). -/

/-- The flush walker of slice `m` frees one unlinked cell. -/
def walkerFree (d : Dev) (m : Nat) : Dev :=
  match (d.sliceOf m).unlinked with
  | [] => d
  | i :: r => (((d.updSlice m (fun y => { y with unlinked := r })).decRef m i 1).slotEnd []).inc (Reg.C_BUF_FLUSH_FREED m)

/-! The leak audit (R160–R164). -/

/-- The home spar of an owner (R159). -/
def homeSpar (o : Nat) : Nat :=
  if o < 1024 then o / 8 else if o < 1152 then o - 1024 else if o < 1216 then o - 1152 else 64

/-- One owner's audit entry published (R160, R162). -/
def auditOwner (d : Dev) (o : Nat) (ages : List Nat) : Dev :=
  let lim := d.fget Reg.BUF_LEAK_AGE_LIMIT 23 0
  let age := ages.foldl max 0
  let old := wbit ((d.tab 0x0602 0 o).getD 0 0) 31
  let leak := decide (0 < lim) && !ages.isEmpty && decide (lim ≤ age) && (old || !wbit ((d.tab 0x0601 0 o).getD 0 0) 31)
  let d1 := d.tabSet 0x0602 0 o [wd (ages.length + b2n leak * 2 ^ 31), wd age]
  if leak && !old then d1.bufEvent (homeSpar o) 3 else d1

/-- A pass of the leak audit ends (R160–R164), but for what it answers. -/
def auditPass (d : Dev) : Dev :=
  let us := d.usCount % 2 ^ 24
  let cells := d.slices.flatMap (fun p => p.2.cells.map (·.2))
  let had := (d.tabs.filter (fun p => decide (tkey 0x0602 0 0 ≤ p.1) && decide (p.1 < tkey 0x0602 0 4096))).map (fun p => p.1 % 2 ^ 20)
  let owners := (cells.map (·.owner) ++ had).eraseDups
  let d1 := owners.foldl (fun x o => x.auditOwner o ((cells.filter (fun c => c.owner == o)).map (cellAge us))) d
  let d2 : Dev := { d1 with slices := d1.slices.map (fun p => (p.1, p.2.markOld us)) }
  let d3 := d2.slices.foldl (fun x p =>
    if p.2.genAvail + p.2.mgmtAvail + p.2.cells.length ≠ 8192 then x.flag (65 + 3 * p.1) p.1 else x) d2
  d3.wr Reg.BUF_AUDIT_PASS (d3.rd Reg.BUF_AUDIT_PASS + 1)

/-- The audit's answer to firmware (R163): from the first pass that started after the question. -/
def auditAnswer (d : Dev) : Dev :=
  if d.audit = 0 then d
  else if d.audit = 1 then
    let d1 := ((d.bset Reg.BUF_AUDIT_CTRL 30 false).bset Reg.BUF_AUDIT_CTRL 29 (d.ownerCount d.auditOf == 0)).bufEvent 0 4
    { d1 with audit := 0 }
  else { d with audit := d.audit - 1 }

/-- A write of BUF_AUDIT_CTRL (R163): the pass under way does not answer, the next one does, for the owner named with GO. A second GO while
BUSY is 1 asks anew (DESIGN CHOICE, log 124: R163 is silent). -/
def auditAsk (d : Dev) (o : Nat) (go : Bool) : Dev :=
  let d1 := d.fset Reg.BUF_AUDIT_CTRL 11 0 o
  if go then { (d1.bset Reg.BUF_AUDIT_CTRL 30 true).bset Reg.BUF_AUDIT_CTRL 29 false with audit := 2, auditOf := o } else d1

/-! Pool buffers (R165–R167). -/

/-- Pool mode (R165). -/
def poolMode (d : Dev) : Bool := d.bget Reg.BUF_MODE 0
/-- Buffers of pool `k` (R165). -/
def poolCount (d : Dev) (k : Nat) : Nat := d.fget (Reg.BUF_POOL_CNT k) 23 0
/-- Buffers of pool `k` in use. -/
def poolUsed (d : Dev) (k : Nat) : Nat := (d.host.inUse.filter (fun h => h / 2 ^ 30 == k)).length
/-- Bytes of a buffer of pool `k` (R165). -/
def poolSize (k : Nat) : Nat := match k with | 0 => 512 | 1 => 2048 | 2 => 9728 | _ => 16384
/-- Bytes that the buffers of pool `k` take, rounded up to 4 KiB. -/
def poolSpan (d : Dev) (k : Nat) : Nat := ceilDiv (poolSize k * d.poolCount k) 4096 * 4096
/-- The frame memory address of the pool region. -/
def poolBase (d : Dev) : Nat := (d.rd Reg.BUF_POOL_BASE).toNat * 4096
/-- The frame memory address of the pointer stack of pool `k`: after the pools, 4 bytes per buffer, rounded up to 4 KiB (R165). -/
def poolStack (d : Dev) (k : Nat) : Nat :=
  d.poolBase + ((upto 4).map d.poolSpan).sum + ((upto k).map (fun j => ceilDiv (4 * d.poolCount j) 4096 * 4096)).sum
/-- Pointers on the stack of pool `k`. -/
def poolDepth (d : Dev) (k : Nat) : Nat := SMap.get (fun _ => 0) d.host.poolDepth k
/-- A handle pushed on the stack of its pool: the word at its top (log 78). -/
def poolPush (d : Dev) (h : Nat) : Dev :=
  let k := h / 2 ^ 30
  (d.fmWrite (d.poolStack k + 4 * d.poolDepth k) (leBytes 4 h)).updHost (fun x => { x with
    poolDepth := SMap.set (fun _ => 0) x.poolDepth k (d.poolDepth k + 1) })
/-- A buffer of pool `k` taken: the handle at the top of its stack, which is then in use. -/
def poolPop (d : Dev) (k : Nat) : Option (Nat × Dev) :=
  if d.poolDepth k = 0 then none
  else
    let h := (d.fmWord (d.poolStack k + 4 * (d.poolDepth k - 1))).toNat
    some (h, d.updHost (fun x => { x with
      inUse := x.inUse ++ [h], poolDepth := SMap.set (fun _ => 0) x.poolDepth k (d.poolDepth k - 1) }))
/-- The pools of a loaded image: every buffer free, buffer 0 on top (log 78). -/
def poolsLoad (d : Dev) : Dev :=
  let d0 := d.updHost (fun x => { x with poolDepth := [], inUse := [] })
  if d0.poolMode then (upto 4).foldl (fun x k => (upto (d.poolCount k)).reverse.foldl (fun y i => y.poolPush (k * 2 ^ 30 + i)) x) d0 else d0
/-- A buffer of pool `k`, else of each larger pool in turn (R166). -/
def poolTake (d : Dev) (k : Nat) : Option (Nat × Dev) :=
  ((upto 4).filter (fun j => decide (k ≤ j))).findSome? d.poolPop
/-- The smallest pool that holds `n` bytes (R166). -/
def poolFor (n : Nat) : Nat := if n ≤ 512 then 0 else if n ≤ 2048 then 1 else if n ≤ 9728 then 2 else 3
/-- A free (R167). -/
def poolGive (d : Dev) (h : Nat) : Dev :=
  if d.host.inUse.contains h then (d.updHost (fun x => { x with inUse := x.inUse.erase h })).poolPush h
  else (d.inc Reg.C_BUF_POOL_BAD_FREE).bufEvent 0 6
/-- A read of BUF_POOL_GET (R166); in native mode it reads 0 and takes nothing (R167). -/
def poolRead (d : Dev) (k : Nat) : Dev :=
  if d.poolMode then
    match d.poolTake k with
    | some (h, d1) => d1.emit (.readData (Reg.BUF_POOL_GET k) (wd h))
    | none => (d.bufEvent 0 5).emit (.readData (Reg.BUF_POOL_GET k) 0xFFFFFFFF)
  else d.emit (.readData (Reg.BUF_POOL_GET k) 0)
/-- A write of BUF_POOL_FREE (R167). -/
def poolWrite (d : Dev) (h : Nat) : Dev := if d.poolMode then d.poolGive h else d
/-- The frame memory address of a handle's buffer (R165). -/
def poolAddr (d : Dev) (h : Nat) : Nat :=
  d.poolBase + ((upto (h / 2 ^ 30)).map d.poolSpan).sum + h % 2 ^ 24 * poolSize (h / 2 ^ 30)

/-! Credits, peaks, the slice scrubber. -/

/-- A credit returned to a producer (R169). -/
def creditBack (d : Dev) (n : Nat) (f : CreditFifo) : Dev :=
  let x := d.spar n
  let full := match f with
    | .inlet => decide (1024 ≤ x.inletCr)
    | .outlet => decide (1024 ≤ x.outletCr)
    | .wall => decide (2048 ≤ x.wallCr)
  if full then (d.bufEvent n 7).flag 27 n
  else d.updSpar n (fun y => match f with
    | .inlet => { y with inletCr := y.inletCr + 1 }
    | .outlet => { y with outletCr := y.outletCr + 1 }
    | .wall => { y with wallCr := y.wallCr + 1 })

/-- A read of BUF_OCC_PEAK (R6): the peak, which clears; a change of the occupancy sets it again. -/
def peakRead (d : Dev) (n : Nat) : Dev :=
  let a := Reg.BUF_OCC_PEAK n
  (d.emit (.readData a (d.rd a))).wr a 0

/-- Every BUF_ counter of a spar cleared (R174). -/
def bufClear (d : Dev) (n : Nat) : Dev :=
  let d1 := d.cntClr (Reg.C_BUF_REEF_DROP_RED n) 10
  if n = 0 then d1.cntClr Reg.C_BUF_POOL_EMPTY 2 else d1

/-- A slice scrubber reads a word (R172, R399). -/
def sliceScrub (d : Dev) (m : Nat) (w : ScrubWord) (e : Ecc) : Dev :=
  let src := match w with | .data _ => 26 | _ => 65 + 3 * m
  let (err, inj, d1) := d.injected src e
  match err with
  | .good => d1
  | .single => (d1.inc (Reg.C_BUF_ECC_CORR m)).flag src m inj true
  | .double => match w with
    | .data i => match SMap.get? (d1.sliceOf m).cells i with
      | some c => ((d1.updSlice m (fun y => { y with cells := SMap.put y.cells i { c with discard := true } })).inc
          (Reg.C_BUF_ECC_UNCORR_DROP m)).flag src m inj
      | none => d1.flag src m inj
    | _ => d1.flag src m inj

end Dev
end Sys2Proof.Machine
end

