-- ==== Sys2Proof/Machine/HostOps.lean ====
section
/-!
DEFINITION. Completion queues and their signals, the queues' settings, and the DMA request lines (R354–R357, R364, R365, R367).
-/
namespace Sys2Proof.Machine

namespace Dev

/-! Settings of R354. -/

/-- A field of an SQ's settings. -/
def sqf (d : Dev) (q w hi lo : Nat) : Nat := d.tf 0x0E01 0 q w hi lo
/-- A field of a CQ's settings. -/
def cqf (d : Dev) (c w hi lo : Nat) : Nat := d.tf 0x0E02 0 c w hi lo
/-- Entries of an SQ's ring. -/
def sqSize (d : Dev) (q : Nat) : Nat := 2 ^ d.sqf q 2 4 0
/-- KIND of an SQ: 0 disabled, 1 command, 2 receive. -/
def sqKind (d : Dev) (q : Nat) : Nat := d.sqf q 2 9 8
/-- The function of an SQ. -/
def sqFn (d : Dev) (q : Nat) : Nat := d.sqf q 2 15 10
/-- The CQ of an SQ. -/
def sqCq (d : Dev) (q : Nat) : Nat := d.sqf q 3 27 16
/-- Entries of a CQ's ring. -/
def cqSize (d : Dev) (c : Nat) : Nat := 2 ^ d.cqf c 2 4 0
/-- The function of a CQ. -/
def cqFn (d : Dev) (c : Nat) : Nat := d.cqf c 2 10 5
/-- HEAD of an SQ. -/
def sqHead (d : Dev) (q : Nat) : Nat := (d.rd (Reg.HQ_SQ_HEAD q)).toNat
/-- HEAD of an SQ advanced by one slot. -/
def headStep (d : Dev) (q : Nat) : Dev := d.wr (Reg.HQ_SQ_HEAD q) (wd ((d.sqHead q + 1) % d.sqSize q))
/-- The SQs that a table entry enables, in rising order. -/
def sqList (d : Dev) : List Nat :=
  ((d.tabs.filter (fun p => decide (tkey 0x0E01 0 0 ≤ p.1) && decide (p.1 < tkey 0x0E01 0 4096))).map (fun p => p.1 % 2 ^ 20)).filter
    (fun q => d.sqKind q == 1 || d.sqKind q == 2)
/-- Has a CQ a free slot (R359)? A disabled CQ has none (log 23). -/
def cqFree (d : Dev) (c : Nat) : Bool :=
  d.cqf c 2 11 11 == 1 && decide ((d.cq c).used + (d.cq c).reserved < d.cqSize c)
/-- A slot of a CQ reserved. -/
def cqReserve (d : Dev) (c : Nat) : Dev := d.updCq c (fun x => { x with reserved := x.reserved + 1 })

/-! Posting and signalling (R356, R364, R365). -/

/-- A CQ signals (R365): the mirror bit of a VF's CQ, source 32 under MODE 2, and an MSI-X message under MODE 1. -/
def cqSignal (d : Dev) (c : Nat) : Dev :=
  let f := d.cqFn c
  let mode := d.cqf c 2 13 12
  let d1 := d.updCq c (fun x => { x with unsignalled := 0, pend := if mode = 2 ∧ f = 0 then true else x.pend })
  let loc := d.cqf c 2 23 16
  let d2 := if f = 0 then d1 else d1.updFn f (fun x => { x with mirror := if x.mirror.contains loc then x.mirror else x.mirror ++ [loc] })
  if mode = 1 then d2.msix f (d.cqf c 3 10 0)
  else if mode = 2 ∧ f = 0 then d2.irqSync 32 else d2

/-- A completion entry written to its ring (R356): PHASE of this pass, and the post time of a job entry. -/
def postNow (d : Dev) (e : Cqe) : Dev :=
  let c := e.cq
  let x := d.cq c
  let tail := (d.rd (Reg.HQ_CQ_TAIL c)).toNat
  let w1 := setBit (e.words.getD 1 0) 31 x.phase
  let ws := e.words.set 1 w1
  let ws1 := if fld w1 15 8 = 1 then ws else (ws.set 4 (wd d.nowU)).set 5 (wd (d.nowU >>> 32))
  let next := (tail + 1) % d.cqSize c
  let addr := wide ((d.tab 0x0E02 0 c).take 2) + 32 * tail
  let d1 := (d.emit (.cqe c (d.cqFn c) addr ws1)).wr (Reg.HQ_CQ_TAIL c) (wd next)
  let d2 := (d1.inc Reg.C_HQ_CQE_POSTED).updCq c (fun y => { y with
    phase := if next = 0 then !y.phase else y.phase, used := y.used + 1, reserved := y.reserved - 1
    unsignalled := y.unsignalled + 1 })
  let mode := d.cqf c 2 13 12
  if (mode = 1 ∨ mode = 2) ∧ (atLeast1 (d.cqf c 3 18 11) ≤ x.unsignalled + 1 ∨ d.cqf c 3 31 19 = 0) then d2.cqSignal c
  else d2

/-- A completion posted, or held on chip while the host takes no write (R365). The first 512 held entries are in the store; the
others wait where they arose, in the same order (log 24). -/
def post (d : Dev) (e : Cqe) : Dev :=
  if d.host.taking && d.host.heldCqe.isEmpty then d.postNow e
  else d.updHost (fun h => { h with heldCqe := h.heldCqe ++ [e] })

/-- Can a routine post a completion, or must it stall before its commit point (R365)? -/
def cqeRoom (d : Dev) : Bool := d.host.taking || decide (d.host.heldCqe.length < 512)

/-- A job entry (TYPE 0) or abort copy (TYPE 2) for an entry of SQ `q` (R356). -/
def complete' (d : Dev) (cq q kind status : Nat) (job result : Word) (f : Nat) : Dev :=
  (if status = 1 then d.inc Reg.C_HQ_ABORTED else d).post
    { cq := cq, words := [job, wd (status + kind * 256 + q * 65536), wd (d.sqHead q), result, 0, 0, 0, wd f] }

/-- An entry of SQ `q` completes on the queue's own CQ. -/
def sqComplete (d : Dev) (q status : Nat) (job result : Word) : Dev := d.complete' (d.sqCq q) q 0 status job result 0

/-- STOPPED of an SQ follows (R362). -/
def stoppedSync (d : Dev) (q : Nat) : Dev :=
  d.bset (Reg.HQ_SQ_CTRL q) 4 (d.bget (Reg.HQ_SQ_CTRL q) 0 && decide ((d.sq q).running = 0))

/-- A dispatched entry of an SQ ends: completed, and no longer running. -/
def sqEnd (d : Dev) (q status : Nat) (job result : Word) : Dev :=
  ((d.updSq q (fun x => { x with running := x.running - 1 })).sqComplete q status job result).stoppedSync q

/-! DMA request lines (R367). -/

/-- A request counted at a paced channel: lost past 255. -/
def dmaRequest (d : Dev) (k : Nat) : Dev :=
  if (d.dma k).pend < 255 then
    (d.updDma k (fun x => { x with pend := x.pend + 1 })).fset (Reg.DMA_CH_STATUS k) 7 0 ((d.dma k).pend + 1)
  else (d.inc Reg.C_HQ_REQ_OVF).dmaEvent 1

/-- A line raises a request: at every active paced channel that has the line. -/
def lineRaise (d : Dev) (l : Nat) : Dev :=
  ((d.host.dmas.filter (fun p => p.2.active && p.2.paced && p.2.line == l)).map (·.1)).foldl dmaRequest d

end Dev
end Sys2Proof.Machine
end

