-- ==== Sys2Proof/Machine/MemOps.lean ====
section
/-!
DEFINITION. Accesses to frame memory (R329–R332, R338, R339, R344): the address map, holes, tenants' group masks, double-bit
errors and their latch, and the activation counts.
-/
namespace Sys2Proof.Machine

/-- An address of 37 bits (R329). -/
def addr37 (a : Nat) : Nat := a % 2 ^ 37
/-- The group of an address (R329). -/
def groupOf (a : Nat) : Nat := bits a 36 33
/-- Does an address lie in a hole (R331)? -/
def isHole (a : Nat) : Bool := bits a 32 31 == 3
/-- The pseudo-channel of an address, device-wide (R329, R330). -/
def pcOf (a : Nat) : Nat := 8 * groupOf a + (bits a 10 8 ^^^ bits a 23 21)
/-- The bank of an address in its pseudo-channel: SID, then bank group and bank (R330). -/
def bankOf (a : Nat) : Nat := 16 * bits a 32 31 + (bits a 16 13 ^^^ bits a 20 17)
/-- The row of an address (R330). -/
def rowOf (a : Nat) : Nat := bits a 30 17

namespace Dev

/-- An access to a hole (R331), or a write to the reserved region (R332). -/
def holeHit (d : Dev) : Dev := (d.inc Reg.C_FMC_HOLE_ACCESS).fmcEvent 5

/-- Does a run of bytes touch a hole? -/
def touchesHole (a n : Nat) : Bool := isHole a || isHole (a + n - 1)

/-- A tenant's group mask (R344, R350). -/
def groupMask (d : Dev) (t : Nat) : Nat := d.tf 0x0D01 0 t 0 15 0
/-- Is an access of tenant `t` refused (R344)? Tenant 0 is none. -/
def isoRefused (d : Dev) (t a n : Nat) : Bool :=
  d.bget Reg.FMC_CFG 0 && decide (0 < t) && (!bit (d.groupMask t) (groupOf a) || !bit (d.groupMask t) (groupOf (a + n - 1)))

/-- The bursts of a run that hold an error, in rising order (R339). -/
def burstErrs (d : Dev) (a n : Nat) : List Nat :=
  sortBy (fun x y => decide (x ≤ y)) ((d.fmem.bad ++ d.fmem.single).filter (fun x => decide (a ≤ x * 32 + 31) && decide (x * 32 < a + n)))

/-- A double-bit error counted, latched and reported (R339, R348); `inj` where an injection made it. -/
def uncorr (d : Dev) (unit port : Nat) (scrub inj : Bool) : Dev :=
  let d1 := (d.inc Reg.C_FMC_UNCORR_CNT).fmcEvent 1
  let d2 := if d1.bget Reg.FMC_ERR_INFO 31 then d1.bset Reg.FMC_ERR_INFO 30 true
    else ((d1.wr Reg.FMC_ERR_ADDR_LO (wd (unit * 32))).wr Reg.FMC_ERR_ADDR_HI (wd (unit * 32 / 2 ^ 32))).wr Reg.FMC_ERR_INFO
      (setBit (wd (2 ^ 31 + b2n scrub * 512 + port)) 30 (d1.bget Reg.FMC_ERR_INFO 30))
  d2.flag 29 unit inj false port

/-- A single-bit error: corrected and counted, Grey (R339). -/
def corr (d : Dev) (unit : Nat) (inj : Bool) : Dev := ((d.inc Reg.C_FMC_CORR_CNT).fmcEvent 0).flag 29 unit inj true

/-- An armed injection of source 29 taken by an access to a burst (R399): the error stays in the burst until it is written. -/
def injectBurst (d : Dev) (u : Nat) : Dev :=
  if !d.armed 29 then d
  else
    let m := d.fmem
    let one := d.injMode && !m.bad.contains u
    { d.disarm with fmem := { m with
        bad := if one || m.bad.contains u then m.bad else m.bad ++ [u]
        single := if one then (if m.single.contains u then m.single else m.single ++ [u]) else m.single.filter (fun x => x != u) } }

/-- A port finds an error in a burst (R339); `inj` where an injection made it. -/
def burstErr (d : Dev) (port : Nat) (inj : Bool) (u : Nat) : Dev :=
  if d.fmem.bad.contains u then d.uncorr u port false inj else d.corr u inj

/-! Activations (R338). -/

/-- Row-hammer threshold (R348). -/
def rhThr (d : Dev) : Nat := max 512 (d.fget Reg.FMC_RH_CFG 15 0)
/-- The key of a row of a bank. -/
def rowKey (a : Nat) : Nat := (pcOf a * 48 + bankOf a) * 16384 + rowOf a

/-- Activations of a row by a port, in both its classes. -/
def portActs (d : Dev) (row port : Nat) : Nat :=
  SMap.get (fun _ => 0) d.fmem.actPort (row * 1024 + port * 2) + SMap.get (fun _ => 0) d.fmem.actPort (row * 1024 + port * 2 + 1)
/-- The port with the most activations of a row, the lowest of equals, with a bit that is 1 where its activations there were WALL or
DEADLINE for the most part. -/
def topPort (d : Dev) (row : Nat) : Option Nat :=
  (((d.fmem.actPort.filter (fun p => p.1 / 1024 == row)).map (fun p => p.1 % 1024 / 2)).foldl (fun (b : Option Nat) p =>
    match b with
    | none => some p
    | some q => if d.portActs row q < d.portActs row p then some p else some q) none).map (fun p =>
      2 * p + b2n (decide (d.portActs row p ≤ 2 * SMap.get (fun _ => 0) d.fmem.actPort (row * 1024 + p * 2 + 1))))

/-- Does a WALL request wait for a bank? -/
def wallWaits (d : Dev) (k : Nat) : Bool := (SMap.get (fun _ => []) d.fmem.queues k).any (fun e => e.cls == 3)
/-- An RFM is due at a bank (R336, R338): while a WALL request waits for the bank, one maintenance operation at most is issued; another is owed. -/
def rfmDue (d : Dev) (k : Nat) : Dev :=
  if d.wallWaits k && d.fmem.wallMaint.contains k then { d with fmem := { d.fmem with rfmOwed := d.fmem.rfmOwed ++ [k] } }
  else
    let d1 : Dev := { d with fmem := { d.fmem with wallMaint := if d.wallWaits k then d.fmem.wallMaint ++ [k] else d.fmem.wallMaint } }
    d1.emit (.rfm (k / 48) (k % 48))
/-- The RFM that a bank is owed, once it may have one. -/
def rfmPay (d : Dev) (k : Nat) : Dev :=
  if d.fmem.rfmOwed.contains k && !(d.wallWaits k && d.fmem.wallMaint.contains k) then
    ({ d with fmem := { d.fmem with rfmOwed := d.fmem.rfmOwed.erase k } } : Dev).rfmDue k
  else d

/-- An activation by a port of a row (R338): at the threshold RFM is issued, and a NORMAL or BACKGROUND top port is throttled. -/
def activate (d : Dev) (a port : Nat) (urgent : Bool) : Dev :=
  let row := rowKey a
  let n := SMap.get (fun _ => 0) d.fmem.acts row + 1
  let d1 : Dev := { d with fmem := { d.fmem with
    acts := SMap.put d.fmem.acts row n
    actPort := SMap.upd (fun _ => 0) d.fmem.actPort (row * 1024 + port * 2 + b2n urgent) (· + 1) } }
  if n = d.rhThr then
    let d2 := (d1.inc Reg.C_FMC_RH_RFM).rfmDue (pcOf a * 48 + bankOf a)
    match d1.topPort row with
    | some p =>
      if p % 2 = 1 then d2
      else (({ d2 with fmem := { d2.fmem with throttled := d2.fmem.throttled ++ [(pcOf a * 48 + bankOf a, p / 2)] } } : Dev).inc
        Reg.C_FMC_RH_THROTTLE).fmcEvent 3
    | none => d2
  else d1

/-! Reads and writes by a port of R341. -/

/-- Does a run of bytes reach a pseudo-channel (R330)? A run of 4 KiB reaches all eight of a group. -/
def reaches (a n k : Nat) : Bool :=
  if 4096 ≤ n then decide (groupOf a ≤ k / 8) && decide (k / 8 ≤ groupOf (a + n - 1))
  else (upto (n / 256 + 2)).any (fun i => pcOf (min (a + 256 * i) (a + n - 1)) == k)
/-- A request queued for pseudo-channels ungates their clocks (R26). -/
def granted (d : Dev) (a n : Nat) : Dev := d.ungateIf (fun b => match b with | .pseudo k => reaches a n k | _ => false)

/-- The bytes of a run read with their check bits (R339). -/
def readBytes (d : Dev) (port a n : Nat) : Bytes × Bool × Dev :=
  let d1 := d.injectBurst (a / 32)
  let errs := d1.burstErrs a n
  (d.fmRead a n, errs.any d1.fmem.bad.contains, errs.foldl (fun x u => x.burstErr port (d.armed 29 && u == a / 32) u) d1)
/-- A read of `n` bytes (R331, R339): the bytes, whether a double-bit error was in them, and the device after it. -/
def memRead (d : Dev) (port a n : Nat) (urgent : Bool) : Bytes × Bool × Dev :=
  if touchesHole a n then ((upto n).map (fun i => if isHole (a + i) then 0 else d.fmByte (a + i)), false, d.holeHit)
  else ((d.granted a n).activate a port urgent).readBytes port a n

/-- The burst that a write first reads to merge its bytes into, where it writes one in part (R339). -/
def partBurst? (a n : Nat) : Option Nat :=
  if a % 32 ≠ 0 then some (a / 32) else if (a + n) % 32 ≠ 0 then some ((a + n) / 32) else none

/-- Bytes written with their check bits (R339): a burst that is written in part is read first, so a single-bit error is corrected, and a
double-bit error is counted and stays. -/
def writeBytes (d : Dev) (port a : Nat) (bs : Bytes) : Dev :=
  let first := partBurst? a bs.length
  let d1 := match first with
    | some u => d.injectBurst u
    | none => d
  let part := (d1.burstErrs a bs.length).filter (fun x => !(decide (a ≤ x * 32) && decide (x * 32 + 32 ≤ a + bs.length)))
  let d2 := part.foldl (fun x u => x.burstErr port (d.armed 29 && first == some u) u) d1
  { d2.fmWrite a bs with fmem := { (d2.fmWrite a bs).fmem with
      single := (d2.fmWrite a bs).fmem.single.filter (fun x => !part.contains x) } }
/-- A write of bytes (R331, R339); holes discard it. -/
def memWrite (d : Dev) (port a : Nat) (bs : Bytes) : Dev :=
  if bs.isEmpty then d
  else if touchesHole a bs.length then d.holeHit
  else ((d.granted a bs.length).activate a port false).writeBytes port a bs

end Dev
end Sys2Proof.Machine
end

