-- ==== Sys2Proof/Machine/Operands.lean ====
section
/-!
DEFINITION. The operand forms of the engines' microwords: micro-registers, immediates, the operand space, unit registers and the
addresses of LD and ST (R227, R229).
-/
namespace Sys2Proof.Machine

/-- A micro-register: r0 reads zero (R229). -/
def Engine.reg (x : Engine) (i : Nat) : Word := if i = 0 then 0 else SMap.get (fun _ => 0) x.uregs i
/-- A micro-register written: a write to r0 is discarded (R229). -/
def Engine.setReg (x : Engine) (i : Nat) (v : Word) : Engine :=
  if i = 0 then x else { x with uregs := SMap.set (fun _ => 0) x.uregs i v }

/-- The second operand of an ALU form: a register, or the immediate sign-extended (R227). -/
def Engine.operandB (x : Engine) : Alu → Word
  | .reg _ _ rb _ _ => x.reg rb
  | .imm _ _ _ v => v.signExtend 32
/-- The first operand of an ALU form. -/
def Engine.operandA (x : Engine) : Alu → Word
  | .reg _ ra _ _ _ => x.reg ra
  | .imm _ ra _ _ => x.reg ra
/-- The destination register of an ALU form. -/
def Alu.dest : Alu → Nat
  | .reg rd _ _ _ _ => rd
  | .imm rd _ _ _ => rd
/-- Does the form select paired lanes? -/
def Alu.paired : Alu → Bool
  | .reg _ _ _ p _ => p
  | .imm _ _ _ _ => false
/-- Does the form update the flags? -/
def Alu.flags : Alu → Bool
  | .reg _ _ _ _ f => f
  | .imm _ _ f _ => f
/-- The registers that a form names: its operands and its destination (a tail may name r1–r47 alone, R236). -/
def Alu.regs : Alu → List Nat
  | .reg rd ra rb _ _ => [rd.val, ra.val, rb.val]
  | .imm rd ra _ _ => [rd.val, ra.val]
/-- The form of an operation of one operand, NEG or ABS: it has no RB (R231). -/
def Alu.unary : Alu → Alu
  | .reg rd ra _ p f => .reg rd ra ra p f
  | .imm rd ra f v => .imm rd ra f v

/-- The address of LD and ST: OFF sign-extended and added as a 32-bit sum (R229). -/
def Engine.index (x : Engine) (ra : Nat) (off : BitVec 13) : Nat := (x.reg ra + off.signExtend 32).toNat

namespace Dev

/-- The gang of an engine (R245): the first whose mask names it. -/
def gangOf (d : Dev) (e : Nat) : Option Nat :=
  (upto 64).find? (fun g => wbit ((d.tab 0x0902 0 g).getD (e / 32) 0) (e % 32))
/-- The engines of a gang on this device, in rising order. -/
def gangMembers (d : Dev) (g : Nat) : List Nat :=
  (upto 128).filter (fun e => wbit ((d.tab 0x0902 0 g).getD (e / 32) 0) (e % 32))
/-- The size of a gang across the stack (R249); 0 acts as the number of its local members. -/
def gangSize (d : Dev) (g : Nat) : Nat :=
  let n := d.tf 0x0902 0 g 4 4 0
  if n = 0 then (d.gangMembers g).length else n
/-- The member index of an engine: its place in the mask; on a stack member, the last indices are the local ones (log 25). -/
def memberIndex (d : Dev) (e : Nat) : Nat :=
  match d.gangOf e with
  | none => 0
  | some g =>
    let ms := d.gangMembers g
    let k := (ms.filter (fun x => decide (x < e))).length
    if d.fuses.stackId = 0 then k else d.gangSize g - ms.length + k

/-- CE_GANG of an engine as its registers show it (R247). -/
def gangWord (d : Dev) (e : Nat) : Word :=
  match d.gangOf e with
  | none => wd 0x21000
  | some g =>
    let i := d.memberIndex e
    wd (b2n (i == 0) * 2 ^ 17 + d.gangSize g % 32 * 2 ^ 12 + i % 16 * 256 + 64 + g)

/-- A word of the operand space (R229): the command's halves, then what the engine, the gang and the job are. -/
def operandWord (d : Dev) (e i : Nat) : Word :=
  let x := d.engine e
  let k := x.cur.getD 0
  let c := d.ctx e k
  if i < 8 then x.cmd.getD i 0
  else match i with
  | 8 => wd e
  | 9 => wd ((d.gangOf e).getD 0)
  | 10 => wd (d.memberIndex e)
  | 11 => wd (match d.gangOf e with | some g => d.gangSize g | none => 1)
  | 12 => d.rd Reg.GLB_PERIOD_COUNT
  | 13 => wd (if k = 0 then 1024 + e else c.owner)
  | 14 => wd c.tenant
  | _ => c.job

end Dev
end Sys2Proof.Machine
end

