-- ==== Sys2Proof/Machine/Flags.lean ====
section
/-!
DEFINITION. The arithmetic of the engines and every flag of it (R231, R232): each operation at a width, as a result with C, V and
DZ, and the paired form over two 16-bit lanes.
-/
namespace Sys2Proof.Machine

/-- The result of an operation at a width: its bits, carry, overflow, and division by zero. -/
structure AluOut where
  val : Nat
  c : Bool := false
  v : Bool := false
  dz : Bool := false
  deriving DecidableEq, Repr

/-- An exact result narrowed to `w` bits; V where it does not fit. -/
def narrow (w : Nat) (x : Int) : AluOut := { val := unsgn w x, v := decide (sgn w (unsgn w x) ≠ x) }

/-- The most negative value of a width. -/
def minSgn (w : Nat) : Int := -(2 ^ (w - 1) : Nat)

/-- ADD (R231). -/
def aluAdd (w a b : Nat) : AluOut := { narrow w (sgn w a + sgn w b) with c := decide (2 ^ w ≤ a + b) }
/-- SUB (R231). -/
def aluSub (w a b : Nat) : AluOut := { narrow w (sgn w a - sgn w b) with c := decide (a < b) }
/-- AND (R231). -/
def aluAnd (_ a b : Nat) : AluOut := { val := a &&& b }
/-- OR (R231). -/
def aluOr (_ a b : Nat) : AluOut := { val := a ||| b }
/-- XOR (R231). -/
def aluXor (_ a b : Nat) : AluOut := { val := a ^^^ b }
/-- The shift count: the low 6 bits of RB, the low 5 in a lane of 16 bits (R232). -/
def shiftCount (w b : Nat) : Nat := b % (2 * w)
/-- SHL: V where a set bit leaves (R231, R232). -/
def aluShl (w a b : Nat) : AluOut :=
  let x := a <<< shiftCount w b
  { val := x % 2 ^ w, v := decide (2 ^ w ≤ x) }
/-- SHR (R231, R232). -/
def aluShr (w a b : Nat) : AluOut := { val := a >>> shiftCount w b }
/-- SAR (R231, R232). -/
def aluSar (w a b : Nat) : AluOut := { val := unsgn w (sgn w a / (2 ^ shiftCount w b : Nat)) }
/-- NEG (R231, R232). -/
def aluNeg (w a _ : Nat) : AluOut := narrow w (-sgn w a)
/-- MUL: the low half of the signed product (R231). -/
def aluMul (w a b : Nat) : AluOut := narrow w (sgn w a * sgn w b)
/-- MULH: the high half of the signed product (R231). -/
def aluMulh (w a b : Nat) : AluOut := { val := unsgn w (sgn w a * sgn w b / (2 ^ w : Nat)) }
/-- DIV, rounded toward zero (R231, R232). -/
def aluDiv (w a b : Nat) : AluOut :=
  if sgn w b = 0 then { val := if sgn w a < 0 then 2 ^ (w - 1) else 2 ^ (w - 1) - 1, dz := true }
  else narrow w ((sgn w a).tdiv (sgn w b))
/-- REM, with the sign of the dividend (R231, R232). -/
def aluRem (w a b : Nat) : AluOut :=
  if sgn w b = 0 then { val := a, dz := true } else { val := unsgn w ((sgn w a).tmod (sgn w b)) }
/-- MIN, signed (R231). -/
def aluMin (w a b : Nat) : AluOut := { val := if sgn w a ≤ sgn w b then a else b }
/-- MAX, signed (R231). -/
def aluMax (w a b : Nat) : AluOut := { val := if sgn w a ≤ sgn w b then b else a }
/-- ABS (R231, R232). -/
def aluAbs (w a _ : Nat) : AluOut := narrow w ((sgn w a).natAbs : Int)

/-- An operation over the whole word, or over two independent lanes whose V and C are joined (R231). -/
def aluRun (f : Nat → Nat → Nat → AluOut) (paired : Bool) (a b : Word) : AluOut :=
  if paired then
    let lo := f 16 (a.toNat % 65536) (b.toNat % 65536)
    let hi := f 16 (a.toNat / 65536) (b.toNat / 65536)
    { val := hi.val * 65536 + lo.val, c := lo.c || hi.c, v := lo.v || hi.v, dz := lo.dz || hi.dz }
  else f 32 a.toNat b.toNat

/-- The flags after an operation with F = 1: Z and N from the whole result, C and V; DZ where the operation divides (R231). -/
def Engine.setFlags (x : Engine) (o : AluOut) (divides : Bool) : Engine :=
  { x with z := decide (o.val % 2 ^ 32 = 0), nf := bit o.val 31, c := o.c, v := o.v, dz := if divides then o.dz else x.dz }

/-- The condition of a BR (R228). -/
def Engine.holds (x : Engine) (cond : Nat) : Bool :=
  match cond with
  | 0 => true
  | 1 => x.z
  | 2 => !x.z
  | 3 => x.nf
  | 4 => !x.nf
  | 5 => x.c
  | 6 => !x.c
  | 7 => x.v
  | 8 => !x.v
  | 9 => x.dz
  | 10 => x.iv
  | 11 => !x.iv
  | 12 => x.il
  | 13 => !x.il
  | 14 => !x.dz
  | _ => false

end Sys2Proof.Machine
end

