-- ==== Sys2Proof/Machine/EngineOps.lean ====
section
/-!
DEFINITION. A coding engine's life: readiness, the start and end of routines, commit, abandonment, exceptions, job ends, machine
checks, gangs and barriers (R225–R246).
-/
namespace Sys2Proof.Machine

/-- An engine with no routine: working registers, scratch, the open stage, notices and units as at rest (R238). -/
def Engine.rest (x : Engine) : Engine :=
  { x with uregs := [], z := false, nf := false, c := false, v := false, dz := false, iv := false, il := false
           stack := [], scratch := [], cur := none, committed := false, tail := 0, replay := 0, openStage := []
           unitBusy := [], unitRegs := [], notices := [], gsync := [], stall := .none, changes := [], post := none }

namespace Dev

/-! Readiness (R225). -/

/-- Is an engine fenced: by its own fence, a load, Black, a reaction, or for having failed (R42, R51, R242, R393)? -/
def engFenced (d : Dev) (e : Nat) : Bool :=
  d.bget (Reg.CE_CMD e) 1 || d.loader.fence || d.inBlack || d.fault.fencedEngines.contains e || (d.engine e).failed
/-- Can an engine take work at all? -/
def engUsable (d : Dev) (e : Nat) : Bool := d.bget (Reg.CE_CFG e) 0 && !d.engFenced e
/-- The priority of context `k` (R225). -/
def ctxPrio (d : Dev) (e k : Nat) : Nat := if k = 0 then d.fget (Reg.CE_CFG e) 5 4 else (d.ctx e k).prio
/-- The number of commands in the list of context `k`. -/
def ctxCount (d : Dev) (e k : Nat) : Nat := if k = 0 then d.fget (Reg.CE_INLET_LEN e) 15 0 else (d.ctx e k).count
/-- The byte address of the list of context `k`. -/
def ctxList (d : Dev) (e k : Nat) : Nat := (if k = 0 then (d.rd (Reg.CE_INLET_LIST e)).toNat else (d.ctx e k).list) * 32
/-- The segment of context `k`, in 4 KiB units. -/
def ctxSeg (d : Dev) (e k : Nat) : Nat := if k = 0 then (d.rd (Reg.CE_INLET_SEG e)).toNat else (d.ctx e k).seg
/-- Is context `k` ready to run, or to restart? Context 0 is, while its list has commands (R225, R247). -/
def ctxReady (d : Dev) (e k : Nat) : Bool :=
  let s := (d.ctx e k).state
  if k = 0 then decide (0 < d.ctxCount e 0) && (s == 0 || s == 1 || s == 4) else s == 1 || s == 4

/-- The context to run next (R225): the highest priority; among equals one that resumes, then in rotation. -/
def pickCtx (d : Dev) (e : Nat) : Option Nat :=
  let last := (d.engine e).lastCtx
  let order := (upto 4).map (fun i => (last + 1 + i) % 4)
  let rank := fun (k : Nat) => 2 * d.ctxPrio e k + b2n (d.ctx e k).resumed
  (order.filter (d.ctxReady e)).foldl (fun (b : Option Nat) k =>
    match b with
    | none => some k
    | some j => if rank j < rank k then some k else some j) none

/-- The running context. -/
def curOf (d : Dev) (e : Nat) : Nat := (d.engine e).cur.getD 0

/-! Ends of jobs (R359, R245). -/

/-- The contexts of a job: the one of an engine, or one on every member of its gang. -/
def jobCtxs (d : Dev) (e k : Nat) : List (Nat × Nat) :=
  let c := d.ctx e k
  match c.gang with
  | none => [(e, k)]
  | some g => (d.gangMembers g).filterMap (fun m =>
      ((upto 4).find? (fun j => let x := d.ctx m j
        decide (0 < j) && x.state != 0 && x.gang == some g && x.sq == c.sq && x.job == c.job)).map (fun j => (m, j)))

/-- A context freed; an engine that was running it is at rest. -/
def freeCtx (d : Dev) (e k : Nat) : Dev :=
  d.updEngine e (fun x =>
    let y := if x.cur = some k then x.rest else x
    { y with ctxs := SMap.erase y.ctxs k })

/-- A context of a job reaches its end at a commit. The entry completes when the last member has ended, with the status of the
lowest member (log 26). -/
def jobEnd (d : Dev) (e k status : Nat) (result : Word) : Dev :=
  let c := d.ctx e k
  let d1 := d.updCtx e k (fun x => { x with ended := some (status, result) })
  let all := d1.jobCtxs e k
  if all.all (fun p => (d1.ctx p.1 p.2).ended.isSome) then
    let r := match all with
      | (m, j) :: _ => (d1.ctx m j).ended.getD (status, result)
      | [] => (status, result)
    d1.sqEnd c.sq r.1 c.job r.2
  else d1

/-- The generation released at a barrier. -/
def released (d : Dev) (g b : Nat) : Nat := SMap.get (fun _ => 0) d.stack.gangGen (g * 16 + b)
/-- The generation at which a member has arrived. -/
def arrivedAt (d : Dev) (g b m : Nat) : Nat := SMap.get (fun _ => 0) d.stack.arrived ((g * 16 + b) * 16 + m)

/-- The arrivals of a gang that wait for their release are forgotten, as the job that made them is abandoned (R245). -/
def gangReset (d : Dev) (g : Nat) : Dev :=
  { d with stack := { d.stack with arrived := (upto 256).foldl (fun x i =>
      if SMap.get (fun _ => 0) x (g * 256 + i) ≤ d.released g (i / 16) then x
      else SMap.set (fun _ => 0) x (g * 256 + i) (d.released g (i / 16))) d.stack.arrived } }

/-- A job ends in failure: abandoned on every member, completed once (R245, R243, R242). -/
def jobFail (d : Dev) (e k status : Nat) (result : Word) : Dev :=
  let c := d.ctx e k
  let all := d.jobCtxs e k
  let d1 := all.foldl (fun x p =>
    let y := x.freeCtx p.1 p.2
    if c.gang.isSome then y.ceEvent p.1 5 else y) (d.freeCtx e k)
  (match c.gang with | some g => d1.gangReset g | none => d1).sqEnd c.sq status c.job result

/-! Context 0 after an exception (R244). -/

/-- The failing command of context 0 skipped: the hold is emptied and the index advances. -/
def inletSkip0 (d : Dev) (e : Nat) : Dev :=
  let n := atLeast1 (d.ctxCount e 0)
  ((d.updEngine e (fun x => { x with hold := [], replay := 0 })).updCtx e 0 (fun c =>
    { c with state := 1, cmdIdx := (c.cmdIdx + 1) % n, fails := 0 })).inc (Reg.C_CE_INLET_SKIPS e)
/-- Context 0 halts and keeps its hold. -/
def inletHalt (d : Dev) (e : Nat) : Dev := d.updCtx e 0 (fun c => { c with state := 5 })
/-- Context 0 acts by INLET_SKIP (R244). -/
def inletFail (d : Dev) (e : Nat) : Dev := if d.bget (Reg.CE_CFG e) 12 then d.inletSkip0 e else d.inletHalt e

/-! The end of a routine (R227, R236). -/

/-- END after the commit point: the context is ready again, or free where its job has ended. -/
def routineEnd (d : Dev) (e : Nat) : Dev :=
  match (d.engine e).cur with
  | none => d
  | some k =>
    if (d.ctx e k).ended.isSome && decide (0 < k) then d.freeCtx e k
    else (d.updEngine e Engine.rest).updCtx e k (fun c => { c with state := 1, resumed := false })

/-- The running routine abandoned before its commit point (R238): the context waits to restart; the hold is kept. -/
def abandon (d : Dev) (e : Nat) (resumed : Bool) : Dev :=
  match (d.engine e).cur with
  | none => d
  | some k => (d.updEngine e Engine.rest).updCtx e k (fun c => { c with state := 4, resumed := resumed })

/-- An abandonment by a fault (R238, R242): a command abandoned RETRY_MAX times in a row fails its job. -/
def faultAbandon (d : Dev) (e : Nat) : Dev :=
  match (d.engine e).cur with
  | none => d
  | some k =>
    if (d.engine e).committed then d.routineEnd e
    else
      let n := (d.ctx e k).fails + 1
      let d1 := ((d.abandon e false).updCtx e k (fun c => { c with fails := n })).inc (Reg.C_CE_AB_FAULT e)
      if atLeast1 (d.fget (Reg.CE_CFG e) 11 8) ≤ n then
        let d2 := d1.ceEvent e 4
        if k = 0 then d2.inletFail e else d2.jobFail e k 3 0
      else d1

/-! Exceptions (R243). -/

/-- The CE_EXC word of an exception. -/
def excWord (k detail code mpc : Nat) : Word := wd (2 ^ 31 + k * 2 ^ 28 + detail * 2 ^ 20 + code * 65536 + mpc)

/-- An exception latched: the first is kept, a later one sets OVF; EXC and its source. -/
def excLatch (d : Dev) (e : Nat) (w : Word) : Dev :=
  let a := Reg.CE_EXC e
  let d1 := if d.bget a 31 then d.bset a 30 true else d.wr a w
  (d1.inc (Reg.C_CE_EXC_CNT e)).ceEvent e 1

/-- An engine fails (R30, R242): its jobs complete with an error status, and it takes no work until the next full image. -/
def engineFail (d : Dev) (e : Nat) : Dev :=
  let d0 := if (d.engine e).committed then d.routineEnd e else d.abandon e false
  [1, 2, 3].foldl (fun x k => if (x.ctx e k).state != 0 then x.jobFail e k 3 0 else x)
    (d0.updEngine e (fun x => { x with failed := true, reloading := false }))

/-- An exception of the running routine (R242–R244). Codes 1 to 10 end the job; 11 and 12 restart the command; 13 fails the
engine. A routine that had committed counts as committed (R236). -/
def exception (d : Dev) (e code detail : Nat) : Dev :=
  match (d.engine e).cur with
  | none => d
  | some k =>
    let w := excWord k detail code (d.engine e).mpc
    let d1 := d.excLatch e w
    let done := (d.engine e).committed
    if code = 13 then
      d1.engineFail e
    else if code = 11 ∨ code = 12 then d1.faultAbandon e
    else if k = 0 then
      if done then
        let d2 := d1.routineEnd e
        if d2.bget (Reg.CE_CFG e) 12 then d2 else d2.inletHalt e
      else (d1.abandon e false).inletFail e
    else if done && (d.ctx e k).ended.isSome then d1.routineEnd e
    else d1.jobFail e k 2 w

/-! Starting a routine (R226). -/

/-- The registers of a routine at its start: r48–r63 from A0–A15. -/
def startRegs (a : List Word) : SMap Word :=
  (upto 16).foldl (fun m i => SMap.set (fun _ => 0) m (48 + i) (a.getD i 0)) []

/-- The sequencer starts the routine of a command of the chosen context (R226). -/
def routineStart (d : Dev) (e : Nat) : Dev :=
  let x := d.engine e
  if !d.engUsable e || x.reloading || x.cur.isSome then d
  else match d.pickCtx e with
  | none => d
  | some k =>
    let c := d.ctx e k
    let a := addr37 (d.ctxList e k + 32 * c.cmdIdx)
    let (bs, bad, d1) := d.memRead e a 32 (decide (d.fget Reg.FMC_CFG 5 4 ≤ d.ctxPrio e k))
    let ws := wordsOf bs
    let entry := (d.tab 0x0901 e (fld (ws.getD 1 0) 31 24)).getD 0 0
    let d2 := (d1.updEngine e (fun y => { y.rest with
        uregs := startRegs c.a, cur := some k, lastCtx := k, cmd := ws, mpc := fld entry 12 0 })).updCtx e k (fun z =>
      { z with state := 2, resumed := false, prio := d.ctxPrio e k })
    let d3 := d2.inc (Reg.C_CE_COMMANDS e)
    if touchesHole a 32 || bad then d3.exception e 11 0
    else if !wbit entry 31 then d3.exception e 2 0 else d3

/-- Preemption (R238): a routine before its commit point gives way to a ready context of higher priority. -/
def preempt (d : Dev) (e : Nat) : Dev :=
  match (d.engine e).cur with
  | none => d
  | some k =>
    if d.bget (Reg.CE_CFG e) 3 && !(d.engine e).committed
        && (upto 4).any (fun j => d.ctxReady e j && decide (d.ctxPrio e k < d.ctxPrio e j)) then
      (d.abandon e true).inc (Reg.C_CE_AB_PREEMPT e)
    else d

/-! Commit (R236). -/

/-- A notice delivered (R227, R246, R367). -/
def notice (d : Dev) (e k code : Nat) : Dev :=
  let d1 := (d.wr (Reg.CE_NOTE e) (wd (k * 128 + code))).ceEvent e 0
  ((upto 64).filter (fun i => d1.tf 0x0E04 0 i 0 15 15 == 1 && d1.tf 0x0E04 0 i 0 6 0 == e && d1.tf 0x0E04 0 i 0 14 8 == code)
    ).foldl (fun x i => x.lineRaise (32 + i)) d1

/-- Does the next commit of the running routine end its job, or post its completion? -/
def commitEnds (d : Dev) (e : Nat) (fin : Option (Nat × Word)) : Bool :=
  let k := d.curOf e
  decide (0 < k) && (fin.isSome || decide (d.ctxCount e k ≤ (d.ctx e k).cmdIdx + 1))

/-- The commit of the running routine (R236), with what a COMPLETE posts; the state changes that its unit registers name take effect
(R241). -/
def commitNow (d : Dev) (e : Nat) (fin : Option (Nat × Word)) : Dev :=
  let x := d.engine e
  let k := d.curOf e
  let n := atLeast1 (d.ctxCount e k)
  let idx := (d.ctx e k).cmdIdx + 1
  let d1 := d.updCtx e k (fun c => { c with
    a := (upto 16).map (fun i => x.reg (48 + i))
    cmdIdx := if k = 0 then idx % n else idx
    fails := 0
    gens := x.gsync.foldl (fun m p => SMap.set (fun _ => 0) m p.1 p.2) c.gens })
  let d2 := d1.updEngine e (fun y => { y with
    committed := true, tail := 0, replay := 0, notices := [], gsync := []
    hold := if k = 0 then [] else y.hold
    sealedStages := if y.openStage.isEmpty then y.sealedStages else y.sealedStages ++ [(k, y.openStage)]
    openStage := [] })
  let d2' := x.changes.foldl (fun y p => y.memWrite e (addr37 (y.ctxSeg e k * 4096 + 4 * p.1.toNat)) (leBytes 4 p.2.toNat))
    (d2.updEngine e (fun y => { y with changes := [], post := none }))
  let d3 := x.notices.foldl (fun y code => y.notice e k code) (d2'.inc (Reg.C_CE_COMMITS e))
  if d.commitEnds e fin && (d.ctx e k).ended.isNone then
    match fin with
    | some (st, r) => d3.jobEnd e k st r
    | none => d3.jobEnd e k 0 0
  else d3

/-- A commit, which stalls while a completion that it would post has no room (R365). True where it committed. -/
def commitTry (d : Dev) (e : Nat) (fin : Option (Nat × Word)) : Bool × Dev :=
  if d.commitEnds e fin && !d.cqeRoom then (false, d.updEngine e (fun x => { x with stall := .hostStore }))
  else (true, (d.commitNow e fin).updEngine e (fun x => { x with stall := .none }))

/-- A standard command reaches its commit point and ends (R239, R240). -/
def commandDone (d : Dev) (e : Nat) (fin : Option (Nat × Word)) : Dev :=
  match d.commitTry e fin with
  | (true, d1) => d1.routineEnd e
  | (false, d1) => d1

/-! The segment of the running context (R229, R237, R344). -/

/-- The byte address of word `i` of the running context's segment. -/
def segAddr (d : Dev) (e i : Nat) : Nat := addr37 (d.ctxSeg e (d.curOf e) * 4096 + 4 * i)
/-- The tenant whose group mask an access of the running context is checked against: none for context 0 (R344). -/
def segTenant (d : Dev) (e : Nat) : Nat := if d.curOf e = 0 then 0 else (d.ctx e (d.curOf e)).tenant
/-- Are the reads of the running context DEADLINE (R341)? -/
def segUrgent (d : Dev) (e : Nat) : Bool := decide (d.fget Reg.FMC_CFG 5 4 ≤ d.ctxPrio e (d.curOf e))
/-- Is word `i` inside the command's window (R237)? -/
def inWin (d : Dev) (e i : Nat) : Bool :=
  let c := (d.engine e).cmd
  decide (wAt c 6 ≤ i) && decide (i ≤ wAt c 7)

/-- Do words `i` to `i + n - 1` of the segment meet the command's window (R237)? -/
def winMeets (d : Dev) (e i n : Nat) : Bool :=
  let c := (d.engine e).cmd
  decide (0 < n) && decide (wAt c 6 ≤ wAt c 7) && decide (i ≤ wAt c 7) && decide (wAt c 6 < i + n)
/-- `n` words of the segment read; an exception where the access is refused, in a hole or uncorrectable (R331, R339, R344). -/
def segRead (d : Dev) (e i n : Nat) : Option (List Word) × Dev :=
  let a := d.segAddr e i
  if n = 0 then (some [], d)
  else if d.isoRefused (d.segTenant e) a (4 * n) then (none, ((d.inc Reg.C_FMC_ISO_REFUSE).fmcEvent 6).exception e 5 0)
  else
    let (bs, bad, d1) := d.memRead e a (4 * n) (d.segUrgent e)
    if bad || touchesHole a (4 * n) then (none, d1.exception e 11 0) else (some (wordsOf bs), d1)

/-- Bytes of the segment written from byte `off` on: refused with WIN outside the window (R237); false where it was refused. -/
def segPut (d : Dev) (e off : Nat) (bs : Bytes) : Bool × Dev :=
  let a := addr37 (d.ctxSeg e (d.curOf e) * 4096 + off)
  if bs.isEmpty then (true, d)
  else if !d.inWin e (off / 4) || !d.inWin e ((off + bs.length - 1) / 4) then (false, d.exception e 5 0)
  else if d.isoRefused (d.segTenant e) a bs.length then (false, ((d.inc Reg.C_FMC_ISO_REFUSE).fmcEvent 6).exception e 5 0)
  else
    let d1 := d.memWrite e a bs
    if touchesHole a bs.length then (false, d1.exception e 11 0) else (true, d1)
/-- Bytes of the segment written from word `i` on. -/
def segWrite (d : Dev) (e i : Nat) (bs : Bytes) : Bool × Dev := d.segPut e (4 * i) bs

/-- Runs written in order, until one is refused. -/
def segWrites (d : Dev) (e : Nat) : List (Nat × Bytes) → Bool × Dev
  | [] => (true, d)
  | (i, bs) :: r => match d.segWrite e i bs with
    | (true, d1) => segWrites d1 e r
    | (false, d1) => (false, d1)

/-! Gang barriers (R245). -/

/-- An arrival at generation `n` of a barrier, by a member of this device or another: idempotent; the last one releases. -/
def arrive (d : Dev) (g b n m : Nat) : Dev :=
  let d1 : Dev := { d with stack := { d.stack with
    arrived := SMap.set (fun _ => 0) d.stack.arrived ((g * 16 + b) * 16 + m) (max n (d.arrivedAt g b m)) } }
  if (upto (d.gangSize g)).all (fun j => decide (n ≤ d1.arrivedAt g b j)) && decide (d1.released g b < n) then
    { d1 with stack := { d1.stack with gangGen := SMap.set (fun _ => 0) d1.stack.gangGen (g * 16 + b) n } }
  else d1

/-- The BARRIER message of an arrival (R427). -/
def barrierMsg (d : Dev) (g b n m : Nat) : Msg :=
  { kind := 6, dst := 255, src := d.fuses.stackId, body := [by8 g, by8 b, by8 m, 0] ++ beBytes 4 n }

/-- The running context arrives at a barrier at its committed generation plus 1; the message goes to the other devices of a gang
that spans the stack. The generation is answered. -/
def arriveHere (d : Dev) (e b : Nat) : Nat × Dev :=
  match d.gangOf e with
  | none => (0, d)
  | some g =>
    let n := SMap.get (fun _ => 0) (d.ctx e (d.curOf e)).gens b + 1
    let m := d.memberIndex e
    let d1 := d.arrive g b n m
    (n, if (d.gangMembers g).length < d.gangSize g then d1.msgSend (d1.barrierMsg g b n m) none else d1)

/-- Has the barrier of the running engine's gang released a generation? An engine in no gang never waits. -/
def barrierOpen (d : Dev) (e b n : Nat) : Bool :=
  match d.gangOf e with | none => true | some g => decide (n ≤ d.released g b)

/-! Machine checks and reloads (R242). -/

/-- A machine check's abandonment and reload, without its report. -/
def checkAbandon (d : Dev) (e : Nat) : Dev := (d.faultAbandon e).updEngine e (fun x => { x with reloading := true })

/-- The engine's part of the reset of a tenant (R238, R363): the jobs of the tenant abandoned, their contexts freed. A gang's job
is abandoned on every member. -/
def tenantAbandon (d : Dev) (e t : Nat) : Dev :=
  let ks := [1, 2, 3].filter (fun k => let c := d.ctx e k; c.state != 0 && decide (c.tenant = t))
  ks.foldl (fun x k =>
    let tail := decide ((x.engine e).cur = some k) && (x.engine e).committed
    let x1 := if tail then x.routineEnd e else x
    let x2 := if (d.ctx e k).gang.isSome && !(tail && (d.ctx e k).ended.isSome) then x1.ceEvent e 5 else x1
    let x2' := match (d.ctx e k).gang with | some g => x2.gangReset g | none => x2
    let x3 := (x2'.freeCtx e k).updEngine e (fun y => { y with sealedStages := y.sealedStages.filter (fun p => p.1 != k) })
    if (d.engine e).cur = some k ∧ !(d.engine e).committed then x3.inc (Reg.C_CE_AB_RESET e) else x3) d

end Dev
end Sys2Proof.Machine
end

