-- ==== Sys2Proof/Machine/Faults.lean ====
section
/-!
DEFINITION. The fault collector: reports, escalation, the reactions of R386, Black, FAULT_BUS, latches and the log
(R386–R399); and the outcome of a command whose checkers may report.
-/
namespace Sys2Proof.Machine

/-- The entry words of a report (R397), without its sequence number. -/
def logWords (src cls prog eff : Nat) (esc inj auto : Bool) (detail period : Nat) (time : Nat) : List Word :=
  [wd (src + cls * 512 + prog * 2 ^ 13 + eff * 2 ^ 15 + b2n esc * 2 ^ 17 + b2n inj * 2 ^ 18 + b2n auto * 2 ^ 19),
   wd detail, wd period, wd time, wd (time >>> 32)]

namespace Dev

/-- The collector changed. -/
def updFault (d : Dev) (f : Faults → Faults) : Dev := { d with fault := f d.fault }
/-- A source's cause becomes present, or goes. -/
def cause (d : Dev) (src : Nat) (on : Bool) : Dev :=
  d.updFault (fun x => { x with causes := if on then (if x.causes.contains src then x.causes else x.causes ++ [src])
                                          else x.causes.filter (fun y => y != src) })
/-- The sources that have reported into a class at Amber or above since it was last clear (R392). -/
def reportedIn (d : Dev) (c : Nat) : List Nat := SMap.get (fun _ => []) d.fault.reported c
/-- Does a source's cause last (R392): its condition as its detector last found it, a port that is still fenced (30), a Halyard link that
reported and is down (33), an engine that is still fenced for a bad golden copy (40) or a failed one (66 + 3n)? The links and the golden
copies that reported stand in `causes` past the numbers of the sources, as 512 + n and 1024 + e. -/
def causeLasts (d : Dev) (src : Nat) : Bool :=
  d.fault.causes.contains src
    || (if src = 30 then !d.fmem.fenced.isEmpty
        else if src = 33 then d.fault.causes.any (fun y => decide (512 ≤ y ∧ y < 1024) && !(d.link (y - 512)).up)
        else if src = 40 then d.fault.causes.any (fun y => decide (1024 ≤ y) && (d.engine (y - 1024)).failed)
        else decide (66 ≤ src ∧ src < 448 ∧ src % 3 = 0) && (d.engine ((src - 66) / 3)).failed)
/-- Is a cause of a class present (R392)? -/
def causeOf (d : Dev) (c : Nat) : Bool := (d.reportedIn c).any d.causeLasts
/-- Is a block reset of a class under way (R392)? -/
def resettingOf (d : Dev) (c : Nat) : Bool := d.fault.resetting.any (fun p => p.1 == c)
/-- The level of a class (R390). -/
def classLevel (d : Dev) (c : Nat) : Nat := d.fget (Reg.FLT_CLASS_STATE c) 1 0
/-- CAUSE and RESETTING of every class follow. -/
def classSync (d : Dev) : Dev :=
  (upto 16).foldl (fun x c =>
    (x.bset (Reg.FLT_CLASS_STATE c) 2 (x.causeOf c)).bset (Reg.FLT_CLASS_STATE c) 3 (x.resettingOf c)) d

/-! The fault log (R397, R398). -/

/-- The log memory accessed: an armed injection of source 39 fails it (R398, R399), so that nothing is written or read. -/
def logBroken (d : Dev) : Dev := (d.bset Reg.FLT_LOG_STATUS 31 true).flagTaken 39 0
/-- A log entry written at WR; none while INVALID is set. -/
def logPut (d : Dev) (ws : List Word) : Dev :=
  let a := Reg.FLT_LOG_STATUS
  if d.bget a 31 then d else if d.armed 39 then d.logBroken else
  let wr := d.fget a 4 0
  let d1 := (upto 8).foldl (fun x i => x.wr (Reg.FLT_LOG (wr * 8 + i)) (ws.getD i 0)) d
  let d2 := d1.fset a 4 0 (wr + 1)
  if wr = 31 then d2.fset a 20 5 (min 65535 (d.fget a 20 5 + 1)) else d2
/-- A numbered entry for the log (R397), held while the log is being cleared. -/
def logEntry (d : Dev) (ws : List Word) : Dev :=
  let full := ws ++ [wd d.fault.seq, 0, 0]
  if d.fault.clearing then
    d.updFault (fun x => { x with seq := x.seq + 1, heldLog := x.heldLog ++ [{ words := full }] })
  else if d.bget Reg.FLT_LOG_STATUS 31 then d
  else (d.updFault (fun x => { x with seq := x.seq + 1 })).logPut full

/-! The units that reactions act on. -/

/-- The spars whose wall output stage sends frames. -/
def wallSpars (d : Dev) : List Nat := d.busySpars.filter (fun n => d.bget (Reg.WALL_CFG n) 0)

/-- A DMA channel ends (R366, R370): its entry completes with the bursts moved. -/
def dmaEnd (d : Dev) (k status : Nat) : Dev :=
  let x := d.dma k
  if !x.active then d
  else
    let d1 := (d.updDma k (fun y => { y with active := false, pend := 0 })).wr (Reg.DMA_CH_STATUS k) 0
    let d2 := if status = 8 then (d1.inc Reg.C_HQ_DMA_ERRORS).dmaEvent 2 else d1.dmaEvent 0
    d2.sqEnd x.sq status x.job (wd x.moved)

/-- PERST# (R365): the endpoint alone; the vectors are masked again, the link is down. -/
def endpointReset (d : Dev) : Dev :=
  let clear := fun (p : Nat × Fn) => (p.1, { p.2 with d3 := false, pme := false, unmasked := [], vectors := [], allMasked := true })
  d.updHost (fun h => { h with link := .down, taking := false, fns := h.fns.map clear })

/-- A TIME message for the stack master (R427, R430). -/
def timeAsk (d : Dev) : Dev := d.msgSend { kind := 7, dst := 0, src := d.fuses.stackId, body := beBytes 8 d.nowU } none
/-- Calibration started (R430), with its first TIME exchange; ignored on the stack master. -/
def calStart (d : Dev) : Dev :=
  if d.fuses.master then d
  else ({ (d.bset Reg.STK_CAL_CTRL 1 true).bset Reg.STK_STATUS 1 false with
           stack := { d.stack with calRun := true, calTimes := 0, calOffset := 0, calMarks := 0, calSum := 0 } } : Dev).timeAsk

/-- The wall stage of a spar sends no further data frame in this period (R322, source 31). -/
def wallCut (d : Dev) (n : Nat) : Dev := d.bset (Reg.WALL_STATUS n) 18 true
/-- Black, or a low FAULT_BUS, seen by the wall stages (R322). -/
def wallBlack (d : Dev) : Dev := d.wallSpars.foldl (fun x n => (x.wallCut n).wallEvent n 3) d

/-- The eight lanes of a Halyard spar trained again (R423). -/
def linkRetrain (d : Dev) (n : Nat) : Dev := ((upto 8).map (fun i => 8 * n + i)).foldl laneTrain d

/-- The cells that a slice holds for the core, unlinked for the walker; its placeholders are free (R389). -/
def sliceUnlink (x : Slice) : Slice :=
  let uni := x.voq.flatMap (fun p => vcells p.2)
  let mc := x.mcLists.flatMap (fun p => vcells p.2)
  { x with
    voq := [], mcLists := [], holes := 0, arriving := none
    unlinked := x.unlinked ++ (uni ++ mc).filter (fun i => !x.unlinked.contains i)
    cells := x.cells.map (fun p => if mc.contains p.1 then (p.1, { p.2 with ref := 1, left := [] }) else p) }

/-- A core flush begins (R389): every slice unlinks its untabled queues, every output empties its reorder store and drops, or
stomps, the frames with cells in the core; the slice that failed is rebuilt from zero. -/
def coreFlush (d : Dev) (failed : Option Nat) : Dev :=
  let d0 := ((d.spars.flatMap (fun p => p.2.arriving.filter (·.mc))).foldl (fun x c => x.copiesGone c c.left.length) d).slotEnd []
  let d1 : Dev := { d0.updFault (fun x => { x with flushing := true }) with
    slices := d0.slices.map (fun p => (p.1, sliceUnlink p.2)) }
  let d2 := match failed with
    | some m =>
      (d1.cntAdd (Reg.C_BUF_FLUSH_FREED m) (d1.sliceOf m).cells.length).updSlice m (fun x =>
        { x with cells := [], unlinked := [], genFree := [], genFresh := 512, mgmtFree := [], mgmtFresh := 0 })
    | none => d1
  let d3 := (d2.spars.map (·.1)).foldl (fun x o =>
    let cuts := ((upto 8).map (fun i => 8 * o + i)).filter (fun p => (x.port p).cut.isSome)
    let y := x.updSpar o (fun z => { z with
      reorder := [], arriving := [], checked := [], mcRefused := []
      staging := (z.staging.map (fun s => (s.1, s.2.filter (fun c =>
        !(openCells c.key s.2.reverse).contains c)))).filter (fun s => !s.2.isEmpty) })
    cuts.foldl (fun w p => w.cutEnd p true) y) d2
  (d3.spars.map (·.1)).foldl (fun x i =>
    (x.spar i).seqNext.foldl (fun y s => if y.seqExp i s.1 = s.2 then y else y.setExp i s.1 s.2) x) d3

/-- The core flush ends: what the walkers have not freed yet is freed, and the inputs run again. -/
def flushEnd (d : Dev) : Dev :=
  let d1 := (d.slices.map (·.1)).foldl (fun x m =>
    (x.sliceOf m).unlinked.foldl (fun y _ => y.walkerFree m) x) d
  d1.updFault (fun x => { x with flushing := false })

/-- Engines and wall stages of media chiplet `k` fenced; their routines abandon as on a machine check, and the stages' tiles are not sent
for this period (R30, R238, R386). -/
def chipletFence (d : Dev) (k : Nat) : Dev :=
  let ns := (upto 128).filter (fun n => n % 4 == k)
  let d1 := (d.engines.map (·.1)).foldl (fun x e => if e % 4 = k then x.faultAbandon e else x) d
  let d2 := ((ns.filter (fun n => d1.bget (Reg.WALL_CFG n) 0)).foldl wallCut d1)
  d2.updFault (fun x => { x with fencedEngines := (x.fencedEngines ++ ns).eraseDups, fencedWalls := (x.fencedWalls ++ ns).eraseDups })

/-- The block of a source fenced and reset under Crimson (R386, R388): with a reset under way until it is done. -/
def react (d : Dev) (c src detail aux : Nat) : Dev :=
  let mark := fun (x : Dev) => x.updFault (fun y => { y with resetting := y.resetting ++ [(c, src, if src = 30 then aux else detail)] })
  if src < 8 then
    let d1 := (mark d).updFault (fun x => { x with downChips := (x.downChips ++ [src]).eraseDups })
    (d1.namedPorts.filter (fun p => p / 128 == src && d1.linkUp p)).foldl portDown (d1.cause src true)
  else if src < 12 then ((mark d).cause src true).chipletFence (src - 8)
  else if src = 12 then mark d
  else if src < 21 then
    ((upto 128).map (fun i => 128 * (src - 13) + i)).foldl (fun x l =>
      if decide (3 ≤ x.laneState l) && decide (x.laneState l ≤ 7) then x.laneTo l lsWait else x) (mark d)
  else if 22 ≤ src ∧ src < 26 then (mark d).chipletFence (src - 22)
  else if 448 ≤ src then d
  else if 64 ≤ src then
    let n := (src - 64) / 3
    match (src - 64) % 3 with
    | 0 => (mark (d.updSpar n (fun x => { x with reloading := true }))).bset (Reg.PRS_STATUS n) 0 true
    | 1 => mark (d.coreFlush (some n))
    | _ => mark d
  else match src with
  | 26 => mark (d.coreFlush none)
  | 28 => mark (d.coreFlush none)
  | 27 => mark ((d.updSpar detail (fun x => { x with
      inlet := [], inletHold := [], outlet := [], wall := [], wallHold := [], outHead := none, outLeft := 0
      inletCr := 1024, outletCr := 1024, wallCr := 2048 })).faultAbandon detail)
  | 29 => if aux < 128 then mark (d.checkAbandon aux) else if aux < 256 then mark (d.wallCut (aux - 128)) else d
  | 30 => mark (if aux < 128 then d.faultAbandon aux else d)
  | 31 => mark (d.wallCut detail)
  | 32 => d.calStart
  | 33 => mark (d.linkRetrain detail)
  | 42 => mark d.endpointReset
  | _ => d

/-- What the end of a block reset undoes (R388, R343). -/
def unreact (d : Dev) (src detail : Nat) : Dev :=
  let unfence := fun (x : Dev) (k : Nat) => x.updFault (fun y => { y with
    fencedEngines := y.fencedEngines.filter (fun n => n % 4 != k), fencedWalls := y.fencedWalls.filter (fun n => n % 4 != k) })
  if src < 8 then
    let d1 := (d.updFault (fun x => { x with downChips := x.downChips.filter (fun k => k != src) })).cause src false
    (d1.namedPorts.filter (fun p => p / 128 == src)).foldl portEval d1
  else if src < 12 then unfence (d.cause src false) (src - 8)
  else if 13 ≤ src ∧ src < 21 then
    ((upto 128).map (fun i => 128 * (src - 13) + i)).foldl leaveWait (d.cause src false)
  else if 22 ≤ src ∧ src < 26 then unfence (d.cause src false) (src - 22)
  else if src = 26 ∨ src = 28 ∨ (64 ≤ src ∧ (src - 64) % 3 = 1) then d.flushEnd
  else if src = 30 then { d with fmem := { d.fmem with fenced := d.fmem.fenced.filter (fun p => p != detail) } }
  else d

/-! Black (R393, R394). -/

/-- Black entered (R393). -/
def enterBlack (d : Dev) : Dev :=
  if d.inBlack then d
  else
    let d1 := d.bset Reg.FLT_STATUS 0 true
    let d2 := if d.bget Reg.FLT_CFG 31 then
        ((d1.updFault (fun x => { x with pulling := true })).bset Reg.FLT_STATUS 1 false).emit (.faultBus true) else d1
    let d3 := d2.namedPorts.foldl (fun x p => (x.bset (Reg.MAC_STATUS p) 4 true).downFlush p 0 7) d2
    let d4 := (d3.engines.map (·.1)).foldl (fun x e => if (x.engine e).committed then x.routineEnd e else x.abandon e false) d3
    let d5 := (d4.host.dmas.map (·.1)).foldl (fun x k => x.dmaEnd k 1) d4
    let cancel := d5.commit.arm.isSome && !(d5.commit.decided && d5.fuses.master)
    let d6 : Dev := if cancel then
        (({ d5 with commit := { d5.commit with arm := none } } : Dev).bset Reg.GLB_COMMIT_CTRL 0 (d5.commit.window && d5.commit.swap)
          ).commitEvent 2
      else d5
    d6.wallBlack.irqSync 16

/-- Black left (R394): FAULT_BUS released, and the fences of R393 lifted. -/
def leaveBlack (d : Dev) : Dev :=
  if !d.inBlack then d
  else
    let d1 := d.bset Reg.FLT_STATUS 0 false
    let d2 := if d.fault.pulling then
        (d1.updFault (fun x => { x with pulling := false, ignoring := true })).emit (.faultBus false) else d1
    (d2.namedPorts.filter d2.portFenced).foldl fenceOff d2

/-! Reports (R388, R390, R396). -/

/-- The severity programmed for a source (R387). -/
def progSev (d : Dev) (src : Nat) : Nat := if src = 21 then 3 else if src = 39 then 2 else d.tf 0x1001 0 src 0 1 0
/-- The effective severity (R390). -/
def effSev (level prog : Nat) : Nat := if prog = 0 then 0 else if level = 0 then prog else min 3 (prog + 1)

/-- The first-source latch of a class takes a report (R396). -/
def firstLatch (d : Dev) (c src eff : Nat) (esc : Bool) : Dev :=
  let a := Reg.FLT_FIRST c
  if d.bget a 31 then d.bset a 30 true else d.wr a (setBit (wd (2 ^ 31 + b2n esc * 2 ^ 11 + eff * 512 + src)) 30 (d.bget a 30))

/-- A report handled (R388–R390, R396, R397). -/
def report (d : Dev) (r : Due) : Dev :=
  match fltClass? r.src with
  | none => d
  | some c =>
    let level := d.classLevel c
    let prog := if r.grey then 0 else d.progSev r.src
    let eff := effSev level prog
    let esc := decide (eff ≠ prog)
    let d1 := (d.regInc (Reg.FLT_COUNT c)).firstLatch c r.src eff esc
    let d2 := if r.src = 39 then d1
      else d1.logEntry (logWords r.src c prog eff esc r.inj false r.detail (d.rd Reg.GLB_PERIOD_COUNT).toNat d.nowU)
    let d3 := if eff = 0 then d2
      else (d2.fset (Reg.FLT_CLASS_STATE c) 1 0 (max level eff)).updFault (fun x => { x with
        reported := SMap.upd (fun _ => []) x.reported c (fun l => if l.contains r.src then l else l ++ [r.src])
        lastSrc := SMap.put x.lastSrc c r.src })
    let d4 := if eff = 0 then d3 else d3.irqSync c
    let d5 := if 2 ≤ eff then d4.react c r.src r.detail r.aux else d4
    if eff = 3 then d5.enterBlack else d5

/-- Reports in rising source order (R390). -/
def bySource (rs : List Due) : List Due := sortBy (fun a b => decide (a.src ≤ b.src)) rs

/-- The reports of a command handled, and those that their reactions make, for `k` rounds. -/
def raiseRounds (d : Dev) : Nat → Dev
  | 0 => d.updFault (fun x => { x with due := [] })
  | k + 1 =>
    if d.fault.due.isEmpty then d
    else raiseRounds ((bySource d.fault.due).foldl report (d.updFault (fun x => { x with due := [] }))) k

/-- The reports of a command handled. -/
def raiseDue (d : Dev) : Dev := if d.fault.due.isEmpty then d else (d.raiseRounds 3).classSync

/-! Acknowledgement (R391, R392, R394). -/

/-- A class cleared: its level, and what has reported into it. -/
def classClear (d : Dev) (c : Nat) : Dev :=
  ((d.fset (Reg.FLT_CLASS_STATE c) 1 0 0).updFault (fun x => { x with
    reported := SMap.erase x.reported c
    causes := x.causes.filter (fun y => !(decide (512 ≤ y) && c == (if y < 1024 then 11 else 14))) })).classSync
/-- A clear by firmware (R392). -/
def classAck (d : Dev) (c : Nat) : Dev :=
  if d.classLevel c = 3 ∨ d.causeOf c ∨ d.resettingOf c then d.bset (Reg.FLT_CLASS_STATE c) 4 true else d.classClear c
/-- The automatic clear of a small configuration (R391). -/
def classAuto (d : Dev) (c : Nat) : Dev :=
  let lv := d.classLevel c
  if d.bget Reg.FLT_STATUS 3 || lv == 0 || lv == 3 || d.causeOf c || d.resettingOf c then d
  else
    let src := SMap.get (fun _ => 0) d.fault.lastSrc c
    ((d.classClear c).regInc (Reg.FLT_RECOV c)).logEntry
      (logWords src c 0 lv false false true 0 (d.rd Reg.GLB_PERIOD_COUNT).toNat d.nowU)
/-- The block resets of a class are done (R388, R392). The PLLs of class 1 are in lock again, also those whose report called for no reset
(log 134). -/
def resetDone (d : Dev) (c : Nat) : Dev :=
  let mine := d.fault.resetting.filter (fun p => p.1 == c)
  let d1 := d.updFault (fun x => { x with resetting := x.resetting.filter (fun p => p.1 != c)
                                          causes := if c = 1 then x.causes.filter (fun y => fltClass? y != some 1) else x.causes })
  (mine.foldl (fun x p => x.unreact p.2.1 p.2.2) d1).classSync
/-- A write of FLT_BLACK_CLR (R394). -/
def blackAck (d : Dev) : Dev :=
  if !d.inBlack then d
  else
    let cs := (upto 16).filter (fun c => d.classLevel c == 3)
    if cs.any d.causeOf then d.bset Reg.FLT_STATUS 4 true
    else (cs.foldl classClear d).leaveBlack

/-- A full image clears every class, and with them Black (R394). -/
def classesLoad (d : Dev) : Dev :=
  (((upto 16).foldl (fun x c => x.fset (Reg.FLT_CLASS_STATE c) 1 0 0) (d.updFault (fun x => { x with
    reported := [], causes := x.causes.filter (fun y => decide (y < 512)) }))).classSync).leaveBlack

/-! FAULT_BUS (R395). -/

/-- The bus has been low for 50 ns. -/
def busLow (d : Dev) : Dev :=
  if d.fault.pulling || d.fault.ignoring || d.bget Reg.FLT_STATUS 1 then d
  else ((d.bset Reg.FLT_STATUS 1 true).irqSync 16).wallBlack
/-- The bus has been high for 50 ns. -/
def busHigh (d : Dev) : Dev := d.bset Reg.FLT_STATUS 1 false
/-- The 250 ns after the device's own pull are over. -/
def busIgnoreEnd (d : Dev) (low : Bool) : Dev :=
  let d1 := d.updFault (fun x => { x with ignoring := false })
  if low && d.fault.ignoring then d1.busLow else d1

/-! Injection and the log (R398, R399). -/

/-- Has a source no check bits (R399)? A reserved source has no checker (log 118). -/
def noCheckBits (src : Nat) : Bool :=
  (fltClass? src).isNone ||
  (decide (13 ≤ src) && decide (src ≤ 25)) || src == 27 || src == 28 || src == 30 || (decide (32 ≤ src) && decide (src ≤ 38)) || src == 43
/-- A write of FLT_INJ with ARM = 1 (R399). -/
def armInj (d : Dev) (src : Nat) (mode : Bool) : Dev :=
  if noCheckBits src then d.bset Reg.FLT_INJ 30 true
  else ((d.fset Reg.FLT_INJ 8 0 src).bset Reg.FLT_INJ 16 mode).bset Reg.FLT_INJ 31 true
/-- The log memory fails a check (R398): once until the next clear. -/
def logFail (d : Dev) : Dev :=
  if d.bget Reg.FLT_LOG_STATUS 31 then d else d.logBroken
/-- A write of FLT_LOG_CTRL.CLR (R398): the ring and WR zeroed, the test under way. -/
def logClr (d : Dev) : Dev :=
  let d1 := (upto 256).foldl (fun x i => x.wr (Reg.FLT_LOG i) 0) d
  (((d1.fset Reg.FLT_LOG_STATUS 20 0 0).bset Reg.FLT_LOG_CTRL 1 true).updFault (fun x => { x with clearing := true }))
/-- The test of a log clear ends (R398): the held entries are written, or discarded with the log. -/
def logClrDone (d : Dev) (pass : Bool) : Dev :=
  if !d.fault.clearing then d
  else
    let held := d.fault.heldLog
    let d1 := (d.bset Reg.FLT_LOG_CTRL 1 false).updFault (fun x => { x with clearing := false, heldLog := [] })
    if pass then held.foldl (fun x e => x.logPut e.words) (d1.bset Reg.FLT_LOG_STATUS 31 false)
    else d1.logBroken
/-- FLT_COUNT and FLT_RECOV cleared (R400). -/
def fltClear (d : Dev) : Dev := (upto 16).foldl (fun x c => (x.wr (Reg.FLT_COUNT c) 0).wr (Reg.FLT_RECOV c) 0) d

/-- A PLL loses lock (R92, R386): lane chiplets 0–7, CCLK, media chiplets 0–3. -/
def pllLoss (d : Dev) (k : Nat) : Dev := (d.cause (13 + k) true).flag (13 + k) (if k < 8 then k else if k = 8 then 0 else k - 9)

end Dev

/-- A command's outcome, the reports of its checkers handled (R388). -/
def finish (s : State) (d : Dev) : Host.Outcome State Fault Refusal := done s d.raiseDue

/-- PLL_LOCK_LOSS (R92, R386). -/
def execPllLockLoss (pll : Fin 13) (s : State) : Host.Outcome State Fault Refusal := finish s (s.pllLoss pll)
/-- CLASS_AUTO_CLEAR (R391). -/
def execClassAutoClear (c : Fin 16) (s : State) : Host.Outcome State Fault Refusal := finish s (s.classAuto c)
/-- FLT_CLASS_CLR (R392). -/
def execFltClassClr (v : BitVec 16) (s : State) : Host.Outcome State Fault Refusal :=
  finish s (((upto 16).filter (fun c => v.getLsbD c)).foldl Dev.classAck s.toDev)
/-- FLT_BLACK_CLR (R394). -/
def execFltBlackClr (s : State) : Host.Outcome State Fault Refusal := finish s s.blackAck
/-- FIRST_LATCH_CLEAR (R396): VALID and OVF of a class's latch. -/
def execFirstLatchClear (c : Fin 16) (s : State) : Host.Outcome State Fault Refusal :=
  finish s ((s.bset (Reg.FLT_FIRST c) 31 false).bset (Reg.FLT_FIRST c) 30 false)
/-- FAULT_BUS_LOW (R395). -/
def execFaultBusLow (s : State) : Host.Outcome State Fault Refusal := finish s s.busLow
/-- FAULT_BUS_RELEASE (R395). -/
def execFaultBusRelease (s : State) : Host.Outcome State Fault Refusal := finish s s.busHigh
/-- FAULT_BUS_IGNORE_END (R395). -/
def execFaultBusIgnoreEnd (low : Bool) (s : State) : Host.Outcome State Fault Refusal := finish s (s.busIgnoreEnd low)
/-- FAULT_INJECT_ARM (R399). -/
def execFaultInjectArm (src : BitVec 9) (mode : Bool) (s : State) : Host.Outcome State Fault Refusal :=
  finish s (s.armInj src.toNat mode)
/-- LOG_CLEAR (R398). -/
def execLogClear (s : State) : Host.Outcome State Fault Refusal := finish s s.logClr
/-- LOG_CLEAR_DONE (R398). -/
def execLogClearDone (pass : Bool) (s : State) : Host.Outcome State Fault Refusal := finish s (s.logClrDone pass)
/-- FLT_CNT_CLR (R400). -/
def execFltCntClr (s : State) : Host.Outcome State Fault Refusal := finish s s.fltClear
/-- FAULT_LOG_CHECK_FAIL (R398). -/
def execFaultLogCheckFail (s : State) : Host.Outcome State Fault Refusal := finish s s.logFail
/-- DIE_TO_DIE_LINK_ERROR (R386): sources 0 to 12. -/
def execDieToDieLinkError (k : Fin 13) (s : State) : Host.Outcome State Fault Refusal := finish s (s.flagTaken k k)
/-- ACTIVE_BANK_PARITY_ERROR (R386). -/
def execActiveBankParityError (s : State) : Host.Outcome State Fault Refusal := finish s (s.flagTaken 41 0)
/-- PCIE_INTERNAL_ERROR (R386). -/
def execPcieInternalError (s : State) : Host.Outcome State Fault Refusal := finish s (s.flagTaken 42 0)

end Sys2Proof.Machine
end

