-- ==== Sys2Proof/Machine/Micro.lean ====
section
/-!
DEFINITION. The sequencer of a coding engine: one meaning per microword, the stalls and their ends, the outlet, and the commands
that firmware gives an engine (R224–R248). A microword acts on the running routine; with no routine, or while the sequencer
stands still, there is no microword to execute and nothing changes.
-/
namespace Sys2Proof.Machine
namespace Dev

/-! Running one microword. -/

/-- ECLK spent by the sequencer, counted in BUSY_ECLK (R228, log 29). -/
def eclk (d : Dev) (e n : Nat) : Dev := d.cntAdd (Reg.C_CE_BUSY_ECLK e) n
/-- Does the sequencer execute a microword now? -/
def uLive (d : Dev) (e : Nat) : Bool :=
  (d.engine e).cur.isSome && decide ((d.engine e).stall = .none) && !(d.engine e).reloading
/-- A machine check (R242): counted, latched, reported; the routine is abandoned and the stores reload. A parity error in the context
memory fails the engine. -/
def machineCheckAt (d : Dev) (e : Nat) (contextMemory : Bool) : Dev :=
  let x := d.engine e
  let d1 := ((d.excLatch e (excWord (x.cur.getD 0) 0 (if contextMemory then 13 else 12) x.mpc)).inc (Reg.C_CE_MCHK_CNT e)).ceEvent e 2
  let d2 := d1.flagTaken (66 + 3 * e) e
  if contextMemory then d2.engineFail e else d2.checkAbandon e

/-- Does the sequencer execute the microword that it fetches now: live, and no injection makes its fetch fail (R242, R399)? -/
def fetches (d : Dev) (e : Nat) : Bool := d.uLive e && !d.armed (66 + 3 * e)
/-- A microword executed, unless it breaks the rule of the tail (R236): then TAIL. -/
def uGo (d : Dev) (e : Nat) (tailOk : Bool) (f : Dev → Dev) : Dev :=
  let x := d.engine e
  if !d.uLive e then d
  else if d.armed (66 + 3 * e) then d.machineCheckAt e false
  else if x.committed && (!tailOk || decide (16 ≤ x.tail)) then d.exception e 8 0
  else f ((d.eclk e 1).updEngine e (fun y => { y with tail := if y.committed then y.tail + 1 else y.tail }))
/-- The engine changed and the micro-PC advanced. -/
def uNext (d : Dev) (e : Nat) (f : Engine → Engine) : Dev := d.updEngine e (fun y => { f y with mpc := (y.mpc + 1) % 8192 })
/-- The micro-PC set. -/
def uJump (d : Dev) (e t : Nat) : Dev := d.updEngine e (fun y => { y with mpc := t % 8192 })
/-- The sequencer stands still at the microword. -/
def uStall (d : Dev) (e : Nat) (why : Stall) : Dev := d.updEngine e (fun y => { y with stall := why })

/-- An ALU or ALUI microword (R227, R231): `lanes` says whether the operation has paired lanes, `cost` its further ECLK. -/
def uAlu (d : Dev) (e : Nat) (a : Alu) (f : Nat → Nat → Nat → AluOut) (lanes divides : Bool) (cost : Nat) : Dev :=
  d.uGo e ((Alu.regs a).all (fun r => decide (1 ≤ r) && decide (r ≤ 47))) (fun y =>
    if Alu.paired a && !lanes then y.exception e 1 0
    else
      let o := aluRun f (Alu.paired a) ((y.engine e).operandA a) ((y.engine e).operandB a)
      (y.eclk e cost).uNext e (fun z =>
        let w := z.setReg (Alu.dest a) (wd o.val)
        if Alu.flags a then w.setFlags o divides else w))

/-- LDI (R227). -/
def uLdiRun (d : Dev) (e rd : Nat) (high : Bool) (imm : BitVec 16) : Dev :=
  d.uGo e false (fun y => y.uNext e (fun z =>
    z.setReg rd (if high then setFld (z.reg rd) 31 16 imm.toNat else wd imm.toNat)))

/-- Is a port of frame memory fenced by the hold watchdog (R343)? -/
def memFenced (d : Dev) (port : Nat) : Bool := d.fmem.fenced.contains port

/-- LD (R229). -/
def uLdRun (d : Dev) (e rd ra sp : Nat) (off : BitVec 13) : Dev :=
  d.uGo e false (fun y =>
    let x := y.engine e
    let i := x.index ra off
    match sp with
    | 0 => y.uNext e (fun z => z.setReg rd (SMap.get (fun _ => 0) z.scratch (i % 4096)))
    | 1 =>
      if y.memFenced e then d.uStall e .memory
      else match y.segRead e i 1 with
        | (some ws, d1) => d1.uNext e (fun z => z.setReg rd (ws.getD 0 0))
        | (none, d1) => d1
    | 2 => y.uNext e (fun z => z.setReg rd (y.operandWord e (off.toNat % 16)))
    | _ => y.uNext e (fun z => z.setReg rd (SMap.get (fun _ => 0) z.unitRegs (off.toNat % 256))))

/-- ST (R229, R237). -/
def uStRun (d : Dev) (e rs ra sp : Nat) (off : BitVec 13) : Dev :=
  d.uGo e false (fun y =>
    let x := y.engine e
    let i := x.index ra off
    let v := x.reg rs
    match sp with
    | 0 => y.uNext e (fun z => { z with scratch := SMap.set (fun _ => 0) z.scratch (i % 4096) v })
    | 1 =>
      if y.memFenced e then d.uStall e .memory
      else match y.segWrite e i (leBytes 4 v.toNat) with
        | (true, d1) => d1.uNext e id
        | (false, d1) => d1
    | 2 => y.exception e 1 0
    | _ => y.uNext e (fun z => { z with unitRegs := SMap.set (fun _ => 0) z.unitRegs (off.toNat % 256) v }))

/-- BR (R228). -/
def uBrRun (d : Dev) (e cond t : Nat) : Dev :=
  d.uGo e true (fun y => if (y.engine e).holds cond then (y.eclk e 1).uJump e t else y.uNext e id)
/-- CALL (R230). -/
def uCallRun (d : Dev) (e t : Nat) : Dev :=
  d.uGo e false (fun y =>
    let x := y.engine e
    if 8 ≤ x.stack.length then y.exception e 3 0
    else ((y.eclk e 1).updEngine e (fun z => { z with stack := (z.mpc + 1) % 8192 :: z.stack })).uJump e t)
/-- RET (R230). -/
def uRetRun (d : Dev) (e : Nat) : Dev :=
  d.uGo e false (fun y =>
    match (y.engine e).stack with
    | [] => y.exception e 4 0
    | a :: r => ((y.eclk e 1).updEngine e (fun z => { z with stack := r })).uJump e a)

/-! Units (R224, R245). -/

/-- Has the engine's barrier unit no arrival that waits for its release? -/
def barrierIdle (d : Dev) (e : Nat) : Bool := (d.engine e).gsync.all (fun p => d.barrierOpen e p.1 p.2)
/-- Is a unit idle? -/
def unitIdle (d : Dev) (e u : Nat) : Bool :=
  if u = 9 then d.barrierIdle e else !(d.engine e).unitBusy.any (fun p => p.1 == u)
/-- An arrival at barrier `b` by the running routine: its generation is committed at COMMIT (R235, R245). -/
def gangArrive (d : Dev) (e b : Nat) : Dev :=
  let (n, d1) := d.arriveHere e b
  if n = 0 then d1 else d1.updEngine e (fun z => { z with gsync := z.gsync.filter (fun p => p.1 != b) ++ [(b, n)] })
/-- An operation started on an idle unit. The barrier unit arrives at the barrier that its register 0 names (log 27). -/
def unitStart (d : Dev) (e u uop : Nat) : Dev :=
  if u = 9 then d.gangArrive e ((SMap.get (fun _ => 0) (d.engine e).unitRegs 144).toNat % 16)
  else d.updEngine e (fun z => { z with unitBusy := z.unitBusy ++ [(u, uop)] })
/-- UNIT (R224, R227). -/
def uUnitRun (d : Dev) (e u uop : Nat) : Dev :=
  d.uGo e false (fun y =>
    if 10 ≤ u then y.exception e 1 0
    else if y.unitIdle e u then (y.unitStart e u uop).uNext e id
    else y.uStall e (.unit u uop))
/-- A state change that a unit's registers name is held (R241): the word it writes must lie in the window. -/
def holdChange (d : Dev) (e : Nat) (c : Change) : Dev :=
  match c with
  | .word i v => if d.inWin e i.toNat then d.updEngine e (fun z => { z with changes := z.changes ++ [(i, v)] }) else d.exception e 5 0
  | .entry s u => d.updEngine e (fun z => { z with post := some (s.toNat, u) })
/-- A unit's operation ends (R224, R237, R241): its frame memory writes, each against the window, its results, and the state changes that it
names. -/
def unitEnd (d : Dev) (e u : Nat) (results : List (Fin 16 × Word)) (writes : List (Word × Word)) (changes : List Change) : Dev :=
  if (d.engine e).cur.isNone || !(d.engine e).unitBusy.any (fun p => p.1 == u) then d
  else
    let d1 := d.updEngine e (fun z => { z with
      unitBusy := z.unitBusy.filter (fun p => p.1 != u)
      unitRegs := results.foldl (fun m p => SMap.set (fun _ => 0) m (16 * u + p.1.val) p.2) z.unitRegs })
    match d1.segWrites e (writes.map (fun p => (p.1.toNat, leBytes 4 p.2.toNat))) with
    | (true, d2) => if (d.engine e).committed then d2 else changes.foldl (fun y c => y.holdChange e c) d2
    | (false, d2) => d2

/-! WAIT, IN and OUT (R227, R233, R234). -/

/-- Is one of the two outlet stages free? -/
def stageFree (d : Dev) (e : Nat) : Bool :=
  let x := d.engine e
  decide (x.sealedStages.length + (if x.releasing.isEmpty then 0 else 1) < 2)
/-- The words that IN reads next: the rest of the hold, then the inlet (R233). -/
def inletWords (d : Dev) (e : Nat) : List FWord := (d.engine e).hold.drop (d.engine e).replay ++ (d.spar e).inlet
/-- Does every condition of a WAIT hold? A packet counts from its first word not read yet (log 28). -/
def waitMet (d : Dev) (e mask : Nat) : Bool :=
  (upto 10).all (fun u => !bit mask u || d.unitIdle e u) && (!bit mask 14 || d.stageFree e)
    && (!bit mask 15 || (d.inletWords e).any (fun w => w.l))
/-- WAIT. -/
def uWaitRun (d : Dev) (e mask : Nat) : Dev :=
  d.uGo e false (fun y => if y.waitMet e mask then y.uNext e id else y.uStall e (.wait mask))

/-- The word that a read of the inlet gives and the device after it; `none` where the hold is full (R233). Only context 0 reads the
inlet; another context sees it empty (log 28). -/
def inletRead (d : Dev) (e : Nat) : Option FWord × Dev :=
  let x := d.engine e
  let idle : FWord := { data := 1, v := false, l := false }
  if d.curOf e ≠ 0 then (some idle, d)
  else match x.hold.drop x.replay, (d.spar e).inlet with
    | w :: _, _ => (some w, d.updEngine e (fun z => { z with replay := z.replay + 1 }))
    | [], w :: ws =>
      if 2048 ≤ x.hold.length then (none, d)
      else (some w, (d.updSpar e (fun y => { y with inlet := ws })).updEngine e (fun z =>
        { z with hold := z.hold ++ [w], replay := z.replay + 1 }))
    | [], [] => (some idle, d)
/-- IN (R227, R233). -/
def uInRun (d : Dev) (e rd : Nat) : Dev :=
  d.uGo e false (fun y =>
    if rd % 2 = 1 ∨ 46 < rd then y.exception e 1 0
    else match y.inletRead e with
      | (none, d1) => d1.exception e 6 0
      | (some w, d1) => d1.uNext e (fun z =>
          { (z.setReg rd (wd w.data.toNat)).setReg (rd + 1) (wd (w.data.toNat / 2 ^ 32)) with iv := w.v, il := w.l }))
/-- A word written to the open outlet stage (R234). -/
def outPut (d : Dev) (e : Nat) (w : BitVec 64) (l : Bool) : Dev :=
  let x := d.engine e
  if !d.stageFree e then d.uStall e (.outlet w l)
  else if 2048 ≤ x.openStage.length then d.exception e 7 0
  else d.uNext e (fun z => { z with stall := .none, openStage := z.openStage ++ [{ data := w, v := true, l := l }] })
/-- OUT (R227, R234). -/
def uOutRun (d : Dev) (e rs : Nat) (l : Bool) : Dev :=
  d.uGo e false (fun y =>
    if rs % 2 = 1 then y.exception e 1 0
    else
      let x := y.engine e
      y.outPut e (BitVec.ofNat 64 ((x.reg rs).toNat + 2 ^ 32 * (x.reg (rs + 1)).toNat)) l)

/-! COMMIT, END and RAISE. -/

/-- COMMIT (R236). -/
def uCommitRun (d : Dev) (e : Nat) : Dev :=
  d.uGo e false (fun y => match y.commitTry e (y.engine e).post with
    | (true, d1) => d1.uNext e id
    | (false, _) => d.uStall e .hostStore)
/-- END (R227): it commits first where no COMMIT came before. -/
def uEndRun (d : Dev) (e : Nat) : Dev :=
  if !d.uLive e then d
  else if d.armed (66 + 3 * e) then d.machineCheckAt e false
  else if (d.engine e).committed then (d.eclk e 1).routineEnd e
  else match (d.eclk e 1).commitTry e (d.engine e).post with
    | (true, d1) => d1.routineEnd e
    | (false, _) => d.uStall e .hostStore
/-- RAISE with N = 0, and the words whose opcode is reserved (R227). -/
def uRaise (d : Dev) (e code detail : Nat) : Dev := d.uGo e false (fun y => y.exception e code detail)
/-- RAISE with N = 1: a notice, held until commit. -/
def uNotice (d : Dev) (e code : Nat) : Dev :=
  d.uGo e false (fun y => y.uNext e (fun z => { z with notices := z.notices ++ [code] }))

/-- The condition of a stall is met (R228): the microword proceeds. A stall of a whole command, or of an access, is over; the access
or the command is then made again. -/
def stallOver (d : Dev) (e : Nat) : Dev :=
  let go := d.uStall e .none
  match (d.engine e).stall with
  | .none => d
  | .unit u uop => if d.unitIdle e u then (go.unitStart e u uop).uNext e id else d
  | .outlet w l => if d.stageFree e then go.outPut e w l else d
  | .wait m => if d.waitMet e m then go.uNext e id else d
  | .barrier b g => if d.barrierOpen e b g then go.commandDone e none else d
  | .memory => if d.memFenced e then d else go
  | .rows => go
  | .hostStore => if d.cqeRoom then go else d

/-! What firmware and the hardware do to an engine (R240, R242, R244, R51). -/

/-- A routine runs past CE_CFG.WDOG (R240). -/
def runaway (d : Dev) (e : Nat) : Dev := if (d.engine e).cur.isSome then d.exception e 9 0 else d

/-- The control store of an engine as its golden copy holds it (R242): each microword with its parity bit. -/
def storeReload (d : Dev) (e : Nat) : Dev :=
  { d with tabs := d.tabs.map (fun p =>
      if p.1 / 2 ^ 20 = tidEngine * 256 + e then
        let w := d.fmWord ((d.rd (Reg.CE_GOLDEN e)).toNat * 4096 + 4 * (p.1 % 2 ^ 20))
        (p.1, [w, oddParity w])
      else p) }
/-- A golden reload ends (R242, R399). A bad copy fails the engine and is source 40. -/
def reloadDone (d : Dev) (e : Nat) (copyGood : Bool) : Dev :=
  if !(d.engine e).reloading then d
  else
    let (err, inj, d1) := d.injected 40 (if copyGood then .good else .double)
    if err = .double then ((d1.engineFail e).cause (1024 + e) true).flag 40 e inj
    else
      let d2 := ((d1.storeReload e).updEngine e (fun x => { x with reloading := false })).ceEvent e 3
      if err = .single then d2.flag 40 e inj true else d2
/-- CE_CMD.RELOAD (R242): as a machine check, without a fault. -/
def forceReload (d : Dev) (e : Nat) : Dev :=
  let d1 := if (d.engine e).committed then d.routineEnd e else d.abandon e false
  d1.updEngine e (fun x => { x with reloading := true })
/-- CE_CMD.INLET_RESUME (R244). -/
def inletResumeCmd (d : Dev) (e : Nat) : Dev := if (d.ctx e 0).state = 5 then (d.updCtx e 0 (fun c => { c with state := 4 })).preempt e else d
/-- CE_CMD.INLET_SKIP (R244). -/
def inletSkipCmd (d : Dev) (e : Nat) : Dev := if (d.ctx e 0).state = 5 then (d.inletSkip0 e).preempt e else d

/-! The release of sealed stages (R234). -/

/-- Is a packet's destination one that R130 accepts? -/
def outDestOk (d : Dev) (dest : Nat) : Bool :=
  match dest / 2 ^ 17 with
  | 1 => d.named (dest % 1024)
  | 5 => decide (dest / 1024 % 8 < d.stackSize)
  | 6 => decide (dest / 1024 % 8 < d.stackSize)
  | 7 => false
  | _ => true
/-- The words of a stage cut into packets: each ends with its word L = 1. -/
def packetsOf : List FWord → List FWord → List (List FWord)
  | [], [] => []
  | [], acc => [acc.reverse]
  | w :: ws, acc => if w.l then (w :: acc).reverse :: packetsOf ws [] else packetsOf ws (w :: acc)
/-- Is a packet of a sealed stage good? -/
def packetOk (d : Dev) (p : List FWord) : Bool :=
  match p with
  | [] => false
  | h :: body =>
    let x := h.data.toNat
    let len := bits x 49 36
    decide (64 ≤ len) && decide (len ≤ 16352) && decide (ceilDiv len 8 = body.length)
      && (match p.getLast? with | some w => w.l | none => false) && d.outDestOk (bits x 19 0)
/-- The oldest sealed stage taken for release, its bad packets discarded and counted. -/
def stageTake (d : Dev) (e : Nat) : Dev :=
  let x := d.engine e
  match x.releasing, x.sealedStages with
  | [], (_, ws) :: r =>
    let ps := packetsOf ws []
    let good := ps.filter d.packetOk
    (d.cntAdd (Reg.C_CE_OUT_BAD e) (ps.length - good.length)).updEngine e (fun y =>
      { y with releasing := good.flatten, sealedStages := r })
  | _, _ => d
/-- A sealed stage released under credit (R168, R169, R234): as many words as there is credit for; none while the engine is fenced. -/
def stageRelease (d : Dev) (e : Nat) : Dev :=
  if d.engFenced e then d
  else
    let d1 := d.stageTake e
    let n := min (min (d1.spar e).outletCr (1024 - (d1.spar e).outlet.length)) (d1.engine e).releasing.length
    (d1.updSpar e (fun y => { y with outlet := y.outlet ++ (d1.engine e).releasing.take n, outletCr := y.outletCr - n })).updEngine e
      (fun y => { y with releasing := y.releasing.drop n })

/-- Every CE_ counter cleared (R247, R248, R279, R298). -/
def ceClear (d : Dev) (e : Nat) : Dev :=
  ((d.cntClr (Reg.C_CE_COMMANDS e) 11).cntClr (Reg.C_CE_ENC_PICTURES e) 6).cntClr (Reg.C_CE_DEC_PICTURES e) 8

end Dev

/-- ROUTINE_START (R225, R226): 4 ECLK. -/
def execRoutineStart (e : Fin 128) (s : State) : Host.Outcome State Fault Refusal :=
  let d := s.toDev
  finish s (if d.memFenced e then d else
    if (d.engine e).cur.isNone && ((d.routineStart e).engine e).cur.isSome then (d.routineStart e).eclk e 4 else d.routineStart e)
/-- NOP (R227). -/
def execUNop (e : Fin 128) (s : State) : Host.Outcome State Fault Refusal := finish s (s.uGo e true (fun y => y.uNext e id))
/-- ADD (R231, R232). -/
def execUAdd (e : Fin 128) (a : Alu) (s : State) : Host.Outcome State Fault Refusal := finish s (s.uAlu e a aluAdd true false 0)
/-- SUB (R231, R232). -/
def execUSub (e : Fin 128) (a : Alu) (s : State) : Host.Outcome State Fault Refusal := finish s (s.uAlu e a aluSub true false 0)
/-- AND (R231, R232). -/
def execUAnd (e : Fin 128) (a : Alu) (s : State) : Host.Outcome State Fault Refusal := finish s (s.uAlu e a aluAnd true false 0)
/-- OR (R231, R232). -/
def execUOr (e : Fin 128) (a : Alu) (s : State) : Host.Outcome State Fault Refusal := finish s (s.uAlu e a aluOr true false 0)
/-- XOR (R231, R232). -/
def execUXor (e : Fin 128) (a : Alu) (s : State) : Host.Outcome State Fault Refusal := finish s (s.uAlu e a aluXor true false 0)
/-- SHL (R231, R232). -/
def execUShl (e : Fin 128) (a : Alu) (s : State) : Host.Outcome State Fault Refusal := finish s (s.uAlu e a aluShl true false 0)
/-- SHR (R231, R232). -/
def execUShr (e : Fin 128) (a : Alu) (s : State) : Host.Outcome State Fault Refusal := finish s (s.uAlu e a aluShr true false 0)
/-- SAR (R231, R232). -/
def execUSar (e : Fin 128) (a : Alu) (s : State) : Host.Outcome State Fault Refusal := finish s (s.uAlu e a aluSar true false 0)
/-- NEG (R231, R232). -/
def execUNeg (e : Fin 128) (a : Alu) (s : State) : Host.Outcome State Fault Refusal := finish s (s.uAlu e (Alu.unary a) aluNeg true false 0)
/-- MUL (R231, R232). -/
def execUMul (e : Fin 128) (a : Alu) (s : State) : Host.Outcome State Fault Refusal := finish s (s.uAlu e a aluMul true false 0)
/-- MULH (R231, R232). -/
def execUMulh (e : Fin 128) (a : Alu) (s : State) : Host.Outcome State Fault Refusal := finish s (s.uAlu e a aluMulh false false 1)
/-- DIV (R231, R232). -/
def execUDiv (e : Fin 128) (a : Alu) (s : State) : Host.Outcome State Fault Refusal := finish s (s.uAlu e a aluDiv false true 17)
/-- REM (R231, R232). -/
def execURem (e : Fin 128) (a : Alu) (s : State) : Host.Outcome State Fault Refusal := finish s (s.uAlu e a aluRem false true 17)
/-- MIN (R231, R232). -/
def execUMin (e : Fin 128) (a : Alu) (s : State) : Host.Outcome State Fault Refusal := finish s (s.uAlu e a aluMin true false 0)
/-- MAX (R231, R232). -/
def execUMax (e : Fin 128) (a : Alu) (s : State) : Host.Outcome State Fault Refusal := finish s (s.uAlu e a aluMax true false 0)
/-- ABS (R231, R232). -/
def execUAbs (e : Fin 128) (a : Alu) (s : State) : Host.Outcome State Fault Refusal := finish s (s.uAlu e (Alu.unary a) aluAbs true false 0)
/-- LDI (R227). -/
def execULdi (e : Fin 128) (rd : Fin 64) (high : Bool) (imm : BitVec 16) (s : State) : Host.Outcome State Fault Refusal :=
  finish s (s.uLdiRun e rd high imm)
/-- LD (R229). -/
def execULd (e : Fin 128) (rd ra : Fin 64) (sp : Fin 4) (off : BitVec 13) (s : State) : Host.Outcome State Fault Refusal :=
  finish s (s.uLdRun e rd ra sp off)
/-- ST (R229, R237). -/
def execUSt (e : Fin 128) (rs ra : Fin 64) (sp : Fin 4) (off : BitVec 13) (s : State) : Host.Outcome State Fault Refusal :=
  finish s (s.uStRun e rs ra sp off)
/-- BR (R228). -/
def execUBr (e : Fin 128) (cond : Fin 16) (target : BitVec 13) (s : State) : Host.Outcome State Fault Refusal :=
  finish s (s.uBrRun e cond target.toNat)
/-- CALL (R230). -/
def execUCall (e : Fin 128) (target : BitVec 13) (s : State) : Host.Outcome State Fault Refusal := finish s (s.uCallRun e target.toNat)
/-- RET (R230). -/
def execURet (e : Fin 128) (s : State) : Host.Outcome State Fault Refusal := finish s (s.uRetRun e)
/-- UNIT (R224, R227). -/
def execUUnit (e : Fin 128) (unit : Fin 16) (uop : BitVec 8) (s : State) : Host.Outcome State Fault Refusal :=
  finish s (s.uUnitRun e unit uop.toNat)
/-- UNIT_DONE (R224, R237, R241). -/
def execUnitDone (e : Fin 128) (unit : Fin 16) (results : List (Fin 16 × Word)) (writes : List (Word × Word))
    (changes : List Change) (s : State) : Host.Outcome State Fault Refusal := finish s (s.unitEnd e unit results writes changes)
/-- WAIT (R227). -/
def execUWait (e : Fin 128) (mask : BitVec 16) (s : State) : Host.Outcome State Fault Refusal := finish s (s.uWaitRun e mask.toNat)
/-- STALL_END (R228). -/
def execStallEnd (e : Fin 128) (s : State) : Host.Outcome State Fault Refusal := finish s (s.stallOver e)
/-- IN (R227, R233). -/
def execUIn (e : Fin 128) (rd : Fin 64) (s : State) : Host.Outcome State Fault Refusal := finish s (s.uInRun e rd)
/-- OUT (R227, R234). -/
def execUOut (e : Fin 128) (rs : Fin 64) (last : Bool) (s : State) : Host.Outcome State Fault Refusal := finish s (s.uOutRun e rs last)
/-- COMMIT (R236). -/
def execUCommit (e : Fin 128) (s : State) : Host.Outcome State Fault Refusal := finish s (s.uCommitRun e)
/-- END (R227). -/
def execUEnd (e : Fin 128) (s : State) : Host.Outcome State Fault Refusal := finish s (s.uEndRun e)
/-- RAISE_EXCEPTION (R243). -/
def execRaiseException (e : Fin 128) (code : BitVec 7) (s : State) : Host.Outcome State Fault Refusal := finish s (s.uRaise e 10 code.toNat)
/-- RAISE_NOTICE (R227, R246). -/
def execRaiseNotice (e : Fin 128) (code : BitVec 7) (s : State) : Host.Outcome State Fault Refusal := finish s (s.uNotice e code.toNat)
/-- RESERVED_OPCODE (R227): ILLEGAL. -/
def execReservedOpcode (e : Fin 128) (s : State) : Host.Outcome State Fault Refusal := finish s (s.uRaise e 1 0)
/-- ROUTINE_WATCHDOG_EXPIRE (R240). -/
def execRoutineWatchdogExpire (e : Fin 128) (s : State) : Host.Outcome State Fault Refusal := finish s (s.runaway e)
/-- MACHINE_CHECK (R242). -/
def execMachineCheck (e : Fin 128) (contextMemory : Bool) (s : State) : Host.Outcome State Fault Refusal :=
  finish s (s.machineCheckAt e contextMemory)
/-- ENGINE_RELOAD_DONE (R242). -/
def execEngineReloadDone (e : Fin 128) (copyGood : Bool) (s : State) : Host.Outcome State Fault Refusal :=
  finish s (s.reloadDone e copyGood)
/-- ENGINE_FORCE_RELOAD (R242). -/
def execEngineForceReload (e : Fin 128) (s : State) : Host.Outcome State Fault Refusal := finish s (s.forceReload e)
/-- INLET_RESUME (R244). -/
def execInletResume (e : Fin 128) (s : State) : Host.Outcome State Fault Refusal := finish s (s.inletResumeCmd e)
/-- INLET_SKIP (R244). -/
def execInletSkip (e : Fin 128) (s : State) : Host.Outcome State Fault Refusal := finish s (s.inletSkipCmd e)
/-- ENGINE_FENCE (R51, R247). -/
def execEngineFence (e : Fin 128) (on : Bool) (s : State) : Host.Outcome State Fault Refusal := finish s (s.bset (Reg.CE_CMD e) 1 on)
/-- CE_CNT_CLR (R248). -/
def execCeCntClr (e : Fin 128) (s : State) : Host.Outcome State Fault Refusal := finish s (s.ceClear e)
/-- OUTLET_RELEASE (R234). -/
def execOutletRelease (e : Fin 128) (s : State) : Host.Outcome State Fault Refusal := finish s (s.stageRelease e)

end Sys2Proof.Machine
end

