-- ==== Sys2Proof/Machine/Session.lean ====
section
/-!
DEFINITION. The frame of the standard commands (R239–R241) and the fields of the session blocks of the encoder and the decoder (R250–R256,
R268, R275, R281, R282). The limits of H.265 Annex A are of that standard, not of the spec (log 30).
-/
namespace Sys2Proof.Machine

/-! Annex A (log 30). -/

/-- A level of Annex A: level_idc, MaxLumaPs, MaxCPB and MaxBR in 1,000 bits of the Main and the High tier, slice segments, tile rows
and columns, MaxLumaSr. -/
structure Level where
  idc : Nat
  ps : Nat
  cpb : Nat
  cpbHigh : Nat
  segs : Nat
  rows : Nat
  cols : Nat
  sr : Nat
  br : Nat
  brHigh : Nat
  deriving DecidableEq, Repr

/-- The levels of Annex A. -/
def levels : List Level :=
  [ ⟨30, 36864, 350, 350, 16, 1, 1, 552960, 128, 128⟩, ⟨60, 122880, 1500, 1500, 16, 1, 1, 3686400, 1500, 1500⟩,
    ⟨63, 245760, 3000, 3000, 20, 1, 1, 7372800, 3000, 3000⟩, ⟨90, 552960, 6000, 6000, 30, 2, 2, 16588800, 6000, 6000⟩,
    ⟨93, 983040, 10000, 10000, 40, 3, 3, 33177600, 10000, 10000⟩, ⟨120, 2228224, 12000, 30000, 75, 5, 5, 66846720, 12000, 30000⟩,
    ⟨123, 2228224, 20000, 50000, 75, 5, 5, 133693440, 20000, 50000⟩, ⟨150, 8912896, 25000, 100000, 200, 11, 10, 267386880, 25000, 100000⟩,
    ⟨153, 8912896, 40000, 160000, 200, 11, 10, 534773760, 40000, 160000⟩,
    ⟨156, 8912896, 60000, 240000, 200, 11, 10, 1069547520, 60000, 240000⟩,
    ⟨180, 35651584, 60000, 240000, 600, 22, 20, 1069547520, 60000, 240000⟩,
    ⟨183, 35651584, 120000, 480000, 600, 22, 20, 2139095040, 120000, 480000⟩,
    ⟨186, 35651584, 240000, 800000, 600, 22, 20, 4278190080, 240000, 800000⟩ ]
/-- The level of a level_idc. -/
def level? (idc : Nat) : Option Level := levels.find? (fun l => l.idc == idc)
/-- The NAL factor of a PROFILE code. -/
def nalFactor (profile : Nat) : Nat := match profile with | 2 => 1833 | 3 => 2200 | 4 => 2750 | _ => 1100
/-- MaxDpbSize of a picture size. -/
def maxDpb (l : Level) (ps : Nat) : Nat :=
  if ps ≤ l.ps / 4 then 16 else if ps ≤ l.ps / 2 then 12 else if ps ≤ 3 * l.ps / 4 then 8 else 6
/-- Does a picture size pass a level's limits? -/
def sizeOk (l : Level) (w h : Nat) : Bool := decide (w * h ≤ l.ps) && decide (w * w ≤ 8 * l.ps) && decide (h * h ≤ 8 * l.ps)

/-! Fields of a session block. -/

/-- Bits of word `w` of a block. -/
def bf (b : List Word) (w hi lo : Nat) : Nat := fld (b.getD w 0) hi lo
/-- The signed 7-bit QP in a word. -/
def qpOf (b : List Word) (w hi lo : Nat) : Int := sgn 7 (bf b w hi lo)
/-- CTU size of an ESB. -/
def esbCtu (b : List Word) : Nat := 16 * 2 ^ bf b 0 21 20
/-- Width and height of an ESB. -/
def esbW (b : List Word) : Nat := bf b 1 15 0
/-- Height of an ESB. -/
def esbH (b : List Word) : Nat := bf b 1 31 16
/-- CTU columns of a picture. -/
def esbCols (b : List Word) : Nat := ceilDiv (esbW b) (esbCtu b)
/-- CTU rows of a picture. -/
def esbRows (b : List Word) : Nat := ceilDiv (esbH b) (esbCtu b)
/-- Active references; ignored under STRUCT 0 (log 31). -/
def esbNref (b : List Word) : Nat := if bf b 0 23 22 = 0 then 1 else bf b 0 26 24
/-- BR in bit/s. -/
def esbBr (b : List Word) : Nat := bf b 5 31 0 * 64
/-- C in bits. -/
def esbCpb (b : List Word) : Nat := bf b 6 31 0 * 16
/-- Tile columns, 1 where the picture has no tiles. -/
def esbTileCols (b : List Word) : Nat := if bf b 0 31 30 = 1 then bf b 10 4 0 + 1 else 1
/-- Tile rows. -/
def esbTileRows (b : List Word) : Nat := if bf b 0 31 30 = 1 then bf b 10 9 5 + 1 else 1
/-- The tile, of `n` over `total` CTUs with uniform spacing, that position `x` lies in, and where it starts. -/
def tileAt (total n x : Nat) : Nat × Nat :=
  let i := ((upto n).filter (fun k => decide (k * total / n ≤ x))).length - 1
  (i, i * total / n)
/-- Does a CTU start a slice segment (R270, R276): at the left edge of its tile, every SLICE_ROWS rows of it, or each row under WPP? -/
def sliceStart (b : List Word) (x y : Nat) : Bool :=
  let tx := (tileAt (esbCols b) (esbTileCols b) x).2
  let ty := (tileAt (esbRows b) (esbTileRows b) y).2
  let n := bf b 8 15 0
  decide (x = tx) && (bf b 0 31 30 == 2 || (if n = 0 then decide (y = ty) else decide ((y - ty) % n = 0)))
/-- Slice segments of a picture. -/
def sliceCount (b : List Word) : Nat :=
  ((upto (esbRows b)).map (fun y => ((upto (esbTileCols b)).filter (fun i =>
    sliceStart b (i * esbCols b / esbTileCols b) y)).length)).sum
/-- The luma width, or height, of tile `i`. -/
def tileSpan (samples size total n i : Nat) : Nat := min samples ((i + 1) * total / n * size) - i * total / n * size
/-- The gang member that a CTU belongs to (R275), of `m` members. -/
def ctuMember (b : List Word) (m x y : Nat) : Nat :=
  match bf b 0 31 30 with
  | 1 => ((tileAt (esbRows b) (esbTileRows b) y).1 * esbTileCols b + (tileAt (esbCols b) (esbTileCols b) x).1) % m
  | 2 => y % m
  | _ => 0
/-- The luma samples per picture of a member's share (R275). -/
def shareArea (b : List Word) (m k : Nat) : Nat :=
  match bf b 0 31 30 with
  | 1 =>
    let tc := esbTileCols b
    let tr := esbTileRows b
    (((upto (tc * tr)).filter (fun i => i % m == k)).map (fun i =>
      tileSpan (esbW b) (esbCtu b) (esbCols b) tc (i % tc) * tileSpan (esbH b) (esbCtu b) (esbRows b) tr (i / tc))).sum
  | 2 => (((upto (esbRows b)).filter (fun r => r % m == k)).map (fun r =>
      esbW b * (min (esbH b) ((r + 1) * esbCtu b) - r * esbCtu b))).sum
  | _ => if k = 0 then esbW b * esbH b else 0

/-- The reserved bits of the words of an ESB (R255). -/
def esbReserved : List (Nat × Nat) :=
  [(2, 0xFFF00000), (3, 0xFFF00000), (4, 0xE0000000), (7, 0xFF000000), (8, 0xFF000000), (10, 0xFFFFF800), (11, 0xFF000000),
   (12, 0xF0000000), (14, 0xFFFF0000), (32, 0xF8000000), (44, 0xFFFFF000)] ++ (upto 18).map (fun i => (46 + i, 0xFFFFFFFF))
/-- The reserved bits of the words of a DSB (R281). -/
def dsbReserved : List (Nat × Nat) :=
  [(0, 0xF8000000), (2, 0xFFF00000), (3, 0xFFF00000), (4, 0xFF000000), (5, 0xFFFF0000), (8, 0xFFFFFFE0), (12, 0xFFFFFF00),
   (14, 0xFFFF0000)] ++ (upto 17).map (fun i => (15 + i, 0xFFFFFFFF))
/-- Is a reserved bit set? -/
def reservedSet (ms : List (Nat × Nat)) (b : List Word) : Bool := ms.any (fun p => (b.getD p.1 0 &&& wd p.2) != 0)

namespace Dev

/-! The frame of a standard command. -/

/-- A standard command runs (R239): its routine is the running one, has not committed, and the commit that it ends in has room for its
completion. Its effects are held until then. -/
def stdCmd (d : Dev) (e op : Nat) (fin : Option (Nat × Word)) (f : Dev → Dev) : Dev :=
  let x := d.engine e
  if !d.uLive e || x.committed || decide (fld (x.cmd.getD 1 0) 31 24 ≠ op) then d
  else if d.armed (66 + 3 * e) then d.machineCheckAt e false
  else if d.memFenced e then d.uStall e .memory
  else if d.commitEnds e fin && !d.cqeRoom then d.uStall e .hostStore
  else f d

/-- RAISE with a detail code by the standard microcode. -/
def raise (d : Dev) (e detail : Nat) : Dev := d.exception e 10 detail

/-- The standard microcode's check of its own commands (R237): a window that meets words which the command reads raises RAISE with 0x01. -/
def winClear (d : Dev) (e : Nat) (reads : List (Nat × Nat)) (f : Dev → Dev) : Dev :=
  if reads.any (fun r => d.winMeets e r.1 r.2) then d.raise e 1 else f d

/-- Runs of the segment read for their errors alone: none after the first that raised an exception. -/
def segReads (d : Dev) (e : Nat) : List (Nat × Nat) → Bool × Dev
  | [] => (true, d)
  | r :: rs => match d.segRead e r.1 r.2 with
    | (some _, d1) => segReads d1 e rs
    | (none, d1) => (false, d1)
/-- Runs at byte offsets of the segment written in order, until one is refused. -/
def segPuts (d : Dev) (e : Nat) : List (Nat × Bytes) → Bool × Dev
  | [] => (true, d)
  | (o, bs) :: r => match d.segPut e o bs with
    | (true, d1) => segPuts d1 e r
    | (false, d1) => (false, d1)

/-- The owner of the running context (R225). -/
def ctxOwner (d : Dev) (e : Nat) : Nat := if d.curOf e = 0 then 1024 + e else (d.ctx e (d.curOf e)).owner
/-- A frame as a packet of an outlet stage: its descriptor, then its words (R234). -/
def packetWords (dest cls owner : Nat) (f : Bytes) : List FWord :=
  { data := BitVec.ofNat 64 (dest % 2 ^ 20 + cls % 16 * 2 ^ 20 + owner % 4096 * 2 ^ 24 + f.length % 2 ^ 14 * 2 ^ 36), v := true, l := false }
    :: fifoWords true f

end Dev
end Sys2Proof.Machine
end

