-- ==== Sys2Proof/Machine/Nal.lean ====
section
/-!
DEFINITION. The NAL units that the encoder writes (R250, R253, R254, R260, R269, R271, R272): bit strings, emulation prevention, parameter sets,
VUI and HRD parameters, SEI and slice segment headers. Their layout is that of H.265, which the rules cite and do not print (log 129).
-/
namespace Sys2Proof.Machine

/-! Bit strings, first bit first. -/

/-- u(n). -/
def ub (n v : Nat) : List Bool := (upto n).reverse.map (fun i => bit v i)
/-- ue(v). -/
def ue (v : Nat) : List Bool := List.replicate (v + 1).log2 false ++ ub ((v + 1).log2 + 1) (v + 1)
/-- se(v). -/
def se (v : Int) : List Bool := ue (if 0 < v then (2 * v - 1).toNat else (-2 * v).toNat)
/-- A flag. -/
def uf (b : Bool) : List Bool := [b]
/-- A one, then zeros up to a whole byte. -/
def trailing (bs : List Bool) : List Bool := bs ++ [true] ++ List.replicate ((7 - bs.length % 8) % 8) false
/-- The value of bits, first bit highest. -/
def bitsVal (bs : List Bool) : Nat := bs.foldl (fun a b => 2 * a + b2n b) 0
/-- The whole bytes of a bit string. -/
def wholeBytes : List Bool → Bytes
  | a :: b :: c :: d :: e :: f :: g :: h :: r => by8 (bitsVal [a, b, c, d, e, f, g, h]) :: wholeBytes r
  | _ => []
/-- Emulation prevention, after `z` zero bytes. -/
def escapeFrom : Nat → Bytes → Bytes
  | _, [] => []
  | z, b :: r =>
    if 2 ≤ z ∧ b.toNat < 4 then by8 3 :: b :: escapeFrom (if b = 0 then 1 else 0) r
    else b :: escapeFrom (if b = 0 then z + 1 else 0) r
/-- The bytes of a NAL unit so far, with emulation prevention. -/
def nalBytes (bs : List Bool) : Bytes := escapeFrom 0 (wholeBytes bs)
/-- The bits of a NAL unit so far: those of its bytes, and what does not fill a byte yet (R263, R270). -/
def nalBits (bs : List Bool) : Nat := 8 * (nalBytes bs).length + bs.length % 8
/-- The header of a NAL unit of the base layer. -/
def nalHead (type : Nat) : List Bool := ub 1 0 ++ ub 6 type ++ ub 6 0 ++ ub 3 1
/-- A complete NAL unit. -/
def nalUnit (type : Nat) (rbsp : List Bool) : Bytes := nalBytes (trailing (nalHead type ++ rbsp))

/-! Parameter sets (R250, R253, R260, R271, R272). -/

/-- general_profile_idc of a PROFILE code (R250). -/
def profileIdc (p : Nat) : Nat := match p with | 0 => 1 | 1 => 2 | _ => 4
/-- The general constraint flags of Annex A for PROFILE codes 2 to 4: up to 12, 10 and 8 bits, up to 4:2:2, 4:2:0 and monochrome, intra, one
picture, lower bit rate. -/
def profileFlags (p : Nat) : List Bool :=
  match p with
  | 2 => [true, true, false, true, false, false, false, false, true]
  | 3 => [true, true, true, false, false, false, false, false, true]
  | 4 => [true, true, false, false, false, false, false, false, true]
  | _ => List.replicate 9 false
/-- profile_tier_level: progressive, neither packed nor field pictures (R254). -/
def profileTierLevel (b : List Word) : List Bool :=
  let p := bf b 0 10 8
  let idc := profileIdc p
  ub 2 0 ++ ub 1 (bf b 0 11 11) ++ ub 5 idc ++ (upto 32).map (fun j => j == idc || (idc == 1 && j == 2))
    ++ [true, false, true, true] ++ profileFlags p ++ ub 34 0 ++ ub 1 0 ++ ub 8 (bf b 0 19 12)
/-- The bounds of R260: sps_max_dec_pic_buffering_minus1 is NREF, no reordering and no latency. -/
def bufferBounds (b : List Word) : List Bool := ue (esbNref b) ++ ue 0 ++ ue 0
/-- VPS. -/
def vpsNal (b : List Word) : Bytes :=
  nalUnit 32 (ub 4 0 ++ [true, true] ++ ub 6 0 ++ ub 3 0 ++ [true] ++ ub 16 0xFFFF ++ profileTierLevel b ++ [true] ++ bufferBounds b
    ++ ub 6 0 ++ ue 0 ++ [false, false])
/-- Does the session signal an HRD (R267)? -/
def esbHrd (b : List Word) : Bool := decide (bf b 4 1 0 < 2)
/-- hrd_parameters (R272): NAL parameters only, no sub-pictures, delays of 24 bits, scales 0, one CPB. -/
def hrdParameters (b : List Word) : List Bool :=
  [true, false, false] ++ ub 4 0 ++ ub 4 0 ++ ub 5 23 ++ ub 5 23 ++ ub 5 23
    ++ [false, false, false] ++ ue 0 ++ ue (bf b 5 31 0 - 1) ++ ue (bf b 6 31 0 - 1) ++ uf (bf b 4 1 0 == 0)
/-- VUI (R272): the colour description, the picture rate, the HRD. -/
def vui (b : List Word) : List Bool :=
  [false, false, true] ++ ub 3 5 ++ ub 1 (bf b 32 24 24) ++ [true] ++ ub 8 (bf b 32 7 0) ++ ub 8 (bf b 32 15 8) ++ ub 8 (bf b 32 23 16)
    ++ [false, false, false, false, false, true] ++ ub 32 (bf b 3 19 0) ++ ub 32 (bf b 2 19 0) ++ [false] ++ uf (esbHrd b)
    ++ (if esbHrd b then hrdParameters b else []) ++ [false]
/-- SPS (R253, R260): the tools fixed by the device, and those of the session. -/
def spsNal (b : List Word) : Bytes :=
  let chroma := bf b 4 25 24
  let depth := if bf b 4 23 23 = 1 then 2 else 0
  nalUnit 33 (ub 4 0 ++ ub 3 0 ++ [true] ++ profileTierLevel b ++ ue 0 ++ ue chroma ++ (if chroma = 3 then [false] else [])
    ++ ue (esbW b) ++ ue (esbH b) ++ [false] ++ ue depth ++ ue depth ++ ue 12 ++ [true] ++ bufferBounds b
    ++ ue 0 ++ ue (bf b 0 21 20 + 1) ++ ue 0 ++ ue (min 3 (bf b 0 21 20 + 2)) ++ ue 2 ++ ue 2
    ++ (if bf b 4 26 26 = 1 then [true, false] else [false]) ++ [false] ++ uf (bf b 0 27 27 == 1) ++ [false] ++ ue 0 ++ [false]
    ++ uf (bf b 0 28 28 == 1) ++ [false] ++ [true] ++ vui b ++ [false])
/-- Are there tiles in the picture: PAR 1 with more than one? -/
def esbTiles (b : List Word) : Bool := decide (1 < esbTileCols b * esbTileRows b)
/-- Does the picture use WPP? -/
def esbWpp (b : List Word) : Bool := bf b 0 31 30 == 2
/-- Gradual refresh. -/
def esbGir (b : List Word) : Bool := bf b 0 29 29 == 1
/-- PPS (R253, R255). -/
def ppsNal (b : List Word) : Bytes :=
  nalUnit 34 (ue 0 ++ ue 0 ++ uf (esbWpp b) ++ [false] ++ ub 3 0 ++ [true, false] ++ ue 0 ++ ue 0 ++ se (qpOf b 4 8 2 - 26)
    ++ uf (esbGir b) ++ [false] ++ [true] ++ ue 0 ++ se 0 ++ se 0 ++ [false, false, false, false] ++ uf (esbTiles b) ++ uf (esbWpp b)
    ++ (if esbTiles b then ue (esbTileCols b - 1) ++ ue (esbTileRows b - 1) ++ [true] ++ uf (bf b 10 10 10 == 1) else [])
    ++ [true, false, false, false] ++ ue 0 ++ [false, false])

/-! SEI (R269, R271, R272). -/

/-- An SEI message of whole or padded bytes. -/
def seiNal (nal type : Nat) (payload : List Bool) : Bytes :=
  let p := if payload.length % 8 = 0 then payload else trailing payload
  let n := p.length / 8
  let ff := fun (v : Nat) => List.replicate (8 * (v / 255)) true ++ ub 8 (v % 255)
  nalUnit nal (ff type ++ ff n ++ p)
/-- Buffering period SEI: the initial delay of the session, offset 0, concatenation_flag 0. -/
def bufferingSei (b : List Word) : Bytes := seiNal 39 0 (ue 0 ++ [false, false] ++ ub 24 0 ++ ub 24 (bf b 7 23 0) ++ ub 24 0)
/-- Picture timing SEI (R272): au_cpb_removal_delay_minus1 is *d* − 1, 0 where no period came before; pic_dpb_output_delay is 0. -/
def timingSei (since : Nat) : Bytes := seiNal 39 1 (ub 24 (since - 1) ++ ub 24 0)
/-- Recovery point SEI (R269). -/
def recoverySei (b : List Word) : Bytes := seiNal 39 6 (se (ceilDiv (esbCols b) (bf b 8 23 16) - 1 : Nat) ++ [true, false])
/-- Mastering display colour volume SEI: words 33 to 38 (R255). -/
def masteringSei (b : List Word) : Bytes :=
  seiNal 39 137 ((upto 8).flatMap (fun i => ub 16 (if i % 2 = 0 then bf b (33 + i / 2) 15 0 else bf b (33 + i / 2) 31 16))
    ++ ub 32 (bf b 37 31 0) ++ ub 32 (bf b 38 31 0))
/-- Content light level SEI: word 39. -/
def lightSei (b : List Word) : Bytes := seiNal 39 144 (ub 16 (bf b 39 15 0) ++ ub 16 (bf b 39 31 16))
/-- Bytes cut or padded to a length. -/
def fitBytes (n : Nat) (bs : Bytes) : Bytes := bs.take n ++ List.replicate (n - bs.length) 0
/-- Decoded picture hash SEI (R271): MD5 or CRC of each colour component. -/
def hashSei (b : List Word) (hash : Nat → Bytes) : Bytes :=
  let md5 := bf b 4 28 27 = 1
  seiNal 40 132 (ub 8 (if md5 then 0 else 1) ++ (upto 3).flatMap (fun c => (fitBytes (if md5 then 16 else 2) (hash c)).flatMap (fun x => ub 8 x.toNat)))
/-- The exact size of the suffix SEI in bits, known before the picture starts (R265): bytes of zeros that need no emulation prevention count as
any others (log 129). -/
def suffixBits (b : List Word) : Nat :=
  match bf b 4 28 27 with
  | 0 => 0
  | _ => 8 * (hashSei b (fun _ => List.replicate 16 0xFF)).length

/-- A picture of a session: its number since SETCTX, its index in the refresh cycle, and *d* of R272. -/
structure PicPos where
  count : Nat
  gir : Nat
  since : Nat
  deriving DecidableEq, Repr

/-- Is the picture IDR (R260)? -/
def PicPos.idr (p : PicPos) (b : List Word) : Bool := bf b 0 23 22 == 0 || p.count == 0
/-- Is the picture in a refresh cycle (R269)? Only the first is IDR. -/
def PicPos.cycle (p : PicPos) (b : List Word) : Bool := esbGir b && decide (0 < p.count)
/-- Do the parameter sets come with the picture (R271)? -/
def PicPos.params (p : PicPos) (b : List Word) : Bool :=
  let every := bf b 9 31 16
  p.idr b || (p.cycle b && p.gir == 0) || (decide (0 < every) && p.count % every == 0)
/-- Does the picture carry a buffering period SEI (R271, R272)? -/
def PicPos.period (p : PicPos) (b : List Word) : Bool := esbHrd b && (p.params b || decide (8388608 ≤ p.since))
/-- The NAL units before the picture's slice segments (R271). -/
def PicPos.head (p : PicPos) (b : List Word) : List Bytes :=
  (if p.params b then [vpsNal b, spsNal b, ppsNal b] else [])
    ++ (if p.period b then [bufferingSei b] else []) ++ (if esbHrd b then [timingSei p.since] else [])
    ++ (if p.cycle b && p.gir == 0 then [recoverySei b] else [])
    ++ (if p.params b && bf b 32 25 25 == 1 then [masteringSei b] else [])
    ++ (if p.params b && bf b 32 26 26 == 1 then [lightSei b] else [])
/-- Bits of complete NAL units. -/
def nalsBits (ns : List Bytes) : Nat := 8 * (ns.map List.length).sum
/-- The parameter set and SEI bits of a picture (R277). -/
def PicPos.headBits (p : PicPos) (b : List Word) : Nat := nalsBits (p.head b) + suffixBits b
/-- The exact size of the parameter sets and SEI of an IRAP picture (R268). -/
def paramBits (b : List Word) : Nat := PicPos.headBits { count := 0, gir := 0, since := 0 } b

/-! Slice segments (R253, R260, R270, R276). -/

/-- The tile of a CTU: its number in raster order, first column and row, columns and rows. -/
def tileOf (b : List Word) (x y : Nat) : Nat × Nat × Nat × Nat × Nat :=
  let tx := tileAt (esbCols b) (esbTileCols b) x
  let ty := tileAt (esbRows b) (esbTileRows b) y
  (ty.1 * esbTileCols b + tx.1, tx.2, ty.2, (tx.1 + 1) * esbCols b / esbTileCols b - tx.2, (ty.1 + 1) * esbRows b / esbTileRows b - ty.2)
/-- The row in which the slice segment of a CTU starts (R270, R276). -/
def segRow (b : List Word) (x y : Nat) : Nat :=
  let (_, x0, y0, _, _) := tileOf b x y
  (((upto (y + 1)).filter (fun r => decide (y0 ≤ r) && sliceStart b x0 r)).getLast?).getD y0
/-- Where the slice segments of the picture start, in decoding order. -/
def segStarts (b : List Word) : List (Nat × Nat) :=
  (upto (esbTileRows b)).flatMap (fun j => (upto (esbTileCols b)).flatMap (fun i =>
    let x0 := i * esbCols b / esbTileCols b
    let y0 := j * esbRows b / esbTileRows b
    ((upto ((j + 1) * esbRows b / esbTileRows b)).filter (fun y => decide (y0 ≤ y) && sliceStart b x0 y)).map (fun y => (x0, y))))
/-- The number of a CTU's slice segment in decoding order. -/
def segIndex (b : List Word) (x y : Nat) : Nat := (segStarts b).idxOf ((tileOf b x y).2.1, segRow b x y)
/-- Is a CTU the last of its slice segment? -/
def segEnds (b : List Word) (x y : Nat) : Bool :=
  let (_, x0, y0, w, h) := tileOf b x y
  decide (x + 1 = x0 + w) && (decide (y + 1 = y0 + h) || sliceStart b x0 (y + 1))
/-- Does the slice segment that starts in row `y` depend on the one before it: every row under WPP but a slice's first (R276)? -/
def segDepends (b : List Word) (y : Nat) : Bool :=
  esbWpp b && decide ((if bf b 8 15 0 = 0 then y else y % bf b 8 15 0) ≠ 0)

/-- slice_type of a picture (R260): 2 I, 1 P, 0 B; a picture with no reference is I. -/
def sliceKind (b : List Word) (idr : Bool) (refs : List Nat) : Nat := if idr || refs.isEmpty then 2 else if bf b 0 23 22 = 1 then 1 else 0
/-- The bits of a number below `n`. -/
def bitsFor (n : Nat) : Nat := ((upto 33).find? (fun k => decide (n ≤ 2 ^ k))).getD 32
/-- The reference picture set, explicit: the order counts of the references before the picture's own, newest first (R260). -/
def refPicSet (poc : Nat) (refs : List Nat) : List Bool :=
  ue refs.length ++ ue 0 ++ (upto refs.length).flatMap (fun i =>
    ue ((if i = 0 then poc else refs.getD (i - 1) 0) - refs.getD i 0 - 1) ++ [true])
/-- A slice segment header with its NAL unit header (R260, R270, R276). -/
def segHead (b : List Word) (idr : Bool) (poc : Nat) (refs : List Nat) (qp : Int) (x y : Nat) : List Bool :=
  let kind := sliceKind b idr refs
  let first := x == 0 && y == 0
  let dep := segDepends b y
  let tmvp := bf b 0 28 28 == 1
  let sao := bf b 0 27 27 == 1
  let body :=
    if dep then []
    else ue kind
      ++ (if idr then [] else ub 16 poc ++ [false] ++ refPicSet poc refs ++ (if tmvp then [kind != 2] else []))
      ++ (if sao then [true, true] else [])
      ++ (if kind = 2 then [] else
          [true] ++ ue (refs.length - 1) ++ (if kind = 0 then ue (refs.length - 1) ++ [false] else [])
            ++ (if tmvp && !idr then (if kind = 0 then [true] else []) ++ (if 1 < refs.length then ue 0 else []) else []) ++ ue 0)
      ++ se (qp - qpOf b 4 8 2) ++ [true]
  trailing (nalHead (if idr then 20 else 1) ++ [first] ++ (if idr then [false] else []) ++ ue 0
    ++ (if first then [] else (if esbWpp b then [dep] else []) ++ ub (bitsFor (esbCols b * esbRows b)) (y * esbCols b + x))
    ++ body ++ (if esbTiles b || esbWpp b then ue 0 else []))

end Sys2Proof.Machine
end

