-- ==== Sys2Proof/Machine/Search.lean ====
section
/-!
DEFINITION. The motion search of the encoder (R261, R262): source samples and pool slots, the on-chip window, the full-pel search and its
refinement. The interpolation of fractional samples is that of H.265 (log 130).
-/
namespace Sys2Proof.Machine

/-- A coordinate replicated at the edges of 0 to n − 1 (R261, R305). -/
def edge (n : Nat) (x : Int) : Nat := min (x.toNat) (n - 1)

/-! Planar pictures of a session: a source slot and a pool slot (R258, log 131). -/

/-- Bytes of a sample of the session. -/
def esbBytes (b : List Word) : Nat := if bf b 4 23 23 = 1 then 2 else 1
/-- Bit depth of the session. -/
def esbDepth (b : List Word) : Nat := if bf b 4 23 23 = 1 then 10 else 8
/-- Width of a plane. -/
def planeW (b : List Word) (c : Nat) : Nat := if c = 0 ∨ bf b 4 25 24 = 3 then esbW b else esbW b / 2
/-- Height of a plane. -/
def planeH (b : List Word) (c : Nat) : Nat := if c = 0 ∨ bf b 4 25 24 ≠ 1 then esbH b else esbH b / 2
/-- The byte offset in a slot of sample (x, y) of plane `c`: planes follow one another after the 4 words of the header. -/
def planeAt (b : List Word) (c x y : Nat) : Nat :=
  let luma := esbW b * esbH b
  let before := match c with | 0 => 0 | 1 => luma | _ => luma + planeW b 1 * planeH b 1
  16 + esbBytes b * (before + y * planeW b c + x)
/-- The words of a slot that hold lines `y0` to `y1 − 1`, counted in luma, of every plane. -/
def planeReads (b : List Word) (slot y0 y1 : Nat) : List (Nat × Nat) :=
  (upto 3).map (fun c =>
    let k := esbH b / atLeast1 (planeH b c)
    let o := planeAt b c 0 (y0 / atLeast1 k)
    let n := esbBytes b * planeW b c * (ceilDiv y1 (atLeast1 k) - y0 / atLeast1 k)
    (slot + o / 4, ceilDiv (o % 4 + n) 4))

/-! Interpolation (log 130). -/

/-- The luma filter of a quarter-sample phase. -/
def lumaTaps (phase : Nat) : List Int :=
  match phase with
  | 1 => [-1, 4, -10, 58, 17, -5, 1, 0]
  | 2 => [-1, 4, -11, 40, 40, -11, 4, -1]
  | 3 => [0, 1, -5, 17, 58, -10, 4, -1]
  | _ => [0, 0, 0, 64, 0, 0, 0, 0]
/-- A filter over the eight samples from 3 before. -/
def tapSum (taps : List Int) (s : Int → Int) : Int := (upto 8).foldl (fun (a : Int) k => a + taps.getD k 0 * s ((k : Int) - 3)) 0
/-- A predicted luma sample at a quarter-sample position. -/
def lumaPred (depth : Nat) (s : Int → Int → Nat) (qx qy : Int) : Nat :=
  let row := fun (y : Int) => tapSum (lumaTaps (qx % 4).toNat) (fun k => s (qx / 4 + k) y)
  let v := tapSum (lumaTaps (qy % 4).toNat) (fun k => row (qy / 4 + k) / 2 ^ (depth - 8)) / 64
  (max 0 (min (2 ^ depth - 1) ((v + 2 ^ (13 - depth)) / 2 ^ (14 - depth)))).toNat

/-! The window (R261). -/

/-- Columns of a window of CTU size `S`. -/
def winW (s : Nat) : Nat := s + 392
/-- Rows of a window. -/
def winH (s : Nat) : Nat := s + 200
/-- A window's luma sample at a place relative to its CTU. -/
def SearchWin.luma? (w : SearchWin) (x y : Int) : Nat := (w.luma.getD (x + 196).toNat []).getD (y + 100).toNat 0
/-- Is the window the one of the CTU before, on the same row (R261)? -/
def SearchWin.before (w : SearchWin) (ctx pic ctu slot cols : Nat) : Bool :=
  w.ctx == ctx && w.pic == pic && w.slot == slot && w.ctu + 1 == ctu && decide (ctu % cols ≠ 0)

/-! The search (R261). -/

/-- What a block's search works with: the session, the CTU, the reference's place in list 0, the block in the CTU, its source samples and the
window. -/
structure SearchJob where
  input : Config.CtuIn
  ref : Nat
  x : Nat
  y : Nat
  size : Nat

/-- The cost of a vector in quarter samples: SAD plus λ times the vector bits, in sixteenths. -/
def vectorCost (depth : Nat) (k : SearchJob) (src : Nat → Nat → Nat) (win : Int → Int → Nat) (v : Int × Int) : Nat :=
  let diff := fun (i j : Nat) =>
    let p := lumaPred depth win (4 * (k.x + i : Nat) + v.1) (4 * (k.y + j : Nat) + v.2)
    let s := src (k.x + i) (k.y + j)
    if p < s then s - p else p - s
  let sad := ((upto k.size).map (fun j => ((upto k.size).map (fun i => diff i j)).sum)).sum
  16 * sad + Config.lambda k.input.qp * Config.vectorBits k.input k.ref k.x k.y k.size v.1 v.2
/-- The cheapest of some vectors; among equals a choice that the rules leave open. -/
def cheapest (k : SearchJob) (cost : Int × Int → Nat) (vs : List (Int × Int)) : Int × Int :=
  let costs := vs.map (fun v => (cost v, v))
  let low := costs.foldl (fun m p => min m p.1) ((costs.head?.map Prod.fst).getD 0)
  let best := (costs.filter (fun p => p.1 == low)).map Prod.snd
  best.getD (Config.tie k.input k.ref k.x k.y k.size % atLeast1 best.length) (0, 0)
/-- Every integer displacement of the range: ±192 and ±96, in quarter samples. -/
def fullPel : List (Int × Int) :=
  (upto 193).flatMap (fun j => (upto 385).map (fun i => (4 * ((i : Int) - 192), 4 * ((j : Int) - 96))))
/-- A vector and the 8 around it at a step in quarter samples. -/
def around (v : Int × Int) (step : Int) : List (Int × Int) :=
  [(0, 0), (-1, -1), (0, -1), (1, -1), (-1, 0), (1, 0), (-1, 1), (0, 1), (1, 1)].map (fun (p : Int × Int) => (v.1 + step * p.1, v.2 + step * p.2))
/-- The vector of a block: full-pel, half-pel around it, quarter-pel around that. -/
def searchBlock (depth : Nat) (k : SearchJob) (src : Nat → Nat → Nat) (win : Int → Int → Nat) : Int × Int :=
  let pick := cheapest k (vectorCost depth k src win)
  pick (around (pick (around (pick fullPel) 2)) 1)
/-- The blocks of a CTU that are searched: every 8×8 and 16×16 luma block in the picture, and the larger ones up to the CTU, whose costs are the
sums of theirs. -/
def searchBlocks (b : List Word) (x0 y0 : Nat) : List (Nat × Nat × Nat) :=
  let s := esbCtu b
  ([8, 16, 32, 64].filter (fun z => decide (z ≤ s))).flatMap (fun z => (upto (s / z)).flatMap (fun j => (upto (s / z)).filterMap (fun i =>
    if x0 + (i + 1) * z ≤ esbW b ∧ y0 + (j + 1) * z ≤ esbH b then some (i * z, j * z, z) else none)))

namespace Dev

/-- A sample of a slot of the running context's segment, edges replicated. -/
def planeSample (d : Dev) (e : Nat) (b : List Word) (slot c : Nat) (x y : Int) : Nat :=
  let o := planeAt b c (edge (planeW b c) x) (edge (planeH b c) y)
  let a := addr37 (d.ctxSeg e (d.curOf e) * 4096 + 4 * slot + o)
  if bf b 4 23 23 = 1 then leNat [d.fmByte a, d.fmByte (addr37 (a + 1))] % 1024 else (d.fmByte a).toNat

/-- Columns `x0` to `x0 + n − 1` of the window of a CTU row at luma line `y0`, from a pool slot (R261). -/
def winLuma (d : Dev) (e : Nat) (b : List Word) (slot : Nat) (x0 : Int) (n : Nat) (y0 : Nat) : List (List Nat) :=
  (upto n).map (fun i => (upto (winH (esbCtu b))).map (fun j => d.planeSample e b slot 0 (x0 + i) ((y0 : Int) - 100 + j)))
/-- The chroma columns of the same area. -/
def winChroma (d : Dev) (e : Nat) (b : List Word) (slot : Nat) (x0 : Int) (n : Nat) (y0 : Nat) : List (List Nat × List Nat) :=
  let sx : Nat := if bf b 4 25 24 = 3 then 1 else 2
  let sy : Nat := if bf b 4 25 24 = 1 then 2 else 1
  let col := fun (c i : Nat) => (upto (winH (esbCtu b) / sy)).map (fun j => d.planeSample e b slot c (x0 / sx + i) (((y0 : Int) - 100) / sy + j))
  (upto (n / sx)).map (fun i => (col 1 i, col 2 i))
/-- The window of a CTU over a pool slot (R261): the whole of it at the first CTU of a row, and where no window of the CTU before is held; else one
column of CTU size is loaded and the oldest dropped. -/
def winLoad (d : Dev) (e : Nat) (b : List Word) (slot ctu : Nat) : SearchWin :=
  let s := esbCtu b
  let x0 := ctu % esbCols b * s
  let y0 := ctu / esbCols b * s
  let k := d.curOf e
  let pic := (d.ctx e k).enc.pics
  let sx : Nat := if bf b 4 25 24 = 3 then 1 else 2
  match (d.engine e).windows.find? (fun w => w.before k pic ctu slot (esbCols b)) with
  | some w => { w with
      ctu := ctu, luma := w.luma.drop s ++ d.winLuma e b slot ((x0 : Int) + 196) s y0
      chroma := w.chroma.drop (s / sx) ++ d.winChroma e b slot ((x0 : Int) + 196) s y0 }
  | none => {
      ctx := k, pic := pic, ctu := ctu, slot := slot, luma := d.winLuma e b slot ((x0 : Int) - 196) (winW s) y0
      chroma := d.winChroma e b slot ((x0 : Int) - 196) (winW s) y0 }

/-- The search of a CTU over the windows of its references: the vectors of every block, reference after reference (R261). -/
def searchCtu (d : Dev) (e : Nat) (b : List Word) (i : Config.CtuIn) (src : Nat) (wins : List SearchWin) : List (Int × Int) :=
  let x0 := i.x * esbCtu b
  let y0 := i.y * esbCtu b
  (upto wins.length).flatMap (fun r => match wins[r]? with
    | none => []
    | some w => (searchBlocks b x0 y0).map (fun p =>
        searchBlock (esbDepth b) { input := i, ref := r, x := p.1, y := p.2.1, size := p.2.2 }
          (fun x y => d.planeSample e b src 0 (x0 + x : Nat) (y0 + y : Nat)) w.luma?))

end Dev
end Sys2Proof.Machine
end

