-- ==== Sys2Proof/Machine/SetCtx.lean ====
section
/-!
DEFINITION. The checks of the session blocks (R256, R268, R282) and SETCTX.
-/
namespace Sys2Proof.Machine
namespace Dev

/-- The session's rate with GLB_RATE where RATE_N is 0 (R255, R281): words 2 and 3 of the block. -/
def rateFilled (d : Dev) (b : List Word) : List Word :=
  if bf b 2 19 0 = 0 then (b.set 2 (wd d.rateN)).set 3 (wd d.rateD) else b

/-! The checks (R256, R268, R282). -/

/-- The checks of RC (R268). -/
def rcBad (b : List Word) (l : Level) : Bool :=
  let high := bf b 0 11 11 = 1
  let fac := nalFactor (bf b 0 10 8)
  let br := esbBr b
  let c := esbCpb b
  let n := bf b 2 19 0
  let dd := bf b 3 19 0
  let f0 := br * bf b 7 23 0
  let minPic := paramBits b + 1024 * sliceCount b + 72 * (esbCols b * esbRows b)
  let qi := qpOf b 4 8 2
  let lo : Int := if bf b 4 23 23 = 1 then -12 else 0
  let rc := bf b 4 1 0
  rc == 3 || decide (qi < lo) || decide (51 < qi) || decide (qi < qpOf b 4 15 9) || decide (qpOf b 4 22 16 < qi)
    || (decide (rc < 2) && (decide (br = 0) || decide ((if high then l.brHigh else l.br) * fac < br)
        || decide ((if high then l.cpbHigh else l.cpb) * fac < c) || decide (c * n < br * dd) || decide (c * 90000 < f0)
        || decide (br * dd < minPic * n) || decide (f0 < minPic * 90000)))

/-- The first check of R256 that an ESB fails, as its detail code: `raw` as it is read, `b` with its picture rate filled. -/
def esbFails (d : Dev) (e : Nat) (raw b : List Word) : Option Nat :=
  let prof := bf b 0 10 8
  let chroma := bf b 4 25 24
  let ten := bf b 4 23 23 = 1
  let gang := (d.gangOf e).isSome
  let m := match d.gangOf e with | some g => atLeast1 (d.gangSize g) | none => 1
  let w := esbW b
  let h := esbH b
  let n := bf b 2 19 0
  let dd := bf b 3 19 0
  let par := bf b 0 31 30
  let profBad := decide (5 ≤ prof) || chroma == 0 || (decide (prof ≤ 1) && chroma != 1) || (prof == 2 && chroma == 3)
    || (ten && (prof == 0 || prof == 3))
  if bf b 0 7 0 ≠ 1 then some 0x10
  else if profBad then some 0x11
  else match level? (bf b 0 19 12) with
  | none => some 0x12
  | some l =>
    let spans := (upto (esbTileCols b)).any (fun i => decide (tileSpan w (esbCtu b) (esbCols b) (esbTileCols b) i < 256))
      || (upto (esbTileRows b)).any (fun i => decide (tileSpan h (esbCtu b) (esbRows b) (esbTileRows b) i < 64))
    let structBad := bf b 0 21 20 == 3 || bf b 0 23 22 == 3 || par == 3 || esbNref b == 0 || decide (4 < esbNref b)
      || (par == 1 && (spans || decide (l.cols < esbTileCols b) || decide (l.rows < esbTileRows b)))
      || decide (l.segs < sliceCount b)
    let cols := esbCols b
    let girBad := bf b 0 29 29 == 1 && (bf b 0 23 22 == 0 || bf b 8 23 16 == 0
      || decide (bf b 9 15 0 < ceilDiv cols (bf b 8 23 16)))
    let slots := bf b 44 3 0
    let poolBad := decide (slots < 2) || decide (8 < slots) || decide (slots < esbNref b + 1) || decide (maxDpb l (w * h) < esbNref b + 1)
    let tl := bf b 12 20 14
    let outBad := !d.outDestOk (bf b 11 19 0) || decide (bf b 12 13 0 < 128) || decide (16352 < bf b 12 13 0)
      || !([42, 46, 50, 62, 66, 70].contains tl) || decide (bf b 12 27 21 < 96)
    let tooFast := if gang then (upto m).any (fun k => decide (447897600 * dd < shareArea b m k * n)) else decide (497664000 * dd < w * h * n)
    if (!gang && decide (153 < l.idc)) then some 0x12
    else if decide (w % 8 ≠ 0) || decide (h % 8 ≠ 0) || decide (w < 64) || decide (h < 64) || !sizeOk l w h then some 0x13
    else if dd = 0 ∨ l.sr * dd < w * h * n then some 0x14
    else if structBad then some 0x15
    else if rcBad b l then some 0x16
    else if girBad then some 0x17
    else if poolBad then some 0x18
    else if outBad then some 0x19
    else if tooFast then some 0x1A
    else if reservedSet esbReserved raw || (decide (par ≠ 0) && !gang) || bf b 4 28 27 == 3 then some 0x1B
    else none

/-- The first check of R282 that a DSB fails, as its detail code: `raw` as it is read, `b` with its picture rate filled. -/
def dsbFails (d : Dev) (e : Nat) (raw b : List Word) : Option Nat :=
  let m := match d.gangOf e with | some g => atLeast1 (d.gangSize g) | none => 1
  let gang := (d.gangOf e).isSome
  let w := bf b 1 15 0
  let h := bf b 1 31 16
  let n := bf b 2 19 0
  let dd := bf b 3 19 0
  if bf b 0 12 8 = 0 then some 0x40
  else match level? (bf b 0 20 13) with
  | none => some 0x41
  | some l =>
    if !gang && decide (153 < l.idc) then some 0x41
    else if w < 64 ∨ h < 64 ∨ sizeOk l w h = false then some 0x42
    else if (if gang then m * 447897600 else 497664000) * dd < w * h * n then some 0x43
    else if bf b 8 4 0 < 3 ∨ 20 < bf b 8 4 0 ∨ bf b 12 7 0 = 0 then some 0x44
    else if bf b 0 25 24 = 3 ∨ bf b 0 23 22 = 3 ∨ 100 < bf b 4 7 0 ∨ bf b 5 15 0 = 0 then some 0x45
    else if reservedSet dsbReserved raw then some 0x46
    else none

/-- The sixteen architectural registers that SETCTX loads: the spec does not say which words of the block (log 31). -/
def freeRegs (d : Dev) (e : Nat) : Dev :=
  (upto 16).foldl (fun x i => let (v, y) := x.freeWord; y.updEngine e (fun z => z.setReg (48 + i) v)) d

/-- SETCTX (R256, R282): the block checked, A0–A15 loaded, the session opened. A decode session block has 32 words, an encode session
block 64. -/
def setctxRun (d : Dev) (e off : Nat) : Dev :=
  d.stdCmd e 1 none (fun z => z.winClear e [(off, 32)] fun y =>
    match y.segRead e off 32 with
    | (none, d1) => d1
    | (some lo, d1) =>
      let k := d1.curOf e
      if bf lo 0 7 0 = 0x81 then
        let b := d1.rateFilled lo
        match d1.dsbFails e lo b with
        | some code => d1.raise e code
        | none => ((d1.freeRegs e).updCtx e k (fun c => { c with
            encEsb := none, decDsb := some b, decParams := none, decWaitIrap := true, decSlot := none, decNext := 0, decDone := []
            decGone := [], decInter := [], decLost := 0, decMissing := false, decPics := 0, decWithheld := 0
            decFrozen := false, str := {} })).commandDone e none
      else d1.winClear e [(off + 32, 32)] fun d2 =>
        match d2.segRead e (off + 32) 32 with
        | (none, d3) => d3
        | (some hi, d3) =>
          let raw := lo ++ hi
          let b := d3.rateFilled raw
          match d3.esbFails e raw b with
          | some code => d3.raise e code
          | none => ((d3.freeRegs e).updCtx e k (fun c => { c with
              encEsb := some b, encFresh := if c.encEsb.isSome then 2 else 1, encNext := 0, encRecon := none
              enc := { since := if c.encEsb.isSome then c.enc.since else 0 }, decDsb := none })).commandDone e none)

end Dev
end Sys2Proof.Machine
end

