-- ==== Sys2Proof/Machine/EncodeCmds.lean ====
section
/-!
DEFINITION. ENC_CTUS, ENC_END and the leader's EMIT (R257–R278): the order of CTUs, sources and reference marks, the limits of refresh, the HRD
check and its fallbacks, the rate model block, filler, RTP packets and the gang ring. What the tools of H.265 decide and code is open (Config, log 128).
-/
namespace Sys2Proof.Machine

/-! RTP packets (R273, R274). -/

/-- The packets of a NAL unit's bytes so far (R274), `sent` of which after its header have gone in fragments, and how many have then: the unit alone
where it fits `room`, else fragmentation units as large as that allows. What may yet be the end waits for it (log 132). -/
def nalParts (room : Nat) (nal : Bytes) (sent : Nat) (ends : Bool) : List Bytes × Nat :=
  let b0 := (nal.getD 0 0).toNat
  let most := room - 3
  let body := nal.drop (2 + sent)
  if sent = 0 ∧ nal.length ≤ room then (if ends then [nal] else [], 0)
  else
    let k := if ends then ceilDiv body.length most else (body.length - 1) / most
    ((upto k).map (fun i =>
      [by8 (b0 % 2 + b0 / 128 * 128 + 98), nal.getD 1 0,
       by8 (b0 / 2 % 64 + (if sent = 0 ∧ i = 0 then 128 else 0) + (if ends ∧ i + 1 = k then 64 else 0))] ++ slice body (i * most) most),
     sent + k * most)
/-- A complete NAL unit alone, or split into fragmentation units (R274). -/
def nalPackets (room : Nat) (nal : Bytes) : List Bytes := (nalParts room nal 0 true).1
/-- What a NAL unit may take of a frame of the session: MAX_PKT less template, RTP header and FCS. -/
def esbRoom (b : List Word) : Nat := bf b 12 13 0 - 16 - bf b 12 20 14
/-- A template of IP and UDP headers with the lengths and checksums filled (R273): `l3` is where IP starts, `rest` what follows the
template. -/
def fillUdp (t : Bytes) (l3 : Nat) (v6 : Bool) (rest : Bytes) : Bytes :=
  let u := if v6 then l3 + 40 else l3 + 20
  let udp := t.length - u + rest.length
  if v6 then
    let a := patch (patch (patch t (l3 + 4) (beBytes 2 udp)) (u + 4) (beBytes 2 udp)) (u + 6) [0, 0]
    let sum := inetSum (slice a (l3 + 8) 32 ++ beBytes 4 udp ++ beBytes 4 17 ++ a.drop u ++ rest)
    patch a (u + 6) (beBytes 2 (if sum = 0 then 65535 else sum))
  else
    let a := patch (patch t (l3 + 2) (beBytes 2 (20 + udp))) (l3 + 10) [0, 0]
    let c := patch a (l3 + 10) (beBytes 2 (inetSum (slice a l3 20)))
    patch (patch c (u + 4) (beBytes 2 udp)) (u + 6) [0, 0]
/-- A frame padded to 64 bytes, with its FCS. -/
def padFcs (f : Bytes) : Bytes :=
  let g := f ++ List.replicate (60 - f.length) 0
  g ++ fcsBytes g
/-- The header template of a session: 64 bytes of the block, and what a longer one has past them, which the rules do not place (log 32). -/
def esbTemplate (b : List Word) : Bytes :=
  let tl := bf b 12 20 14
  (bytesOf ((b.drop 16).take 16)).take tl ++ (upto (tl - 64)).map Config.templateTail
/-- An output frame of a session (R273): template, RTP header, payload, padding and FCS (log 32). -/
def rtpFrame (b : List Word) (seq ts : Nat) (m : Bool) (payload : Bytes) : Bytes :=
  let tl := bf b 12 20 14
  let rtp := [by8 128, by8 (b2n m * 128 + bf b 12 27 21)] ++ beBytes 2 seq ++ beBytes 4 ts ++ beBytes 4 (bf b 13 31 0)
  let rest := rtp ++ payload
  padFcs (fillUdp (esbTemplate b) (if tl ≤ 50 then tl - 28 else tl - 48) (decide (50 < tl)) rest ++ rest)
/-- The frames of a run of payloads from a sequence number on; M on the last one where it ends the access unit. -/
def rtpFrames (b : List Word) (seq ts : Nat) (ps : List Bytes) (ends : Bool) : List Bytes :=
  (upto ps.length).map (fun i => rtpFrame b ((seq + i) % 65536) ts (ends && decide (i + 1 = ps.length)) (ps.getD i []))
/-- The words that a payload of `n` bytes takes in an outlet stage, with its descriptor. -/
def payloadWords (b : List Word) (n : Nat) : Nat := 1 + ceilDiv (max 64 (bf b 12 20 14 + 16 + n)) 8
/-- The RTP time stamp of a capture time in quarter nanoseconds (R274). -/
def rtpStamp (t : Nat) : Nat := t * 90000 / 4000000000 % 2 ^ 32
/-- Filler data NAL units of `n` bytes in all (R266). -/
def fillerNals (n : Nat) : List Bytes :=
  let k := ceilDiv n 16003
  (upto k).map (fun i =>
    let size := n / k + (if i < n % k then 1 else 0)
    [by8 76, by8 1] ++ List.replicate (size - 3) 0xFF ++ [by8 0x80])

/-! What bounds the decisions for a CTU (R253, R254, R262, R269). -/

/-- A picture under way: the session, its place, whether it is IDR, its references newest first as slots and order counts, and where the pool
slots and the source lie in the segment. -/
structure Coding where
  b : List Word
  pos : PicPos
  refs : List (Nat × Nat)
  recon : Nat
  src : Nat

/-- The word of the segment where a pool slot starts. -/
def poolSlot (b : List Word) (i : Nat) : Nat := bf b 42 31 0 + i * bf b 43 31 0
/-- The picture is IDR. -/
def Coding.idr (g : Coding) : Bool := g.pos.idr g.b
/-- slice_type of the picture. -/
def Coding.kind (g : Coding) : Nat := sliceKind g.b g.idr (g.refs.map Prod.snd)
/-- Is a refresh under way in the picture: a cycle whose columns are not all refreshed yet (R269)? -/
def Coding.refreshing (g : Coding) : Bool := g.pos.cycle g.b && decide (g.pos.gir * bf g.b 8 23 16 < esbCols g.b)
/-- Is column `x` refreshed by the picture? -/
def Coding.refreshed (g : Coding) (x : Nat) : Bool :=
  let w := bf g.b 8 23 16
  g.refreshing && decide (g.pos.gir * w ≤ x) && decide (x < (g.pos.gir + 1) * w)
/-- The right edge of the clean area of the picture at index `j` of a cycle: the columns refreshed before, less 8 luma samples. -/
def cleanEdge (b : List Word) (j : Nat) : Nat := min (esbW b) (j * bf b 8 23 16 * esbCtu b) - 8
/-- The right edge of the clean area of a reference: that of its own index, where it lies in the same cycle. -/
def Coding.refEdge (g : Coding) (poc : Nat) : Nat :=
  if g.pos.count - poc ≤ g.pos.gir then cleanEdge g.b (g.pos.gir - (g.pos.count - poc)) else 0
/-- Must a minimum-cost CTU of column `x` take the intra form: in an I picture, a refresh column or the clean area (R264, R269)? -/
def Coding.intraForm (g : Coding) (x : Nat) : Bool :=
  decide (g.kind = 2) || g.refreshed x || (g.refreshing && decide (x * esbCtu g.b < cleanEdge g.b g.pos.gir))
/-- The bound of a minimum-cost CTU (R265). -/
def Coding.bound (g : Coding) (x : Nat) : Nat := if g.intraForm x then 72 else 24

/-- The place and size of a prediction unit in its coding unit: the whole, halves one over or beside the other, quarters. -/
def partRect (cu : Config.Cu) (q : Nat) : Nat × Nat × Nat × Nat :=
  let h := cu.size / 2
  match cu.split % 4 with
  | 0 => (0, 0, cu.size, cu.size)
  | 1 => (0, q % 2 * h, cu.size, h)
  | 2 => (q % 2 * h, 0, h, cu.size)
  | _ => (q % 2 * h, q / 2 % 2 * h, h, h)
/-- The vectors of a prediction unit: of its merge candidate, or those that it picks from the search. -/
def partVectors (i : Config.CtuIn) (vs : List (Int × Int)) (perRef : Nat) (before : List Config.Cu) (cu : Config.Cu) (q : Nat) :
    List (Nat × Int × Int) :=
  match cu.parts[q]? with
  | none => []
  | some p => match p.merge with
    | some _ => Config.mergeVectors i before cu q
    | none => (p.picks.take (if i.kind = 0 then 2 else 1)).filterMap (fun k => (vs[k]?).map (fun v => (k / atLeast1 perRef, v)))
/-- Does a reference block, with the samples that interpolation reads, end inside its reference's clean area? -/
def Coding.cleanBlock (g : Coding) (x w : Nat) (v : Nat × Int × Int) : Bool :=
  let right := (x + w : Nat) + v.2.1 / 4 + (if v.2.1 % 4 = 0 then 0 else 4)
  decide (right ≤ (g.refEdge ((g.refs.getD v.1 (0, 0)).2) : Nat))
/-- A coding unit as the device may code it (R253, R269): intra in I pictures and refresh columns, and in the clean area where a vector would leave that
of its reference; one of five merge candidates; a skipped unit has one prediction unit and no coefficients. -/
def Coding.legalCu (g : Coding) (i : Config.CtuIn) (vs : List (Int × Int)) (perRef : Nat) (before : List Config.Cu) (cu : Config.Cu) : Config.Cu :=
  let intra : Config.Cu := { cu with intra := true, skip := false, split := if cu.size = 8 then cu.split / 3 % 2 * 3 else 0, parts := [] }
  let x := i.x * esbCtu g.b + cu.x
  let split := if cu.skip then 0 else if cu.split % 4 = 3 ∧ cu.size = 8 then 0 else cu.split % 4
  let count := match split with | 0 => 1 | 3 => 4 | _ => 2
  let inter : Config.Cu := { cu with
    split := split, coefs := if cu.skip then [] else cu.coefs
    parts := (upto count).map (fun q =>
      let p := cu.parts.getD q { merge := some 0, picks := [] }
      match p.merge, p.picks with
      | some k, _ => { merge := some (k % 5), picks := [] }
      | none, [] => { merge := some 0, picks := [] }
      | none, ks => if cu.skip then { merge := some 0, picks := [] } else { merge := none, picks := ks }) }
  if cu.intra || decide (g.kind = 2) || g.refreshed i.x then intra
  else if g.refreshing && decide (x < cleanEdge g.b g.pos.gir)
      && (upto inter.parts.length).any (fun q =>
        let (px, _, w, _) := partRect inter q
        (partVectors i vs perRef before inter q).any (fun v => !g.cleanBlock (x + px) w v)) then intra
  else inter
/-- The decisions for a CTU as the device may code them; no SAO where the session has none. -/
def Coding.legal (g : Coding) (i : Config.CtuIn) (vs : List (Int × Int)) (perRef : Nat) (c : Config.Choice) : Config.Choice :=
  { sao := if bf g.b 0 27 27 = 1 then c.sao else []
    cus := c.cus.foldl (fun done cu => done ++ [g.legalCu i vs perRef done cu]) [] }
/-- The minimum-cost CTU (R264): one skipped CU with merge index 0, or intra CUs of the largest size in the picture, DC, without coefficients. -/
def Coding.minimum (g : Coding) (x y : Nat) : Config.Choice :=
  let s := esbCtu g.b
  if g.intraForm x then
    let z := if (x + 1) * s ≤ esbW g.b ∧ (y + 1) * s ≤ esbH g.b then s else 8
    { cus := (upto (s / z)).flatMap (fun j => (upto (s / z)).filterMap (fun i =>
        if x * s + (i + 1) * z ≤ esbW g.b ∧ y * s + (j + 1) * z ≤ esbH g.b then some { x := i * z, y := j * z, size := z, intra := true } else none)) }
  else { cus := [{ x := 0, y := 0, size := s, intra := false, skip := true, parts := [{ merge := some 0, picks := [] }] }] }

/-! The check of R264 over a run of CTUs. -/

/-- What the HRD and the packing limit are measured with: rate control, the limit as a fraction, the session's QP range, and the
picture's target as a fraction (R263–R267). -/
structure Hrd where
  rc : Nat
  limNum : Int
  limDen : Nat
  qpMin : Int
  qpMax : Int
  targetNum : Int
  targetDen : Int
  area : Nat
  deriving DecidableEq, Repr
/-- The running totals of the check: bits spent, QP, the reserve for what follows in the picture and in the command, the luma area so far, fallbacks
by either limit, QP clamps. -/
structure EncRun where
  spent : Nat
  qp : Int
  rest : Nat
  restCmd : Nat
  area : Nat := 0
  fall : Nat := 0
  cap : Nat := 0
  clamps : Nat := 0
  deriving DecidableEq, Repr
/-- One CTU for the check: its bound and luma area, the bits of a slice header before it, none where there is no header, its bits coded normally and as a
minimum-cost CTU, and what is left of the capacity that its command's output must fit (R270). -/
structure CtuCase where
  bound : Nat
  area : Nat
  head : Option Nat
  bits : Nat
  least : Nat
  room : Int
  deriving DecidableEq, Repr

/-- The QP after a CTU (R267). -/
def qpNext (h : Hrd) (r : EncRun) : EncRun :=
  if h.rc = 2 then r
  else
    let x := (r.spent : Int) * h.targetDen * h.area * 100
    let y := h.targetNum * r.area
    let q := if 110 * y < x then r.qp + 1 else if x < 90 * y then r.qp - 1 else r.qp
    let c := max h.qpMin (min h.qpMax q)
    { r with qp := c, clamps := r.clamps + (if c = q then 0 else 1) }
/-- The checks of a CTU coded normally: the HRD's and the capacity's (R264, R270). -/
def encFits (h : Hrd) (r : EncRun) (c : CtuCase) : Bool × Bool :=
  let spent := r.spent + c.head.getD 0
  let rest := r.rest - c.bound - (if c.head.isSome then 1024 else 0)
  (h.rc == 2 || decide (((spent + c.bits + rest : Nat) : Int) * h.limDen ≤ h.limNum), decide ((c.bits + (r.restCmd - c.bound) : Nat) ≤ c.room))
/-- One CTU coded (R264, R267, R270). -/
def encStep (h : Hrd) (r : EncRun) (c : CtuCase) : EncRun :=
  let (hrdOk, capOk) := encFits h r c
  qpNext h { r with
    spent := r.spent + c.head.getD 0 + (if hrdOk && capOk then c.bits else c.least)
    rest := r.rest - c.bound - (if c.head.isSome then 1024 else 0), restCmd := r.restCmd - c.bound, area := r.area + c.area
    fall := r.fall + b2n (!(hrdOk && capOk)), cap := r.cap + b2n (!capOk) }

/-- The bits of a segment with those of a CTU after them: closed where the CTU ends it. -/
def segPlus (ends : Bool) (open' more : List Bool) : List Bool := if ends then trailing (open' ++ more) else open' ++ more
/-- The bits that a CTU adds to its NAL unit, emulation prevention included (R263, R265). -/
def ctuCost (ends : Bool) (open' more : List Bool) : Nat := nalBits (segPlus ends open' more) - nalBits open'
/-- The bits of a minimum-cost CTU: as many of those that the coder gives as keep it within its bound (R265). -/
def leastBits (ends : Bool) (open' more : List Bool) (bound : Nat) : List Bool :=
  let n := ((upto (bound + 1)).reverse.find? (fun n => decide (ctuCost ends open' (more.take n) ≤ bound))).getD 0
  more.take n

/-- What a run of CTUs yields: the totals of the check, the picture under way, the payloads of its packets, the complete slice segments for the gang
ring, and the bytes of its NAL units. -/
structure EncOut where
  run : EncRun
  pic : EncPicture
  out : List Bytes := []
  done : List (Nat × Bytes) := []
  bytes : Nat := 0
  deriving DecidableEq, Repr

namespace Dev

/-! The session under way. -/

/-- The session of the running context, or RAISE 0x2F (R256). -/
def encSession (d : Dev) (e : Nat) (f : List Word → Dev) : Dev :=
  match (d.ctx e (d.curOf e)).encEsb with
  | some b => f b
  | none => d.raise e 0x2F
/-- Does the running context own the rate model: alone, or as the leader of its gang (R277)? -/
def isLeader (d : Dev) (e : Nat) : Bool := decide (d.memberIndex e = 0)
/-- The members of the running context's gang. -/
def members (d : Dev) (e : Nat) : Nat := match d.gangOf e with | some g => atLeast1 (d.gangSize g) | none => 1
/-- The context of member `i` that runs the same job, where it runs on this device. -/
def peer? (d : Dev) (e i : Nat) : Option Ctx :=
  ((d.jobCtxs e (d.curOf e)).find? (fun p => d.memberIndex p.1 == i)).map (fun p => d.ctx p.1 p.2)
/-- Has member `i` committed the CTUs of the picture before number `n`? One on another device is not seen (log 128). -/
def peerPast (d : Dev) (e i n : Nat) : Bool :=
  let mine := (d.ctx e (d.curOf e)).enc.pics
  match d.peer? e i with
  | none => true
  | some c => decide (mine < c.enc.pics) || (c.enc.pics == mine && decide (n ≤ c.encNext))
/-- The data that CTU (x, y) left for its neighbours, wherever its member runs; none outside the picture. -/
def nearOf (d : Dev) (e : Nat) (b : List Word) (own : SMap (List Nat)) (x y : Int) : List Nat :=
  if x < 0 ∨ y < 0 ∨ (esbCols b : Int) ≤ x then []
  else
    let i := ctuMember b (d.members e) x.toNat y.toNat
    let j := y.toNat * esbCols b + x.toNat
    if i = d.memberIndex e then SMap.get (fun _ => []) own j
    else match d.peer? e i with
      | some c => SMap.get (fun _ => []) c.enc.near j
      | none => Config.farMember j
/-- The arithmetic coder's state at the first CTU of a slice segment (R276): as the row above left it after its second CTU, where the segment depends on
it; else initialized. -/
def rowCabac (d : Dev) (e : Nat) (b : List Word) (own : SMap (List Nat)) (y : Nat) : List Nat :=
  if !segDepends b y then []
  else
    let i := ctuMember b (d.members e) 0 (y - 1)
    if i = d.memberIndex e then SMap.get (fun _ => []) own (y - 1)
    else match d.peer? e i with
      | some c => SMap.get (fun _ => []) c.enc.rows (y - 1)
      | none => Config.farMember (y - 1)

/-- The rate model block as a command takes it (R267): a session that has just opened starts the buffer at F(0). -/
def rmbTake (b rmb : List Word) (fresh : Nat) : List Word :=
  if fresh = 0 then rmb
  else
    let f0 := esbBr b * bf b 7 23 0 * bf b 2 19 0 / 90000
    let f := if fresh = 1 then [wd f0, wd (f0 >>> 32)] else rmb.take 2
    let qp := bf b 4 8 2
    f ++ [0, 0, 0, wd (qp * 257), wd (bf b 14 15 0), 0, 0] ++ List.replicate 7 0
/-- F of a rate model block: the numerator over RATE_N. -/
def rmbFull (rmb : List Word) : Int := sgn 64 (wAt rmb 0 + 2 ^ 32 * wAt rmb 1)

/-- The 2-bit mark of pool slot `i`. -/
def slotMark (d : Dev) (e : Nat) (b : List Word) (i : Nat) : Nat := bits (d.fmByte (d.segAddr e (poolSlot b i))).toNat 1 0
/-- Pool slots of a mark, in rising order. -/
def slotsOf (d : Dev) (e : Nat) (b : List Word) (m : Nat) : List Nat := (upto (bf b 44 3 0)).filter (fun i => d.slotMark e b i == m)
/-- The mark of a slot, as a word that the commit changes (R241, R259). -/
def markPut (d : Dev) (e : Nat) (b : List Word) (i m : Nat) : Nat × Word :=
  let a := poolSlot b i
  (a, setFld (d.fmWord (d.segAddr e a)) 1 0 m)
/-- Words that the commit changes (R241), each inside the command's window; WIN where one is not (R237). -/
def holdWords (d : Dev) (e : Nat) (ws : List (Nat × Word)) : Bool × Dev :=
  if ws.all (fun p => d.inWin e p.1) then
    (true, d.updEngine e (fun z => { z with changes := z.changes ++ ws.map (fun p => (wd p.1, p.2)) }))
  else (false, d.exception e 5 0)
/-- The words of a run from word `i` on. -/
def runFrom (i : Nat) (ws : List Word) : List (Nat × Word) := (upto ws.length).map (fun j => (i + j, ws.getD j 0))
/-- The references of a picture, newest first, with their order counts (R260): the slots marked REF of the coded video sequence. -/
def refsOf (d : Dev) (e : Nat) (b : List Word) (idr : Bool) : List (Nat × Nat) :=
  let c := d.ctx e (d.curOf e)
  if idr then []
  else ((c.encOrder.filter (fun s => d.slotMark e b s == 2 && decide (SMap.get (fun _ => 0) c.enc.pocs s ≠ 0))).take (esbNref b)).map (fun s =>
    (s, SMap.get (fun _ => 0) c.enc.pocs s - 1))

/-- Frames put into the open outlet stage with the session's destination and class (R273); OUT_OVF past 2,048 words (R234). -/
def stageFrames (d : Dev) (e : Nat) (b : List Word) (fs : List Bytes) : Bool × Dev :=
  let ws := fs.flatMap (packetWords (bf b 11 19 0) (bf b 11 23 20) (d.ctxOwner e))
  if 2048 < (d.engine e).openStage.length + ws.length then (false, d.exception e 7 0)
  else (true, d.updEngine e (fun z => { z with openStage := z.openStage ++ ws }))

/-! One CTU. -/

/-- The rows of the reconstruction that a CTU writes (R259, R276): its own samples, and 8 before it to the left and above within the tile, which its loop
filters reach. -/
def reconRows (d : Dev) (e : Nat) (g : Coding) (i : Config.CtuIn) (c : Config.Choice) : List (Nat × Bytes) :=
  let b := g.b
  let s := esbCtu b
  let (_, x0, y0, _, _) := tileOf b i.x i.y
  let xa := i.x * s - (if i.x = x0 then 0 else 8)
  let ya := i.y * s - (if i.y = y0 then 0 else 8)
  let ref := fun (r p : Nat) (x y : Int) => d.planeSample e b (poolSlot b (g.refs.getD r (0, 0)).1) p x y
  (upto 3).flatMap (fun p =>
    let kx := esbW b / atLeast1 (planeW b p)
    let ky := esbH b / atLeast1 (planeH b p)
    let x1 := min (planeW b p) ((i.x + 1) * s / kx)
    let y1 := min (planeH b p) ((i.y + 1) * s / ky)
    (upto (y1 - ya / ky)).map (fun j => (4 * poolSlot b g.recon + planeAt b p (xa / kx) (ya / ky + j),
      (upto (x1 - xa / kx)).flatMap (fun k =>
        leBytes (esbBytes b) (Config.ctuRecon i c ref p (xa / kx + k) (ya / ky + j) % 2 ^ esbDepth b)))))

/-- The windows of a CTU's references, and their loads as accesses of frame memory (R261). -/
def windowsFor (d : Dev) (e : Nat) (g : Coding) (j : Nat) : Option (List SearchWin) × Dev :=
  let s := esbCtu g.b
  let y0 := j / esbCols g.b * s
  let reads := g.refs.flatMap (fun r => planeReads g.b (poolSlot g.b r.1) (y0 - 100) (min (esbH g.b) (y0 + s + 100)))
  match d.segReads e reads with
  | (false, d1) => (none, d1)
  | (true, d1) =>
    let ws := g.refs.map (fun r => d1.winLoad e g.b (poolSlot g.b r.1) j)
    (some ws, d1.updEngine e (fun z => { z with windows := ws }))

/-- One CTU searched, coded, checked and, where it does not fit, coded again at the least cost (R261, R264, R270); its reconstruction is written. -/
def encCtu (d : Dev) (e : Nat) (g : Coding) (h : Hrd) (ring : Bool) (o : EncOut) (j : Nat) : Option EncOut × Dev :=
  let b := g.b
  let x := j % esbCols b
  let y := j / esbCols b
  let s := segIndex b x y
  let starts := sliceStart b x y
  let ends := segEnds b x y
  let seg : OpenSeg :=
    if starts then { bits := segHead b g.idr g.pos.count (g.refs.map Prod.snd) o.run.qp x y, cabac := d.rowCabac e b o.pic.rows y }
    else SMap.get (fun _ => {}) o.pic.segs s
  let near := fun (dx dy : Int) => d.nearOf e b o.pic.near (x + dx) (y + dy)
  let i : Config.CtuIn := {
    esb := b, kind := g.kind, x := x, y := y, qp := o.run.qp, ends := ends
    tmvp := bf b 0 28 28 == 1 && !(g.refreshing && decide (x * esbCtu b < cleanEdge b g.pos.gir))
    near := [near (-1) 0, near (-1) (-1), near 0 (-1), near 1 (-1)] }
  match d.windowsFor e g j with
  | (none, d1) => (none, d1)
  | (some ws, d1) =>
    let vs := d1.searchCtu e b i g.src ws
    let perRef := (searchBlocks b (x * esbCtu b) (y * esbCtu b)).length
    let ref := fun (r p : Nat) (u v : Int) => d1.planeSample e b (poolSlot b (g.refs.getD r (0, 0)).1) p u v
    let src := fun (p u v : Nat) => d1.planeSample e b g.src p u v
    let normal := g.legal i vs perRef (Config.ctuChoice i src ref vs)
    let least := g.minimum x y
    let coded := Config.ctuBits i normal seg.cabac
    let again := Config.ctuBits i least seg.cabac
    let small := leastBits ends seg.bits again.1 (g.bound x)
    let held := (nalBytes seg.bits).length - (if seg.sent = 0 then 0 else seg.sent - 1)
    let case : CtuCase := {
      bound := g.bound x
      area := (min (esbW b) ((x + 1) * esbCtu b) - x * esbCtu b) * (min (esbH b) ((y + 1) * esbCtu b) - y * esbCtu b)
      head := if starts then some (nalBits seg.bits) else none
      bits := ctuCost ends seg.bits coded.1, least := ctuCost ends seg.bits small
      room := if ring then 32 * ((Config.ringWords : Int) - 1) - nalBits seg.bits
        else 64 * ((2048 : Int) - ((o.out.map (fun p => payloadWords b p.length)).sum + payloadWords b held : Nat)) }
    let fits := encFits h o.run case
    let ok := fits.1 && fits.2
    let all := segPlus ends seg.bits (if ok then coded.1 else small)
    let cabac := if ok then coded.2.1 else again.2.1
    let (ps, sent) := if ring then ([], 0) else nalParts (esbRoom b) (nalBytes all) seg.sent ends
    let pic := o.pic
    let o1 : EncOut := {
      run := encStep h o.run case
      pic := { pic with
        segs := if ends then SMap.erase pic.segs s else SMap.set (fun _ => {}) pic.segs s { bits := all, sent := sent, cabac := cabac }
        near := SMap.set (fun _ => []) pic.near j (if ok then coded.2.2 else again.2.2)
        rows := if x = 1 then SMap.set (fun _ => []) pic.rows y cabac else pic.rows }
      out := o.out ++ ps
      done := if ring && ends then o.done ++ [(s, nalBytes all)] else o.done
      bytes := o.bytes + (nalBytes all).length - (if starts then 0 else (nalBytes seg.bits).length) }
    match d1.segPuts e (d1.reconRows e g i (if ok then normal else least)) with
    | (true, d2) => (some o1, d2)
    | (false, d2) => (none, d2)
/-- A run of CTUs in raster order, until one raises an exception. -/
def encCtuRun (d : Dev) (e : Nat) (g : Coding) (h : Hrd) (ring : Bool) : EncOut → List Nat → Option EncOut × Dev
  | o, [] => (some o, d)
  | o, j :: js => match d.encCtu e g h ring o j with
    | (some o1, d1) => encCtuRun d1 e g h ring o1 js
    | (none, d1) => (none, d1)

/-! The gang ring (R277). -/

/-- The word of the segment where the entry of slice segment `s` starts: its ready word, the number of bytes, then the bytes (log 132). -/
def ringEntry (b : List Word) (s : Nat) : Nat := bf b 45 31 0 + s % atLeast1 (bf b 44 11 4) * Config.ringWords
/-- Is the entry of slice segment `s` full? -/
def ringFull (d : Dev) (e : Nat) (b : List Word) (s : Nat) : Bool := decide (d.fmWord (d.segAddr e (ringEntry b s)) ≠ 0)

/-- Does the picture need filler after `bits'` bits (R266)? -/
def fillsUp (b : List Word) (full : Int) (bits' : Nat) : Bool :=
  bf b 4 1 0 == 0 && decide (full - (bits' * bf b 2 19 0 : Nat) + (esbBr b * bf b 3 19 0 : Nat) > (esbCpb b * bf b 2 19 0 : Nat))

/-- The source slot of the running command, as a word of the segment. -/
def encSrc (d : Dev) (e : Nat) (b : List Word) : Nat :=
  bf b 40 31 0 + bits (wAt (d.engine e).cmd 0 + 2 ^ 32 * wAt (d.engine e).cmd 1) 55 48 * bf b 41 31 0
/-- The CTUs of the running command: the first, and the one after the last (R257). -/
def encRange (d : Dev) (e : Nat) (b : List Word) : Nat × Nat :=
  let w := wAt (d.engine e).cmd 0 + 2 ^ 32 * wAt (d.engine e).cmd 1
  (bits w 47 28, min (esbCols b * esbRows b) (bits w 47 28 + bits w 27 12))
/-- Those CTUs from `lo` to before `hi` that are the running member's, in raster order (R275). -/
def encMine (d : Dev) (e : Nat) (b : List Word) (lo hi : Nat) : List Nat :=
  ((upto (hi - lo)).map (fun j => lo + j)).filter (fun j =>
    d.members e == 1 || ctuMember b (d.members e) (j % esbCols b) (j / esbCols b) == d.memberIndex e)
/-- Source lines that must be there before the command goes on (R258). -/
def encLines (d : Dev) (e : Nat) (b : List Word) : Nat :=
  let (first, last) := d.encRange e b
  if first < last then min (esbH b) (((last - 1) / esbCols b + 1) * esbCtu b) else first / esbCols b * esbCtu b
/-- What the command reads of the source picture. -/
def encReads (d : Dev) (e : Nat) (b : List Word) : List (Nat × Nat) :=
  let (first, last) := d.encRange e b
  if first < last then planeReads b (d.encSrc e b) (first / esbCols b * esbCtu b) (d.encLines e b) else []
/-- Do slices go to the gang ring (R277)? -/
def encRing (d : Dev) (e : Nat) : Bool := bit (wAt (d.engine e).cmd 3) 0 || (d.gangOf e).isSome
/-- Must the command wait for another member: for the row above under WPP (R276), or for an entry of the ring (R277)? -/
def encWaits (d : Dev) (e : Nat) (b : List Word) : Bool :=
  let cols := esbCols b
  let mine := d.encMine e b (d.encRange e b).1 (d.encRange e b).2
  let above := fun (j : Nat) => !esbWpp b || decide (j < cols) || ctuMember b (d.members e) (j % cols) (j / cols - 1) == d.memberIndex e
    || d.peerPast e (ctuMember b (d.members e) 0 (j / cols - 1)) ((j / cols - 1) * cols + min (j % cols + 2) cols)
  !mine.all above || (d.encRing e && ((mine.filter (fun j => segEnds b (j % cols) (j / cols))).map (fun j =>
    segIndex b (j % cols) (j / cols))).any (d.ringFull e b))
/-- The pool slot of the reconstruction: the leader takes a free one at the first CTU (R259). -/
def encSlot (d : Dev) (e : Nat) (b : List Word) : Option Nat :=
  if (d.encRange e b).1 ≠ 0 then (d.ctx e (d.curOf e)).encRecon
  else if d.isLeader e then (d.slotsOf e b 0).head?
  else (d.slotsOf e b 1 ++ d.slotsOf e b 0).head?
/-- What a command of CTUs starts from, by the rate model block and the source header: the picture, what its check is measured with, and the totals
so far (R263–R267, R271, R277). -/
def encStart (d : Dev) (e : Nat) (b rmb hd : List Word) : Coding × Hrd × EncOut :=
  let c := d.ctx e (d.curOf e)
  let (first, last) := d.encRange e b
  let cols := esbCols b
  let ring := d.encRing e
  let lead := d.isLeader e
  let m := d.members e
  let n := bf b 2 19 0
  let full := rmbFull rmb
  let pos : PicPos := { count := wAt rmb 4, gir := wAt rmb 8, since := c.enc.since }
  let idr := pos.idr b
  let g : Coding := { b := b, pos := pos, refs := d.refsOf e b idr, recon := (d.encSlot e b).getD 0, src := d.encSrc e b }
  let areaOf := fun (j : Nat) => (min (esbW b) ((j % cols + 1) * esbCtu b) - j % cols * esbCtu b)
    * (min (esbH b) ((j / cols + 1) * esbCtu b) - j / cols * esbCtu b)
  let pic := esbW b * esbH b
  let share := if m = 1 then pic else shareArea b m (d.memberIndex e)
  let h : Hrd := {
    rc := bf b 4 1 0, qpMin := qpOf b 4 15 9, qpMax := qpOf b 4 22 16, area := pic
    limNum := if ring then (full - (pos.headBits b * n : Nat)) * share / (pic * n : Nat) else full
    limDen := if ring then 1 else n
    targetNum := 360000 * (esbBr b * bf b 3 19 0 : Nat) + 90000 * full - (esbBr b * bf b 7 23 0 * n : Nat)
    targetDen := 360000 * (n : Int) }
  let heads := if first == 0 && !ring then pos.head b else []
  let pic0 : EncPicture :=
    if first ≠ 0 then c.enc
    else { c.enc with
      spent := 0, qp := qpOf rmb 5 14 8, segs := [], near := [], rows := [], stamp := rtpStamp (wAt hd 2 + 2 ^ 32 * wAt hd 3)
      seq := wAt rmb 6, full := full, pocs := if idr then [] else c.enc.pocs }
  let mineCmd := d.encMine e b first last
  let o : EncOut := {
    run := {
      spent := (if lead then wAt rmb 2 + 2 ^ 32 * wAt rmb 3 else pic0.spent) + nalsBits heads
      qp := if bf b 4 1 0 = 2 then qpOf b 4 8 2 else if lead then qpOf rmb 5 6 0 else pic0.qp
      rest := ((mineCmd ++ d.encMine e b last (cols * esbRows b)).map (fun j =>
        g.bound (j % cols) + (if sliceStart b (j % cols) (j / cols) then 1024 else 0))).sum + (if ring then 0 else suffixBits b)
      restCmd := (mineCmd.map (fun j => g.bound (j % cols))).sum
      area := ((d.encMine e b 0 first).map areaOf).sum }
    pic := pic0, out := heads.flatMap (nalPackets (esbRoom b)), bytes := nalsBits heads / 8 }
  (g, h, o)
/-- The frames of a run of CTUs (R274), of the rate model block and the source header. -/
def encFrames (d : Dev) (e : Nat) (b rmb hd : List Word) (o : EncOut) : List Bytes :=
  let more := bf b 4 28 27 ≠ 0 || fillsUp b (rmbFull rmb) o.run.spent
  rtpFrames b (wAt rmb 6) (rtpStamp (wAt hd 2 + 2 ^ 32 * wAt hd 3)) o.out (decide ((d.encRange e b).2 = esbCols b * esbRows b) && !more)
/-- The words that a run of CTUs changes at its commit (R241): the mark of a slot taken, the leader's rate model block, the ready words of the ring. -/
def encWords (d : Dev) (e : Nat) (b rmb hd : List Word) (o : EncOut) : List (Nat × Word) :=
  let (first, last) := d.encRange e b
  let lead := d.isLeader e
  let fs := d.encFrames e b rmb hd o
  let rmb1 := ((((rmb.set 2 (wd o.run.spent)).set 3 (wd (o.run.spent >>> 32))).set 5
    (setFld (rmb.getD 5 0) 6 0 (unsgn 7 o.run.qp))).set 6 (wd ((wAt rmb 6 + fs.length) % 65536))).set 7 (wd last)
  (if first == 0 && lead then [d.markPut e b ((d.encSlot e b).getD 0) 1] else []) ++ (if lead then runFrom (wAt (d.engine e).cmd 2) rmb1 else [])
    ++ o.done.map (fun p => (ringEntry b p.1, wd p.2.length))

/-- ENC_CTUS (R257–R270, R276–R278). -/
def encCtusRun (d : Dev) (e : Nat) : Dev :=
  d.stdCmd e 0x20 none (fun y => y.encSession e (fun b =>
    let k := y.curOf e
    let c := y.ctx e k
    let (first, last) := y.encRange e b
    match y.segRead e (wAt (y.engine e).cmd 2) 16 with
    | (none, d1) => d1
    | (some rmb0, d1) =>
      let rmb := rmbTake b rmb0 c.encFresh
      if first ≠ (if y.isLeader e then wAt rmb 7 else c.encNext) then d1.raise e 0x20
      else
        d1.winClear e ((y.encSrc e b, 4) :: y.encReads e b) fun d1' =>
        match d1'.segRead e (y.encSrc e b) 4 with
        | (none, d2) => d2
        | (some hd, d2) =>
          if fld (hd.getD 0 0) 1 0 ≠ bf b 4 25 24 ∨ fld (hd.getD 0 0) 2 2 ≠ bf b 4 23 23 then d2.raise e 0x21
          else if first < last ∧ wAt hd 1 < y.encLines e b then d2.uStall e .rows
          else if d2.encWaits e b then d2.uStall e .rows
          else if first == 0 && (d2.encSlot e b).isNone then d2.raise e 0x22
          else match d2.segReads e (y.encReads e b) with
          | (false, d3) => d3
          | (true, d3) =>
            let (g, h, o0) := d3.encStart e b rmb hd
            match d3.encCtuRun e g h (y.encRing e) o0 (y.encMine e b first last) with
            | (none, d4) => d4
            | (some o, d4) =>
              let fs := d3.encFrames e b rmb hd o
              if !fs.isEmpty && !d4.stageFree e then d2.uStall e (.wait (2 ^ 14))
              else match d4.segPuts e (o.done.map (fun p => (4 * ringEntry b p.1 + 4, p.2))) with
              | (false, d5) => d5
              | (true, d5) => match d5.holdWords e (d5.encWords e b rmb hd o) with
                | (false, d6) => d6
                | (true, d6) => match d6.stageFrames e b fs with
                  | (false, d7) => d7
                  | (true, d7) =>
                    let d8 := d7.updCtx e k (fun z => { z with
                      encFresh := 0, encNext := last, encRecon := if first == 0 then d2.encSlot e b else z.encRecon
                      enc := { o.pic with spent := o.run.spent, qp := o.run.qp } })
                    let d9 := ((d8.cntAdd (Reg.C_CE_ENC_FALLBACK e) o.run.fall).cntAdd (Reg.C_CE_ENC_STAGE_CAP e) o.run.cap).cntAdd
                      (Reg.C_CE_ENC_QP_CLAMP e) o.run.clamps
                    (d9.cntAdd (Reg.C_CE_ENC_NAL_BYTES e) o.bytes).commandDone e none))

/-- The samples beside the left and top edges of a member's tiles, filtered once the tiles beyond have been committed (R276): 8 on each side. -/
def tileEdges (d : Dev) (e : Nat) (b : List Word) (recon : Nat) : List (Nat × Bytes) :=
  let m := d.members e
  let s := esbCtu b
  let slot := poolSlot b recon
  ((upto (esbTileCols b * esbTileRows b)).filter (fun t => t % m == d.memberIndex e)).flatMap (fun t =>
    let ti := t % esbTileCols b
    let tj := t / esbTileCols b
    let x0 := ti * esbCols b / esbTileCols b * s
    let x1 := min (esbW b) ((ti + 1) * esbCols b / esbTileCols b * s)
    let y0 := tj * esbRows b / esbTileRows b * s
    let y1 := min (esbH b) ((tj + 1) * esbRows b / esbTileRows b * s)
    let area := fun (xa xb ya yb : Nat) => (upto 3).flatMap (fun p =>
      let kx := esbW b / atLeast1 (planeW b p)
      let ky := esbH b / atLeast1 (planeH b p)
      (upto (yb / ky - ya / ky)).map (fun j => (4 * slot + planeAt b p (xa / kx) (ya / ky + j),
        (upto (xb / kx - xa / kx)).flatMap (fun i => leBytes (esbBytes b)
          (Config.edgeFilter b (fun q u v => d.planeSample e b slot q u v) p (xa / kx + i) (ya / ky + j) % 2 ^ esbDepth b)))))
    (if x0 = 0 then [] else area (x0 - 8) (x0 + 8) y0 y1) ++ (if y0 = 0 then [] else area x0 x1 (y0 - 8) (y0 + 8)))

/-- Does ENC_END filter edges between tiles of several members (R276)? -/
def encAcross (d : Dev) (e : Nat) (b : List Word) : Bool := esbTiles b && bf b 10 10 10 == 1 && decide (1 < d.members e)
/-- Have all the other members committed the CTUs of the picture before number `n`? -/
def othersPast (d : Dev) (e n : Nat) : Bool := ((upto (d.members e)).filter (fun i => i != d.memberIndex e)).all (fun i => d.peerPast e i n)
/-- The place of the running context's picture (R260, R269, R272). -/
def encPos (d : Dev) (e : Nat) (b : List Word) : PicPos :=
  let c := (d.ctx e (d.curOf e)).enc
  { count := c.pics, gir := if c.pics = 0 then 0 else (c.pics - 1) % atLeast1 (bf b 9 15 0), since := c.since }
/-- The context after the end of its picture (R257, R259, R272). -/
def encNextPic (d : Dev) (e : Nat) (b : List Word) (z : Ctx) : Ctx :=
  let c := d.ctx e (d.curOf e)
  let pos := d.encPos e b
  { z with
    encFresh := 0, encNext := 0, encRecon := none
    enc := { z.enc with
      pics := z.enc.pics + 1, since := if pos.period b then 1 else z.enc.since + 1, segs := [], near := [], rows := []
      pocs := match c.encRecon with | some s => SMap.set (fun _ => 0) z.enc.pocs s (pos.count + 1) | none => z.enc.pocs
      emitSeg := 0, emitBits := 0, packets := 0 }
    encOrder := c.encRecon.toList ++ z.encOrder.filter (fun s => !c.encRecon.toList.contains s) }
/-- The end of a picture: its frames, the words that the commit changes, filler bytes and bytes in all. -/
structure EncClose where
  frames : List Bytes
  words : List (Nat × Word)
  filler : Nat
  bytes : Nat
/-- The leader's end of a picture (R259, R263, R266, R267, R271), by the rate model block and the source header: the suffix SEI, filler, the
buffer's next fullness, the QP to start from, and the reference marks. -/
def encClose (d : Dev) (e : Nat) (b rmb hd : List Word) : EncClose :=
  let c := d.ctx e (d.curOf e)
  let n := bf b 2 19 0
  let rc := bf b 4 1 0
  let full := rmbFull rmb
  let ring := (d.gangOf e).isSome || decide (0 < c.enc.emitSeg)
  let sei := if bf b 4 28 27 = 0 then [] else [hashSei b (fun p => Config.pictureHash (bf b 4 28 27)
    ((upto (planeH b p)).flatMap (fun j => (upto (planeW b p)).map (fun i => d.planeSample e b (poolSlot b (c.encRecon.getD 0)) p i j))))]
  let spent := (if ring then c.enc.emitBits else wAt rmb 2 + 2 ^ 32 * wAt rmb 3) + nalsBits sei
  let grown : Int := full - (spent * n : Nat) + (esbBr b * bf b 3 19 0 : Nat)
  let excess := (grown - (esbCpb b * n : Nat)).toNat
  let fb := if rc = 0 ∧ 0 < excess then max 3 (ceilDiv excess (8 * n)) else 0
  let f1 : Int := if rc = 0 then grown - (8 * fb * n : Nat) else if rc = 1 then min (esbCpb b * n : Nat) grown else full
  let seq := wAt rmb 6 + c.enc.packets
  let fs := rtpFrames b seq (rtpStamp (wAt hd 2 + 2 ^ 32 * wAt hd 3)) ((sei ++ fillerNals fb).flatMap (nalPackets (esbRoom b))) true
  let firstQp := qpOf rmb 5 14 8
  let q := max (firstQp - 4) (min (firstQp + 4) (qpOf rmb 5 6 0))
  let gir := if wAt rmb 4 = 0 then 0 else (wAt rmb 8 + 1) % atLeast1 (bf b 9 15 0)
  let f1w := unsgn 64 f1
  let rmb1 := [wd f1w, wd (f1w >>> 32), 0, 0, wd (wAt rmb 4 + 1), wd (unsgn 7 q * 257), wd ((seq + fs.length) % 65536), 0, wd gir]
    ++ List.replicate 7 0
  let recon := c.encRecon.toList
  let old := (d.slotsOf e b 2).filter (fun s => !recon.contains s)
  let order := recon ++ c.encOrder.filter (fun s => old.contains s) ++ old.filter (fun s => !c.encOrder.contains s)
  { frames := fs
    words := recon.map (fun s => d.markPut e b s 2) ++ (order.drop (esbNref b)).map (fun s => d.markPut e b s 0)
      ++ runFrom (wAt (d.engine e).cmd 2) rmb1
    filler := fb, bytes := fb + nalsBits sei / 8 }

/-- ENC_END (R257, R259, R263, R266, R267, R277): the edges of the member's tiles; of the leader, the suffix SEI, filler, the buffer's next fullness
and the reference marks. -/
def encEndRun (d : Dev) (e : Nat) : Dev :=
  d.stdCmd e 0x21 none (fun y => y.encSession e (fun b =>
    let k := y.curOf e
    let total := esbCols b * esbRows b
    if y.encAcross e b && !y.othersPast e total then y.uStall e .rows
    else match y.segPuts e (if y.encAcross e b then y.tileEdges e b ((y.ctx e k).encRecon.getD 0) else []) with
    | (false, d0) => d0
    | (true, d0) =>
      if !d0.isLeader e then (d0.updCtx e k (d0.encNextPic e b)).commandDone e none
      else if bf b 4 28 27 ≠ 0 && !d0.othersPast e (total + 1) then d0.uStall e .rows
      else match d0.segRead e (wAt (y.engine e).cmd 2) 16 with
      | (none, d1) => d1
      | (some rmb0, d1) => match d1.segRead e (y.encSrc e b) 4 with
        | (none, d2) => d2
        | (some hd, d2) =>
          let x := d2.encClose e b (rmbTake b rmb0 (y.ctx e k).encFresh) hd
          if !x.frames.isEmpty && !d2.stageFree e then d2.uStall e (.wait (2 ^ 14))
          else match d2.holdWords e x.words with
            | (false, d3) => d3
            | (true, d3) => match d3.stageFrames e b x.frames with
              | (false, d4) => d4
              | (true, d4) =>
                ((((d4.updCtx e k (d4.encNextPic e b)).inc (Reg.C_CE_ENC_PICTURES e)).cntAdd (Reg.C_CE_ENC_FILLER_BYTES e) x.filler).cntAdd
                  (Reg.C_CE_ENC_NAL_BYTES e) x.bytes).commandDone e none))

/-- EMIT of the next entry of the gang ring by its leader (R277): it waits for the ready word, adds the parameter sets and SEI before the first slice
segment, and frees the entry. -/
def emitRing (d : Dev) (e : Nat) (b : List Word) : Dev :=
  let k := d.curOf e
  let c := (d.ctx e k).enc
  let at' := ringEntry b c.emitSeg
  match d.segRead e at' 1 with
  | (none, d1) => d1
  | (some ws, d1) =>
    let n := wAt ws 0
    if n = 0 then d1.uStall e .rows
    else if !d1.stageFree e then d1.uStall e (.wait (2 ^ 14))
    else match d1.segRead e (at' + 1) (ceilDiv n 4) with
    | (none, d2) => d2
    | (some body, d2) =>
      let pos : PicPos := { count := c.pics, gir := if c.pics = 0 then 0 else (c.pics - 1) % atLeast1 (bf b 9 15 0), since := c.since }
      let heads := if c.emitSeg = 0 then pos.head b else []
      let total := c.emitBits + nalsBits heads + 8 * n
      let ends := c.emitSeg + 1 == (segStarts b).length && !(bf b 4 28 27 ≠ 0 || fillsUp b c.full total)
      let ps := (heads ++ [(bytesOf body).take n]).flatMap (nalPackets (esbRoom b))
      match d2.stageFrames e b (rtpFrames b (c.seq + c.packets) c.stamp ps ends) with
      | (false, d3) => d3
      | (true, d3) =>
        let d4 := (d3.updCtx e k (fun z => { z with
          enc := { z.enc with emitSeg := c.emitSeg + 1, emitBits := total, packets := c.packets + ps.length } })).updEngine e (fun z =>
            { z with changes := z.changes ++ [(wd at', 0)] })
        (d4.cntAdd (Reg.C_CE_ENC_NAL_BYTES e) (nalsBits heads / 8)).commandDone e none

end Dev

/-- ENC_CTUS (R257). -/
def execEncCtus (e : Fin 128) (s : State) : Host.Outcome State Fault Refusal := finish s (s.encCtusRun e)
/-- ENC_END (R259). -/
def execEncEnd (e : Fin 128) (s : State) : Host.Outcome State Fault Refusal := finish s (s.encEndRun e)

end Sys2Proof.Machine
end

