-- ==== Sys2Proof/Machine/DecodeCmds.lean ====
section
/-!
DEFINITION. DEC_CTUS and DEC_END (R280–R298): the packet ring and RTP, losses, parameter sets, slice segments and their shares, picture slots and
their flags, marks and their spread, the close of a picture with its concealment, the output process, the freeze policy, publication and reports. What
the syntax of H.265 gives, and the samples that it decodes to, are open (Config, log 133).
-/
namespace Sys2Proof.Machine

/-! Pictures in frame memory. -/

/-- A picture as its slot's header gives it (R258, R286): byte address, chroma format, 10 bits or 8, size, and the CTU size that its marks count in. -/
structure Pic where
  addr : Nat
  chroma : Nat
  ten : Bool
  w : Nat
  h : Nat
  ctu : Nat := 64
  deriving DecidableEq, Repr

/-- Width of a chroma plane: halved for 4:2:0 and 4:2:2. A 4:0:0 code reads as 4:2:0 (R280). -/
def Pic.cw (p : Pic) : Nat := if p.chroma = 3 then p.w else (p.w + 1) / 2
/-- Height of a chroma plane. -/
def Pic.ch (p : Pic) : Nat := if p.chroma = 0 ∨ p.chroma = 1 then (p.h + 1) / 2 else p.h
/-- Bytes of a sample. -/
def Pic.size (p : Pic) : Nat := if p.ten then 2 else 1
/-- The byte address of plane `c`: after the header and the CTU marks, the planes packed (log 34). -/
def Pic.plane (p : Pic) (c : Nat) : Nat :=
  let marks := ceilDiv (ceilDiv p.w p.ctu * ceilDiv p.h p.ctu) 16
  p.addr + 64 + 4 * marks + p.size * (match c with | 0 => 0 | 1 => p.w * p.h | _ => p.w * p.h + p.cw * p.ch)

/-! RTP and NAL units (R280, R290). -/

/-- The RTP packet of a received frame: sequence number, time stamp and payload, in UDP over IPv4, or over IPv6 without extension headers (log 32). -/
def rtpOf (f : Bytes) : Option (Nat × Nat × Bytes) :=
  let tag := fun (o : Nat) => [0x8100, 0x88A8, 0x9100].contains (beAt f o 2)
  let l3 := if !tag 12 then 14 else if !tag 16 then 18 else 22
  let udp :=
    if beAt f (l3 - 2) 2 = 0x0800 ∧ beAt f (l3 + 9) 1 = 17 then some (l3 + 4 * (beAt f l3 1 % 16))
    else if beAt f (l3 - 2) 2 = 0x86DD ∧ beAt f (l3 + 6) 1 = 17 then some (l3 + 40) else none
  udp.bind (fun u =>
    let r := slice f (u + 8) (beAt f (u + 4) 2 - 8)
    let b0 := beAt r 0 1
    let h := 12 + 4 * (b0 % 16)
    let h2 := if bit b0 4 then h + 4 + 4 * beAt r (h + 2) 2 else h
    let n := r.length - h2 - (if bit b0 5 then (r.getLast?.getD 0).toNat else 0)
    if b0 / 64 = 2 ∧ h2 < r.length then some (beAt r 2 2, beAt r 4 4, slice r h2 n) else none)

/-- Type of a NAL unit. -/
def nalType (nal : Bytes) : Nat := beAt nal 0 1 / 2 % 64
/-- Its layer. -/
def nalLayer (nal : Bytes) : Nat := beAt nal 0 2 / 8 % 64
/-- Is it a slice segment? -/
def nalSlice (nal : Bytes) : Bool := decide (nalType nal ≤ 9) || (decide (16 ≤ nalType nal) && decide (nalType nal ≤ 21))
/-- Is it of an IRAP picture? -/
def nalIrap (nal : Bytes) : Bool := decide (16 ≤ nalType nal) && decide (nalType nal ≤ 23)
/-- NAL units of an aggregation packet. -/
def aggregated : Nat → Bytes → List Bytes
  | 0, _ => []
  | k + 1, bs => if bs.length < 2 then [] else slice bs 2 (beAt bs 0 2) :: aggregated k (bs.drop (2 + beAt bs 0 2))

/-- A stream as packets come in (R290): the NAL units lost are counted once each. -/
structure Reception where
  seq : Option Nat
  part : Option Bytes
  units : List DecUnit := []
  lost : Nat := 0
  deriving DecidableEq, Repr
/-- A complete NAL unit: lost where forbidden_zero_bit is 1 or it is shorter than its header. -/
def Reception.take (r : Reception) (time stamp : Nat) (nal : Bytes) : Reception :=
  if nal.length < 2 ∨ bit (beAt nal 0 1) 7 = true then { r with lost := r.lost + 1 }
  else { r with units := r.units ++ [{ nal := nal, time := time, stamp := stamp }] }
/-- The NAL unit in progress is lost. -/
def Reception.lose (r : Reception) : Reception :=
  match r.part with
  | some (_ :: _) => { r with lost := r.lost + 1, part := some [] }
  | _ => r
/-- A packet (R290): a gap loses the NAL unit in progress across it; a fragment without a start, or one that ends without its end, loses that unit. -/
def Reception.packet (r0 : Reception) (seq time stamp : Nat) (p : Bytes) : Reception :=
  let r1 := if r0.seq.any (fun s => decide ((s + 1) % 65536 ≠ seq)) then r0.lose else r0
  let r := { r1 with seq := some seq }
  if nalType p = 49 ∧ 3 ≤ p.length then
    let fu := beAt p 2 1
    let head := [by8 (beAt p 0 1 % 2 + beAt p 0 1 / 128 * 128 + fu % 64 * 2), p.getD 1 0]
    let body := p.drop 3
    if bit fu 7 then
      let r2 := { r.lose with part := some (head ++ body) }
      if bit fu 6 then ({ r2 with part := none }).take time stamp (head ++ body) else r2
    else match r.part with
      | some (b :: bs) => if bit fu 6 then ({ r with part := none }).take time stamp (b :: bs ++ body) else { r with part := some (b :: bs ++ body) }
      | some [] => if bit fu 6 then { r with part := none } else r
      | none => { r with lost := r.lost + 1, part := if bit fu 6 then none else some [] }
  else if nalType p = 49 then (if r.part.isNone then { r with lost := r.lost + 1, part := some [] } else r.lose)
  else
    let r2 := { r.lose with part := none }
    if nalType p = 48 ∧ 2 ≤ p.length then (aggregated p.length (p.drop 2)).foldl (fun x n => x.take time stamp n) r2
    else r2.take time stamp p

/-! Parameter sets and the shares of a gang (R283, R289). -/

/-- CTU columns of a picture. -/
def paramsCols (p : Config.ParamSet) : Nat := ceilDiv p.width (atLeast1 p.ctuSize)
/-- CTU rows of a picture. -/
def paramsRows (p : Config.ParamSet) : Nat := ceilDiv p.height (atLeast1 p.ctuSize)
/-- CTUs of a picture. -/
def paramsCtus (p : Config.ParamSet) : Nat := paramsCols p * paramsRows p
/-- The part of `0 … n − 1`, split at some starts, that position `x` lies in: its number, start and end. -/
def partAt (starts : List Nat) (n x : Nat) : Nat × Nat × Nat :=
  let i := (starts.filter (fun s => decide (s ≤ x))).length - 1
  (i, starts.getD i 0, starts.getD (i + 1) n)
/-- Does the picture have tiles? -/
def decTiles (p : Config.ParamSet) : Bool := decide (1 < p.tileCols.length * p.tileRows.length)
/-- The addresses of the CTUs in tile scan. -/
def decScan (p : Config.ParamSet) : List Nat :=
  let spans := fun (starts : List Nat) (n : Nat) => (upto starts.length).map (fun i => (starts.getD i 0, starts.getD (i + 1) n))
  (spans p.tileRows (paramsRows p)).flatMap (fun r => (spans p.tileCols (paramsCols p)).flatMap (fun c =>
    (upto (r.2 - r.1)).flatMap (fun y => (upto (c.2 - c.1)).map (fun x => (r.1 + y) * paramsCols p + c.1 + x))))
/-- The gang member of `m` that decodes a CTU (R289). -/
def decMember (p : Config.ParamSet) (m addr : Nat) : Nat :=
  let cols := atLeast1 (paramsCols p)
  if decTiles p then
    ((partAt p.tileRows (paramsRows p) (addr / cols)).1 * p.tileCols.length + (partAt p.tileCols cols (addr % cols)).1) % m
  else if p.wpp then addr / cols % m else 0
/-- Does a CTU start a substream: a tile, or under WPP a row of it? -/
def subStart (p : Config.ParamSet) (addr : Nat) : Bool :=
  let cols := atLeast1 (paramsCols p)
  decide (addr % cols = (partAt p.tileCols cols (addr % cols)).2.1)
    && (p.wpp || decide (addr / cols = (partAt p.tileRows (paramsRows p) (addr / cols)).2.1))
/-- Does a CTU end its row of the tile? -/
def rowEnd (p : Config.ParamSet) (addr : Nat) : Bool :=
  let cols := atLeast1 (paramsCols p)
  decide (addr % cols + 1 = (partAt p.tileCols cols (addr % cols)).2.2)
/-- The luma samples of a member's share. -/
def decShare (p : Config.ParamSet) (m k : Nat) : Nat :=
  let cols := atLeast1 (paramsCols p)
  (((upto (paramsCtus p)).filter (fun a => decMember p m a == k)).map (fun a =>
    (min p.width ((a % cols + 1) * p.ctuSize) - a % cols * p.ctuSize) * (min p.height ((a / cols + 1) * p.ctuSize) - a / cols * p.ctuSize))).sum
/-- The parallel rule of R289, for a gang of `m`. -/
def parallelOk (b : List Word) (p : Config.ParamSet) (m : Nat) : Bool :=
  let n := bf b 2 19 0
  let t := atLeast1 (bf b 3 19 0)
  if m = 1 then true
  else if decTiles p || p.wpp then (upto m).all (fun k => decide (decShare p m k * n ≤ 447897600 * t))
  else decide (p.width * p.height * n ≤ 497664000 * t)

/-- The lower middle value of a list of components (R292). -/
def lowerMedian (xs : List Int) : Int := (sortBy (fun a b => decide (a ≤ b)) xs).getD ((xs.length - 1) / 2) 0

/-- A parameter set's checks (R283), for a gang of `m`. -/
def paramsOk (b : List Word) (p : Config.ParamSet) (m : Nat) : Bool :=
  decide (p.profile ≤ 4) && bit (bf b 0 12 8) p.profile && decide (p.level ≤ bf b 0 20 13) && (!p.highTier || bf b 0 21 21 == 1)
    && decide (p.width ≤ bf b 1 15 0) && decide (p.height ≤ bf b 1 31 16) && decide (p.depth ≤ 10)
    && decide (p.maxDecBuf + 3 ≤ bf b 8 4 0) && parallelOk b p m

/-- The vector of a concealed CTU (R292): the medians of the inter-coded neighbours that were decoded; zero under CONC 2. -/
def concealVector (b : List Word) (cols : Nat) (inter : SMap (Int × Int)) (a : Nat) : Int × Int :=
  if bf b 0 23 22 = 2 then (0, 0)
  else
    let at' := fun (ok : Bool) (k : Nat) => if ok then (SMap.get? inter k).toList else []
    let vs := at' (decide (cols ≤ a)) (a - cols) ++ at' true (a + cols) ++ at' (decide (a % cols ≠ 0)) (a - 1)
      ++ at' (decide ((a + 1) % cols ≠ 0)) (a + 1)
    if vs.isEmpty then (0, 0) else (lowerMedian (vs.map (·.1)), lowerMedian (vs.map (·.2)))
/-- A vector clipped so that a block of a CTU lies within the reference and its padding (R292). -/
def clipVector (p : Config.ParamSet) (a : Nat) (v : Int × Int) : Int × Int :=
  let cols := atLeast1 (paramsCols p)
  let clip := fun (at' size : Nat) (x : Int) =>
    let stop := min size (at' + p.ctuSize)
    max (-4 * ((at' + Config.refPadding : Nat) : Int)) (min (4 * ((size - stop + Config.refPadding : Nat) : Int)) x)
  (clip (a % cols * p.ctuSize) p.width v.1, clip (a / cols * p.ctuSize) p.height v.2)

/-- Lines of a picture that are final after loop filtering (R286): of the rows that no missing CTU holds back, less the 8 that the next row's filters
reach. -/
def rowsComplete (p : Config.ParamSet) (done : List Nat) : Nat :=
  let cols := paramsCols p
  let n := ((upto (paramsRows p)).takeWhile (fun r => (upto cols).all (fun x => done.contains (r * cols + x)))).length
  if n = paramsRows p then p.height else n * p.ctuSize - 8

/-! Prediction for concealment (log 130). -/

/-- The chroma filter of an eighth-sample phase. -/
def chromaTaps (phase : Nat) : List Int :=
  match phase with
  | 1 => [-2, 58, 10, -2]
  | 2 => [-4, 54, 16, -2]
  | 3 => [-6, 46, 28, -4]
  | 4 => [-4, 36, 36, -4]
  | 5 => [-4, 28, 46, -6]
  | 6 => [-2, 16, 54, -4]
  | 7 => [-2, 10, 58, -2]
  | _ => [0, 64, 0, 0]
/-- A predicted chroma sample at (x, y), displaced by a luma vector, where a chroma sample spans `kx` by `ky` luma samples. -/
def chromaPred (depth : Nat) (s : Int → Int → Nat) (kx ky : Nat) (x y : Int) (v : Int × Int) : Nat :=
  let px := x + v.1 / (4 * kx : Nat)
  let py := y + v.2 / (4 * ky : Nat)
  let fx := (v.1 % (4 * kx : Nat)).toNat * 8 / (4 * kx)
  let fy := (v.2 % (4 * ky : Nat)).toNat * 8 / (4 * ky)
  let sum := fun (taps : List Int) (f : Int → Int) => (upto 4).foldl (fun (a : Int) k => a + taps.getD k 0 * f ((k : Int) - 1)) 0
  let row := fun (r : Int) => sum (chromaTaps fx) (fun k => s (px + k) r)
  let t := sum (chromaTaps fy) (fun k => row (py + k) / 2 ^ (depth - 8)) / 64
  (max 0 (min (2 ^ depth - 1) ((t + 2 ^ (13 - depth)) / 2 ^ (14 - depth)))).toNat

/-- The weighted mean of samples at their distances (R293): each weight is the inverse of the distance; the rounding is open. -/
def distanceMean (ss : List (Nat × Nat)) : Nat :=
  let den := ss.foldl (fun a p => a * p.2) 1
  let num := (ss.map (fun p => p.1 * (den / p.2))).sum
  let weight := (ss.map (fun p => den / p.2)).sum
  (num / weight) + (if num % weight = 0 then 0 else Config.meanRound num weight % 2)

namespace Dev

/-- The CTU size of the picture in a slot: that of the session it was decoded in, else 64 (log 34). -/
def slotCtu (d : Dev) (a : Nat) : Nat :=
  let found := d.engines.flatMap (fun q => q.2.ctxs.flatMap (fun p => match p.2.decDsb with
    | some b => p.2.str.sizes.filter (fun z => addr37 (d.ctxSeg q.1 p.1 * 4096 + 4 * (bf b 6 31 0 + z.1 * bf b 7 31 0)) == a)
    | none => []))
  match found with | z :: _ => atLeast1 z.2 | [] => 64
/-- The picture of a slot whose address is `a`. -/
def picAt (d : Dev) (a : Nat) : Pic :=
  let f := (d.fmWord a).toNat
  let s := (d.fmWord (a + 24)).toNat
  { addr := a, chroma := bits f 1 0, ten := bit f 2, w := bits s 15 0, h := bits s 31 16, ctu := d.slotCtu a }

/-- A sample of a plane, edges replicated (R305). -/
def sampleAt (d : Dev) (p : Pic) (c : Nat) (x y : Int) : Nat :=
  let w := if c = 0 then p.w else p.cw
  let h := if c = 0 then p.h else p.ch
  let a := addr37 (p.plane c + p.size * (edge h y * w + edge w x))
  if p.ten then leNat [d.fmByte a, d.fmByte (a + 1)] % 1024 else (d.fmByte a).toNat

/-- The session of the running context, or RAISE 0x4F (R282). -/
def decSession (d : Dev) (e : Nat) (f : List Word → Dev) : Dev :=
  match (d.ctx e (d.curOf e)).decDsb with
  | some b => f b
  | none => d.raise e 0x4F
/-- The word index of a picture slot (R281). -/
def slotAt (b : List Word) (s : Nat) : Nat := bf b 6 31 0 + s * bf b 7 31 0
/-- A header word of a slot (R286). -/
def slotWord (d : Dev) (e : Nat) (b : List Word) (s w : Nat) : Word := d.fmWord (d.segAddr e (slotAt b s + w))
/-- A header word of a slot written. -/
def slotPut (d : Dev) (e : Nat) (b : List Word) (s w : Nat) (v : Word) : Bool × Dev := d.segWrite e (slotAt b s + w) (leBytes 4 v.toNat)
/-- The mark of a CTU of a slot (R286): 0 clean, 1 concealed, 2 tainted. -/
def ctuMark (d : Dev) (e : Nat) (b : List Word) (s a : Nat) : Nat := fld (d.slotWord e b s (16 + a / 16)) (2 * (a % 16) + 1) (2 * (a % 16))
/-- The mark of a CTU written. -/
def ctuMarkPut (d : Dev) (e : Nat) (b : List Word) (s a m : Nat) : Bool × Dev :=
  d.slotPut e b s (16 + a / 16) (setFld (d.slotWord e b s (16 + a / 16)) (2 * (a % 16) + 1) (2 * (a % 16)) m)

/-- Actions on the device in order, until one is refused. -/
def untilRefused : List (Dev → Bool × Dev) → Dev → Bool × Dev
  | [], d => (true, d)
  | f :: fs, d => match f d with
    | (true, d1) => untilRefused fs d1
    | (false, d1) => (false, d1)

/-- A notice of the decoder, where NOTE_MASK enables it (R298). -/
def decNotice (d : Dev) (e : Nat) (b : List Word) (k : Nat) (on : Bool) : Dev :=
  if on && bit (bf b 14 15 0) k then d.updEngine e (fun z => { z with notices := z.notices ++ [0x30 + k] }) else d

/-- The picture that a session's slot holds with a parameter set; 4:0:0 is stored as 4:2:0 (R280). -/
def slotPic (d : Dev) (e : Nat) (b : List Word) (s : Nat) (p : Config.ParamSet) : Pic :=
  { addr := d.segAddr e (slotAt b s), chroma := max 1 p.chroma, ten := decide (8 < p.depth), w := p.width, h := p.height, ctu := atLeast1 p.ctuSize }
/-- The slot that holds the reference picture of an order count (R286, R287). -/
def pocSlot (d : Dev) (e : Nat) (b : List Word) (poc : Int) : Option Nat :=
  (upto (bf b 8 4 0)).find? (fun s => let w := d.slotWord e b s 4
    !wbit w 0 && (wbit w 1 || wbit w 2) && d.slotWord e b s 5 == wd (unsgn 32 poc))
/-- The CTUs that the members of the gang have decoded of the picture under way, or have concealed at its close, as far as they run on this device. -/
def doneAll (d : Dev) (e : Nat) (p : Config.ParamSet) (own : List Nat) : List Nat :=
  let c := d.ctx e (d.curOf e)
  let m := d.members e
  own ++ ((upto m).filter (fun i => i != d.memberIndex e)).flatMap (fun i => match d.peer? e i with
    | some z =>
      if z.decPics = c.decPics then z.decDone
      else if z.decPics = c.decPics + 1 then (upto (paramsCtus p)).filter (fun a => decMember p m a == i)
      else []
    | none => [])
/-- The vectors that the members' decoded CTUs of the picture under way have at their centres (R292), as far as they run on this device. -/
def interAll (d : Dev) (e : Nat) : SMap (Int × Int) :=
  let c := d.ctx e (d.curOf e)
  ((upto (d.members e)).filter (fun i => i != d.memberIndex e)).foldl (fun x i => match d.peer? e i with
    | some z =>
      if (z.decPics = c.decPics ∧ z.decSlot.isSome) ∨ (z.decPics = c.decPics + 1 ∧ z.decSlot.isNone) then
        z.decInter.foldl (fun y q => SMap.put y q.1 q.2) x
      else x
    | none => x) c.decInter
/-- Has a CTU been committed, or found lost, by its member? One on another device is not seen. -/
def decPast (d : Dev) (e : Nat) (p : Config.ParamSet) (c : Ctx) (addr : Nat) : Bool :=
  let i := decMember p (d.members e) addr
  if i = d.memberIndex e then c.decDone.contains addr || c.decGone.contains addr
  else match d.peer? e i with
    | some z => decide (c.decPics < z.decPics) || (z.decPics == c.decPics && (z.decDone.contains addr || z.decGone.contains addr))
    | none => true
/-- The data that a CTU left for its neighbours, and the arithmetic coder's state that a row left after its second CTU. -/
def decNear (d : Dev) (e : Nat) (p : Config.ParamSet) (c : Ctx) (x y : Int) : List Nat :=
  if x < 0 ∨ y < 0 ∨ (paramsCols p : Int) ≤ x then []
  else
    let a := y.toNat * paramsCols p + x.toNat
    let i := decMember p (d.members e) a
    if i = d.memberIndex e then SMap.get (fun _ => []) c.str.near a
    else match d.peer? e i with
      | some z => SMap.get (fun _ => []) z.str.near a
      | none => Config.farMember a
/-- The same of a row, under WPP. -/
def decRow (d : Dev) (e : Nat) (p : Config.ParamSet) (c : Ctx) (a : Nat) : List Nat :=
  let i := decMember p (d.members e) a
  if i = d.memberIndex e then SMap.get (fun _ => []) c.str.rows a
  else match d.peer? e i with
    | some z => SMap.get (fun _ => []) z.str.rows a
    | none => Config.farMember a

/-- The rows of the slot that a CTU writes, of every plane: its own samples, and 8 before it to the left and above, which its loop filters reach. -/
def ctuRows (q : Pic) (s x y : Nat) (back : Nat) (val : Nat → Nat → Nat → Nat) : List (Nat × Bytes) :=
  let xa := x * q.ctu - back
  let ya := y * q.ctu - back
  (upto 3).flatMap (fun c =>
    let w := if c = 0 then q.w else q.cw
    let h := if c = 0 then q.h else q.ch
    let kx := if c = 0 ∨ q.chroma = 3 then 1 else 2
    let ky := if c = 0 ∨ q.chroma ≠ 1 then 1 else 2
    let x1 := min w (ceilDiv ((x + 1) * q.ctu) kx)
    let y1 := min h (ceilDiv ((y + 1) * q.ctu) ky)
    (upto (y1 - ya / ky)).map (fun j =>
      (4 * s + (q.plane c - q.addr) + q.size * ((ya / ky + j) * w + xa / kx),
       (upto (x1 - xa / kx)).flatMap (fun i => leBytes q.size (val c (xa / kx + i) (ya / ky + j))))))
/-- A sample value, with the chroma of a 4:0:0 picture at 2^(bit depth − 1) (R280). -/
def storedSample (p : Config.ParamSet) (val : Nat → Nat → Nat → Nat) (c x y : Nat) : Nat :=
  if p.chroma = 0 ∧ c ≠ 0 then 2 ^ (p.depth - 1) else val c x y % 2 ^ p.depth

/-- The reference flags of every slot in use follow the reference picture set (R287). -/
def refsPut (e : Nat) (b : List Word) (short long : List Nat) : List (Dev → Bool × Dev) :=
  (upto (bf b 8 4 0)).map (fun s d =>
    let w := d.slotWord e b s 4
    if w = 0 then (true, d)
    else
      let v := setBit (setBit w 1 (short.contains s)) 2 (long.contains s)
      if v = w then (true, d) else d.slotPut e b s 4 v)

/-- A new picture in slot `s`: its header and its marks (R286). -/
def pictureOpen (e : Nat) (b : List Word) (s : Nat) (p : Config.ParamSet) (stamp : Nat) (poc : Int) : List (Dev → Bool × Dev) :=
  let n := ceilDiv (paramsCtus p) 16
  [fun d => d.segWrite e (slotAt b s) (bytesOf ([wd (max 1 p.chroma + (if 8 < p.depth then 4 else 0)), 0, wd stamp, wd (stamp >>> 32), 1,
      wd (unsgn 32 poc), wd (p.width + p.height * 65536), 0] ++ List.replicate (8 + n) 0))]

/-! DEC_CTUS, NAL unit by NAL unit and CTU by CTU. -/

/-- A DEC_CTUS under way: its context, the CTUs that it may still decode, those decoded, NAL units discarded, slices and parameter sets refused, refusals to
notify, a missing reference to count, and whether it stops or must wait. -/
structure DecRun where
  c : Ctx
  left : Nat
  done : Nat := 0
  lost : Nat := 0
  refused : Nat := 0
  refusal : Bool := false
  missing : Bool := false
  stop : Bool := false
  wait : Bool := false
  deriving DecidableEq, Repr
/-- A change of the stream. -/
def DecRun.str (r : DecRun) (f : DecStream → DecStream) : DecRun := { r with c := { r.c with str := f r.c.str } }
/-- The first waiting NAL unit is done with. -/
def DecRun.drop (r : DecRun) : DecRun := r.str (fun z => { z with units := z.units.drop 1 })

/-- One CTU of the slice segment under way (R284, R289, R290, R295). -/
def decOne (d : Dev) (e : Nat) (b : List Word) (p : Config.ParamSet) (s : Nat) (g : DecSeg) (r : DecRun) : Option DecRun × Dev :=
  let c := r.c
  let scan := decScan p
  let cols := atLeast1 (paramsCols p)
  let m := d.members e
  let addr := scan.getD g.pos 0
  let x := addr % cols
  let y := addr / cols
  let ended := r.str (fun z => { z with seg := none })
  let turned := decide (0 < g.count) && subStart p addr && !g.entries
  if scan.length ≤ g.pos then (some ended, d)
  else if turned && decide (1 < m) && decMember p m addr != d.memberIndex e then (some ended, d)
  else if decMember p m addr ≠ d.memberIndex e then
    match (upto (scan.length - g.pos - 1)).find? (fun k => subStart p (scan.getD (g.pos + 1 + k) 0)), g.more with
    | some k, n + 1 => (some (r.str (fun z => { z with seg := some { g with pos := g.pos + 1 + k, more := n, fresh := false } })), d)
    | _, _ => (some ended, d)
  else
    let top := (partAt p.tileRows (paramsRows p) y).2.1
    let left := (partAt p.tileCols cols x).2.1
    let right := (partAt p.tileCols cols x).2.2
    let above := (y - 1) * cols + min (x + 1) (right - 1)
    if p.wpp && decide (1 < m) && !(decTiles p) && decide (top < y) && !d.decPast e p c above then (some { r with stop := true, wait := true }, d)
    else
      let q := d.slotPic e b s p
      let cabac :=
        if g.fresh then [] else if !subStart p addr then g.cabac
        else if p.wpp && decide (top < y) then d.decRow e p c ((y - 1) * cols + left + 1) else []
      let near := [d.decNear e p c (x - 1 : Int) y, d.decNear e p c (x - 1 : Int) (y - 1 : Int), d.decNear e p c x (y - 1 : Int),
        d.decNear e p c (x + 1 : Int) (y - 1 : Int)]
      let at' : Config.DecAt := { nal := g.nal, sets := c.str.sets, k := g.count, addr := addr, cabac := cabac, near := near }
      let o := Config.decodeCtu at'
      if o.error then
        (some { r with c := { c with decGone := c.decGone ++ [addr], str := { c.str with seg := none, segLost := true } } }, d)
      else
        let refSlot := fun (poc : Int) => (d.pocSlot e b poc).orElse (fun _ => c.str.newest)
        let ref := fun (poc : Int) (pl : Nat) (u v : Int) => match refSlot poc with
          | some t => d.sampleAt (d.slotPic e b t p) pl u v
          | none => 0
        let val := Config.decodedSample at' ref (fun pl u v => d.sampleAt q pl u v)
        let tainted := o.refs.any (fun t => match d.pocSlot e b t.1 with
            | some k => d.ctuMark e b k t.2 != 0
            | none => true) || o.near.any (fun a => d.ctuMark e b s a != 0)
        match d.segPuts e (ctuRows q (slotAt b s) x y 8 (storedSample p val)) with
        | (false, d1) => (none, d1)
        | (true, d1) => match d1.ctuMarkPut e b s addr (if tainted then 2 else 0) with
          | (false, d2) => (none, d2)
          | (true, d2) =>
            let next := scan.getD (g.pos + 1) 0
            let close := o.ends || decide (scan.length ≤ g.pos + 1)
            let seg : DecSeg := { g with
              count := g.count + 1, pos := g.pos + 1, fresh := false, cabac := o.cabac
              more := if g.entries && subStart p next then g.more - 1 else g.more }
            let str := { c.str with
              seg := if close then none else some seg, segLost := false, tail := o.cabac
              near := SMap.set (fun _ => []) c.str.near addr o.left
              rows := if x = left + 1 then SMap.set (fun _ => []) c.str.rows addr o.cabac else c.str.rows }
            let inter := match o.vector with | some v => SMap.put c.decInter addr v | none => c.decInter
            (some { r with
              c := { c with decDone := c.decDone ++ [addr], decNext := max c.decNext (g.pos + 1), decInter := inter, str := str }
              left := r.left - 1, done := r.done + 1, stop := rowEnd p addr || r.left == 1 }, d2)

/-- A slice segment of the picture under way begins (R290): behind a decoded CTU it is a duplicate; one that depends on a lost one is lost; the CTUs
before it that were not decoded are lost. -/
def decBegin (d : Dev) (e : Nat) (p : Config.ParamSet) (u : DecUnit) (h : Config.SliceHead) (r : DecRun) : DecRun :=
  let c := r.c
  let scan := decScan p
  let pos := scan.idxOf h.addr
  let m := d.members e
  let gap := ((upto (pos - c.decNext)).map (fun i => scan.getD (c.decNext + i) 0)).filter (fun a =>
    decMember p m a == d.memberIndex e && !c.decDone.contains a && !c.decGone.contains a)
  let r1 := r.drop
  if pos < c.decNext ∨ scan.length ≤ pos then { r1 with lost := r.lost + 1 }
  else if h.depends && (c.str.segLost || !gap.isEmpty) then
    { (r1.str (fun z => { z with segLost := true })) with lost := r.lost + 1 }
  else
    let seg : DecSeg := { nal := u.nal, entries := decide (0 < h.entries), more := h.entries, fresh := !h.depends, pos := pos, cabac := if h.depends then c.str.tail else [] }
    let r2 := r1.str (fun z => { z with
      seg := some seg, segLost := false, last := max z.last u.stamp, list0 := z.list0.orElse (fun _ => h.list0) })
    { r2 with c := { r2.c with decGone := r2.c.decGone ++ gap } }

/-- A new picture opens (R287): its slot, the reference flags, the header. A gang's members after the first join its slot. -/
def decOpen (d : Dev) (e : Nat) (b : List Word) (p : Config.ParamSet) (u : DecUnit) (h : Config.SliceHead) (r : DecRun) : Option DecRun × Dev :=
  let c := r.c
  let slots := upto (bf b 8 4 0)
  let type := nalType u.nal
  let irap := nalIrap u.nal
  let starts := irap && (c.decWaitIrap || type != 21)
  let joined := if 1 < d.members e then slots.find? (fun s =>
    wbit (d.slotWord e b s 4) 0 && decide (d.slotWord e b s 5 = wd (unsgn 32 h.poc))) else none
  match joined, slots.find? (fun s => d.slotWord e b s 4 == 0) with
  | none, none => (some { r with stop := true, wait := true }, d)
  | _, free =>
    let s := (joined.orElse (fun _ => free)).getD 0
    let find := fun (pocs : List Int) => pocs.filterMap (d.pocSlot e b)
    let absent := !irap && (h.shortRefs ++ h.longRefs).any (fun q => (d.pocSlot e b q).isNone)
    let setup := if joined.isSome then [] else refsPut e b (find h.shortRefs) (find h.longRefs) ++ pictureOpen e b s p u.stamp h.poc
    match untilRefused setup d with
    | (false, d1) => (none, d1)
    | (true, d1) =>
      let rasl := type == 8 || type == 9
      let from' := if irap then starts else c.str.fromIrap
      (some { r with
        missing := r.missing || absent
        c := { c with
          decSlot := some s, decNext := 0, decDone := [], decGone := [], decInter := [], decMissing := absent
          decOutput := h.output && !(rasl && from'), decWaitIrap := false
          str := { c.str with
            poc := h.poc, time := u.time, stamp := u.stamp, last := u.stamp, list0 := none, hash := [], starts := starts, fromIrap := from'
            near := [], rows := [], tail := [], seg := none, segLost := false
            sizes := SMap.set (fun _ => 0) c.str.sizes s (atLeast1 p.ctuSize), ages := SMap.erase c.str.ages s } } }, d1)

/-- The parameter sets that have come are activated, or refused (R283). -/
def paramsTake (d : Dev) (e : Nat) (b : List Word) (r : DecRun) : DecRun :=
  let r1 := r.str (fun z => { z with setsNew := false })
  match Config.paramSet r.c.str.sets with
  | none => r1
  | some p =>
    if paramsOk b p (d.members e) then
      { r1 with c := { r1.c with decParams := some p, decWaitIrap := r.c.decWaitIrap || r.c.decParams.isNone } }
    else { r1 with refused := r.refused + 1, refusal := true, c := { r1.c with decParams := none, decWaitIrap := true } }

/-- One turn of DEC_CTUS: a CTU of the slice segment under way, or the next NAL unit (R283, R284, R290). -/
def decTurn (d : Dev) (e : Nat) (b : List Word) (r : DecRun) : Option DecRun × Dev :=
  let c := r.c
  match c.str.seg, c.decSlot, c.decParams with
  | some g, some s, some p => d.decOne e b p s g r
  | _, _, _ => match c.str.units with
    | [] => (some { r with stop := true }, d)
    | u :: _ =>
      let t := nalType u.nal
      let gone := r.drop
      if nalLayer u.nal ≠ 0 then (some gone, d)
      else if 32 ≤ t ∧ t ≤ 34 then (some (gone.str (fun z => { z with sets := u.nal :: z.sets, setsNew := true })), d)
      else if t = 40 then (some (gone.str (fun z => { z with hash := z.hash ++ [u.nal] })), d)
      else if !nalSlice u.nal then (some gone, d)
      else if c.decSlot.isNone && c.str.setsNew then (some (d.paramsTake e b r), d)
      else match c.decParams with
        | none => (some { gone with refused := r.refused + 1 }, d)
        | some p =>
          let h := Config.sliceHead u.nal c.str.sets c.str.poc
          let new := bit (beAt u.nal 2 1) 7 || decide (h.poc ≠ c.str.poc) || decide (u.time ≠ c.str.time)
          if c.decSlot.isSome && new then (some { (r.str (fun z => { z with newPic := true })) with stop := true }, d)
          else if !h.known then (some { (gone.str (fun z => { z with segLost := true })) with lost := r.lost + 1 }, d)
          else if c.decSlot.isSome then (some (d.decBegin e p u h r), d)
          else if c.decWaitIrap && !nalIrap u.nal then (some gone, d)
          else match d.decOpen e b p u h r with
            | (none, d1) => (none, d1)
            | (some r1, d1) => if r1.stop then (some r1, d1) else (some (d1.decBegin e p u h r1), d1)
/-- Turns until the command stops, one of them is refused, or there is nothing more to do. -/
def decTurns (d : Dev) (e : Nat) (b : List Word) : Nat → DecRun → Option DecRun × Dev
  | 0, r => (some r, d)
  | k + 1, r => match d.decTurn e b r with
    | (none, d1) => (none, d1)
    | (some r1, d1) => if r1.stop then (some r1, d1) else decTurns d1 e b k r1

/-- The words of the ring from offset `o` on: it starts again after RING_WORDS (R281). -/
def ringRuns (b : List Word) (o n : Nat) : List (Nat × Nat) :=
  let size := atLeast1 (bf b 10 31 0)
  let i := o % size
  let k := min n (size - i)
  [(bf b 9 31 0 + i, k), (bf b 9 31 0, min (n - k) size)].filter (fun q => decide (0 < q.2))
/-- The packets of the ring that a command finds, read in order. -/
def ringTake (d : Dev) (e : Nat) (b : List Word) : DecStream × Reception → List RingPacket → Option (DecStream × Reception) × Dev
  | st, [] => (some st, d)
  | (z, rc), q :: qs =>
    let runs := ringRuns b z.read q.words
    match d.segReads e runs with
    | (false, d1) => (none, d1)
    | (true, d1) =>
      let bs := runs.flatMap (fun t => (upto t.2).flatMap (fun i => leBytes 4 (d1.fmWord (d1.segAddr e (t.1 + i))).toNat))
      let rc1 := match rtpOf bs with
        | some (seq, time, p) => rc.packet seq time q.stamp.toNat p
        | none => rc
      ringTake d1 e b ({ z with read := (z.read + q.words) % atLeast1 (bf b 10 31 0) }, rc1) qs

/-- The slot of the open picture whose complete rows have grown, with their number (R286). -/
def rowsGrown (d : Dev) (e : Nat) (b : List Word) (c : Ctx) : Option (Nat × Nat) :=
  match c.decSlot, c.decParams with
  | some s, some p =>
    let n := rowsComplete p (d.doneAll e p c.decDone)
    if (d.slotWord e b s 1).toNat < n then some (s, n) else none
  | _, _ => none
/-- The turns of a DEC_CTUS of at most `most` CTUs, from a context that has taken its packets (R284). -/
def decRunAll (d : Dev) (e : Nat) (b : List Word) (c : Ctx) (most lost : Nat) : Option DecRun × Dev :=
  let fuel := 2 * most + 3 * c.str.units.length + (match c.decParams with | some p => paramsRows p * p.tileCols.length | none => 0) + 8
  if most = 0 then (some { c := c, left := 0, lost := lost }, d) else d.decTurns e b fuel { c := c, left := most, lost := lost }
/-- The context with what it took of the ring. -/
def takenCtx (c : Ctx) (z : DecStream) (rc : Reception) : Ctx :=
  { c with str := { z with seq := rc.seq, part := rc.part, units := z.units ++ rc.units } }

/-- DEC_CTUS (R281, R283–R287, R289, R290, R295). -/
def decCtusRun (d : Dev) (e : Nat) (ring : List RingPacket) : Dev :=
  d.stdCmd e 0x10 none (fun y => y.decSession e (fun b =>
    let k := y.curOf e
    let c := y.ctx e k
    let cmd := (y.engine e).cmd
    let w0 := wAt cmd 0 + 2 ^ 32 * wAt cmd 1
    let slot := bits w0 55 48
    let first := bits w0 47 28
    if slot != 255 && c.decSlot.any (fun s => s != slot) then y.commandDone e none
    else if first ≠ 0xFFFFF ∧ first ≠ c.decNext then y.raise e 0x20
    else match y.ringTake e b (c.str, { seq := c.str.seq, part := c.str.part }) ring with
    | (none, d1) => d1
    | (some (z, rc), d1) => match d1.decRunAll e b (takenCtx c z rc) (bits w0 27 12) rc.lost with
      | (none, d2) => d2
      | (some r, d2) =>
        if r.wait && r.done == 0 then y.uStall e .rows
        else match (match d2.rowsGrown e b r.c with | some (s, n) => d2.slotPut e b s 1 (wd n) | none => (true, d2)) with
          | (false, d3) => d3
          | (true, d3) =>
            let d4 := d3.updCtx e k (fun _ => { r.c with decLost := r.c.decLost + r.lost })
            let d5 := ((d4.cntAdd (Reg.C_CE_DEC_NAL_DISCARD e) r.lost).cntAdd (Reg.C_CE_DEC_PS_REFUSED e) r.refused).decNotice e b 3 r.refusal
            (if r.missing then d5.inc (Reg.C_CE_DEC_MISSING_REF e) else d5).commandDone e none))

/-! Concealment (R291–R293). -/

/-- The rows of a CTU concealed from the picture of a slot, displaced by a vector (R292). -/
def temporalRows (d : Dev) (e : Nat) (b : List Word) (s t : Nat) (p : Config.ParamSet) (a : Nat) (v : Int × Int) : List (Nat × Bytes) :=
  let q := d.slotPic e b s p
  let r := d.slotPic e b t p
  let depth := if q.ten then 10 else 8
  let val := fun (c x y : Nat) =>
    let kx := if c = 0 ∨ q.chroma = 3 then 1 else 2
    let ky := if c = 0 ∨ q.chroma ≠ 1 then 1 else 2
    if c = 0 then lumaPred depth (d.sampleAt r 0) (4 * (x : Int) + v.1) (4 * (y : Int) + v.2) else chromaPred depth (d.sampleAt r c) kx ky x y v
  ctuRows q (slotAt b s) (a % atLeast1 (paramsCols p)) (a / atLeast1 (paramsCols p)) 0 (storedSample p val)
/-- The rows of a CTU concealed from its surroundings (R293): the nearest samples above, below, left and right that are there. -/
def spatialRows (d : Dev) (e : Nat) (b : List Word) (s : Nat) (p : Config.ParamSet) (there : List Nat) (a : Nat) : List (Nat × Bytes) :=
  let q := d.slotPic e b s p
  let cols := atLeast1 (paramsCols p)
  let cx := a % cols
  let cy := a / cols
  let up := (upto cy).reverse.find? (fun j => there.contains (j * cols + cx))
  let down := ((upto (paramsRows p)).drop (cy + 1)).find? (fun j => there.contains (j * cols + cx))
  let left := (upto cx).reverse.find? (fun i => there.contains (cy * cols + i))
  let right := ((upto cols).drop (cx + 1)).find? (fun i => there.contains (cy * cols + i))
  let val := fun (c x y : Nat) =>
    let kx := if c = 0 ∨ q.chroma = 3 then 1 else 2
    let ky := if c = 0 ∨ q.chroma ≠ 1 then 1 else 2
    let sides :=
      (up.map (fun j => let yy := (j + 1) * q.ctu / ky - 1
        (d.sampleAt q c x yy, y - yy))).toList
      ++ (down.map (fun j => let yy := j * q.ctu / ky
        (d.sampleAt q c x yy, yy - y))).toList
      ++ (left.map (fun i => let xx := (i + 1) * q.ctu / kx - 1
        (d.sampleAt q c xx y, x - xx))).toList
      ++ (right.map (fun i => let xx := i * q.ctu / kx
        (d.sampleAt q c xx y, xx - x))).toList
    if sides.isEmpty then 2 ^ (p.depth - 1) else distanceMean sides
  ctuRows q (slotAt b s) cx cy 0 (storedSample p val)
/-- The CTUs concealed in raster order (R293): from a slot with its vectors, or from their surroundings; each is there for those after it. -/
def conceal (e : Nat) (b : List Word) (s : Nat) (p : Config.ParamSet) (list0 : Option Nat) (vec : Nat → Int × Int) : List Nat → List Nat → Dev → Bool × Dev
  | _, [], d => (true, d)
  | there, a :: as, d =>
    let rows := match list0 with
      | some t => d.temporalRows e b s t p a (vec a)
      | none => d.spatialRows e b s p there a
    match d.segPuts e rows with
    | (false, d1) => (false, d1)
    | (true, d1) => match d1.ctuMarkPut e b s a 1 with
      | (false, d2) => (false, d2)
      | (true, d2) => conceal e b s p list0 vec (there ++ [a]) as d2

/-! The close of a picture (R285, R287, R291–R297). -/

/-- What the output process has done: the pictures withheld in a row, whether the last one was withheld, and what this close saw. -/
structure OutRun where
  held : Nat
  frozen : Bool
  startFreeze : Bool := false
  endFreeze : Bool := false
  forced : Bool := false
  withheldNow : Nat := 0
  curWithheld : Bool := false
  curForced : Bool := false
  deriving DecidableEq, Repr

/-- The freeze policy of R296 for a picture of `n` CTUs with `x` not clean. -/
def withheldBy (b : List Word) (n x : Nat) : Bool :=
  match bf b 0 25 24 with
  | 1 => decide (bf b 4 7 0 * n < 100 * x)
  | 2 => decide (0 < x)
  | _ => false

/-- The CTUs of the picture in a slot. -/
def slotCtus (d : Dev) (e : Nat) (b : List Word) (s : Nat) : Nat :=
  let size := atLeast1 (SMap.get (fun _ => 0) (d.ctx e (d.curOf e)).str.sizes s)
  let w := (d.slotWord e b s 6).toNat
  ceilDiv (bits w 15 0) size * ceilDiv (bits w 31 16) size
/-- One picture output (R287, R288, R296): published, or withheld. -/
def outputOne (e : Nat) (b : List Word) (cur s : Nat) (st : Bool × OutRun × Dev) : Bool × OutRun × Dev :=
  let (ok, r, d) := st
  let flags := d.slotWord e b s 4
  if !ok || !wbit flags 3 then st
  else
    let w7 := d.slotWord e b s 7
    let bad := withheldBy b (d.slotCtus e b s) (fld w7 15 0 + fld w7 31 16)
    let lim := bf b 4 23 8
    let force := bad && decide (0 < lim) && decide (lim ≤ r.held)
    if bad && !force then
      let (ok1, d1) := d.slotPut e b s 4 (setBit flags 3 false)
      (ok1, { r with held := r.held + 1, frozen := true, startFreeze := r.startFreeze || !r.frozen, withheldNow := r.withheldNow + 1,
                     curWithheld := r.curWithheld || s == cur }, d1)
    else
      let p := bf b 13 31 0
      let count := (d.fmWord (d.segAddr e (p + 2))).toNat
      let (ok1, d1) := untilRefused
        [fun y => y.slotPut e b s 4 (setBit (setBit flags 3 false) 4 true),
         fun y => y.segWrite e p (bytesOf [wd (y.segAddr e (slotAt b s) / 32), y.slotWord e b s 5, wd (count + 1)])] d
      (ok1, { r with held := 0, frozen := false, endFreeze := r.endFreeze || r.frozen, forced := r.forced || force,
                     curForced := r.curForced || (force && s == cur) }, d1)

/-- The slots that the close of a picture outputs, in order (R287, log 133): before a picture that starts a sequence all the others, then the lowest order
count first while more wait than may be reordered, or one has waited longer than its latency. -/
def bumped (p : Config.ParamSet) (starts : Bool) (cur : Nat) (waiting : List (Nat × Int × Nat)) : List Nat :=
  let sorted := sortBy (fun a b => decide (a.2.1 ≤ b.2.1)) waiting
  let first := if starts then sorted.filter (fun w => w.1 != cur) else []
  let rest := if starts then sorted.filter (fun w => w.1 == cur) else sorted
  let late := match p.maxLatency with
    | some n => (upto rest.length).filter (fun i => decide (n ≤ (rest.getD i (0, 0, 0)).2.2))
    | none => []
  let n := max (rest.length - p.maxReorder) (match late.getLast? with | some i => i + 1 | none => 0)
  (first ++ rest.take n).map (fun w => w.1)

/-- The CTUs of the picture under way that are the running member's (R284). -/
def decMine (d : Dev) (e : Nat) (p : Config.ParamSet) : List Nat :=
  (upto (paramsCtus p)).filter (fun a => decMember p (d.members e) a == d.memberIndex e)
/-- Those of them that were not decoded (R291). -/
def decLacking (d : Dev) (e : Nat) (p : Config.ParamSet) : List Nat :=
  (d.decMine e p).filter (fun a => !(d.ctx e (d.curOf e)).decDone.contains a)
/-- Are all of them decoded or lost? -/
def decFull (d : Dev) (e : Nat) (p : Config.ParamSet) : Bool :=
  (d.decMine e p).all (fun a => (d.ctx e (d.curOf e)).decDone.contains a || (d.ctx e (d.curOf e)).decGone.contains a)
/-- Has the picture's time passed without a packet for it (R285)? -/
def decTimeout (d : Dev) (e : Nat) (b : List Word) : Bool :=
  decide (bf b 5 15 0 * 4000 ≤ (d.nowU + 2 ^ 64 - (d.ctx e (d.curOf e)).str.last % 2 ^ 64) % 2 ^ 64)
/-- Does DEC_END close the picture of slot `s` (R285)? -/
def decCloses (d : Dev) (e : Nat) (b : List Word) (p : Config.ParamSet) (s : Nat) : Bool :=
  let slot := bits (wAt (d.engine e).cmd 0 + 2 ^ 32 * wAt (d.engine e).cmd 1) 55 48
  (slot == 255 || slot == s) && (d.decFull e p || (d.ctx e (d.curOf e)).str.newPic || d.decTimeout e b)
/-- The slot that temporal concealment takes (R291, R292). -/
def concealFrom (d : Dev) (e : Nat) (b : List Word) : Option Nat :=
  let c := d.ctx e (d.curOf e)
  if bf b 0 23 22 = 1 then none else c.str.list0.bind (fun q => (d.pocSlot e b q).orElse (fun _ => c.str.newest))
/-- The vector that a CTU is concealed with (R292). -/
def concealVec (d : Dev) (e : Nat) (b : List Word) (p : Config.ParamSet) (a : Nat) : Int × Int :=
  clipVector p a (concealVector b (atLeast1 (paramsCols p)) (d.interAll e) a)
/-- The running member's missing CTUs concealed (R291–R293). -/
def concealAll (d : Dev) (e : Nat) (b : List Word) (p : Config.ParamSet) (s : Nat) : Bool × Dev :=
  conceal e b s p (d.concealFrom e b) (d.concealVec e b p) (d.doneAll e p (d.ctx e (d.curOf e)).decDone) (d.decLacking e p) d
/-- The context after the close of the picture of slot `s` (R285, R287, R292). -/
def decShut (d : Dev) (e : Nat) (b : List Word) (p : Config.ParamSet) (s : Nat) (z : Ctx) : Ctx :=
  let c := d.ctx e (d.curOf e)
  let other := c.decMotion.filter (fun q => q.1 / 2 ^ 20 != s)
  { z with
    decMotion := if (d.concealFrom e b).isSome then
        (d.decLacking e p).foldl (fun m a => SMap.put m (s * 2 ^ 20 + a) (d.concealVec e b p a)) other else other
    decSlot := none, decNext := 0, decDone := [], decGone := [], decLost := 0, decMissing := false
    decPics := z.decPics + 1
    str := { z.str with
      seg := none, segLost := false, newPic := false, list0 := none, hash := [], near := [], rows := [], newest := some s
      ages := (upto (bf b 8 4 0)).foldl (fun m q => if q = s then SMap.erase m q else SMap.set (fun _ => 0) m q (SMap.get (fun _ => 0) m q + 1)) z.str.ages } }
/-- CTUs of slot `s` concealed, and tainted (R289, R291). -/
def markCounts (d : Dev) (e : Nat) (b : List Word) (p : Config.ParamSet) (s : Nat) : Nat × Nat :=
  let marks := (upto (paramsCtus p)).map (d.ctuMark e b s)
  ((marks.filter (fun m => m == 1)).length, (marks.filter (fun m => m == 2)).length)
/-- The header of a closed picture's slot written (R286): its rows, counts and state flags. -/
def slotClose (d : Dev) (e : Nat) (b : List Word) (p : Config.ParamSet) (s : Nat) : Bool × Dev :=
  let (cc, tt) := d.markCounts e b p s
  let flags := setBit (setBit (setBit (d.slotWord e b s 4) 0 false) 1 true) 3 (d.ctx e (d.curOf e)).decOutput
  untilRefused [fun z => z.slotPut e b s 1 (wd p.height), fun z => z.slotPut e b s 7 (wd (cc + tt * 65536)), fun z => z.slotPut e b s 4 flags] d
/-- The pictures that the close of slot `s` outputs (R287, R288, R296). -/
def closeOutputs (d : Dev) (e : Nat) (b : List Word) (p : Config.ParamSet) (s : Nat) : Bool × OutRun × Dev :=
  let c := d.ctx e (d.curOf e)
  let waiting := ((upto (bf b 8 4 0)).filter (fun q => wbit (d.slotWord e b q 4) 3)).map (fun q =>
    (q, sgn 32 (d.slotWord e b q 5).toNat, if q = s then 0 else SMap.get (fun _ => 0) c.str.ages q + 1))
  (bumped p c.str.starts s waiting).foldl (fun st q => outputOne e b s q st) (true, { held := c.decWithheld, frozen := c.decFrozen }, d)
/-- The words of a picture report (R297). -/
def reportWords (d : Dev) (e : Nat) (b : List Word) (p : Config.ParamSet) (s : Nat) (counts : Nat × Nat) (r : OutRun) (hash late : Bool) : List Word :=
  let c := d.ctx e (d.curOf e)
  let lacks := !(d.decLacking e p).isEmpty
  let temporal := (d.concealFrom e b).isSome
  let w3 := b2n r.curWithheld + 2 * b2n r.curForced + 4 * b2n hash + 8 * b2n late + 16 * b2n c.decMissing + 32 * b2n (temporal && lacks)
    + 64 * b2n (!temporal && lacks)
  [wd c.decPics, d.slotWord e b s 5, wd (counts.1 + counts.2 * 65536), wd w3, wd c.decLost, d.slotWord e b s 2, d.slotWord e b s 3, wd s]
/-- The word of the segment where the running context's next picture report goes (R297). -/
def reportAt (d : Dev) (e : Nat) (b : List Word) : Nat := bf b 11 31 0 + 8 * ((d.ctx e (d.curOf e)).decPics % atLeast1 (bf b 12 7 0))

/-- DEC_END (R285). -/
def decEndRun (d : Dev) (e : Nat) : Dev :=
  d.stdCmd e 0x11 none (fun y => y.decSession e (fun b =>
    let k := y.curOf e
    let c := y.ctx e k
    match c.decSlot, c.decParams with
    | some s, some p =>
      if !y.decCloses e b p s then y.commandDone e none
      else
        let late := !y.decFull e p && !c.str.newPic && y.decTimeout e b
        match y.concealAll e b p s with
        | (false, d1) => d1
        | (true, d1) =>
          let taint := (c.decDone.filter (fun a => d1.ctuMark e b s a == 2)).length
          let d2 := (d1.cntAdd (Reg.C_CE_DEC_CONC_CTUS e) (y.decLacking e p).length).cntAdd (Reg.C_CE_DEC_TAINT_CTUS e) taint
          if !d2.isLeader e then ((d2.inc (Reg.C_CE_DEC_PICTURES e)).updCtx e k (y.decShut e b p s)).commandDone e none
          else
            let counts := d2.markCounts e b p s
            match d2.slotClose e b p s with
            | (false, d3) => d3
            | (true, d3) => match d3.closeOutputs e b p s with
              | (false, _, d4) => d4
              | (true, r, d4) =>
                let hash := bf b 0 26 26 == 1 && c.str.hash.any (fun h => Config.hashWrong h (fun pl u v => d1.sampleAt (d1.slotPic e b s p) pl u v))
                match d4.segWrite e (y.reportAt e b) (bytesOf (d4.reportWords e b p s counts r hash late)) with
                | (false, d5) => d5
                | (true, d5) =>
                  let d6 := (((((d5.decNotice e b 0 (decide (0 < counts.1))).decNotice e b 1 r.startFreeze).decNotice e b 2 r.endFreeze).decNotice
                    e b 4 r.forced).decNotice e b 5 hash)
                  let d7 := ((d6.inc (Reg.C_CE_DEC_PICTURES e)).cntAdd (Reg.C_CE_DEC_WITHHELD e) r.withheldNow).cntAdd
                    (Reg.C_CE_DEC_LATE_CLOSE e) (b2n late)
                  (d7.updCtx e k (fun z => { y.decShut e b p s z with decWithheld := r.held, decFrozen := r.frozen })).commandDone e none
    | _, _ => y.commandDone e none))

end Dev

/-- DEC_CTUS (R284). -/
def execDecCtus (e : Fin 128) (ring : List RingPacket) (s : State) : Host.Outcome State Fault Refusal := finish s (s.decCtusRun e ring)
/-- DEC_END (R285). -/
def execDecEnd (e : Fin 128) (s : State) : Host.Outcome State Fault Refusal := finish s (s.decEndRun e)

end Sys2Proof.Machine
end

