-- ==== Sys2Proof/Machine/Pixels.lean ====
section
/-!
DEFINITION. From a picture in frame memory to the payload of a tile frame (R286, R305–R310, R314, R318): samples at 4:4:4 and 16
bits, scaling, the colour slot, reduction to the output depth, and packing.
-/
namespace Sys2Proof.Machine

/-- Source position of output `j` along an axis (R306): the integer part and the phase. -/
def srcPos (origin size tile j : Nat) : Int × Nat :=
  let num : Int := (2 * tile * origin + (2 * j + 1) * size : Nat) - (tile : Int)
  let den : Int := (2 * tile : Nat)
  (num / den, ((num % den) * 64 / den).toNat)

/-- A signed 10-bit coefficient `k` (0–7 horizontal, 8–11 vertical) of a phase of a filter set (R306, R328). -/
def coef (fs : List Word) (phase k : Nat) : Int :=
  let j := k % 3
  sgn 10 (fld (fs.getD (4 * phase + k / 3) 0) (10 * j + 9) (10 * j))

/-- An intermediate clamped to 16 bits. -/
def clamp16 (x : Int) : Nat := (max 0 (min 65535 x)).toNat

/-- The colour matrix of a slot for channel `c` (R307, R310). -/
def slotMatrix (cs : List Word) (c : Nat) (v : Nat → Nat) : Nat :=
  let half := fun (i : Nat) => sgn 16 (fld (cs.getD (i / 2) 0) (16 * (i % 2) + 15) (16 * (i % 2)))
  let term := fun (k : Nat) => half (3 * c + k) * ((v k : Int) - (fld (cs.getD (5 + k) 0) 15 0 : Int))
  clamp16 ((term 0 + term 1 + term 2 + 2048) / 4096 + sgn 16 (fld (cs.getD (5 + c) 0) 31 16))
/-- The LUT of a slot (R308). -/
def slotLut (cs : List Word) (c x : Nat) : Nat :=
  let l := fun (i : Nat) => fld (cs.getD (8 + 512 * c + i / 2) 0) (16 * (i % 2) + 15) (16 * (i % 2))
  let i := x / 64
  if i < 1023 then clamp16 ((l i : Int) + (((l (i + 1) : Int) - l i) * (x % 64 : Nat) + 32) / 64) else l 1023

/-- The ordered matrix of R309. -/
def dither4 : List Nat := [0, 8, 2, 10, 12, 4, 14, 6, 3, 11, 1, 9, 15, 7, 13, 5]
/-- A channel reduced to `dep` bits at a pixel of the tile (R309). -/
def reduce (dith dep count x y v : Nat) : Nat :=
  if dep = 16 then v
  else
    let c := count % 16
    let b := fun (px py : Nat) => dither4.getD (py % 4 * 4 + px % 4) 0
    let add := match dith with
      | 1 => (2 * b x y + 1) * 2 ^ (16 - dep) / 32
      | 2 => (2 * b (x + c) (y + c / 4) + 1) * 2 ^ (16 - dep) / 32
      | _ => 2 ^ (15 - dep)
    min (2 ^ dep - 1) ((v + add) / 2 ^ (16 - dep))

/-- Values of `n` bits each, packed most significant bit first; spare bits zero (R314). -/
def packBits (n : Nat) (vs : List Nat) : Bytes :=
  let total := n * vs.length
  let bytes := ceilDiv total 8
  beBytes bytes ((vs.foldl (fun a v => a * 2 ^ n + v % 2 ^ n) 0) * 2 ^ (8 * bytes - total))

/-- A 10-bit safe value at an output depth (R322). -/
def safeDepth (dep v : Nat) : Nat := match dep with | 8 => v / 4 | 10 => v | _ => v * 64 + v / 16

namespace Dev

/-- A chroma line of the 4:2:0 upsampling (R305): three quarters of the nearer line, a quarter of the farther; the rounding is free
(log 33). -/
def chromaLine (d : Dev) (p : Pic) (c : Nat) (x y : Int) : Nat :=
  if p.chroma = 0 ∨ p.chroma = 1 then
    let near := y / 2
    let far := near + (if y % 2 = 0 then -1 else 1)
    let s := 3 * d.sampleAt p c x near + d.sampleAt p c x far
    (s + Config.chromaRound s % 4) / 4
  else d.sampleAt p c x y

/-- A channel at 4:4:4, left-justified to 16 bits (R305). -/
def sample16 (d : Dev) (p : Pic) (c : Nat) (x y : Int) : Nat :=
  let xx : Int := edge p.w x
  let yy : Int := edge p.h y
  let v :=
    if c = 0 then d.sampleAt p 0 xx yy
    else if p.chroma = 3 then d.sampleAt p c xx yy
    else if xx % 2 = 0 then d.chromaLine p c (xx / 2) yy
    else (d.chromaLine p c (xx / 2) yy + d.chromaLine p c (xx / 2 + 1) yy + 1) / 2
  v * (if p.ten then 64 else 256)

/-- A channel of an output pixel before the colour slot (R306). -/
def scaled (d : Dev) (p : Pic) (fs : List Word) (px py : Int × Nat) (c : Nat) : Nat :=
  let row := fun (r : Nat) => clamp16 ((((upto 8).foldl (fun (a : Int) k =>
    a + coef fs px.2 k * d.sample16 p c (px.1 - 3 + k) (py.1 - 1 + r)) 0) + 128) / 256)
  clamp16 ((((upto 4).foldl (fun (a : Int) r => a + coef fs py.2 (8 + r) * (row r : Int)) 0) + 128) / 256)

end Dev
end Sys2Proof.Machine
end

