-- ==== Sys2Proof/Machine/Commands.lean ====
section
/-!
DEFINITION. The standard commands other than those of HEVC (R239): SETCTX, INGEST, FETCH, SCALE, COLOUR, EMIT, COMPLETE, MARK and
GSYNC. Where the spec leaves a command's operand layout to the routine, the command carries what the layout spells (log 31).
-/
namespace Sys2Proof.Machine
namespace Dev

/-- The word after ring word `i`: the ring's bounds are the window's (R239, log 31). -/
def ringNext (d : Dev) (e i : Nat) : Nat := if wAt (d.engine e).cmd 7 = i then wAt (d.engine e).cmd 6 else (i + 1) % 2 ^ 32
/-- Words stored in the ring from A0 on, which moves with them; false where a write was refused. -/
def ringPut (d : Dev) (e : Nat) : List Word → Bool × Dev
  | [] => (true, d)
  | w :: ws =>
    let i := ((d.engine e).reg 48).toNat
    match d.segWrite e i (leBytes 4 w.toNat) with
    | (false, d1) => (false, d1)
    | (true, d1) => (d1.updEngine e (fun z => z.setReg 48 (wd (d1.ringNext e i)))).ringPut e ws

/-- A packet moved from the inlet to the ring, with at most `k` words: none where it raised an exception (R233, R239). -/
def ingestPacket (d : Dev) (e : Nat) : Nat → Option Dev × Dev
  | 0 => (some d, d)
  | k + 1 => match d.inletRead e with
    | (none, d1) => (none, d1.exception e 6 0)
    | (some w, d1) =>
      match d1.ringPut e [wd w.data.toNat, wd (w.data.toNat / 2 ^ 32)] with
      | (false, d2) => (none, d2)
      | (true, d2) => if w.l then (some d2, d2) else d2.ingestPacket e k

/-- INGEST (R239): a complete packet into the ring; it waits for one. -/
def ingestRun (d : Dev) (e : Nat) : Dev :=
  d.stdCmd e 2 none (fun y =>
    if !y.waitMet e (2 ^ 15) then y.uStall e (.wait (2 ^ 15))
    else match y.ingestPacket e 2049 with
      | (some d1, _) => d1.commandDone e none
      | (none, d1) => d1)

/-- FETCH (R239): bytes of the segment copied into the ring. -/
def fetchRun (d : Dev) (e src count : Nat) : Dev :=
  d.stdCmd e 3 none (fun x => x.winClear e [(src, ceilDiv count 4)] fun y =>
    match y.segRead e src (ceilDiv count 4) with
    | (none, d1) => d1
    | (some ws, d1) => match d1.ringPut e ws with
      | (true, d2) => d2.commandDone e none
      | (false, d2) => d2)

/-- The rows of a region's plane `c` in a picture: the byte offset of each from the slot, and its bytes, of the values of its pixels (log 31). -/
def regionRows (p : Pic) (r : Region) (val : Nat → Nat → Nat → Nat) (c : Nat) : List (Nat × Bytes) :=
  let sx := if c = 0 ∨ p.chroma = 3 then 1 else 2
  let sy := if c = 0 ∨ 2 ≤ p.chroma then 1 else 2
  let w := min r.w.toNat (p.w - r.x.toNat)
  let h := min r.h.toNat (p.h - r.y.toNat)
  let x0 := ceilDiv r.x.toNat sx
  let y0 := ceilDiv r.y.toNat sy
  let pw := if c = 0 then p.w else p.cw
  let dep := if p.ten then 10 else 8
  let sample := fun (i j : Nat) =>
    let lx := (x0 + i) * sx - r.x.toNat
    let ly := (y0 + j) * sy - r.y.toNat
    if sx = 1 ∧ sy = 1 then val c lx ly
    else Config.chromaDown ((upto sy).flatMap (fun v => (upto sx).map (fun u => val c (min (lx + u) (w - 1)) (min (ly + v) (h - 1))))) % 2 ^ dep
  (upto (ceilDiv (r.y.toNat + h) sy - y0)).map (fun j =>
    (p.plane c - p.addr + p.size * ((y0 + j) * pw + x0),
     (upto (ceilDiv (r.x.toNat + w) sx - x0)).flatMap (fun i => leBytes p.size (sample i j))))
/-- The words of the segment that hold rows `r0` to `r1` of every plane of a picture slot, and its header. -/
def regionReads (p : Pic) (pic r0 r1 : Nat) : List (Nat × Nat) :=
  (pic, 16) :: (upto 3).map (fun c =>
    let w := if c = 0 then p.w else p.cw
    let a := if c = 0 then r0 else min (p.ch - 1) (r0 * p.ch / atLeast1 p.h - 1)
    let b := if c = 0 then r1 else min (p.ch - 1) (r1 * p.ch / atLeast1 p.h + 1)
    let o := p.plane c - p.addr + p.size * a * w
    (pic + o / 4, ceilDiv (o % 4 + p.size * (b + 1 - a) * w) 4))
/-- SCALE and COLOUR (R224, R239): the source rows `r0` to `r1` read, then the lines of the destination written, of the values that the unit
forms from the source picture at the depth of the destination. -/
def regionRun (d : Dev) (e op : Nat) (src dst : Region) (r0 r1 : Int) (val : Dev → Pic → Nat → Nat → Nat → Nat → Nat) : Dev :=
  let p := d.picAt (d.segAddr e src.pic.toNat)
  let q := d.picAt (d.segAddr e dst.pic.toNat)
  let reads := regionReads p src.pic.toNat (edge p.h r0) (edge p.h r1)
  d.stdCmd e op none (fun x => x.winClear e reads fun y =>
    match y.segReads e reads with
    | (false, d1) => d1
    | (true, d1) =>
      let rows := (upto 3).flatMap (regionRows q dst (val d1 p (if q.ten then 10 else 8)))
      match d1.segPuts e (rows.map (fun r => (4 * dst.pic.toNat + r.1, r.2))) with
      | (true, d2) => d2.commandDone e none
      | (false, d2) => d2)
/-- SCALE (R239, R306): the region scaled with a filter set of the spar, rounded to the destination's depth. -/
def scaleRun (d : Dev) (e : Nat) (src dst : Region) (filter : Nat) : Dev :=
  let at' := fun (o s t j : Nat) => srcPos o s (atLeast1 t) j
  let row := fun (j : Nat) => (at' src.y.toNat src.h.toNat dst.h.toNat j).1
  d.regionRun e 0x30 src dst (row 0 - 1) (row (dst.h.toNat - 1) + 2) (fun z p dep c x y =>
    reduce 0 dep 0 x y (z.scaled p (z.tab 0x0C04 e filter) (at' src.x.toNat src.w.toNat dst.w.toNat x)
      (at' src.y.toNat src.h.toNat dst.h.toNat y) c))
/-- COLOUR (R239, R307–R309): the matrix, the LUT and the reduction of a colour slot of the spar on each pixel of the region. -/
def colourRun (d : Dev) (e : Nat) (src dst : Region) (slot : Nat) : Dev :=
  let cs := d.tab 0x0C03 e slot
  d.regionRun e 0x31 src dst src.y.toNat (src.y.toNat + dst.h.toNat - 1) (fun z p dep c x y =>
    let v := fun (k : Nat) => z.sample16 p k (src.x.toNat + x) (src.y.toNat + y)
    reduce (fld (cs.getD 4 0) 17 16) dep (z.rd Reg.GLB_PERIOD_COUNT).toNat x y (slotLut cs c (slotMatrix cs c v)))

/-- The session whose gang ring an EMIT empties: of the leader, where the offset is that of the next entry to emit (R277). -/
def ringSession (d : Dev) (e off : Nat) : Option (List Word) :=
  let c := d.ctx e (d.curOf e)
  match c.encEsb with
  | some b => if d.isLeader e && decide (0 < bf b 44 11 4) && decide (off = ringEntry b c.enc.emitSeg) then some b else none
  | none => none
/-- EMIT (R239, R277): a packet of ring bytes into the outlet stage, or the next entry of the gang ring as RTP packets. -/
def emitRun (d : Dev) (e off count dest cls : Nat) : Dev :=
  d.stdCmd e 0x40 none (fun x =>
    match x.ringSession e off with
    | some b => x.emitRing e b
    | none => x.winClear e [(off, ceilDiv count 4)] fun y =>
    if !y.stageFree e then y.uStall e (.wait (2 ^ 14))
    else match y.segRead e off (ceilDiv count 4) with
      | (none, d1) => d1
      | (some ws, d1) =>
        let p := packetWords dest cls (d1.ctxOwner e) ((bytesOf ws).take count)
        if 2048 < p.length then d1.exception e 7 0
        else (d1.updEngine e (fun z => { z with openStage := p })).commandDone e none)

/-- The STATUS that COMPLETE posts for its operand (R356). -/
def completeStatus (operand : Nat) : Nat := if operand = 0 then 0 else 0x80 + operand % 128
/-- COMPLETE (R239, R356): the completion entry of the job, with its status and user word; context 0 has none. -/
def completeRun (d : Dev) (e operand : Nat) (user : Word) : Dev :=
  let fin := some (completeStatus operand, user)
  d.stdCmd e 0x41 fin (fun y => y.commandDone e fin)

/-- The mark written for slot `slot` by MARK (R259): HELD on a REF or FREE slot, or HELD cleared; other changes are none. -/
def markWord (old : Word) (mark : Nat) : Word :=
  let m := fld old 1 0
  if mark = 3 ∧ (m = 2 ∨ m = 0) then setFld old 1 0 3 else if mark = 0 ∧ m = 3 then setFld old 1 0 0 else old

/-- MARK (R239, R259, R286): the mark of a reference slot, or HELD of a decoded picture's slot (log 31). -/
def markRun (d : Dev) (e slot mark : Nat) : Dev :=
  d.stdCmd e 0x50 none (fun y =>
    let c := y.ctx e (y.curOf e)
    match c.encEsb, c.decDsb with
    | some b, _ =>
      if bf b 44 3 0 ≤ slot then y.commandDone e none
      else
        let i := bf b 42 31 0 + slot * bf b 43 31 0
        match y.segRead e i 1 with
        | (none, d1) => d1
        | (some ws, d1) =>
          let w := markWord (ws.getD 0 0) mark
          if w = ws.getD 0 0 then d1.commandDone e none
          else match d1.segWrite e i (leBytes 4 w.toNat) with
            | (true, d2) => (d2.updCtx e (d2.curOf e) (fun z => { z with encOrder := z.encOrder.filter (fun s => s != slot) })).commandDone e none
            | (false, d2) => d2
    | none, some b =>
      if bf b 8 4 0 ≤ slot then y.commandDone e none
      else
        let i := bf b 6 31 0 + slot * bf b 7 31 0 + 4
        match y.segRead e i 1 with
        | (none, d1) => d1
        | (some ws, d1) => match d1.segWrite e i (leBytes 4 (setBit (ws.getD 0 0) 6 (mark != 0)).toNat) with
          | (true, d2) => d2.commandDone e none
          | (false, d2) => d2
    | none, none => y.commandDone e none)

/-- GSYNC (R239, R245): arrives at a barrier, and waits for its release. -/
def gsyncRun (d : Dev) (e b : Nat) : Dev :=
  d.stdCmd e 0x60 none (fun y =>
    let d1 := y.gangArrive e b
    match (d1.engine e).gsync.find? (fun p => p.1 == b) with
    | some (_, n) => if d1.barrierOpen e b n then d1.commandDone e none else d1.uStall e (.barrier b n)
    | none => d1.commandDone e none)

end Dev

/-- SETCTX (R256, R282). -/
def execSetctx (e : Fin 128) (off : Word) (s : State) : Host.Outcome State Fault Refusal := finish s (s.setctxRun e off.toNat)
/-- INGEST (R239). -/
def execIngest (e : Fin 128) (s : State) : Host.Outcome State Fault Refusal := finish s (s.ingestRun e)
/-- FETCH (R239). -/
def execFetch (e : Fin 128) (src : Word) (count : Nat) (s : State) : Host.Outcome State Fault Refusal :=
  finish s (s.fetchRun e src.toNat count)
/-- SCALE (R239, R306). -/
def execScale (e : Fin 128) (src dst : Region) (filter : Fin 16) (s : State) : Host.Outcome State Fault Refusal :=
  finish s (s.scaleRun e src dst filter)
/-- COLOUR (R239, R307–R309). -/
def execColour (e : Fin 128) (src dst : Region) (slot : Fin 1024) (s : State) : Host.Outcome State Fault Refusal :=
  finish s (s.colourRun e src dst slot)
/-- EMIT (R239). -/
def execEmit (e : Fin 128) (off : Word) (count dest cls : Nat) (s : State) : Host.Outcome State Fault Refusal :=
  finish s (s.emitRun e off.toNat count dest cls)
/-- COMPLETE (R239). -/
def execComplete (e : Fin 128) (status : Nat) (user : Word) (s : State) : Host.Outcome State Fault Refusal :=
  finish s (s.completeRun e status user)
/-- MARK (R239, R259). -/
def execMark (e : Fin 128) (slot : BitVec 8) (mark : Fin 4) (s : State) : Host.Outcome State Fault Refusal :=
  finish s (s.markRun e slot.toNat mark)
/-- GSYNC (R245). -/
def execGsync (e : Fin 128) (bar : Fin 16) (s : State) : Host.Outcome State Fault Refusal := finish s (s.gsyncRun e bar)

end Sys2Proof.Machine
end

