-- ==== Sys2Proof/Machine/Wall.lean ====
section
/-!
DEFINITION. The wall output stages (R288, R300–R322): what a boundary fixes, frames and cells of the schedule, the pipes and their
merger, lateness and the safe picture.
-/
namespace Sys2Proof.Machine
namespace Dev

/-! The schedule (R302, R303). -/

/-- A field of a schedule entry. -/
def we (d : Dev) (n i w hi lo : Nat) : Nat := d.tf 0x0C01 n i w hi lo
/-- TYPE: 0 unused, 1 Askivo tile, 2 ST 2110-20, 3 show frame. -/
def wType (d : Dev) (n i : Nat) : Nat := d.we n i 0 1 0
/-- The output spar of an entry. -/
def wOut (d : Dev) (n i : Nat) : Nat := d.we n i 1 9 0 / 8
/-- Active entries of a spar. -/
def wCount (d : Dev) (n : Nat) : Nat := min 4096 (d.fget (Reg.WALL_SCHED n) 12 0)
/-- Output depth of an entry's format (R314, R318). -/
def wDepth (d : Dev) (n i : Nat) : Nat :=
  let f := d.we n i 0 3 2
  if d.wType n i = 2 then (if f = 0 ∨ f = 2 then 10 else 8) else match f with | 0 => 8 | 1 => 10 | _ => 16
/-- Packets of a line of an ST 2110-20 tile. -/
def wPerLine (d : Dev) (n i : Nat) : Nat := ceilDiv (d.we n i 7 15 0) (atLeast1 (d.we n i 2 31 16))
/-- Frames of an entry in a period (R314, R315, R318). -/
def wFrames (d : Dev) (n i : Nat) : Nat :=
  match d.wType n i with
  | 1 => ceilDiv (d.we n i 7 15 0 * d.we n i 7 31 16) (atLeast1 (d.we n i 2 31 16))
  | 2 => d.we n i 7 31 16 * d.wPerLine n i
  | _ => 1
/-- First pixel of a frame, and its pixels. -/
def wPixels (d : Dev) (n i f : Nat) : Nat × Nat :=
  let ppf := atLeast1 (d.we n i 2 31 16)
  let tw := d.we n i 7 15 0
  match d.wType n i with
  | 1 => (f * ppf, min ppf (tw * d.we n i 7 31 16 - f * ppf))
  | 2 =>
    let col := f % atLeast1 (d.wPerLine n i) * ppf
    (f / atLeast1 (d.wPerLine n i) * tw + col, min ppf (tw - col))
  | _ => (0, 0)
/-- Payload bytes of a frame. -/
def wPayload (d : Dev) (n i f : Nat) : Nat :=
  let c := (d.wPixels n i f).2
  match d.wType n i with
  | 1 => ceilDiv (c * 3 * d.wDepth n i) 8
  | 2 => match d.we n i 0 3 2 with | 0 => c / 2 * 5 | 1 => c / 2 * 4 | 2 => c / 4 * 15 | _ => c * 3
  | _ => 0
/-- Length of a frame with its FCS (R311, R318). -/
def wLength (d : Dev) (n i f : Nat) : Nat :=
  max 64 (d.tf 0x0C02 n (d.we n i 0 11 6) 0 6 0 + (if d.wType n i = 2 then 8 else 40) + d.wPayload n i f + 4)
/-- Cells of a frame. -/
def wFrameCells (d : Dev) (n i f : Nat) : Nat := ceilDiv (d.wLength n i f) 256
/-- Cells of an entry. -/
def wCells (d : Dev) (n i : Nat) : Nat :=
  let fr := d.wFrames n i
  match d.wType n i with
  | 0 => 0
  | 2 =>
    let per := d.wPerLine n i
    d.we n i 7 31 16 * ((per - 1) * d.wFrameCells n i 0 + d.wFrameCells n i (per - 1))
  | _ => (fr - 1) * d.wFrameCells n i 0 + d.wFrameCells n i (fr - 1)
/-- Round tag of cell `k` of an entry. -/
def wTag (d : Dev) (n i k : Nat) : Nat := d.we n i 3 19 0 + k * d.we n i 3 31 20
/-- Cells of an entry with a tag below `tag`. -/
def wBefore (d : Dev) (n i tag : Nat) : Nat :=
  let st := d.we n i 3 19 0
  if tag ≤ st then 0 else min (d.wCells n i) (ceilDiv (tag - st) (atLeast1 (d.we n i 3 31 20)))
/-- The tabled number of cell `k` of an entry (R193, R303): in the order in which the pair's cells cross. -/
def wNum (d : Dev) (n i k : Nat) : Nat :=
  let o := d.wOut n i
  let tag := d.wTag n i k
  let before := ((upto (d.wCount n)).filter (fun j => d.wType n j != 0 && d.wOut n j == o)).map (fun j => d.wBefore n j tag)
  (SMap.get (fun _ => 0) (d.spar n).tabBase o + before.sum) % 1024

/-! Sources (R300, R313, R322). -/

/-- Does a wall stage send frames? -/
def wallOn (d : Dev) (n : Nat) : Bool := d.bget (Reg.WALL_CFG n) 0 && !d.fault.fencedWalls.contains n
/-- SAFE_MODE of a spar; 3 acts as 1. -/
def safeMode (d : Dev) (n : Nat) : Nat := let m := d.fget (Reg.WALL_CFG n) 2 1; if m = 3 then 1 else m
/-- The source of an entry: none, the solid colour, or a picture fixed at the boundary. -/
def wSource (d : Dev) (n i : Nat) : Option (Option Picture) :=
  let find := fun (pub : Nat) => if pub = 0 then none else (d.spar n).pictures.find? (fun q => q.pub == pub)
  if d.bget (Reg.WALL_STATUS n) 16 then
    if d.safeMode n = 2 then some (find (d.rd (Reg.WALL_SAFE_PUB n)).toNat) else some none
  else (find (d.we n i 4 31 0)).map some
/-- Does an entry read the slot and publication count that it read in the period before (R313)? -/
def wRepeat (d : Dev) (n i : Nat) : Bool :=
  let x := SMap.get (fun _ => (0, 0)) (d.spar n).sources i
  decide (0 < x.1) && decide (x = SMap.get (fun _ => (0, 0)) (d.spar n).prevSources i)

/-! Frames (R311–R318). -/

/-- Three channels of an output pixel at the entry's depth. -/
def wPixel (d : Dev) (n i : Nat) (q : Option Picture) (x y : Nat) : List Nat :=
  let dep := d.wDepth n i
  match q with
  | none =>
    let c := (d.rd (Reg.WALL_SAFE_RGB n)).toNat
    [safeDepth dep (bits c 29 20), safeDepth dep (bits c 19 10), safeDepth dep (bits c 9 0)]
  | some s =>
    let p := d.picAt (s.slot * 32)
    let cs := d.tab 0x0C03 n (d.we n i 0 21 12)
    let fs := d.tab 0x0C04 n (d.we n i 0 25 22)
    let px := srcPos (d.we n i 5 15 0) (d.we n i 6 15 0) (d.we n i 7 15 0) x
    let py := srcPos (d.we n i 5 31 16) (d.we n i 6 31 16) (d.we n i 7 31 16) y
    let v := [d.scaled p fs px py 0, d.scaled p fs px py 1, d.scaled p fs px py 2]
    (upto 3).map (fun c => reduce (fld (cs.getD 4 0) 17 16) dep (d.rd (Reg.WALL_COUNT n)).toNat x y
      (slotLut cs c (slotMatrix cs c (fun k => v.getD k 0))))

/-- A chroma sample subsampled by [1, 2, 1] / 4 with edges replicated (R318); the rounding is free (log 33). -/
def wSub (d : Dev) (n i : Nat) (q : Option Picture) (x y c : Nat) : Nat :=
  let tw := d.we n i 7 15 0
  let at' := fun (k : Nat) => (d.wPixel n i q (min k (tw - 1)) y).getD c 0
  let s := at' (x - 1) + 2 * at' x + at' (x + 1)
  (s + Config.chromaRound s % 4) / 4

/-- The payload of a frame. -/
def wPayloadBytes (d : Dev) (n i f : Nat) (q : Option Picture) : Bytes :=
  let (off, cnt) := d.wPixels n i f
  let tw := atLeast1 (d.we n i 7 15 0)
  let at' := fun (k : Nat) => d.wPixel n i q ((off + k) % tw) ((off + k) / tw)
  if d.wType n i = 2 ∧ d.we n i 0 3 2 ≤ 1 then
    packBits (d.wDepth n i) ((upto (cnt / 2)).flatMap (fun k =>
      let x := (off + 2 * k) % tw
      let y := (off + 2 * k) / tw
      [d.wSub n i q x y 1, (at' (2 * k)).getD 0 0, d.wSub n i q x y 2, (at' (2 * k + 1)).getD 0 0]))
  else packBits (d.wDepth n i) ((upto cnt).flatMap at')

/-- The Askivo header (R312, R313, R315). -/
def wHeader (d : Dev) (n i f : Nat) (q : Option Picture) : Bytes :=
  let data := d.wType n i = 1
  let safe := d.bget (Reg.WALL_STATUS n) 16
  let flags := b2n (data && decide (f + 1 = d.wFrames n i)) + 2 * b2n (data && d.wRepeat n i) + 4 * b2n safe + 8 * b2n d.time.holdAt
  let (off, cnt) := d.wPixels n i f
  [by8 16, by8 10, by8 (if data then 0 else 1), by8 (if data then d.we n i 0 3 2 else 0)] ++ beBytes 2 flags
    ++ beBytes 2 (d.we n i 1 25 10) ++ beBytes 2 (if data then d.we n i 2 15 0 else 0xFFFF) ++ beBytes 2 f
    ++ beBytes 4 (if data then (d.rd (Reg.WALL_COUNT n)).toNat else (d.rd Reg.GLB_PERIOD_COUNT).toNat)
    ++ beBytes 8 (if data then d.time.showAt else d.time.last.quarterNs) ++ beBytes 4 off ++ beBytes 2 cnt
    ++ beBytes 2 (if data then d.wFrames n i else 0) ++ beBytes 2 (if data then d.we n i 7 15 0 else 0)
    ++ beBytes 2 (if data then d.we n i 7 31 16 else 0)
    ++ beBytes 4 (if data then (match q with | some x => x.poc | none => 0) else 0)

/-- A frame whole, with its FCS (R311, R318). -/
def wFrame (d : Dev) (n i f : Nat) (q : Option Picture) : Bytes :=
  let te := d.tab 0x0C02 n (d.we n i 0 11 6)
  let len := fld (te.getD 0 0) 6 0
  let t := (bytesOf (te.drop 1)).take len
  if d.wType n i = 2 then
    let seq := ((d.tab 0x0C10 n i).getD 3 0).toNat
    let last := decide (f + 1 = d.wFrames n i)
    let (off, cnt) := d.wPixels n i f
    let tw := atLeast1 (d.we n i 7 15 0)
    let rest := beBytes 2 (seq / 65536) ++ beBytes 2 (d.wPayload n i f) ++ beBytes 2 (off / tw) ++ beBytes 2 (off % tw)
      ++ d.wPayloadBytes n i f q
    let pt := (t.getD (len - 11) 0).toNat % 128
    let t1 := patch (patch (patch t (len - 11) [by8 (pt + 128 * b2n last)]) (len - 10) (beBytes 2 (seq % 65536))) (len - 8)
      (beBytes 4 (d.time.showAt * 90000 / 4000000000 % 2 ^ 32))
    let v6 := decide (70 < len)
    padFcs (fillUdp t1 (if v6 then len - 60 else len - 40) v6 rest ++ rest)
  else
    let rest := d.wHeader n i f q ++ d.wPayloadBytes n i f q
    let t1 := if len ≤ 22 then t else fillUdp t (if len ≤ 50 then len - 28 else len - 48) (decide (50 < len)) rest
    padFcs (t1 ++ rest)

/-- The reads of frame memory that a frame needs (R305, R339): is one uncorrectable? The slot's header, then the rows of each plane. -/
def wReads (d : Dev) (n i f : Nat) (q : Option Picture) : Bool × Dev :=
  match q with
  | none => (false, d)
  | some s =>
    let p := d.picAt (s.slot * 32)
    let (off, cnt) := d.wPixels n i f
    let tw := atLeast1 (d.we n i 7 15 0)
    let row := fun (y : Nat) => (srcPos (d.we n i 5 31 16) (d.we n i 6 31 16) (d.we n i 7 31 16) y).1
    let r0 := edge p.h (row (off / tw) - 1)
    let r1 := edge p.h (row ((off + cnt - 1) / tw) + 2)
    let span := fun (c : Nat) =>
      let w := if c = 0 then p.w else p.cw
      let a := if c = 0 then r0 else min (p.ch - 1) (r0 * p.ch / atLeast1 p.h - 1)
      let b := if c = 0 then r1 else min (p.ch - 1) (r1 * p.ch / atLeast1 p.h + 1)
      (addr37 (p.plane c + p.size * a * w), p.size * (b + 1 - a) * w)
    ((s.slot * 32, 64) :: (upto 3).map span).foldl (fun (st : Bool × Dev) r =>
      let (_, bad, d1) := st.2.memRead (128 + n) r.1 r.2 true
      (st.1 || bad, d1)) (false, d)

/-! Pipes (R302, R319). -/

/-- A pipe of a spar. -/
def pipeOf (d : Dev) (n p : Nat) : Pipe := SMap.get (fun _ => {}) (d.spar n).wallPipes p
/-- A pipe set. -/
def pipeSet (d : Dev) (n p : Nat) (x : Pipe) : Dev := d.updSpar n (fun y => { y with wallPipes := SMap.set (fun _ => {}) y.wallPipes p x })
/-- The next entry of a pipe from `i` on. -/
def pipeEntry? (d : Dev) (n p i : Nat) : Option Nat :=
  ((upto (d.wCount n)).drop i).find? (fun j => d.wType n j != 0 && d.we n j 0 5 4 == p)
/-- Are the data frames of a spar not sent: in a transition period, after a cut, or with no safe source (R301, R322)? -/
def dataStopped (d : Dev) (n : Nat) : Bool :=
  d.bget (Reg.WALL_STATUS n) 17 || d.bget (Reg.WALL_STATUS n) 18 || (d.bget (Reg.WALL_STATUS n) 16 && d.safeMode n == 0)

/-- A pipe brought to the entry whose frame it builds next; entries that are not sent are passed (R321, R322). -/
def pipeSettle (d : Dev) (n p : Nat) : Nat → Dev
  | 0 => d
  | k + 1 =>
    let x := d.pipeOf n p
    match d.pipeEntry? n p x.entry with
    | none => d.pipeSet n p { entry := d.wCount n }
    | some i =>
      if i ≠ x.entry then (d.pipeSet n p { entry := i }).pipeSettle n p k
      else if x.cell ≠ 0 ∨ d.wType n i = 3 then d
      else if d.dataStopped n then (d.pipeSet n p { entry := i + 1 }).pipeSettle n p k
      else if x.frame = 0 ∧ (d.wSource n i).isNone then
        (((d.inc (Reg.C_WALL_NO_PIC_TILES n)).wallEvent n 2).pipeSet n p { entry := i + 1 }).pipeSettle n p k
      else d
/-- Every pipe of a spar settled. -/
def pipesSettle (d : Dev) (n : Nat) : Dev := (upto 4).foldl (fun x p => x.pipeSettle n p 4097) d
/-- Has a pipe a cell to build? -/
def pipeLive (d : Dev) (n p : Nat) : Bool := decide ((d.pipeOf n p).entry < d.wCount n)
/-- The order key of a pipe's next cell (R303). -/
def pipeKey (d : Dev) (n p : Nat) : Nat :=
  let x := d.pipeOf n p
  128 * d.wTag n x.entry x.k + tabSlot n (d.wOut n x.entry)
/-- Has the period round reached the tag of a pipe's next cell (R319)? -/
def pipeLate (d : Dev) (n p : Nat) : Bool :=
  let x := d.pipeOf n p
  !d.time.freshRound && decide (d.wTag n x.entry x.k ≤ d.time.pround)

/-- An entry's last frame is over: the counts of tiles (R327). -/
def entryOver (d : Dev) (n p i : Nat) (x : Pipe) : Dev :=
  let d1 := d.pipeSet n p { entry := i + 1 }
  if d.wType n i = 3 then d1
  else
    let d3 := if x.skipped = 0 then d1.inc (Reg.C_WALL_TILES_SENT n) else d1
    if x.sent = 0 then d3
    else
      let d4 := if d.bget (Reg.WALL_STATUS n) 16 then d3.inc (Reg.C_WALL_SAFE_TILES n) else d3
      if d.wRepeat n i then d4.inc (Reg.C_WALL_REPEAT_TILES n) else d4

/-- A frame of a tile counted for its entry's status, which shows the last period's frames (R328). -/
def frameStat (d : Dev) (n i : Nat) (sent : Bool) : Dev :=
  if d.wType n i = 3 then d
  else d.updSpar n (fun y => { y with frameStats := SMap.upd (fun _ => (0, 0)) y.frameStats i (fun c =>
    (c.1 + b2n sent, c.2 + b2n (!sent))) })
/-- A frame over, sent or given up by its pipe: its cells keep their numbers. -/
def frameOver (d0 : Dev) (n p : Nat) (sent : Bool) : Dev :=
  let x := d0.pipeOf n p
  let d := d0.frameStat n x.entry sent
  let y : Pipe := { x with
    frame := x.frame + 1, cell := 0, k := x.k + (d.wFrameCells n x.entry x.frame - x.cell), body := []
    sent := x.sent + b2n sent, skipped := x.skipped + b2n (!sent) }
  if y.frame = d.wFrames n x.entry then d.entryOver n p x.entry y else d.pipeSet n p y
/-- A frame skipped because its cell was not built in time (R319, R321). -/
def pipeSkip (d : Dev) (n p : Nat) : Dev :=
  let i := (d.pipeOf n p).entry
  let d1 := ((d.inc (Reg.C_WALL_FRAMES_SKIPPED n)).wallEvent n 1)
  (if d.wType n i = 3 then d1 else d1.tileUnderrun n d.time.perSeq i).frameOver n p false
/-- A frame skipped for a memory error (R321). -/
def pipeMemErr (d : Dev) (n p : Nat) (inj : Bool := false) : Dev :=
  let i := (d.pipeOf n p).entry
  ((((d.inc (Reg.C_WALL_MEM_ERR_FRAMES n)).wallEvent n 6).flag 31 n inj).tileUnderrun n d.time.perSeq i).frameOver n p false

/-- The words that the stage holds are written to the wall output FIFO, one credit each, as far as credits go (R168, R169). -/
def wallDrain (d : Dev) (n : Nat) : Dev :=
  let x := d.spar n
  let k := min (min x.wallCr (2048 - x.wall.length)) x.wallHold.length
  d.updSpar n (fun y => { y with wall := y.wall ++ y.wallHold.take k, wallHold := y.wallHold.drop k, wallCr := y.wallCr - k })
/-- The cell of a pipe given to the wall output FIFO (R168, R169, R303), once the words of the cell before are written. -/
def pipeWrite (d : Dev) (n p : Nat) (body : Bytes) : Dev :=
  let x := d.pipeOf n p
  let i := x.entry
  let o := d.wOut n i
  let cells := d.wFrameCells n i x.frame
  let data := slice body (256 * x.cell) 256
  if !(d.spar n).wallHold.isEmpty then d
  else
    let last := decide (x.cell + 1 = cells)
    let c : TabCell := {
      tag := d.wTag n i x.k, slot := tabSlot n o, num := d.wNum n i x.k, inSpar := n, outSpar := o, port := d.we n i 1 9 0
      entry := i, frame := x.frame, period := d.time.perSeq, first := decide (x.cell = 0), last := last, size := data.length, data := [] }
    let d1 := (d.updSpar n (fun y => { y with wallHold := (fifoWords last data).map (fun w => (c, w)) })).wallDrain n
    let d2 := if x.cell = 0 then d1.fset (Reg.WALL_STATUS n) 12 0 i else d1
    if last then
      let st := d2.tab 0x0C10 n i
      let st1 := if d.wType n i = 2 then st.set 3 (st.getD 3 0 + 1) else st
      let poc := match d.wSource n i with | some (some q) => q.poc | _ => 0
      let d3 := if d.wType n i = 3 then d2 else d2.tabSet 0x0C10 n i (st1.set 1 (wd poc))
      (d3.inc (if d.wType n i = 3 then Reg.C_WALL_SHOW_SENT n else Reg.C_WALL_FRAMES_SENT n)).frameOver n p true
    else d2.pipeSet n p { x with cell := x.cell + 1, k := x.k + 1, body := body }

/-- Does a region pass the picture's edge (R305)? -/
def regionClips (d : Dev) (n i : Nat) (q : Option Picture) : Bool :=
  match q with
  | none => false
  | some s =>
    let p := d.picAt (s.slot * 32)
    decide (p.w < d.we n i 5 15 0 + d.we n i 6 15 0) || decide (p.h < d.we n i 5 31 16 + d.we n i 6 31 16)

/-- The next cell of a pipe built and written: the first cell of a frame builds the frame. -/
def pipeBuild (d : Dev) (n p : Nat) : Dev :=
  let x := d.pipeOf n p
  let i := x.entry
  if x.cell ≠ 0 then d.pipeWrite n p x.body
  else if d.wType n i = 3 then d.pipeWrite n p (d.wFrame n i 0 none)
  else if d.memFenced (128 + n) then d
  else
    let q := (d.wSource n i).getD none
    let (bad, d0) := d.wReads n i x.frame q
    let (err, inj, d') := d0.injected 31 (if bad then .double else .good)
    let d1 := if err = .single then d'.flag 31 n inj true else d'
    if err = .double then d1.pipeMemErr n p inj
    else
      let d2 := if x.frame = 0 && d1.regionClips n i q then d1.wallEvent n 5 else d1
      d2.pipeWrite n p (d2.wFrame n i x.frame q)

/-- The merger takes the cell of lowest order key (R319); one whose tag has been reached is given up. -/
def mergerStep (d : Dev) (n : Nat) : Dev :=
  if !d.wallOn n then d
  else
    let d1 := (d.wallDrain n).pipesSettle n
    match ((upto 4).filter (d1.pipeLive n)).foldl (fun (b : Option Nat) p =>
        match b with
        | none => some p
        | some q => if d1.pipeKey n p < d1.pipeKey n q then some p else some q) none with
    | none => d1
    | some p => if d1.pipeLate n p then d1.pipeSkip n p else d1.pipeBuild n p
/-- The round reaches the tag of a pipe's cell that is not built (R319). -/
def lateSkip (d : Dev) (n p : Nat) : Dev :=
  if !d.wallOn n then d
  else
    let d1 := d.pipesSettle n
    if d1.pipeLive n p && d1.pipeLate n p then d1.pipeSkip n p else d1

/-! The start of a period (R288, R300, R301, R322). -/

/-- The publish blocks of the open decode sessions, with the slots of their pools, in 32-byte units (R281, R288). -/
def sessionPubs (d : Dev) : List (Nat × List Nat) :=
  d.engines.flatMap (fun q => q.2.ctxs.filterMap (fun p =>
    match p.2.decDsb with
    | some b =>
      let base := d.ctxSeg q.1 p.1 * 4096
      some (addr37 (base + 4 * bf b 13 31 0) / 32, (upto (bf b 8 4 0)).map (fun s => addr37 (base + 4 * slotAt b s) / 32))
    | none => none))
/-- The publish blocks that the schedule of a spar names. -/
def schedulePubs (d : Dev) (n : Nat) : List Nat :=
  ((upto (d.wCount n)).filter (fun i => d.wType n i == 1 || d.wType n i == 2)).map (fun i => d.we n i 4 31 0)
    ++ [(d.rd (Reg.WALL_SAFE_PUB n)).toNat]
/-- Bits of a slot's state flags changed (R286). -/
def slotFlags (d : Dev) (slot : Nat) (set clear : List Nat) : Dev :=
  let a := addr37 (slot * 32 + 16)
  let w0 := d.fmWord a
  let w1 := set.foldl (fun w i => setBit w i true) (clear.foldl (fun w i => setBit w i false) w0)
  if w1 = w0 then d else d.fmWrite a (leBytes 4 w1.toNat)
/-- WALL moves to the newest published picture of a publish block (R288). -/
def pubRotate (d : Dev) (pub : Nat) (slots : List Nat) : Dev :=
  let new := (d.fmWord (pub * 32)).toNat
  if pub = 0 ∨ new = 0 then d
  else
    let old := SMap.get (fun _ => 0) d.wallHeld pub
    let d1 := ((if old = 0 then [] else [old]) ++ slots).foldl (fun x s => if s = new then x else x.slotFlags s [] [4, 5]) d
    { d1.slotFlags new [5] [] with wallHeld := SMap.set (fun _ => 0) d.wallHeld pub new }
/-- The publish blocks acted on at a boundary. -/
def wallMark (d : Dev) : Dev :=
  let sess := d.sessionPubs
  let pubs := (d.wallSpars.flatMap d.schedulePubs ++ sess.map (·.1)).eraseDups
  pubs.foldl (fun x pub => x.pubRotate pub ((sess.filter (fun p => p.1 == pub)).flatMap (·.2))) d

/-- What a boundary fixes for the wall stage of a spar (R300, R303). -/
def wallFix (d : Dev) (n : Nat) : Dev :=
  let pics := ((d.schedulePubs n).eraseDups.filter (fun p => decide (p ≠ 0))).filterMap (fun pub =>
    let slot := (d.fmWord (pub * 32)).toNat
    if slot = 0 then none
    else some ({ pub := pub, slot := slot, poc := (d.fmWord (pub * 32 + 4)).toNat, count := (d.fmWord (pub * 32 + 8)).toNat } : Picture))
  let es := (upto (d.wCount n)).filter (fun i => d.wType n i != 0)
  let next := es.foldl (fun m i => SMap.upd (fun _ => 0) m (d.wOut n i) (fun v => (v + d.wCells n i) % 1024)) (d.spar n).tabNext
  let d0 := d.updSpar n (fun y => { y with
    pictures := pics, wallPipes := [], tabBase := y.tabNext, tabNext := next })
  let srcs := es.foldl (fun m i => match d0.wSource n i with
    | some (some x) => SMap.set (fun _ => (0, 0)) m i (x.slot, x.count)
    | _ => m) []
  let d1 := d0.updSpar n (fun y => { y with prevSources := y.sources, sources := srcs })
  ((d1.wr (Reg.WALL_COUNT n) (d1.rd Reg.GLB_PERIOD_COUNT + 1)).bset (Reg.WALL_STATUS n) 17 d1.time.transition).bset (Reg.WALL_STATUS n) 18
    false
/-- The safe state at a boundary (R322): SAFE of every spar and of the collector, and SAFE_OFF where it ends. -/
def wallSafe (d : Dev) : Dev :=
  let safe := d.inBlack || d.bget Reg.FLT_STATUS 1
  if safe = d.bget Reg.FLT_STATUS 2 then d
  else
    let d1 := (upto 128).foldl (fun x n => x.bset (Reg.WALL_STATUS n) 16 safe) (d.bset Reg.FLT_STATUS 2 safe)
    if safe then d1 else d1.wallSpars.foldl (fun x n => x.wallEvent n 4) d1
/-- The frames of the period that ends shown in the status of each entry (R328); underruns of earlier periods are forgotten. -/
def wallStats (d : Dev) (n : Nat) : Dev :=
  let x := d.spar n
  let had := (d.tabs.filter (fun p => decide (tkey 0x0C10 n 0 ≤ p.1) && decide (p.1 < tkey 0x0C10 n 4096))).map (fun p => p.1 % 2 ^ 20)
  let d1 := (had ++ x.frameStats.map (·.1)).eraseDups.foldl (fun y i =>
    let c := SMap.get (fun _ => (0, 0)) x.frameStats i
    y.tabSet 0x0C10 n i ((y.tab 0x0C10 n i).set 2 (wd (min 65535 c.1 + min 65535 c.2 * 65536)))) d
  d1.updSpar n (fun y => { y with frameStats := [], underrun := y.underrun.filter (fun u => decide (d.time.perSeq ≤ u.1 + 1)) })
/-- The start of a period at the wall stages. -/
def wallPeriod (d : Dev) : Dev :=
  let d1 := (d.spars.map (·.1)).foldl wallStats d.wallMark.wallSafe
  d1.wallSpars.foldl wallFix d1

end Dev

/-- WALL_PIPE_CELL_BUILD (R302, R319). -/
def execWallPipeCellBuild (n : Fin 128) (s : State) : Host.Outcome State Fault Refusal := finish s (s.mergerStep n)
/-- PIPE_FRAME_SKIP (R319). -/
def execPipeFrameSkip (n : Fin 128) (pipe : Fin 4) (s : State) : Host.Outcome State Fault Refusal := finish s (s.lateSkip n pipe)
/-- WALL_CNT_CLR (R326, R327). -/
def execWallCntClr (n : Fin 128) (s : State) : Host.Outcome State Fault Refusal := finish s (s.cntClr (Reg.C_WALL_TILES_SENT n) 10)

end Sys2Proof.Machine
end

