-- ==== Sys2Proof/Machine/MemCmds.lean ====
section
/-!
DEFINITION. The commands of frame memory: requests of the arbiters' ports, refresh, retraining, the patrol, the hold watchdog, the
BAR2 window and the row-hammer windows (R329–R350).
-/
namespace Sys2Proof.Machine

namespace Dev

/-! Requests (R331, R339, R341, R344). -/

/-- The frame that a wall stage is building is skipped for a memory error (R321, R339): that of the pipe the merger serves. -/
def wallMemErr (d : Dev) (n : Nat) : Dev :=
  if !d.wallOn n then d
  else
    let d1 := d.pipesSettle n
    match (upto 4).find? (fun p => d1.pipeLive n p && (upto 4).all (fun q => !d1.pipeLive n q || decide (d1.pipeKey n p ≤ d1.pipeKey n q))) with
    | some p => d1.pipeMemErr n p
    | none => d1

/-- What a double-bit error, or a hole, means to the requester of a read (R331, R339). -/
def readFails (d : Dev) (port : Nat) (bad hole : Bool) : Dev :=
  if port < 128 then (if bad || hole then d.exception port 11 0 else d)
  else if port < 256 then (if bad then d.wallMemErr (port - 128) else d)
  else d

/-- The patrol reads a burst (R340): it leaves a double-bit error in place, and writes a corrected burst back, unless a write came
in between. A pass ends at the last populated burst. -/
def patrol (d : Dev) (a : Nat) (came : Bool) : Dev :=
  if isHole a then d
  else
    let u := a / 32
    let d1 := d.injectBurst u
    let d2 : Dev :=
      if d1.fmem.bad.contains u then d1.uncorr u 258 true (d.armed 29)
      else if d1.fmem.single.contains u then
        let x := d1.corr u (d.armed 29)
        if came then x else { x with fmem := { x.fmem with single := x.fmem.single.filter (fun y => y != u) } }
      else d1
    if a / 32 = (15 * 2 ^ 33 + 3 * 2 ^ 31) / 32 - 1 then d2.inc Reg.C_FMC_SCRUB_PASSES else d2

/-! The arbiters and the bank queues (R334, R335, R341, R342). -/

/-- The frame memory controllers changed. -/
def updFm (d : Dev) (f : FrameMem → FrameMem) : Dev := { d with fmem := f d.fmem }
/-- The bytes of a request. -/
def reqLen (r : MemReq) : Nat := match r.op with | .read k => k | .write bs => bs.length
/-- The class of a request (R341). -/
def reqClass (d : Dev) (r : MemReq) : Nat :=
  match r.op with
  | .write _ => 1
  | .read _ =>
    if r.port.val < 128 then (if d.fget Reg.FMC_CFG 5 4 ≤ r.prio.val then 2 else 1)
    else if r.port.val < 256 then 3 else 1
/-- The number of bursts of a run. -/
def burstCount (a n : Nat) : Nat := if n = 0 then 0 else (a + n - 1) / 32 - a / 32 + 1
/-- The first byte, and the number of bytes, of burst `k` of a run. -/
def burstAt (a n k : Nat) : Nat × Nat :=
  let lo := max a (32 * (a / 32 + k))
  (lo, min (a + n) (32 * (a / 32 + k + 1)) - lo)
/-- The key of the bank queue of an address. -/
def bankKey (a : Nat) : Nat := pcOf a * 48 + bankOf a
/-- The address of the next burst that a transfer moves, if any. -/
def Xfer.next (x : Xfer) : Option Nat :=
  let a := x.req.addr.toNat
  if x.moved < burstCount a (reqLen x.req) then some (burstAt a (reqLen x.req) x.moved).1 else none
/-- The entry that a transfer puts into a bank queue for its next burst. -/
def Xfer.entry (x : Xfer) (seq : Nat) : BankReq :=
  let a := x.req.addr.toNat
  let (lo, n) := burstAt a (reqLen x.req) x.moved
  { seq := seq, xfer := x.id, addr := lo, len := n, port := x.req.port, cls := x.cls
    data := match x.req.op with | .read _ => none | .write bs => some ((bs.drop (lo - a)).take n) }
/-- The queue of a bank. -/
def bankQ (d : Dev) (k : Nat) : List BankReq := SMap.get (fun _ => []) d.fmem.queues k

/-- A burst enters its bank queue (R334). A read of the row of a pending write puts the bank in in-order mode (R335). -/
def enqueue (d : Dev) (x : Xfer) : Dev :=
  let e := Xfer.entry x d.fmem.nextSeq
  let k := bankKey e.addr
  let clash := (d.bankQ k).filter (fun y => y.data.isSome)
  let d1 := d.updFm (fun m => { m with
    nextSeq := m.nextSeq + 1, queues := SMap.set (fun _ => []) m.queues k (d.bankQ k ++ [e])
    xfers := m.xfers.map (fun y => if y.id = x.id then { y with moved := y.moved + 1 } else y) })
  let held := (SMap.get (fun _ => []) d.fmem.ordered k ++ clash.map (·.seq)).eraseDups
  if e.data.isNone && clash.any (fun y => rowOf y.addr == rowOf e.addr) then
    d1.updFm (fun m => { m with ordered := SMap.set (fun _ => []) m.ordered k held })
  else d1
/-- The transfers that the arbiter of group `g` can grant: the oldest of each port, its next burst in the group, its bank queue not full, its
port not fenced. -/
def contenders (d : Dev) (g : Nat) : List Xfer :=
  let live := d.fmem.xfers.filter (fun x => (Xfer.next x).isSome)
  live.filter (fun x => match Xfer.next x with
    | some a => groupOf a == g && decide ((d.bankQ (bankKey a)).length < 16) && !d.memFenced x.req.port
        && ((live.find? (fun y => y.req.port == x.req.port)).map (·.id)) == some x.id
    | none => false)
/-- One ECLK of the arbiter of group `g` (R341, R342): the highest class takes the grant, its ports in rotation; a grant goes on for 64 bursts
at most, and one that a higher class takes away counts in PREEMPT. -/
def arbiter (d : Dev) (g : Nat) : Dev :=
  let cs := d.contenders g
  let top := cs.foldl (fun m x => max m x.cls) 0
  let best := cs.filter (fun x => x.cls == top)
  let (held, run) := SMap.get (fun _ => (0, 0)) d.fmem.holder g
  let turn := SMap.get (fun _ => 0) d.fmem.portTurn (4 * g + top)
  let pick := match best.find? (fun x => x.id + 1 == held && decide (run < 64)) with
    | some x => some x
    | none =>
      let ports := sortBy (fun a b => decide (a ≤ b)) (best.map (fun (x : Xfer) => x.req.port.val))
      ((ports.find? (fun p => decide (turn ≤ p))).orElse (fun _ => ports.head?)).bind (fun p =>
        best.find? (fun x => x.req.port.val == p))
  match pick with
  | none => d
  | some x =>
    let lost := d.fmem.xfers.any (fun y => y.id + 1 == held && decide (y.id ≠ x.id) && (Xfer.next y).isSome && decide (y.cls < x.cls))
    let d1 := if lost then d.inc Reg.C_FMC_PREEMPT else d
    (d1.enqueue x).updFm (fun m => { m with
      holder := SMap.set (fun _ => (0, 0)) m.holder g (x.id + 1, if x.id + 1 = held then run % 64 + 1 else 1)
      portTurn := SMap.set (fun _ => 0) m.portTurn (4 * g + top) (x.req.port.val + 1) })

/-- Is an activation by a port of a bank held back by the throttle (R338)? -/
def heldBack (d : Dev) (k port : Nat) : Bool :=
  d.fmem.throttled.contains (k, port)
    && decide (d.time.cclk < SMap.get (fun _ => 0) d.fmem.lastAct (k * 512 + port) + atLeast1 (d.fget Reg.FMC_RH_CFG 31 16) * 3 / 2)
/-- Does a bank have the row of an entry open? -/
def rowHit (d : Dev) (k : Nat) (e : BankReq) : Bool := SMap.get (fun _ => 0) d.fmem.openRow k == rowOf e.addr + 1
/-- The entry that a bank queue issues next (R334, R335): WALL before the others, reads before writes, row hits before misses, the oldest
first; in in-order mode strictly the oldest. A write never passes an older read of its row. -/
def bankPick (d : Dev) (k : Nat) : Option BankReq :=
  let q := d.bankQ k
  let rank := fun (e : BankReq) => 4 * b2n (e.cls == 3) + 2 * b2n e.data.isNone + b2n (d.rowHit k e)
  let free := fun (e : BankReq) => !(e.data.isSome && q.any (fun y => decide (y.seq < e.seq) && y.data.isNone && rowOf y.addr == rowOf e.addr))
  let best := if (SMap.get (fun _ => []) d.fmem.ordered k).isEmpty then
      (q.filter free).foldl (fun (b : Option BankReq) e => match b with
        | none => some e
        | some c => if rank c < rank e then some e else some c) none
    else q.head?
  best.filter (fun e => d.rowHit k e || !d.heldBack k e.port)
/-- A transfer whose last burst has issued is over (R339, R341): a read is answered, its requester told of an error. -/
def xferEnd (d : Dev) (id : Nat) : Dev :=
  match d.fmem.xfers.find? (fun x => x.id == id) with
  | none => d
  | some x =>
    if x.issued < burstCount x.req.addr.toNat (reqLen x.req) then d
    else
      let d1 := d.updFm (fun m => { m with xfers := m.xfers.filter (fun y => y.id != id) })
      match x.req.op with
      | .read _ => (d1.emit (.memData ((sortBy (fun a b => decide (a.1 ≤ b.1)) x.got).flatMap (·.2)) x.bad)).readFails x.req.port x.bad false
      | .write _ => d1
/-- A bank queue issues an entry: its row is opened, its burst read or written. -/
def bankIssue (d : Dev) (k : Nat) (e : BankReq) : Dev :=
  let d1 := if d.rowHit k e then d else
    (d.activate e.addr e.port (decide (2 ≤ e.cls))).updFm (fun m => { m with
      openRow := SMap.set (fun _ => 0) m.openRow k (rowOf e.addr + 1)
      lastAct := if m.throttled.contains (k, e.port) then SMap.set (fun _ => 0) m.lastAct (k * 512 + e.port) d.time.cclk else m.lastAct })
  let d2 := d1.updFm (fun m => { m with
    queues := SMap.upd (fun _ => []) m.queues k (fun q => q.filter (fun y => y.seq != e.seq))
    ordered := SMap.upd (fun _ => []) m.ordered k (fun l => l.filter (fun s => s != e.seq))
    wallMaint := if e.cls = 3 then m.wallMaint.filter (fun b => b != k) else m.wallMaint })
  let d2 := d2.rfmPay k
  let note := fun (f : Xfer → Xfer) (x : Dev) => x.updFm (fun m => { m with xfers := m.xfers.map (fun y => if y.id = e.xfer then f y else y) })
  (match e.data with
    | some bs => note (fun y => { y with issued := y.issued + 1 }) (d2.writeBytes e.port e.addr bs)
    | none =>
      let (bs, bad, d3) := d2.readBytes e.port e.addr e.len
      note (fun y => { y with issued := y.issued + 1, got := y.got ++ [(e.addr, bs)], bad := y.bad || bad }) d3).xferEnd e.xfer
/-- One ECLK of pseudo-channel `pc` (R334): the banks whose head can issue take turns. -/
def pcIssue (d : Dev) (pc : Nat) : Dev :=
  let turn := SMap.get (fun _ => 0) d.fmem.bankTurn pc
  let order := (upto 48).map (fun i => pc * 48 + (turn + i) % 48)
  match order.findSome? (fun k => (d.bankPick k).map (fun e => (k, e))) with
  | some (k, e) => (d.updFm (fun m => { m with bankTurn := SMap.set (fun _ => 0) m.bankTurn pc ((k % 48 + 1) % 48) })).bankIssue k e
  | none => d
/-- One ECLK of frame memory: the arbiters of the groups with transfers, then the pseudo-channels with queued bursts. -/
def memTick (d : Dev) : Dev :=
  let d1 := ((d.fmem.xfers.filterMap Xfer.next).map groupOf).eraseDups.foldl arbiter d
  ((d1.fmem.queues.map (fun p => p.1 / 48)).eraseDups).foldl pcIssue d1

/-- A request of a port (R341). A fenced port is not served; the reserved ports have no requester. Holes, refused accesses and the patrol do
not enter the queues; every other request is a transfer of its port, whose queued bursts ungate their pseudo-channels (R26). -/
def request' (d : Dev) (r : MemReq) : Dev :=
  let p := r.port.val
  let a := r.addr.toNat
  let n := reqLen r
  if d.memFenced p || decide (258 < p) || n == 0 then d
  else if p < 128 && d.isoRefused r.tenant a n then ((d.inc Reg.C_FMC_ISO_REFUSE).fmcEvent 6).exception p 5 0
  else if touchesHole a n then
    let d1 := d.holeHit
    let d2 := match r.op with
      | .read _ => if p = 258 then d else d1.emit (.memData ((upto n).map (fun i => if isHole (a + i) then 0 else d.fmByte (a + i))) false)
      | .write _ => d1
    if p < 128 then d2.exception p 11 0 else d2
  else match r.op, decide (p = 258) with
    | .read _, true => d.patrol a false
    | _, _ => (d.granted a n).updFm (fun m => { m with
        nextSeq := m.nextSeq + 1, xfers := m.xfers ++ [{ id := m.nextSeq, req := r, cls := d.reqClass r }] })

/-- The hold watchdog bites a request whose grant moves no burst (R343): the port is fenced from every arbiter and what it had under way is
given up; a read completes as a double-bit read, a write is discarded. -/
def holdBite (d : Dev) (r : MemReq) : Dev :=
  let p := r.port.val
  let d1 := (d.inc Reg.C_FMC_HOLD_BITES).fmcEvent 2
  let d2 : Dev := { d1 with fmem := { d1.fmem with fenced := if d1.fmem.fenced.contains p then d1.fmem.fenced else d1.fmem.fenced ++ [p] } }
  let d3 := (d2.flag 30 p false false p).updFm (fun m => { m with
    xfers := m.xfers.filter (fun x => x.req.port.val != p)
    ordered := (m.ordered.map (fun x => (x.1, x.2.filter (fun s =>
      !(SMap.get (fun _ => []) m.queues x.1).any (fun e => e.seq == s && e.port == p))))).filter (fun x => !x.2.isEmpty)
    queues := (m.queues.map (fun q => (q.1, q.2.filter (fun e => e.port != p)))).filter (fun q => !q.2.isEmpty) })
  match r.op with
  | .read n =>
    let d4 := d3.uncorr (r.addr.toNat / 32) p false false
    (if p = 256 then d4.emit (.memData (List.replicate n 0) true) else d4).readFails p true false
  | .write _ => d3

/-! BAR2 (R331–R333). -/

/-- The first byte past the pool region (R165). -/
def poolEnd (d : Dev) : Nat :=
  d.poolStack 4
/-- Does a run of bytes meet the reserved region outside the pool region (R332)? -/
def inReserved (d : Dev) (a n : Nat) : Bool :=
  let lo := (d.rd Reg.FMC_RSV_BASE).toNat * 4096
  let hi := lo + (d.rd Reg.FMC_RSV_SIZE).toNat * 4096
  let pool := d.poolMode && decide ((d.rd Reg.BUF_POOL_BASE).toNat * 4096 ≤ a) && decide (a + n ≤ d.poolEnd)
  decide (a < hi) && decide (lo < a + n) && !pool
/-- A host access made through the window. -/
def bar2Do (d : Dev) (offset : Nat) (op : MemOp) : Dev :=
  let a := addr37 (d.fget Reg.FMC_BAR2 6 0 * 2 ^ 30 + offset)
  match op with
  | .read n =>
    if n = 0 then d else
    let (bs, bad, d1) := d.memRead 256 a n false
    d1.emit (.memData bs bad)
  | .write bs => if !bs.isEmpty && d.inReserved a bs.length then d.holeHit else d.memWrite 256 a bs
/-- Must a BAR2 access wait: the window moves, or the host's port is fenced? -/
def bar2Waits (d : Dev) : Bool := d.bget Reg.FMC_BAR2 31 || d.memFenced 256
/-- A BAR2 access received. -/
def bar2In (d : Dev) (offset : Nat) (op : MemOp) : Dev :=
  if d.bar2Waits then { d with fmem := { d.fmem with bar2Held := d.fmem.bar2Held ++ [(offset, op)] } } else d.bar2Do offset op
/-- The accesses that waited are made, in order. -/
def bar2Flush (d : Dev) : Dev :=
  if d.bar2Waits then d
  else d.fmem.bar2Held.foldl (fun x p => x.bar2Do p.1 p.2) { d with fmem := { d.fmem with bar2Held := [] } }
/-- A write of FMC_BAR2.BASE. -/
def bar2Base (d : Dev) (base : Nat) : Dev :=
  if 112 < base then d.fmcEvent 7 else (d.fset Reg.FMC_BAR2 6 0 base).bset Reg.FMC_BAR2 31 true
/-- The window's move is done. -/
def bar2Moved (d : Dev) : Dev := if d.bget Reg.FMC_BAR2 31 then (d.bset Reg.FMC_BAR2 31 false).bar2Flush else d

/-- A port re-admitted (R343). -/
def readmit (d : Dev) (p : Nat) : Dev :=
  ({ d with fmem := { d.fmem with fenced := d.fmem.fenced.filter (fun x => x != p) } } : Dev).bar2Flush

/-! Maintenance (R336–R338). -/

/-- A refresh falls due at a bank (R336): placed while its queue is empty, with those owed; else owed, and forced at a debt of 8. While a
WALL request waits for the bank, one maintenance operation at most is issued; what that held back is paid at the next chance. -/
def refreshDue (d : Dev) (pc bank : Nat) (idle : Bool) : Dev :=
  let k := pc * 48 + bank
  let owed := SMap.get (fun _ => 0) d.fmem.debt k
  let setDebt := fun (x : Dev) (n : Nat) => { x with fmem := { x.fmem with debt := SMap.set (fun _ => 0) x.fmem.debt k n } }
  if idle && (d.bankQ k).isEmpty then setDebt ((upto (owed + 1)).foldl (fun x _ => x.emit (.refresh pc bank)) d) 0
  else if 8 ≤ owed + 1 ∧ (d.wallWaits k && d.fmem.wallMaint.contains k) = false then
    let paid := if d.wallWaits k then 1 else owed - 6
    setDebt ((upto paid).foldl (fun x _ => x.emit (.refresh pc bank))
      (d.updFm (fun m => { m with wallMaint := if d.wallWaits k then m.wallMaint ++ [k] else m.wallMaint }))) (owed + 1 - paid)
  else setDebt d (owed + 1)

/-- A retraining pause (R337): never while a bank queue of the pseudo-channel holds a request. -/
def retrain (d : Dev) (pc : Nat) : Dev :=
  if d.bget Reg.FMC_MAINT 0 && d.fmem.queues.all (fun q => decide (q.1 / 48 ≠ pc) || q.2.isEmpty) then
    { d with fmem := { d.fmem with age := SMap.set (fun _ => 0) d.fmem.age pc d.time.cclk } } else d

/-- The 32 ms window of a bank ends (R338): its counts start again, and its throttled ports are released. -/
def rhEnd (d : Dev) (pc bank : Nat) : Dev :=
  let k := pc * 48 + bank
  { d with fmem := { d.fmem with
      acts := d.fmem.acts.filter (fun p => p.1 / 16384 != k)
      actPort := d.fmem.actPort.filter (fun p => p.1 / 1024 / 16384 != k)
      throttled := d.fmem.throttled.filter (fun p => p.1 != k)
      lastAct := d.fmem.lastAct.filter (fun p => p.1 / 512 != k) } }

/-- FMC_PC_STATUS of a pseudo-channel (R348). -/
def pcStatus (d : Dev) (k : Nat) : Word :=
  let debt := min 255 <| (upto 48).foldl (fun m b => max m (SMap.get (fun _ => 0) d.fmem.debt (k * 48 + b))) 0
  let age := min 255 ((d.time.cclk - SMap.get (fun _ => 0) d.fmem.age k) / 1500000)
  wd (b2n (d.fmem.throttled.any (fun p => p.1 / 48 == k)) * 2 ^ 24 + debt * 65536 + age * 256
      + 2 * b2n (d.fmem.ordered.any (fun q => q.1 / 48 == k && !q.2.isEmpty)) + b2n (d.gated.any (fun b => match b with | .pseudo j => j.val == k | _ => false)))

end Dev

/-- MEMORY_REQUEST (R341). -/
def execMemoryRequest (r : MemReq) (s : State) : Host.Outcome State Fault Refusal := finish s (s.request' r)
/-- BANK_REFRESH (R336). -/
def execBankRefresh (pc : Fin 128) (bank : Fin 48) (idle : Bool) (s : State) : Host.Outcome State Fault Refusal :=
  finish s (s.refreshDue pc bank idle)
/-- RETRAIN_PAUSE (R337). -/
def execRetrainPause (pc : Fin 128) (s : State) : Host.Outcome State Fault Refusal := finish s (s.retrain pc)
/-- RETRAIN_STALE (R337). -/
def execRetrainStale (_ : Fin 128) (s : State) : Host.Outcome State Fault Refusal :=
  finish s ((s.inc Reg.C_FMC_RETRAIN_SKIP).fmcEvent 4)
/-- PATROL_SCRUB (R340). -/
def execPatrolScrub (addr : BitVec 37) (came : Bool) (s : State) : Host.Outcome State Fault Refusal :=
  finish s (if s.memFenced 258 then s.toDev else s.patrol addr.toNat came)
/-- HOLD_WATCHDOG_BITE (R343). -/
def execHoldWatchdogBite (r : MemReq) (s : State) : Host.Outcome State Fault Refusal := finish s (s.holdBite r)
/-- PORT_READMIT (R343). -/
def execPortReadmit (port : Fin 512) (s : State) : Host.Outcome State Fault Refusal := finish s (s.readmit port)
/-- BAR2_MOVE (R333). -/
def execBar2Move (base : BitVec 7) (s : State) : Host.Outcome State Fault Refusal := finish s (s.bar2Base base.toNat)
/-- BAR2_MOVE_DONE (R333). -/
def execBar2MoveDone (s : State) : Host.Outcome State Fault Refusal := finish s s.bar2Moved
/-- BAR2_ACCESS (R331–R333). -/
def execBar2Access (offset : BitVec 34) (op : MemOp) (s : State) : Host.Outcome State Fault Refusal :=
  finish s (s.bar2In offset.toNat op)
/-- BLOCK_RESET_DONE (R388): where the host's port is in service again its waiting BAR2 accesses are made (R343). -/
def execBlockResetDone (c : Fin 16) (s : State) : Host.Outcome State Fault Refusal := finish s (s.resetDone c).bar2Flush
/-- RH_WINDOW_END (R338). -/
def execRhWindowEnd (pc : Fin 128) (bank : Fin 48) (s : State) : Host.Outcome State Fault Refusal := finish s (s.rhEnd pc bank)
/-- FMC_CNT_CLR (R349). -/
def execFmcCntClr (s : State) : Host.Outcome State Fault Refusal := finish s (s.cntClr Reg.C_FMC_CORR_CNT 10)

end Sys2Proof.Machine
end

