-- ==== Sys2Proof/Machine/Checks.lean ====
section
/-!
DEFINITION. The two banks and what the device refuses to make active: the exchange of the banks (R44), the values that make a swap
INVALID or an image BAD_SECTION (R47, R55, R174–R198, R222, R223, R304, R350, R354, R435, R447), and what only an image can get wrong.
-/
namespace Sys2Proof.Machine

/-- The commit class of the register at an offset; an offset without a register counts as class I. -/
def clsAt (a : Nat) : Cls := match Reg.at? a with | some r => r.cls | none => .I
/-- Is the table of a key of class B? -/
def tabB (key : Nat) : Bool := match tab? (key / 2 ^ 28) with | some t => t.cls == .B | none => false

/-- The value that a host write leaves in a register, field by field (R5, R6); what a WO bit or a doorbell does is not here. -/
def RegDef.host (r : RegDef) (old v : Word) : Word :=
  r.fields.foldl (fun x f =>
    match f.acc with
    | .rw => setFld x f.hi f.lo (fld v f.hi f.lo)
    | .w1c => setFld x f.hi f.lo (fld (x &&& ~~~v) f.hi f.lo)
    | .w1s => setFld x f.hi f.lo (fld (x ||| v) f.hi f.lo)
    | _ => x) old
/-- The value that a pair of an image leaves in a register (R454): RW fields, and RO fields where the register is of class L. -/
def RegDef.pair (r : RegDef) (old v : Word) : Word :=
  r.fields.foldl (fun x f =>
    if f.acc == .rw || (f.acc == .ro && r.cls == .L) then setFld x f.hi f.lo (fld v f.hi f.lo) else x) old

namespace Dev

/-! The banks (R12, R44). -/

/-- The device with the shadow values taken as the active ones. -/
def swapped (d : Dev) : Dev :=
  { d with
    regs := d.shadow.foldl (fun m p => SMap.put m p.1 p.2) (d.regs.filter (fun p => clsAt p.1 != .B))
    tabs := d.shTabs.foldl (fun m p => SMap.put m p.1 p.2) (d.tabs.filter (fun p => !tabB p.1)) }

/-! Register values (R55, R102, R142, R174, R198, R222, R326, R435, R447). -/

/-- Is a value refused by the field table of the register at an offset, whatever other registers hold? -/
def valueBad (a : Nat) (v : Word) : Bool :=
  if a < 0x01000000 then
    if a = Reg.GLB_RATE_N ∨ a = Reg.GLB_RATE_D then decide (fld v 19 0 = 0)
    else if a = Reg.STK_CFG then decide (fld v 31 16 < 600) || decide (4000 < fld v 31 16)
    else if a = Reg.GLB_THERM_CFG then decide (fld v 7 0 < 70) || decide (105 < fld v 7 0)
    else if a = Reg.GLB_PERIOD_CTRL then decide (fld v 1 0 = 3)
    else false
  else
    let n := (a - 0x01000000) / 0x40000
    let r := (a - 0x01000000) % 0x40000
    if decide (0x8000 ≤ r) && decide (r < 0xA000) then
      decide (r % 0x400 = 0) && (decide (fld v 29 16 < 64) || decide (16352 < fld v 29 16))
    else if r = 0xA000 then decide (fld v 2 0 = 7)
    else if decide (0x10000 ≤ r) && decide (r < 0x10020) then
      decide (fld v 4 0 < 1) || decide (16 < fld v 4 0) || decide (fld v 14 6 < 64) || decide (256 < fld v 14 6)
    else if a = Reg.BUF_REEF_THR n then decide (fld v 19 10 ≤ fld v 9 0) || decide (fld v 29 20 ≤ fld v 19 10)
    else if a = Reg.CORE_IN_THR n then decide (fld v 25 16 ≤ fld v 9 0) || decide (448 < fld v 25 16)
    else if a = Reg.TEL_PC_DEST n then !(fld v 19 17 == 1 || fld v 19 17 == 4 || fld v 19 17 == 5)
    else if a = Reg.TEL_PC_LEN n then
      decide (fld v 6 0 < 14) || decide (64 < fld v 6 0) || (wbit v 7 && decide (fld v 6 0 ≠ 42))
    else if a = Reg.WALL_SCHED n then decide (4096 < fld v 12 0)
    else false
/-- Is the value that a register has refused, by its field table or beside another register: the rate (R55), and the hysteresis of the
reef levels (R152)? The register is named by its offset. -/
def regBad (d : Dev) (a : Nat) : Bool :=
  let n := (a - 0x01000000) / 0x40000
  valueBad a (d.rd a)
    || (if a = Reg.GLB_RATE_N ∨ a = Reg.GLB_RATE_D then !rateOk (d.fget Reg.GLB_RATE_N 19 0) (d.fget Reg.GLB_RATE_D 19 0)
        else decide (a = Reg.BUF_REEF_THR n ∨ a = Reg.BUF_REEF_HYST n)
          && decide (d.reefThr n 1 ≤ d.fget (Reg.BUF_REEF_HYST n) 12 0))
/-! Table entries (R159, R223, R249, R350, R354). -/

/-- The listed indices of a table, at a spar. -/
def listed (d : Dev) (id spar : Nat) : List Nat :=
  (d.tabs.filter (fun p => p.1 / 2 ^ 20 == id * 256 + spar)).map (fun p => p.1 % 2 ^ 20)
/-- MSI-X vectors of a function (R352). -/
def vectors (f : Nat) : Nat := if f = 0 then 2048 else 64
/-- A submission queue's entry that is in service and out of range (R354). -/
def sqBad (d : Dev) (q : Nat) : Bool :=
  let f := fun (w hi lo : Nat) => d.tf 0x0E01 0 q w hi lo
  decide (f 2 9 8 ≠ 0) && (decide (f 2 9 8 = 3) || decide (f 2 4 0 < 2) || decide (16 < f 2 4 0) || decide (f 0 11 0 ≠ 0)
    || decide (64 < f 3 14 8) || decide (f 4 1 0 ≠ 0)
    || (d.listed 0x0E01 0).any (fun k => decide (k < q) && decide (d.tf 0x0E01 0 k 2 9 8 ≠ 0)
          && decide (d.tf 0x0E01 0 k 2 23 10 = f 2 23 10)))
/-- A completion queue's entry that is enabled and out of range (R354). -/
def cqBad (d : Dev) (q : Nat) : Bool :=
  let f := fun (w hi lo : Nat) => d.tf 0x0E02 0 q w hi lo
  decide (f 2 11 11 = 1) && (decide (f 2 13 12 = 3) || (decide (f 2 13 12 = 2) && decide (f 2 10 5 ≠ 0)) || decide (f 2 4 0 < 2)
    || decide (16 < f 2 4 0) || decide (f 0 11 0 ≠ 0) || (decide (f 2 13 12 = 1) && decide (vectors (f 2 10 5) ≤ f 3 10 0))
    || (d.listed 0x0E02 0).any (fun k => decide (k < q) && decide (d.tf 0x0E02 0 k 2 11 11 = 1)
          && decide (d.tf 0x0E02 0 k 2 10 5 = f 2 10 5) && decide (d.tf 0x0E02 0 k 2 23 16 = f 2 23 16)))
/-- The members of a gang across the stack (R249): the size field, or the local members where it is 0. -/
def gangBad (d : Dev) (g : Nat) : Bool :=
  let k := max (d.gangSize g) (d.gangMembers g).length
  decide (k < 2) || decide (16 < k)
    || (d.listed 0x0902 0).any (fun h => decide (h < g) && (d.gangMembers g).any (fun e => (d.gangMembers h).contains e))
/-- Does a table's entry `i` hold a value that is refused whatever else is loaded (R122, R159, R223, R249, R350, R354)? -/
def entryBad0 (id i : Nat) (e : List Word) : Bool :=
  let f := fun (w hi lo : Nat) => fld (e.getD w 0) hi lo
  match id with
  | 0x0502 => e.any (fun w => wbit w 6 && decide (295 < fld w 15 7 + fld w 20 16))
  | 0x0601 => decide (i < 1024) && decide (f 1 20 0 ≤ f 2 20 0)
  | 0x0801 => decide (sgn 32 (f 1 31 0) < 0) || decide (0 < sgn 32 (f 2 31 0))
  | 0x0901 => decide (f 0 30 13 ≠ 0)
  | 0x0D01 => decide (f 0 15 0 = 0)
  | 0x0E03 => decide (8 < f 2 24 21)
  | _ => false
/-- Does the entry of a table's key hold a value that is refused, the wall schedule left to `wallOk`? -/
def tabBad (d : Dev) (key : Nat) : Bool :=
  let id := key / 2 ^ 28
  let n := key / 2 ^ 20 % 256
  let i := key % 2 ^ 20
  let f := fun (w hi lo : Nat) => d.tf id n i w hi lo
  match id with
  | 0x0902 => d.gangBad i
  | 0x0E01 => d.sqBad i
  | 0x0E02 => d.cqBad i
  | 0x1201 => decide (i / 8 < 128) && decide (f 0 7 7 = 1) && decide (f 0 6 0 = i / 8) && d.isHalyard (i / 8)
  | _ => entryBad0 id i (d.tab id n i)

/-! The wall schedule (R194, R304, R306, R310, R311, R314, R318). -/

/-- Template lengths of Askivo frames, and of ST 2110-20 packets. -/
def tmplLens (ty : Nat) : List Nat := if ty = 2 then [54, 58, 62, 74, 78, 82] else [14, 18, 22, 42, 46, 50, 62, 66, 70]
/-- Pixels of a pgroup, or the unit that PIX_PER_FRAME must be a multiple of. -/
def pixUnit (ty fmt : Nat) : Nat :=
  if ty = 2 then (match fmt with | 0 => 2 | 1 => 2 | 2 => 4 | _ => 1) else if fmt = 1 then 4 else 1
/-- Does each coefficient group of a filter set sum to 256 (R306)? -/
def filterOk (ws : List Word) : Bool :=
  let c := fun (h k : Nat) => sgn 10 (fld (ws.getD (4 * h + k / 3) 0) (10 * (k % 3) + 9) (10 * (k % 3)))
  (upto 64).all (fun h => decide (((upto 8).map (c h)).sum = 256) && decide (((upto 4).map (fun k => c h (8 + k))).sum = 256))
/-- Are the unnamed bits of a colour slot zero (R310)? -/
def slotOk (ws : List Word) : Bool := decide (fld (ws.getD 4 0) 31 18 = 0)
/-- The source and tile of a data entry (R302, R306, R314, R318). -/
def dataOk (d : Dev) (n i : Nat) : Bool :=
  let f := d.we n i
  let (sw, sh, tw, th) := (f 6 15 0, f 6 31 16, f 7 15 0, f 7 31 16)
  let ty := d.wType n i
  let u := pixUnit ty (f 0 3 2)
  decide (2 ≤ sw) && decide (2 ≤ sh) && decide (16 ≤ tw) && decide (tw ≤ 8192) && decide (16 ≤ th) && decide (th ≤ 8192)
    && decide (tw ≤ 8 * sw) && decide (sw ≤ 8 * tw) && decide (th ≤ 8 * sh) && decide (sh ≤ 8 * th)
    && decide (1 ≤ f 2 31 16) && decide (f 2 31 16 % u = 0) && (ty != 2 || decide (tw % u = 0))
    && (ty != 1 || (f 0 3 2 != 3 && decide (d.wFrames n i ≤ 65535)))
    && filterOk (d.tab 0x0C04 n (f 0 25 22)) && slotOk (d.tab 0x0C03 n (f 0 21 12))
/-- The slot in which an entry's cells cross (R303). -/
def wSlot (d : Dev) (n i : Nat) : Nat := tabSlot n (d.wOut n i)
/-- One entry by itself (R194, R304). -/
def entryOk (d : Dev) (n i rounds : Nat) : Bool :=
  let p := d.we n i 1 9 0
  let t := d.wSlot n i
  let lead := atLeast1 (d.fget (Reg.WALL_CFG n) 15 8)
  let lastTag := d.wTag n i (d.wCells n i - 1)
  d.named p && d.bget (Reg.CORE_TAB_MAP n (t / 32)) (t % 32)
    && (if d.wType n i = 3 then decide (d.wTag n i 0 < lead) else decide (lead ≤ d.wTag n i 0) && d.dataOk n i)
    && decide (100 * lastTag < 98 * rounds) && (decide (d.wCells n i ≤ 1) || decide (1 ≤ d.we n i 3 31 20))
    && (tmplLens (d.wType n i)).contains (d.tf 0x0C02 n (d.we n i 0 11 6) 0 6 0) && decide (d.wLength n i 0 ≤ d.maxFrame p)
/-- The order key of a cell (R303). -/
def wKey (d : Dev) (n i k : Nat) : Nat := 128 * d.wTag n i k + d.wSlot n i
/-- Do two entries share an order key? -/
def keysMeet (d : Dev) (n i j : Nat) : Bool :=
  d.wSlot n i == d.wSlot n j && (upto (d.wCells n i)).any (fun k =>
    let g := d.wTag n i k
    let s := d.we n j 3 19 0
    let st := atLeast1 (d.we n j 3 31 20)
    decide (s ≤ g) && decide ((g - s) % st = 0) && decide ((g - s) / st < d.wCells n j))
/-- The rounds of a period of a rate, at least (R178, R194): ⌊S/128⌋. -/
def periodRounds (nn dd : Nat) : Nat := 1500000000 * dd / atLeast1 nn / 128
/-- A whole schedule (R304). -/
def wallOk (d : Dev) (n : Nat) : Bool :=
  let rounds := periodRounds d.rateN d.rateD
  let es := (upto (d.wCount n)).filter (fun i => d.wType n i != 0)
  let pipe := fun (k : Nat) => es.filter (fun i => d.we n i 0 5 4 == k)
  let rises := fun (l : List Nat) => (l.zip (l.drop 1)).all (fun p => decide (d.wKey n p.1 (d.wCells n p.1 - 1) < d.wKey n p.2 0))
  es.all (fun i => d.entryOk n i rounds)
    && (upto 4).all (fun k => rises (pipe k))
    && es.all (fun i => es.all (fun j => decide (j ≤ i) || !d.keysMeet n i j))
    && (upto (rounds / 1024 + 1)).all (fun b =>
        decide ((es.map (fun i => d.wBefore n i (1024 * b + 1024) - d.wBefore n i (1024 * b))).sum ≤ 8192))
    && (upto 4).all (fun k =>
        decide ((((pipe k).filter (fun i => d.wType n i != 3)).map (fun i => d.we n i 7 15 0 * d.we n i 7 31 16)).sum * d.rateN
          ≤ 950000000 * d.rateD))

/-- Are the active settings ones that the device accepts? Values at reset are, so only what is listed is looked at. -/
def settingsOk (d : Dev) : Bool :=
  rateOk (d.fget Reg.GLB_RATE_N 19 0) (d.fget Reg.GLB_RATE_D 19 0)
    && d.regs.all (fun p => !d.regBad p.1) && d.tabs.all (fun p => !d.tabBad p.1)
    && d.busySpars.all (fun n => d.wallOk n)
/-- Would the shadow pass as the active bank (R47)? A swap makes class B settings active alone, so they alone are judged: an entry of a
class L table written through a window is not (R122). -/
def shadowOk (d : Dev) : Bool :=
  let s := d.swapped
  rateOk (s.fget Reg.GLB_RATE_N 19 0) (s.fget Reg.GLB_RATE_D 19 0)
    && s.regs.all (fun p => clsAt p.1 != .B || !s.regBad p.1) && s.tabs.all (fun p => !tabB p.1 || !s.tabBad p.1)
    && s.busySpars.all (fun n => s.wallOk n)
/-- Is spar `n`'s schedule touched by a delta that set these registers and entries: its entries, regions and colours, the registers that
bound it, a port's MAX_FRAME among them, or the rate (R304)? -/
def wallTouched (n : Nat) (regs keys : List Nat) : Bool :=
  keys.any (fun k => decide (k / 2 ^ 36 = 0x0C) && decide (k / 2 ^ 20 % 256 = n))
    || regs.any (fun a => decide (a = Reg.GLB_RATE_N) || decide (a = Reg.GLB_RATE_D) || decide (a = Reg.WALL_CFG n)
          || decide (a = Reg.WALL_SCHED n) || decide (0x8000 ≤ (a - 0x01000000) % 0x40000 ∧ (a - 0x01000000) % 0x40000 < 0xA000)
          || (upto 4).any (fun k => decide (a = Reg.CORE_TAB_MAP n k)))
/-- Is what a delta set acceptable in the shadow it would leave (R37)? What it did not touch is no fault of the image. -/
def deltaOk (d : Dev) (regs keys : List Nat) : Bool :=
  let s := d.swapped
  regs.all (fun a => !s.regBad a) && keys.all (fun k => !s.tabBad k)
    && s.busySpars.all (fun n => !wallTouched n regs keys || s.wallOk n)

/-- What an image alone can get wrong in the settings it would leave (R165, R419): the pool region and the period source. -/
def imageFits (d : Dev) (size : Nat) : Bool :=
  let base := (d.rd Reg.BUF_POOL_BASE).toNat * 4096
  let lo := (d.rd Reg.FMC_RSV_BASE).toNat * 4096
  let hi := lo + (d.rd Reg.FMC_RSV_SIZE).toNat * 4096
  (!d.poolMode || (decide (d.poolEnd ≤ base + 2 ^ 34) && decide (lo ≤ base) && decide (d.poolEnd ≤ hi)))
    && (decide (size ≤ 1) || (if d.fuses.master then d.periodSrc != 1 else d.periodSrc == 1))

end Dev
end Sys2Proof.Machine
end

