-- ==== Sys2Proof/Machine/HostCmds.lean ====
section
/-!
DEFINITION. The commands of the host queues: doorbells, fetching and dispatch of submission entries, host-bound frames, stops, tenant
resets, moderation and the states of the PCIe link (R351–R365, R371–R373).
-/
namespace Sys2Proof.Machine

/-! Fields of a submission entry (R355). -/

/-- A word of an entry. -/
def ew (e : List Word) (i : Nat) : Word := e.getD i 0
/-- Bits of a word of an entry. -/
def ef (e : List Word) (i hi lo : Nat) : Nat := fld (ew e i) hi lo
/-- TYPE. -/
def entType (e : List Word) : Nat := ef e 0 7 0
/-- JOB_ID. -/
def entJob (e : List Word) : Word := ew e 1
/-- An entry of a TYPE. -/
def withType (e : List Word) (k : Nat) : List Word := (setFld (ew e 0) 7 0 k) :: e.drop 1

namespace Dev

/-! Whether a queue moves (R30, R357, R360, R362, R363, R393). -/

/-- Is a function fenced: its reset, a full image load, or Black? -/
def fnFenced (d : Dev) (f : Nat) : Bool := (d.fn f).resetting || d.loader.fence || d.inBlack
/-- Does a queue fetch? -/
def sqFetches (d : Dev) (q : Nat) : Bool :=
  d.host.taking && (d.sqKind q == 1 || d.sqKind q == 2) && !d.bget (Reg.HQ_SQ_CTRL q) 0 && !d.fnFenced (d.sqFn q)
/-- Does a queue dispatch? -/
def sqMoves (d : Dev) (q : Nat) : Bool := d.sqFetches q && !d.bget (Reg.HQ_SQ_CTRL q) 1
/-- Entries between the head and the tail (R357). -/
def sqWaiting (d : Dev) (q : Nat) : Nat := ((d.rd (Reg.HQ_SQ_TAIL q)).toNat + d.sqSize q - d.sqHead q) % d.sqSize q
/-- A tail value taken, or discarded (R357). -/
def setTail (d : Dev) (q tail : Nat) : Dev :=
  if d.sqSize q ≤ tail then (d.inc Reg.C_HQ_DB_BAD).hqEvent 0 else d.wr (Reg.HQ_SQ_TAIL q) (wd tail)
/-- A tail doorbell (R357, R363). -/
def tailBell (d : Dev) (q tail : Nat) : Dev := if (d.fn (d.sqFn q)).resetting then d else d.setTail q tail
/-- A head doorbell frees the slots that it has passed (R356); a value outside the ring is discarded. -/
def headBell (d : Dev) (c head : Nat) : Dev :=
  if (d.fn (d.cqFn c)).resetting then d
  else if d.cqSize c ≤ head then (d.inc Reg.C_HQ_DB_BAD).hqEvent 0
  else
    let n := (head + d.cqSize c - (d.rd (Reg.HQ_CQ_HEAD c)).toNat) % d.cqSize c
    let all := decide ((d.cq c).used = d.cqSize c) && decide (n = 0)
    (d.wr (Reg.HQ_CQ_HEAD c) (wd head)).updCq c (fun x => { x with used := if all then x.used else x.used - n })

/-! Dispatch (R355, R359). -/

/-- The head entry of a queue dispatched: its completion slot reserved, HEAD past it. -/
def begin' (d : Dev) (q : Nat) : Dev :=
  ((d.cqReserve (d.sqCq q)).headStep q).updSq q (fun x => { x with cache := x.cache.drop 1, running := x.running + 1 })
/-- An entry that ends as it is dispatched. -/
def endAt (d : Dev) (q status : Nat) (e : List Word) (result : Word) : Dev := (d.begin' q).sqEnd q status (entJob e) result

/-- The members of a JOB entry: its engine, or its gang's. -/
def jobEngines (d : Dev) (e : List Word) : List Nat :=
  if wbit (ew e 2) 14 then d.gangMembers (ef e 2 13 8) else [ef e 2 6 0]
/-- The free context of an engine for a job (R359). -/
def freeCtx? (d : Dev) (m : Nat) : Option Nat := [1, 2, 3].find? (fun k => (d.ctx m k).state == 0)
/-- The owner that an entry of queue `q` names (R355). -/
def entOwner (d : Dev) (q : Nat) (e : List Word) : Nat := if d.sqFn q = 0 then ef e 6 15 0 else 1152 + d.sqFn q
/-- The context of a job (R226, R353, R355): PARAM in A0 to A7. A gang's job starts at the generations that its barriers released last
(R245, log 25). -/
def jobCtx (d : Dev) (q : Nat) (e : List Word) : Ctx :=
  let f := d.sqFn q
  let o := d.entOwner q e
  let seg := if f = 0 then (ew e 5).toNat else ((d.tab 0x0E03 0 f).getD 0 0).toNat
  { a := (upto 8).map (fun i => ew e (8 + i)) ++ List.replicate 8 0
    job := entJob e, owner := o, tenant := if 1153 ≤ o ∧ o < 1216 then o - 1152 else 0
    seg := seg, prio := if f = 0 then ef e 2 17 16 else min (ef e 2 17 16) (d.tf 0x0E03 0 f 3 17 16)
    list := if f = 0 then (ew e 3).toNat else seg * 128 + (ew e 3).toNat
    count := ef e 4 15 0, state := 1, sq := q, gang := if wbit (ew e 2) 14 then some (ef e 2 13 8) else none
    gens := if wbit (ew e 2) 14 then
        (upto 16).foldl (fun m b => SMap.set (fun _ => 0) m b (d.released (ef e 2 13 8) b)) [] else [] }
/-- Does a VF's list pass its SEG_LIMIT (R353)? -/
def listDenied (d : Dev) (q : Nat) (e : List Word) : Bool :=
  decide (0 < d.sqFn q) && decide (((d.tab 0x0E03 0 (d.sqFn q)).getD 1 0).toNat * 128 < (ew e 3).toNat + ef e 4 15 0)
/-- A JOB entry: none where it must wait for a context. -/
def jobGo (d : Dev) (q : Nat) (e : List Word) : Option Dev :=
  let ms := d.jobEngines e
  if ef e 4 15 0 = 0 ∨ 1216 < d.entOwner q e ∨ ms = [] then some (d.endAt q 4 e 0)
  else if d.listDenied q e then some (d.endAt q 5 e 0)
  else if ms.any (fun m => !d.engUsable m) then some (d.endAt q 3 e 0)
  else if ms.any (fun m => (d.freeCtx? m).isNone) then none
  else
    let c := d.jobCtx q e
    let d1 := ms.foldl (fun x m => match x.freeCtx? m with
      | some k => (x.ungateEngine m).updCtx m k (fun _ => c)
      | none => x) ((d.begin' q).inc Reg.C_HQ_JOBS)
    some (ms.foldl (fun x m => x.preempt m) d1)

/-- The fields of an INJECT entry: destination, class, owner (R355). -/
def injFields (d : Dev) (q : Nat) (e : List Word) : Nat × Nat × Nat :=
  let f := d.sqFn q
  if f = 0 then (ef e 5 19 0, ef e 5 31 24, ef e 6 15 0)
  else (d.tf 0x0E03 0 f 2 19 0, d.tf 0x0E03 0 f 2 24 21, 1152 + f)
/-- Where an injected frame goes (R130, R137). -/
def injResult (d : Dev) (n dest cls owner : Nat) : Option Result × Dev :=
  d.directly n { dest := dest, cls := cls, owner := owner, stamp := d.nowU }
/-- An INJECT entry with the bytes of its frame (R359). -/
def injGo (d : Dev) (q : Nat) (e : List Word) (bs : Bytes) : Dev :=
  let (dest, cls, owner) := d.injFields q e
  let n := d.fget Reg.HQ_CFG 22 16
  match d.injResult n dest cls owner with
  | (some r, d0) =>
    let t := d0.host.injTag
    let cs := (cellsOf n r bs false).map (fun c => { c with tag := t })
    ((((d0.begin' q).inc Reg.C_HQ_INJ_FRAMES).updSpar n (fun y => { y with inject := y.inject ++ cs })).updHost (fun h =>
      { h with injTag := t + 1, injecting := h.injecting ++ [(t, q, entJob e)] }))
  | (none, d0) => (d0.endAt q 0 e 0).inc Reg.C_HQ_INJ_FRAMES
/-- Is an INJECT entry refused (R355)? In pool mode a handle must name a buffer in use. -/
def injBad (d : Dev) (q : Nat) (e : List Word) : Bool :=
  let (_, cls, owner) := d.injFields q e
  let f := d.sqFn q
  let len := ef e 4 15 0
  decide (len < 64) || decide (16352 < len) || decide (8 < cls) || decide (1216 < owner) || (f != 0 && d.tf 0x0E03 0 f 2 20 20 == 0)
    || (d.poolMode && !d.host.inUse.contains (ew e 2).toNat)

/-! DMA entries (R366, R368–R370). -/

/-- Is a WRAP value refused on a side whose base is `a` (R368)? -/
def wrapBad (k a burst : Nat) : Bool := k != 0 && (decide (k < 12) || decide (34 < k) || a % 2 ^ k != 0 || decide (2 ^ k < burst))
/-- Is a DMA entry refused (R355, R368, R369)? -/
def dmaBad (e : List Word) : Bool :=
  let burst := (ew e 6).toNat
  let src := wide [ew e 2, ew e 3]
  let dst := wide [ew e 4, ew e 5]
  decide (63 < ef e 0 15 8) || decide (burst < 4) || decide (4096 < burst) || burst % 4 != 0 || decide (95 < ef e 8 15 8)
    || decide (63 < ef e 9 7 0) || wrapBad (ef e 8 23 16) src burst || wrapBad (ef e 8 31 24) dst burst
    || (ef e 8 3 2 != 0 && (src % 4 != 0 || dst % 4 != 0))
/-- A DMA entry starts its channel. -/
def dmaGo (d : Dev) (q : Nat) (e : List Word) : Dev :=
  let k := ef e 0 15 8
  if dmaBad e then d.endAt q 4 e 0
  else if (d.dma k).active then d.endAt q 7 e 0
  else
    let x : Dma := {
      active := true, src := wide [ew e 2, ew e 3], dst := wide [ew e 4, ew e 5], burst := (ew e 6).toNat, count := (ew e 7).toNat
      srcMem := wbit (ew e 8) 0, dstMem := wbit (ew e 8) 1, swap := ef e 8 3 2, paced := wbit (ew e 8) 4, line := ef e 8 15 8
      wrapSrc := ef e 8 23 16, wrapDst := ef e 8 31 24, fn := ef e 9 7 0, sq := q, job := entJob e }
    (((d.begin' q).updDma k (fun _ => x)).wr (Reg.DMA_CH_STATUS k) (wd (2 ^ 31))).wr (Reg.DMA_CH_MOVED k) 0

/-- The head entry of a queue tried (R355, R359): true where it was dispatched, with the host frames not yet used. -/
def dispatch (d : Dev) (q : Nat) (frames : List Bytes) : Bool × List Bytes × Dev :=
  match (d.sq q).cache with
  | [] => (false, frames, d)
  | e :: _ =>
    let f := d.sqFn q
    let bad := (true, frames, d.endAt q 4 e 0)
    if !d.sqMoves q then (false, frames, d)
    else if !d.cqFree (d.sqCq q) then (false, frames, d.inc Reg.C_HQ_DISPATCH_STALL)
    else if d.sqKind q = 2 then (if entType e = 5 then (false, frames, d) else bad)
    else match entType e with
      | 0 => (true, frames, d.endAt q 0 e 0)
      | 1 => match d.jobGo q e with
        | some d1 => (true, frames, d1)
        | none => (false, frames, d.inc Reg.C_HQ_DISPATCH_STALL)
      | 2 =>
        if d.injBad q e then bad
        else if d.poolMode then
          let (bs, _, d1) := d.memRead 256 (d.poolAddr (ew e 2).toNat) (ef e 4 15 0) false
          (true, frames, d1.injGo q e bs)
        else match frames with
          | b :: r => (true, r, d.injGo q e ((b ++ List.replicate (ef e 4 15 0) 0).take (ef e 4 15 0)))
          | [] => (false, frames, d)
      | 3 =>
        if f ≠ 0 ∨ !d.poolMode ∨ 3 < ef e 2 7 0 then bad
        else match d.poolTake (ef e 2 7 0) with
          | some (h, d1) => (true, frames, d1.endAt q 0 e (wd h))
          | none => (true, frames, (d.bufEvent 0 5).endAt q 6 e 0xFFFFFFFF)
      | 4 => if f ≠ 0 ∨ !d.poolMode then bad else (true, frames, (d.poolGive (ew e 2).toNat).endAt q 0 e 0)
      | 6 => if f ≠ 0 then bad else (true, frames, d.dmaGo q e)
      | _ => bad

/-! Receive queues (R355, R361). -/

/-- Is it a good RXBUF entry? -/
def rxGood (e : List Word) : Bool := entType e == 5 && decide (64 ≤ ef e 4 15 0) && decide (ef e 4 15 0 ≤ 16384)
/-- The bad entries at the head of a receive queue complete with BAD_ENTRY, while there is a completion slot. -/
def rxSettle (d : Dev) (q : Nat) : Nat → Dev
  | 0 => d
  | n + 1 => match (d.sq q).cache with
    | [] => d
    | e :: _ => if rxGood e || !d.sqMoves q || !d.cqFree (d.sqCq q) then d else (d.endAt q 4 e 0).rxSettle q n

/-! Fetching (R357, R358, R360). -/

/-- Entries read behind the cached ones, at most up to `n` cached in all. -/
def fetchTo (d : Dev) (q n : Nat) (es : List (List Word)) : Dev :=
  if d.sqFetches q then
    d.updSq q (fun x => { x with cache := x.cache ++ es.take (min n (d.sqWaiting q) - x.cache.length) })
  else d
/-- A turn of a queue, and the turns of its weight: `n` entries at most, ending at one that cannot be dispatched. -/
def turn (q : Nat) : Nat → List Bytes × Dev → List Bytes × Dev
  | 0, x => x
  | n + 1, (fr, d) => match d.dispatch q fr with
    | (true, fr1, d1) => turn q n (fr1, d1)
    | (false, fr1, d1) => (fr1, d1)
/-- A queue served in a pass (R357, R358): its shadow tail, its entries, its turns; four entries stay cached (R360). -/
def serve (x : List Bytes × Dev) (v : RingView) : List Bytes × Dev :=
  let q := v.sq.val
  let (fr, d) := x
  if !d.sqFetches q then x
  else
    let d1 := if d.sqf q 2 24 24 = 1 then d.setTail q v.shadow else d
    if d1.sqKind q = 2 then (fr, (d1.fetchTo q 4 v.entries).rxSettle q 4)
    else
      let d2 := d1.fetchTo q (d1.sqSize q) v.entries
      let r := turn q (atLeast1 (d2.sqf q 3 7 0) * atLeast1 (d2.sqf q 3 14 8)) (fr, d2)
      (r.1, r.2.updSq q (fun y => { y with cache := y.cache.take 4 }))
/-- A fetch pass (R358): the queues in rising number from where the last pass ended. -/
def fetchPass (d : Dev) (vs : List RingView) (frames : List Bytes) : Dev :=
  if !d.host.taking || d.inBlack then d
  else
    let ord := sortBy (fun a b => decide (a.sq.val ≤ b.sq.val)) vs
    let ring := ord.filter (fun v => decide (d.host.rrPos ≤ v.sq.val)) ++ ord.filter (fun v => decide (v.sq.val < d.host.rrPos))
    let r := ring.foldl serve (frames, d)
    r.2.updHost (fun h => { h with rrPos := match ring.getLast? with | some v => (v.sq.val + 1) % 4096 | none => h.rrPos })
/-- An entry of a TYPE comes up at a queue (R355): fetched where nothing is cached, and tried where it is the head. -/
def entryCome (d : Dev) (q kind : Nat) (e : List Word) (frames : List Bytes) : Dev :=
  if d.sqKind q = 2 then
    (d.fetchTo q (min 4 ((d.sq q).cache.length + 1)) [withType e kind]).rxSettle q 4
  else
    let d1 := if (d.sq q).cache.isEmpty then d.fetchTo q 1 [withType e kind] else d
    match (d1.sq q).cache with
    | h :: _ => if entType h = kind then (d1.dispatch q frames).2.2 else d1
    | [] => d1

/-- The oldest injected frame whose last cell has entered the core completes (R359). -/
def injectDone (d : Dev) : Dev :=
  match d.host.injecting.find? (fun p => !d.spars.any (fun x => x.2.inject.any (fun c => c.tag == p.1))) with
  | none => d
  | some p => (d.updHost (fun h => { h with injecting := h.injecting.erase p })).sqEnd p.2.1 0 p.2.2 0

/-! Host-bound frames (R361). -/

/-- The receive SQ of host queue `h`. -/
def rxSq (d : Dev) (h : Nat) : Nat :=
  if h = 0 then d.fget Reg.HQ_RXQ 11 0 else if h = 1 then d.fget Reg.HQ_RXQ 27 16 else d.tf 0x0E03 0 (h - 2) 3 11 0
/-- Is a queue's function without reception, or being reset? -/
def rxClosed (d : Dev) (h : Nat) : Bool := decide (2 ≤ h) && (d.tf 0x0E03 0 (h - 2) 3 12 12 == 0 || (d.fn (h - 2)).resetting)
/-- Has a host queue room? -/
def rxRoom (d : Dev) (h : Nat) : Bool :=
  let q := d.rxSq h
  d.sqKind q == 2 && d.sqMoves q && d.cqFree (d.sqCq q)
    && (d.poolMode || (match (d.sq q).cache with | e :: _ => rxGood e | [] => false))
/-- Has a host queue a frame that can be delivered or dropped? -/
def rxReady (d : Dev) (h : Nat) : Bool :=
  d.host.taking && wholeFrame (d.headFrame (hostQ h)).1 && (d.rxClosed h || d.rxRoom h)
/-- Is it the turn of host queue `h`: H0 first, the others in rotation? -/
def rxTurnOf (d : Dev) (h : Nat) : Bool :=
  if h = 0 then d.rxReady 0
  else !d.rxReady 0 && d.rxReady h
    && (((upto 65).map (fun i => (d.host.rxTurn + i) % 65 + 1)).find? d.rxReady == some h)
/-- A host-bound frame dropped. -/
def rxDrop (d : Dev) : Dev := (d.inc Reg.C_HQ_RX_DROP).hqEvent 3
/-- The receive entry of a frame (R356). -/
def rxEntry (q status : Nat) (job handle : Word) (c : Cell) (len : Nat) : List Word :=
  let r := c.res
  [job, wd (status + 256 + q * 65536), wd (len + r.reason % 256 * 65536 + (r.cls * 16 + r.colour * 4) * 2 ^ 24), handle,
   wd r.stamp, wd (r.stamp >>> 32), wd (min r.inPort 1023 + r.rule % 4096 * 65536), wd c.owner]
/-- A frame written to the host: to a pool buffer, or to the queue's buffer (R361). -/
def rxWrite (d : Dev) (h : Nat) (c : Cell) (bs : Bytes) : Dev :=
  let q := d.rxSq h
  if d.poolMode then
    match d.poolTake (poolFor bs.length) with
    | none => (d.inc Reg.C_BUF_POOL_EMPTY).bufEvent 0 5
    | some (hd, d1) =>
      (((d1.memWrite 256 (d1.poolAddr hd) bs).inc Reg.C_HQ_RX_FRAMES).cqReserve (d.sqCq q)).post
        { cq := d.sqCq q, words := rxEntry q 0 0 (wd hd) c bs.length }
  else match (d.sq q).cache with
    | [] => d
    | e :: _ =>
      let big := decide (ef e 4 15 0 < bs.length)
      let d1 := ((d.cqReserve (d.sqCq q)).headStep q).updSq q (fun x => { x with cache := x.cache.drop 1 })
      let d2 := if big then d1.rxDrop
        else (d1.emit (.hostWrite (d.sqFn q) (wide [ew e 2, ew e 3]) bs)).inc Reg.C_HQ_RX_FRAMES
      (d2.post { cq := d.sqCq q, words := rxEntry q (if big then 9 else 0) (entJob e) 0 c bs.length }).rxSettle q 4
/-- The head frame of host queue `h` delivered, or dropped. -/
def hostDeliver (d : Dev) (h : Nat) : Dev :=
  if !d.rxTurnOf h then d
  else
    let (f, rest) := d.headFrame (hostQ h)
    match f with
    | [] => d
    | c :: _ =>
      let d1 := d.updSpar 64 (fun y => { y with staging := SMap.set (fun _ => []) y.staging (hostQ h) rest })
      let d2 := d1.updHost (fun x => { x with rxTurn := if h = 0 then x.rxTurn else h % 65 })
      if d.rxClosed h then d2.rxDrop else d2.rxWrite h c (f.flatMap (·.data))

/-! Stops and pauses (R360, R362). -/

/-- The cached entries of a queue complete with ABORTED, HEAD past them. -/
def cacheAbort (d : Dev) (q : Nat) : Dev :=
  (d.sq q).cache.foldl (fun x e =>
    (((x.cqReserve (x.sqCq q)).headStep q).updSq q (fun y => { y with cache := y.cache.drop 1 })).sqComplete q 1 (entJob e) 0) d
/-- A write of STOP. -/
def stopWrite (d : Dev) (q : Nat) (on : Bool) : Dev :=
  ((if on then (d.bset (Reg.HQ_SQ_CTRL q) 0 true).cacheAbort q else d.bset (Reg.HQ_SQ_CTRL q) 0 false)).stoppedSync q
/-- A write of PAUSE. -/
def pauseWrite (d : Dev) (q : Nat) (on : Bool) : Dev := (d.bset (Reg.HQ_SQ_CTRL q) 1 on).bset (Reg.HQ_SQ_CTRL q) 3 on
/-- A write of INV. -/
def cacheEmpty (d : Dev) (q : Nat) : Dev := d.updSq q (fun x => { x with cache := [] })

/-! Tenant resets (R363, R42). -/

/-- The queues of a table that a function has. -/
def queuesOf (d : Dev) (id f : Nat) (fnOf : Nat → Nat) : List Nat :=
  ((d.tabs.filter (fun p => decide (tkey id 0 0 ≤ p.1) && decide (p.1 < tkey id 0 4096))).map (fun p => p.1 % 2 ^ 20)).filter
    (fun q => fnOf q == f)
/-- The SQs of a function. -/
def sqsOf (d : Dev) (f : Nat) : List Nat := d.queuesOf 0x0E01 f d.sqFn
/-- The CQs of a function. -/
def cqsOf (d : Dev) (f : Nat) : List Nat := d.queuesOf 0x0E02 f d.cqFn
/-- The jobs of a function in the engines' contexts, each once: of its queues, or of its owner. -/
def jobsOf (d : Dev) (f : Nat) : List (Nat × Nat) :=
  (d.engines.flatMap (fun p => [1, 2, 3].filterMap (fun k =>
    let c := d.ctx p.1 k
    let first := ((d.jobCtxs p.1 k).head?.getD (p.1, k)) == (p.1, k)
    let over' := (d.jobCtxs p.1 k).all (fun y => (d.ctx y.1 y.2).ended.isSome)
    if c.state != 0 && (d.sqFn c.sq == f || c.tenant == f) && first && !over' then some (p.1, k) else none)))
/-- The ABORTED completion of an entry of queue `q` in a reset: of a VF under FLR it goes to the PF's ABORT_CQ, as TYPE 2. -/
def abortPost (d : Dev) (f q : Nat) (job : Word) (flr reserved : Bool) : Dev :=
  if flr then
    let a := d.fget Reg.HQ_TEN_CFG 11 0
    (d.cqReserve a).complete' a q 2 1 job 0 f
  else (if reserved then d else d.cqReserve (d.sqCq q)).sqComplete q 1 job 0
/-- The frames of an INJECT entry not begun in the core discarded. -/
def injDrop (d : Dev) (t : Nat) : Dev :=
  { d with spars := d.spars.map (fun p => (p.1, { p.2 with
      inject := if p.2.inject.any (fun c => c.tag == t && c.first) then p.2.inject.filter (fun c => c.tag != t) else p.2.inject })) }
/-- The reset of a function triggered (R363): steps 1 to 5. -/
def tenantStart (d : Dev) (f : Nat) (flr : Bool) : Dev :=
  if (d.fn f).resetting then d
  else
    let busy := fun (x : Dev) => x.bset (if f < 32 then Reg.HQ_TEN_BUSY_LO else Reg.HQ_TEN_BUSY_HI) (f % 32) true
    let d1 := (busy d).updFn f (fun x => { x with resetting := true, audit := 2 })
    let jobs := (d1.jobsOf f).map (fun p => let c := d1.ctx p.1 p.2; (c.sq, c.job))
    let injs := d1.host.injecting.filter (fun p => d1.sqFn p.2.1 == f)
    let qs := d1.sqsOf f
    let cached := qs.flatMap (fun q => (d1.sq q).cache.map (fun e => (q, entJob e)))
    let d2 := injs.foldl (fun x p => (x.injDrop p.1).updHost (fun h => { h with injecting := h.injecting.erase p })) d1
    let d3 := (d2.engines.map (·.1)).foldl (fun x e => x.tenantAbandon e f) d2
    let d4 := qs.foldl (fun x q => (x.wr (Reg.HQ_SQ_HEAD q) (wd ((x.sqHead q + (x.sq q).cache.length) % x.sqSize q))).updSq q
      (fun y => { y with cache := [], running := 0 })) d3
    let d5 := (jobs ++ injs.map (fun p => p.2)).foldl (fun x p =>
      if x.sqFn p.1 = f then x.abortPost f p.1 p.2 flr true else x.sqEnd p.1 1 p.2 0) d4
    let d6 := cached.foldl (fun x p => x.abortPost f p.1 p.2 flr false) d5
    let q := hostQ (2 + f)
    let n := ((SMap.get (fun _ => []) (d6.spar 64).staging q).filter (fun c => c.last)).length
    (upto n).foldl (fun x _ => x.rxDrop) (d6.updSpar 64 (fun y => { y with staging := SMap.erase y.staging q }))
/-- A write of HQ_TEN_CTRL with RESET. -/
def tenantWrite (d : Dev) (f : Nat) : Dev :=
  let d1 := d.fset Reg.HQ_TEN_CTRL 5 0 f
  if f = 0 then d1 else d1.tenantStart f false
/-- A function level reset (R363): the function's own MSI-X state goes; of the PF, every tenant is reset and its queues stop. -/
def flr (d : Dev) (f : Nat) : Dev :=
  let conf := d.updFn f (fun x => { x with d3 := false, pme := false, unmasked := [], vectors := [], allMasked := true, pba := [] })
  if f = 0 then
    let d1 := ((upto 63).map (· + 1)).foldl (fun x t => x.tenantStart t true) conf
    (d1.sqsOf 0).foldl (fun x q => x.stopWrite q true) d1
  else conf.tenantStart f true
/-- Does a completion of a queue of `f` still wait to be posted? -/
def abortsHeld (d : Dev) (f : Nat) : Bool :=
  d.host.heldCqe.any (fun e => fld (e.words.getD 1 0) 15 8 != 1 && d.sqFn (fld (e.words.getD 1 0) 27 16) == f)
/-- Step 7 of a reset. -/
def tenantDone (d : Dev) (f : Nat) : Dev :=
  let d1 := (d.sqsOf f).foldl (fun x q =>
    ((((x.wr (Reg.HQ_SQ_HEAD q) 0).wr (Reg.HQ_SQ_TAIL q) 0).bset (Reg.HQ_SQ_CTRL q) 0 false).bset (Reg.HQ_SQ_CTRL q) 4 false).updSq q
      (fun _ => {})) d
  let d2 := (d.cqsOf f).foldl (fun x c =>
    ((x.wr (Reg.HQ_CQ_HEAD c) 0).wr (Reg.HQ_CQ_TAIL c) 0).updCq c (fun _ => {})) d1
  let off := fun (x : Dev) (a b : Nat) => x.bset (if f < 32 then a else b) (f % 32) false
  let d3 := off (off d2 Reg.HQ_TEN_BUSY_LO Reg.HQ_TEN_BUSY_HI) Reg.HQ_TEN_STUCK_LO Reg.HQ_TEN_STUCK_HI
  (d3.updFn f (fun x => { x with resetting := false, audit := 0, mirror := [] })).hqEvent 1
/-- A pass of the audit ends: the resets whose first whole pass it was are checked for owner 1152 + f (R163, R363). -/
def tenantAudit (d : Dev) : Dev :=
  ((d.host.fns.filter (fun p => p.2.resetting)).map (·.1)).foldl (fun x f =>
    if x.abortsHeld f then x
    else if 1 < (x.fn f).audit then x.updFn f (fun y => { y with audit := y.audit - 1 })
    else if x.ownerCount (1152 + f) = 0 then x.tenantDone f else x) d
/-- TIMEOUT_MS has passed without ZERO. -/
def tenantStuck (d : Dev) (f : Nat) : Dev :=
  if (d.fn f).resetting then (d.bset (if f < 32 then Reg.HQ_TEN_STUCK_LO else Reg.HQ_TEN_STUCK_HI) (f % 32) true).hqEvent 2 else d
/-- Every outstanding entry of every queue completes with ABORTED, and every routine is abandoned (R42). -/
def abortAll (d : Dev) : Dev :=
  let es := d.engines.map (·.1)
  let jobs := es.flatMap (fun e => [1, 2, 3].filterMap (fun k =>
    if (d.ctx e k).state != 0 && ((d.jobCtxs e k).head?.getD (e, k)) == (e, k)
        && !(d.jobCtxs e k).all (fun y => (d.ctx y.1 y.2).ended.isSome) then some (e, k) else none))
  let d1 := jobs.foldl (fun x p => x.jobFail p.1 p.2 1 0) d
  let d2 := es.foldl (fun x e =>
    let y := if (x.engine e).committed then x.routineEnd e else x.abandon e false
    [1, 2, 3].foldl (fun z k => z.freeCtx e k) y) d1
  let d3 := d2.host.injecting.foldl (fun x p =>
    ((x.injDrop p.1).updHost (fun h => { h with injecting := h.injecting.erase p })).sqEnd p.2.1 1 p.2.2 0) d2
  let d4 := (d3.host.dmas.map (·.1)).foldl (fun x k => x.dmaEnd k 1) d3
  (d4.host.sqs.map (·.1)).foldl (fun x q => x.cacheAbort q) d4

/-- Would a swap of the tables change a queue's ring (R354)? -/
def sqChanges (d : Dev) (q : Nat) : Bool :=
  let a := d.tab 0x0E01 0 q
  let b := d.tabSh 0x0E01 0 q
  let k := fun (t : List Word) => (t.take 2, fld (t.getD 2 0) 4 0, fld (t.getD 2 0) 15 8, fld (t.getD 3 0) 27 16)
  decide (k a ≠ k b)
/-- Would a swap change a completion queue's ring? -/
def cqChanges (d : Dev) (c : Nat) : Bool :=
  let a := d.tab 0x0E02 0 c
  let b := d.tabSh 0x0E02 0 c
  let k := fun (t : List Word) => (t.take 2, fld (t.getD 2 0) 10 0)
  decide (k a ≠ k b)
/-- The keys of a table that either bank lists. -/
def bothKeys (d : Dev) (id : Nat) : List Nat :=
  (((d.tabs.map (·.1)) ++ (d.shTabs.map (·.1))).filter (fun k => k / 2 ^ 28 == id)).eraseDups.map (fun k => k % 2 ^ 20)
/-- The queues whose rings the coming swap changes: cached entries complete with ABORTED, head and tail are 0, the phase is 1. -/
def queueSwap (d : Dev) : Dev :=
  let d1 := ((d.bothKeys 0x0E01).filter d.sqChanges).foldl (fun x q =>
    let y := x.cacheAbort q
    (y.wr (Reg.HQ_SQ_HEAD q) 0).wr (Reg.HQ_SQ_TAIL q) 0) d
  ((d.bothKeys 0x0E02).filter d.cqChanges).foldl (fun x c =>
    ((x.wr (Reg.HQ_CQ_HEAD c) 0).wr (Reg.HQ_CQ_TAIL c) 0).updCq c (fun y =>
      { y with phase := true, used := 0 })) d1

/-! The link and the functions (R30, R365). -/

/-- The held MSI-X messages of functions sent, or held again, by the state of now. -/
def msixAgain (d : Dev) (fs : Nat → Bool) : Dev :=
  let go := d.host.heldMsix.filter (fun p => fs p.1)
  go.foldl (fun x p => x.msix p.1 p.2) (d.updHost (fun h => { h with heldMsix := h.heldMsix.filter (fun p => !fs p.1) }))
/-- The messages of a function that its masks held back, sent where they are unmasked now. -/
def pbaSend (d : Dev) (f : Nat) : Dev :=
  let x := d.fn f
  if x.allMasked then d
  else
    let go := x.pba.filter x.unmasked.contains
    go.foldl (fun y v => y.msix f v) (d.updFn f (fun y => { y with pba := y.pba.filter (fun v => !x.unmasked.contains v) }))
/-- A vector unmasked (R365). -/
def vectorOpen (d : Dev) (f v : Nat) : Dev :=
  (d.updFn f (fun x => { x with unmasked := if x.unmasked.contains v then x.unmasked else x.unmasked ++ [v] })).pbaSend f
/-- The link reaches L0. -/
def linkL0 (d : Dev) : Dev := (d.updHost (fun h => { h with link := .l0 })).msixAgain (fun _ => true)
/-- The host takes writes again: the held completions are posted in order. -/
def writesResume (d : Dev) : Dev :=
  let held := d.host.heldCqe
  let d1 := held.foldl postNow (d.updHost (fun h => { h with taking := true, heldCqe := [] }))
  (d1.engines.map (·.1)).foldl (fun x e =>
    if (x.engine e).stall = .hostStore then x.updEngine e (fun y => { y with stall := .none }) else x) d1
/-- The link is lost, or enters L2: nothing is fetched, completions are held; a pending delivery in L2 pulls WAKE# low. -/
def pcieDown (d : Dev) (l2 : Bool) : Dev :=
  let d1 := d.updHost (fun h => { h with link := if l2 then .l2 else .down, taking := false })
  if l2 && !d1.host.heldMsix.isEmpty && !d1.host.wake then (d1.updHost (fun h => { h with wake := true })).emit (.wakeLine true) else d1
/-- WAKE# released as PERST# rises. -/
def wakeRelease (d : Dev) : Dev :=
  if d.host.wake then (d.updHost (fun h => { h with wake := false })).emit (.wakeLine false) else d

end Dev

/-- SQ_TAIL_DOORBELL (R357). -/
def execSqTailDoorbell (q : Fin 4096) (tail : BitVec 16) (s : State) : Host.Outcome State Fault Refusal :=
  finish s (s.tailBell q tail.toNat)
/-- CQ_HEAD_DOORBELL (R356). -/
def execCqHeadDoorbell (q : Fin 4096) (head : BitVec 16) (s : State) : Host.Outcome State Fault Refusal :=
  finish s (s.headBell q head.toNat)
/-- FETCH_PASS (R358): `frames` are the frames of the INJECT entries that it dispatches, in order. -/
def execFetchPass (rings : List RingView) (frames : List Bytes) (s : State) : Host.Outcome State Fault Refusal :=
  finish s (s.fetchPass rings frames)
/-- NOP (R355). -/
def execNopEntry (q : Fin 4096) (entry : List Word) (s : State) : Host.Outcome State Fault Refusal :=
  finish s (s.entryCome q 0 entry [])
/-- JOB (R355, R359). -/
def execJob (q : Fin 4096) (entry : List Word) (s : State) : Host.Outcome State Fault Refusal :=
  finish s (s.entryCome q 1 entry [])
/-- INJECT (R355, R359). -/
def execInject (q : Fin 4096) (entry : List Word) (frame : Bytes) (s : State) : Host.Outcome State Fault Refusal :=
  finish s (s.entryCome q 2 entry [frame])
/-- INJECT_DONE (R359). -/
def execInjectDone (s : State) : Host.Outcome State Fault Refusal := finish s s.injectDone
/-- POOL_ALLOC (R166, R355). -/
def execPoolAlloc (q : Fin 4096) (entry : List Word) (s : State) : Host.Outcome State Fault Refusal :=
  finish s (s.entryCome q 3 entry [])
/-- POOL_FREE (R167, R355). -/
def execPoolFreeEntry (q : Fin 4096) (entry : List Word) (s : State) : Host.Outcome State Fault Refusal :=
  finish s (s.entryCome q 4 entry [])
/-- RXBUF (R355, R361). -/
def execRxbuf (q : Fin 4096) (entry : List Word) (s : State) : Host.Outcome State Fault Refusal :=
  finish s (s.entryCome q 5 entry [])
/-- DMA (R370). -/
def execDmaEntry (q : Fin 4096) (entry : List Word) (s : State) : Host.Outcome State Fault Refusal :=
  finish s (s.entryCome q 6 entry [])
/-- HOST_FRAME_DELIVER (R361). -/
def execHostFrameDeliver (h : Fin 66) (s : State) : Host.Outcome State Fault Refusal := finish s (s.hostDeliver h)
/-- SQ_STOP (R362). -/
def execSqStop (q : Fin 4096) (on : Bool) (s : State) : Host.Outcome State Fault Refusal := finish s (s.stopWrite q on)
/-- SQ_PAUSE (R360). -/
def execSqPause (q : Fin 4096) (on : Bool) (s : State) : Host.Outcome State Fault Refusal := finish s (s.pauseWrite q on)
/-- SQ_INV (R360). -/
def execSqInv (q : Fin 4096) (s : State) : Host.Outcome State Fault Refusal := finish s (s.cacheEmpty q)
/-- TENANT_RESET_WRITE (R363). -/
def execTenantResetWrite (f : Fin 64) (s : State) : Host.Outcome State Fault Refusal := finish s (s.tenantWrite f)
/-- Is there such a function: all, but in NO_IMAGE the physical one alone (R39)? -/
def Dev.fnThere (d : Dev) (f : Nat) : Bool := f == 0 || !d.noImage
/-- FUNCTION_LEVEL_RESET (R363). -/
def execFunctionLevelReset (f : Fin 64) (s : State) : Host.Outcome State Fault Refusal := finish s (if s.fnThere f then s.flr f else s.toDev)
/-- TENANT_RESET_STUCK (R363). -/
def execTenantResetStuck (f : Fin 64) (s : State) : Host.Outcome State Fault Refusal := finish s (s.tenantStuck f)
/-- CQ_HOLDOFF_EXPIRE (R364). -/
def execCqHoldoffExpire (c : Fin 4096) (s : State) : Host.Outcome State Fault Refusal :=
  finish s (if 0 < (s.cq c).unsignalled ∧ (s.cqf c 2 13 12 = 1 ∨ s.cqf c 2 13 12 = 2) then s.cqSignal c else s.toDev)
/-- PCIE_LINK_L0 (R365). -/
def execPcieLinkL0 (s : State) : Host.Outcome State Fault Refusal := finish s s.linkL0
/-- VECTOR_UNMASK (R365): a vector, or the function. -/
def execVectorUnmask (f : Fin 64) (vec : Option (Fin 2048)) (s : State) : Host.Outcome State Fault Refusal :=
  finish s (if s.fnThere f then (match vec with
      | some v => s.vectorOpen f v
      | none => (s.updFn f (fun x => { x with allMasked := false })).pbaSend f)
    else s.toDev)
/-- FUNCTION_ENTER_D0 (R365). -/
def execFunctionEnterD0 (f : Fin 64) (s : State) : Host.Outcome State Fault Refusal :=
  finish s (if s.fnThere f then (s.updFn f (fun x => { x with d3 := false })).msixAgain (fun g => g == f.val) else s.toDev)
/-- FUNCTION_ENTER_D3HOT (R365). -/
def execFunctionEnterD3hot (f : Fin 64) (s : State) : Host.Outcome State Fault Refusal :=
  finish s (if s.fnThere f then s.updFn f (fun x => { x with d3 := true }) else s.toDev)
/-- HOST_WRITES_RESUME (R365). -/
def execHostWritesResume (s : State) : Host.Outcome State Fault Refusal := finish s s.writesResume
/-- PCIE_LINK_DOWN (R30, R365). -/
def execPcieLinkDown (l2 : Bool) (s : State) : Host.Outcome State Fault Refusal := finish s (s.pcieDown l2)
/-- PERST_ASSERT (R365). -/
def execPerstAssert (s : State) : Host.Outcome State Fault Refusal :=
  finish s (s.endpointReset.updHost (fun h => { h with perst := true }))
/-- HQ_CNT_CLR (R373). -/
def execHqCntClr (s : State) : Host.Outcome State Fault Refusal := finish s (s.cntClr Reg.C_HQ_JOBS 11)
/-- AUDIT_PASS_END (R160–R164, R363). -/
def execAuditPassEnd (s : State) : Host.Outcome State Fault Refusal := finish s s.auditPass.auditAnswer.tenantAudit

end Sys2Proof.Machine
end

