-- ==== Sys2Proof/Machine/DmaCmds.lean ====
section
/-!
DEFINITION. The commands of the DMA channels, and what a lost host read ends (R366–R370, R386).
-/
namespace Sys2Proof.Machine

/-- The bytes of a run swapped word by word (R369). -/
def swapBytes (k : Nat) : Bytes → Bytes
  | a :: b :: c :: e :: r =>
    (match k with | 1 => [e, c, b, a] | 2 => [c, e, a, b] | 3 => [b, a, e, c] | _ => [a, b, c, e]) ++ swapBytes k r
  | r => r

/-- The runs of a burst on a side (R368): address and length; a burst that crosses the wrap is two. -/
def sideRuns (base wrap off n : Nat) : List (Nat × Nat) :=
  if wrap = 0 then [(base + off, n)]
  else
    let o := off % 2 ^ wrap
    let first := min n (2 ^ wrap - o)
    if first = n then [(base + o, n)] else [(base + o, first), (base, n - first)]

namespace Dev

/-- Can a channel move a burst now (R366)? A write to the host waits while the host takes none. -/
def dmaReady (d : Dev) (k : Nat) : Bool :=
  let x := d.dma k
  x.active && (!x.paced || decide (0 < x.pend)) && (x.dstMem || d.host.taking) && !((x.srcMem || x.dstMem) && d.memFenced 256)

/-- The bytes of a burst from frame memory, and whether an error was in them (R339). -/
def dmaRead (d : Dev) (rs : List (Nat × Nat)) : Bytes × Bool × Dev :=
  rs.foldl (fun st r =>
    let (bs, bad, d1) := st.2.2.memRead 256 (addr37 r.1) r.2 false
    (st.1 ++ bs, st.2.1 || bad, d1)) ([], false, d)
/-- The bytes of a burst written on a side. -/
def dmaWrite (d : Dev) (mem : Bool) (f : Nat) : List (Nat × Nat) → Bytes → Dev
  | [], _ => d
  | (a, n) :: r, bs =>
    dmaWrite (if mem then d.memWrite 256 (addr37 a) (bs.take n) else d.emit (.hostWrite f a (bs.take n))) mem f r (bs.drop n)

/-- A channel moves one burst (R366–R370): `data` is what a host source returns, and `bad` says that a host access failed. A burst
from frame memory with a double-bit error is poisoned, and ends the channel as a poisoned host read does. -/
def dmaBurst (d : Dev) (k : Nat) (data : Bytes) (bad : Bool) : Dev :=
  let x := d.dma k
  if !d.dmaReady k || (upto k).any d.dmaReady then d
  else
    let off := x.moved * x.burst
    let src := sideRuns x.src x.wrapSrc off x.burst
    let dst := sideRuns x.dst x.wrapDst off x.burst
    let (bs, poison, d1) :=
      if x.srcMem then d.dmaRead src
      else ((data ++ List.replicate x.burst 0).take x.burst, false, src.foldl (fun y r => y.emit (.hostRead x.fn r.1 r.2)) d)
    if (bad && !(x.srcMem && x.dstMem)) || poison then d1.dmaEnd k 8
    else
      let d2 := (d1.dmaWrite x.dstMem x.fn dst (swapBytes x.swap bs)).inc Reg.C_HQ_DMA_BURSTS
      let left := if x.paced then x.pend - 1 else x.pend
      let d3 := d2.updDma k (fun y => { y with moved := y.moved + 1, pend := left })
      let d4 := (d3.wr (Reg.DMA_CH_MOVED k) (wd (x.moved + 1))).fset (Reg.DMA_CH_STATUS k) 7 0 left
      if x.count ≠ 0 ∧ x.count ≤ x.moved + 1 then d4.dmaEnd k 0 else d4

/-- A host read gets no completion (R386): a channel ends with DMA_ERR, a job whose list is lost with DENIED. -/
def readLost (d : Dev) (r : HostReq) : Dev :=
  match r with
  | .dma ch => (d.dmaEnd ch 8).flag 43 0
  | .list q job =>
    let d1 := d.flag 43 0
    match (d1.engines.map (·.1)).findSome? (fun e => ([1, 2, 3].find? (fun k =>
        let c := d1.ctx e k
        c.state != 0 && c.sq == q.val && c.job == job)).map (fun k => (e, k))) with
    | some (e, k) => d1.jobFail e k 5 0
    | none => d1

end Dev

/-- DMA_SWREQ (R367): lines 0 to 15. -/
def execDmaSwreq (lines : BitVec 16) (s : State) : Host.Outcome State Fault Refusal :=
  finish s (((upto 16).filter (fun l => lines.getLsbD l)).foldl Dev.lineRaise s.toDev)
/-- DMA_BURST (R366). -/
def execDmaBurst (ch : Fin 64) (data : Bytes) (access : HostAccess) (s : State) : Host.Outcome State Fault Refusal :=
  finish s (s.dmaBurst ch data (access == .bad))
/-- DMA_STOP (R370). -/
def execDmaStop (ch : Fin 64) (s : State) : Host.Outcome State Fault Refusal :=
  finish s ((s.fset Reg.DMA_CMD 5 0 ch).dmaEnd ch 1)
/-- PCIE_COMPLETION_TIMEOUT (R386). -/
def execPcieCompletionTimeout (r : HostReq) (s : State) : Host.Outcome State Fault Refusal := finish s (s.readLost r)

end Sys2Proof.Machine
end

