-- ==== Sys2Proof/Machine/Stack.lean ====
section
/-!
DEFINITION. Stacking over Halyard links: link frames with their retry and credit, remote cells, messages, stack commit's answers, and
calibration (R419–R436).
-/
namespace Sys2Proof.Machine

/-- A message taken apart (R427); HOPS rides in byte 3 (log 21). -/
def msgOf (b : Bytes) : Msg := { kind := beAt b 0 1, dst := beAt b 1 1, src := beAt b 2 1, hops := beAt b 3 1, body := slice b 4 28 }

namespace Dev

/-! Link frames (R421, R423, R424). -/

/-- Unacknowledged frames of a link replayed, from the oldest (R423): after RETRY_MAX replays of one frame source 33 reports. -/
def linkReplay (d : Dev) (n : Nat) : Dev :=
  let x := d.link n
  if x.store.isEmpty then d
  else
    let k := x.replays + 1
    let d1 := ((d.linkResend n).cntAdd Reg.C_STK_HL_REPLAY x.store.length).updLink n (fun y => { y with replays := k, dupAcks := 0 })
    if atLeast1 (d1.fget Reg.STK_CFG 7 0) ≤ k then
      (((d1.updLink n (fun y => { y with replays := 0 })).stkEvent 3).cause (512 + n) true).flag 33 n
    else d1

/-- ACK and credits of a good frame (R423, R424): what it acknowledges leaves the store; two TYPE 2 frames with one ACK replay. -/
def ackIn (d : Dev) (n ack cg cm : Nat) (ackOnly : Bool) : Dev :=
  let x := d.link n
  let hit := x.store.any (fun f => f.1 == ack)
  let left := if hit then (x.store.dropWhile (fun f => f.1 != ack)).drop 1 else x.store
  let dup := if ackOnly then (if x.lastAck = ack then x.dupAcks + 1 else 1) else x.dupAcks
  let d1 := d.updLink n (fun y => { y with
    store := left, credGen := y.credGen + cg, credMgmt := y.credMgmt + cm
    replays := if hit then 0 else y.replays
    dupAcks := if left.isEmpty then 0 else if hit then b2n ackOnly else dup
    lastAck := if ackOnly then ack else y.lastAck })
  let d2 := d1.fset (Reg.STK_HL_STATUS n) 6 0 left.length
  if ackOnly && !hit && !left.isEmpty && decide (2 ≤ dup) then d2.linkReplay n else d2

/-! Cells from a link (R422, R424–R426). -/

/-- A cell taken out of its 288 bytes (R422); the ingress port 1023 is port 1023 where that port owns the frame, else an engine or the
host (log 96). -/
def cellIn (n : Nat) (b : Bytes) : Cell :=
  let h := beNat (b.take 32)
  let len := bits h 215 208 + 1
  let mc := bit h 207
  let from' := bits h 176 167
  let r : Result := {
    dest := bits h 255 236, cls := bits h 235 232, colour := bits h 231 230, owner := bits h 229 218
    marks := 255 :: (upto 8).map (fun i => bits h (146 - 8 * i) (139 - 8 * i)), edit := bits h 154 147, stamp := bits h 82 19
    rule := bits h 166 155, inPort := if from' = 1023 ∧ bits h 229 218 ≠ 1023 then 1024 else from', hops := bits h 179 177, srcId := bits h 182 180
    stackMask := bits h 190 183 }
  { owner := r.owner, first := bit h 217, last := bit h 216, inSpar := n, cls := r.cls, mgmt := decide (r.cls = 8), mc := mc
    group := if mc then bits h 206 191 + 1 else 0, data := slice b 32 len, res := r }

/-- A cell dropped at a Halyard input: its credit goes back. -/
def cellDrop (d : Dev) (n : Nat) (c : Cell) : Dev :=
  d.updLink n (fun y => if c.mgmt then { y with retMgmt := y.retMgmt + 1 } else { y with retGen := y.retGen + 1 })
/-- A cell into the ingress FIFO of its spar. -/
def cellTake (d : Dev) (n : Nat) (c : Cell) : Dev := (d.updSpar n (fun y => { y with inFifo := y.inFifo ++ [c] })).inSync n
/-- HOPS has reached 7 (R425). -/
def hopDrop (d : Dev) : Dev := (d.inc Reg.C_STK_HOP_DROP).stkEvent 5

/-- A cell from a link for a local port without a name (R130, R137): to the host under owner 1216 with reason 7, where the bucket lets the
frame's first cell pass; the frame's other cells follow that decision. -/
def cellPunt (d : Dev) (n : Nat) (c : Cell) : Dev :=
  let k := c.res.dest % 1024 * 16 + c.cls
  let (ok, d1) := if c.first then d.puntTake n (8 * n) 7 else (!(d.link n).refused.contains k, d)
  let d2 := d1.updLink n (fun y => { y with
    refused := if ok || c.last then y.refused.filter (fun x => x != k) else if c.first then k :: y.refused else y.refused })
  if ok then
    let r := Result.punted c.res 7
    d2.cellTake n { c with queue := r.queue, owner := 1216, res := r }
  else d2.cellDrop n c
/-- A cell from a Halyard link (R425, R426): for this device it goes to its port or engine, without a parse; else on by the path table. -/
def cellArrive (d : Dev) (n : Nat) (c : Cell) : Dev :=
  let r := c.res
  let own := d.fuses.stackId
  let id := r.dest / 1024 % 8
  if c.mc then
    let m0 := r.stackMask - (if bit r.stackMask own then 2 ^ own else 0)
    let stop := decide (r.hops = 7) && m0 != 0
    let (ms, _) := d.groupMembers n (c.group - 1) c.cls none true (if stop then 0 else m0)
    let d1 := if stop then d.hopDrop else d
    if ms.isEmpty then d1.cellDrop n c
    else d1.cellTake n { c with left := ms, res := { r with stackMask := m0, members := ms } }
  else if r.dest / 2 ^ 17 = 5 ∧ id = own then
    let p := r.dest % 1024
    if d.named p then d.cellTake n { c with queue := portQ p c.cls, res := { r with queue := portQ p c.cls } }
    else d.cellPunt n c
  else if r.dest / 2 ^ 17 = 6 ∧ id = own then
    d.cellTake n { c with queue := engineQ (r.dest % 128), res := { r with queue := engineQ (r.dest % 128) } }
  else if r.dest / 2 ^ 17 = 5 ∨ r.dest / 2 ^ 17 = 6 then
    match d.remoteQ n id with
    | none => (d.inc Reg.C_STK_PATH_DROP).cellDrop n c
    | some q => if r.hops = 7 then d.hopDrop.cellDrop n c else d.cellTake n { c with queue := q, res := { r with queue := q } }
  else (d.inc Reg.C_STK_PATH_DROP).cellDrop n c

/-! Messages (R420, R427, R430, R431). -/

/-- A change of the stacking state. -/
def updStack (d : Dev) (f : Stacking → Stacking) : Dev := { d with stack := f d.stack }
/-- A change of the commit machinery. -/
def updCommit (d : Dev) (f : Commit → Commit) : Dev := { d with commit := f d.commit }
/-- A HELLO of this device (R420, R427). -/
def helloMsg (d : Dev) : Msg :=
  { kind := 1, dst := 255, src := d.fuses.stackId
    body := [by8 d.stackSize, by8 (b2n d.fuses.master), 0, 0] ++ beBytes 4 (d.rd Reg.GLB_IMG_ACTIVE_ID).toNat }
/-- HELLO sent on each Halyard link, one that is held down included (R420). -/
def helloAll (d : Dev) : Dev :=
  let held := (d.stack.links.filter (fun p => !p.2.up && p.2.heldDown)).map (·.1)
  held.foldl (fun x n => x.emit (.halyard n (hlFrame (hlHeader 1 0 255 1 0 0 ++ x.helloMsg.bytes)))) (d.msgSend d.helloMsg none)

/-- A HELLO heard (R420): its ID is reachable; a direct peer that does not fit holds the link down. -/
def helloIn (d : Dev) (n hops src size : Nat) (master : Bool) : Dev :=
  let d1 := if src = d.fuses.stackId ∧ hops ≠ 0 then d
    else d.bset Reg.STK_STATUS (16 + src) true
  if hops ≠ 0 then d1
  else if size ≠ d1.stackSize ∨ src = d1.fuses.stackId ∨ (master ∧ d1.fuses.master) then
    ((d1.linkDown n).updLink n (fun y => { y with heldDown := true })).stkEvent 6
  else
    let d2 := d1.updLink n (fun y => { y with heldDown := false })
    let d3 := if d1.isHalyard n && d1.linkData n && !(d1.link n).up then d2.linkUpH n else d2
    d3.fset (Reg.STK_HL_STATUS n) 30 28 src

/-- The count of the coming boundary (R54): one more than now, or the count that the device sets there. -/
def comingCount (d : Dev) : Nat :=
  match d.time.markCount with
  | some c => c
  | none => if d.time.setCount then gridCount d.time.next d.rateN d.rateD else ((d.rd Reg.GLB_PERIOD_COUNT).toNat + 1) % 2 ^ 32
/-- The count of the first boundary whose commit window has not opened (R46). -/
def nextCount (d : Dev) : Nat := (d.comingCount + b2n d.commit.window) % 2 ^ 32
/-- Has the boundary of a target already opened, in serial arithmetic (R46)? -/
def targetPassed (d : Dev) (t : Nat) : Bool := decide (2 ^ 31 ≤ (t + 2 ^ 32 - d.nextCount) % 2 ^ 32)
/-- Is a delta load in progress (R47)? -/
def deltaLoading (d : Dev) : Bool :=
  match d.loader.job with | some j => j.delta && (d.loader.reading || j.expanding) | none => false
/-- A message of a kind to the stack master with a count, and a cause. -/
def toMaster (d : Dev) (kind target : Nat) (rest : Bytes) : Dev :=
  d.msgSend { kind := kind, dst := 0, src := d.fuses.stackId, body := beBytes 4 target ++ rest } none
/-- A member's checks for a target, and its answer (R52, R431). New arms are refused under Black and in a Furled entry (R393, R405). -/
def armIn (d : Dev) (target : Nat) : Dev :=
  if d.fuses.master then d
  else if d.deltaLoading then (d.updCommit (fun c => { c with readyFor := none })).toMaster 4 target [by8 2]
  else if d.targetPassed target || !d.shadowOk || d.inBlack || d.island.power == .entering then
    (d.updCommit (fun c => { c with readyFor := none })).toMaster 4 target [by8 1]
  else (d.updCommit (fun c => { c with readyFor := some target })).toMaster 3 target []
/-- A later change fails a member's checks (R431). -/
def readyAgain (d : Dev) : Dev :=
  match d.commit.readyFor with
  | some t => if d.shadowOk then d else (d.updCommit (fun c => { c with readyFor := none })).toMaster 4 t [by8 1]
  | none => d
/-- READY, or NOT_READY, held by the stack master for its target (R431). -/
def readyIn (d : Dev) (src target : Nat) (on : Bool) : Dev :=
  match d.commit.arm with
  | some a => if d.fuses.master && a.stack && a.target = target then d.bset Reg.STK_STATUS (8 + src) on else d
  | none => d
/-- A member is split (R431). -/
def splitSet (d : Dev) : Dev := (d.bset Reg.STK_STATUS 2 true).stkEvent 1
/-- A MISSED message at the stack master. -/
def missedIn (d : Dev) : Dev := if d.fuses.master then d.splitSet else d

/-- A TIME message answered (R430). -/
def timeIn (d : Dev) (src tx : Nat) : Dev :=
  d.msgSend { kind := 8, dst := src, src := d.fuses.stackId, body := beBytes 8 tx ++ beBytes 8 d.nowU ++ beBytes 8 d.nowU } none
/-- A TIME_RESP taken into the calibration (R430): half the round trip less the peer's residence; after 1,024 exchanges the time base
is aligned by their mean. -/
def timeBack (d : Dev) (tx rxThere txThere : Nat) : Dev :=
  if !d.stack.calRun || decide (1024 ≤ d.stack.calTimes) then d
  else
    let off := ((rxThere : Int) - tx + ((txThere : Int) - d.nowU)) / 2
    let k := d.stack.calTimes + 1
    let sum := d.stack.calOffset + off
    let d1 := d.updStack (fun x => { x with calTimes := k, calOffset := sum })
    if k = 1024 then d1.updTime (fun t => { t with ticks := t.ticks + sum / 1024 * (timeUnit : Int) }) else d1.timeAsk
/-- The calibration ends after 64 marks (R430): DELAY is their mean. -/
def calEnd (d : Dev) : Dev :=
  if !d.stack.calRun || decide (d.stack.calMarks < 64) then d
  else (((d.wr Reg.STK_BIN_DELAY (wd (unsgn 32 (d.stack.calSum / 64)))).bset Reg.STK_CAL_CTRL 1 false).bset Reg.STK_STATUS 1 true
    ).updStack (fun x => { x with calRun := false })

/-- A message consumed (R427); other kinds are discarded. -/
def consume (d : Dev) (n : Nat) (m : Msg) : Dev :=
  let d1 := if m.src = 0 then d.updStack (fun x => { x with missedRun := 0 }) else d
  let b := m.body
  match m.kind with
  | 1 => d1.helloIn n m.hops (m.src % 8) (beAt b 0 1) (beAt b 1 1 % 2 == 1)
  | 2 => d1.armIn (beAt b 0 4)
  | 3 => d1.readyIn (m.src % 8) (beAt b 0 4) true
  | 4 => d1.readyIn (m.src % 8) (beAt b 0 4) false
  | 5 => d1.missedIn
  | 6 => d1.arrive (beAt b 0 1 % 64) (beAt b 1 1 % 16) (beAt b 4 4) (beAt b 2 1 % 16)
  | 7 => d1.timeIn (m.src % 8) (beAt b 0 8)
  | 8 => d1.timeBack (beAt b 0 8) (beAt b 8 8) (beAt b 16 8)
  | _ => d1
/-- A message arrives on the link of spar `n` (R427): consumed, forwarded, or both. -/
def msgIn (d : Dev) (n : Nat) (m : Msg) : Dev :=
  let onward := fun (x : Dev) =>
    if 7 ≤ m.hops then x.hopDrop else x.msgSend { m with hops := m.hops + 1 } (some n)
  if m.dst = 255 then (if m.src = d.fuses.stackId ∧ m.hops ≠ 0 then d else onward (d.consume n m))
  else if m.dst = d.fuses.stackId then d.consume n m
  else if (d.path? 128 m.dst).isNone then d.inc Reg.C_STK_PATH_DROP
  else onward d

/-! Frames of a link. -/

/-- A link frame arrives (R421, R423): of the next SEQ and a good CRC it is accepted, any other is answered with the last good ACK. -/
def frameArrive (d : Dev) (n : Nat) (f : Bytes) : Dev :=
  if !(d.link n).up then d
  else
    let body := f.take (f.length - 4)
    let h := beAt body 0 8
    let kind := bits h 63 60
    let ncell := bits h 43 40 + 1
    let seq := bits h 59 52
    let want := if kind = 0 then 8 + 288 * ncell else if kind = 1 then 40 else 8
    if f.length < 12 ∨ crc32c body ≠ beAt f (f.length - 4) 4 ∨ (kind < 2 ∧ (body.length ≠ want ∨ 8 < ncell)) then
      (d.inc Reg.C_STK_HL_CRC_ERR).hlAck n
    else if 2 < kind then d
    else if kind = 2 then d.ackIn n (bits h 51 44) (bits h 39 28) (bits h 27 22) true
    else if seq ≠ (d.link n).expSeq then d.hlAck n
    else
      let d1 := (d.updLink n (fun y => { y with expSeq := (y.expSeq + 1) % 256 })).ackIn n (bits h 51 44) (bits h 39 28) (bits h 27 22) false
      let d2 := if kind = 1 then d1.msgIn n (msgOf (body.drop 8))
        else (upto ncell).foldl (fun x i => x.cellArrive n (cellIn n (slice body (8 + 288 * i) 288))) d1
      d2.hlAck n

/-- A message row: the message in an accepted TYPE 1 frame of its link. A HELLO is also read on a link that is held down (R420). -/
def messageRow (d : Dev) (v : Via) (m : Msg) : Dev :=
  let n := v.link.val
  let x := d.link n
  if x.up then ((d.updLink n (fun y => { y with expSeq := (y.expSeq + 1) % 256 })).msgIn n { m with hops := v.hops }).hlAck n
  else if x.heldDown && m.kind == 1 && v.hops.val == 0 then d.consume n { m with hops := 0 }
  else d

end Dev

/-- HELLO_SEND (R420). -/
def execHelloSend (s : State) : Host.Outcome State Fault Refusal := finish s s.helloAll
/-- HELLO (R420). -/
def execHello (v : Via) (src : Fin 8) (size : BitVec 8) (peerMaster : Bool) (imageId : Word) (s : State) :
    Host.Outcome State Fault Refusal :=
  finish s (s.messageRow v { kind := 1, dst := 255, src := src
                             body := [by8 size.toNat, by8 (b2n peerMaster), 0, 0] ++ beBytes 4 imageId.toNat })
/-- ARM (R431). -/
def execArm (v : Via) (target imageId : Word) (s : State) : Host.Outcome State Fault Refusal :=
  finish s (s.messageRow v { kind := 2, dst := 255, src := 0, body := beBytes 4 target.toNat ++ beBytes 4 imageId.toNat })
/-- READY (R431). -/
def execReady (v : Via) (src : Fin 8) (target : Word) (s : State) : Host.Outcome State Fault Refusal :=
  finish s (s.messageRow v { kind := 3, dst := 0, src := src, body := beBytes 4 target.toNat })
/-- NOT_READY (R431). -/
def execNotReady (v : Via) (src : Fin 8) (target : Word) (cause : BitVec 8) (s : State) : Host.Outcome State Fault Refusal :=
  finish s (s.messageRow v { kind := 4, dst := 0, src := src, body := beBytes 4 target.toNat ++ [cause] })
/-- MISSED (R431). -/
def execMissed (v : Via) (src : Fin 8) (count : Word) (s : State) : Host.Outcome State Fault Refusal :=
  finish s (s.messageRow v { kind := 5, dst := 0, src := src, body := beBytes 4 count.toNat })
/-- BARRIER (R245). -/
def execBarrier (v : Via) (src : Fin 8) (gang : Fin 64) (bar : Fin 16) (gen : Word) (member : Fin 16) (s : State) :
    Host.Outcome State Fault Refusal :=
  finish s (s.messageRow v { kind := 6, dst := 255, src := src, body := [by8 gang, by8 bar, by8 member, 0] ++ beBytes 4 gen.toNat })
/-- TIME (R430): for this device. -/
def execTime (v : Via) (src : Fin 8) (tx : BitVec 64) (s : State) : Host.Outcome State Fault Refusal :=
  finish s (s.messageRow v { kind := 7, dst := s.fuses.stackId, src := src, body := beBytes 8 tx.toNat })
/-- TIME_RESP (R430): for this device. -/
def execTimeResp (v : Via) (src : Fin 8) (tx rxThere txThere : BitVec 64) (s : State) : Host.Outcome State Fault Refusal :=
  finish s (s.messageRow v { kind := 8, dst := s.fuses.stackId, src := src
                             body := beBytes 8 tx.toNat ++ beBytes 8 rxThere.toNat ++ beBytes 8 txThere.toNat })
/-- HALYARD_CELL_FRAME (R423). -/
def execHalyardCellFrame (n : Fin 128) (frame : Bytes) (s : State) : Host.Outcome State Fault Refusal := finish s (s.frameArrive n frame)
/-- HALYARD_ACK_FRAME (R423, R424): a good TYPE 2 frame. -/
def execHalyardAckFrame (n : Fin 128) (ack : BitVec 8) (creditGen : BitVec 12) (creditMgmt : BitVec 6) (s : State) :
    Host.Outcome State Fault Refusal :=
  finish s (if (s.link n).up then s.ackIn n ack.toNat creditGen.toNat creditMgmt.toNat true else s.toDev)
/-- REPLAY_TIMEOUT (R423). -/
def execReplayTimeout (n : Fin 128) (s : State) : Host.Outcome State Fault Refusal :=
  finish s (if (s.link n).up then s.linkReplay n else s.toDev)
/-- STK_CAL_START (R430). -/
def execStkCalStart (s : State) : Host.Outcome State Fault Refusal := finish s s.calStart
/-- CALIBRATION_DONE (R430). -/
def execCalibrationDone (s : State) : Host.Outcome State Fault Refusal := finish s s.calEnd
/-- STK_CNT_CLR (R436). -/
def execStkCntClr (s : State) : Host.Outcome State Fault Refusal := finish s (s.cntClr Reg.C_STK_HL_REPLAY 6)
/-- HELLO_REACH_EXPIRE (R420). -/
def execHelloReachExpire (id : Fin 8) (s : State) : Host.Outcome State Fault Refusal :=
  finish s (s.bset Reg.STK_STATUS (16 + id) false)

end Sys2Proof.Machine
end

