-- ==== Sys2Proof/Machine/Island.lean ====
section
/-!
DEFINITION. The Masthead island (R401–R418): power states, rails, wake sources, the wake sequence, Furled entry and its snapshots, the
RTC and the console UART; and supply and thermal monitoring (R437–R441, R447).
-/
namespace Sys2Proof.Machine

/-- The code of a power state (R402); OFF has none and reads 0. -/
def Power.code : Power → Nat
  | .off => 0
  | .cold => 1
  | .waking => 2
  | .run => 0
  | .entering => 3
  | .furled => 4

/-- The bytes of characters. -/
def chars (t : List Char) : List Byte := t.map (fun c => by8 c.toNat)
/-- A hexadecimal digit, lower case (log 35). -/
def hexDigit (x : Nat) : Byte := by8 (if x < 10 then 48 + x else 87 + x)
/-- The `n` hexadecimal digits of a number. -/
def hexOf (n x : Nat) : List Byte := (upto n).map (fun i => hexDigit (x / 16 ^ (n - 1 - i) % 16))

/-- The rail groups in the order in which they are raised (R403). -/
def railOrder : List Nat := [0, 2, 1, 3]

namespace Dev

/-- A change of the island. -/
def updIsland (d : Dev) (f : Island → Island) : Dev := { d with island := f d.island }
/-- Is the device in a power state? -/
def powered (d : Dev) (p : Power) : Bool := d.island.power == p
/-- Is the device in RUN, where the host reaches the MHI_ registers (R401)? -/
def inRun (d : Dev) : Bool := d.powered .run
/-- The power state changed. -/
def toPower (d : Dev) (p : Power) : Dev := d.updIsland (fun x => { x with power := p })
/-- Characters sent on the console. -/
def say (d : Dev) (cs : List Byte) : Dev := cs.foldl (fun x c => x.emit (.uart c)) d

/-! Resets (R404, R417, R438). -/

/-- Every domain but the island at reset (R404, R406, R417): the MHI_ registers, the flashes, the fuses and what has left the device
stay. -/
def domainReset (d : Dev) : Dev :=
  { Dev.reset with
    regs := d.regs.filter (fun p => decide (0x800 ≤ p.1) && decide (p.1 < 0x1000))
    fuses := d.fuses, island := { d.island with entryArmed := false, entryOpen := false, snapNew := none, slotUsed := none }
    outs := d.outs, freeCtr := d.freeCtr, stores := .lose :: d.stores }
/-- Everything at reset, the island too (R417): the flashes keep their snapshots. -/
def fullReset (d : Dev) (p : Power) : Dev :=
  { Dev.reset with
    fuses := d.fuses, island := { power := p, snaps := d.island.snaps }, outs := d.outs, freeCtr := d.freeCtr, stores := .lose :: d.stores }

/-! Rails (R403). -/

/-- A rail group's enable driven; a low enable takes its PWR_GOOD with it. -/
def railSet (d : Dev) (g : Nat) (on : Bool) : Dev :=
  let d1 := (d.bset Reg.MHI_PMIC_STATUS g on).emit (.rail g on)
  if on then d1 else d1.bset Reg.MHI_PMIC_STATUS (4 + g) false
/-- Are all four groups enabled and good? -/
def railsUp (d : Dev) : Bool := d.fget Reg.MHI_PMIC_STATUS 7 0 == 0xFF
/-- A wake starts (R409, R410): PWR_EN0 high. -/
def wakeStart (d : Dev) : Dev :=
  ((d.updIsland (fun x => { x with power := .waking, autoWait := false, wakeHeld := false, lanesDone := false, hbmDone := false
                                   imageDone := false, writeTry := 0 })).railSet 0 true)
/-- The last enable has fallen: FURLED, and a held wake event starts its wake (R404, R406, R409). -/
def railsDown (d : Dev) : Dev :=
  let d1 := d.toPower .furled
  if d1.island.wakeHeld then d1.wakeStart else d1
/-- The next enable dropped (R403). -/
def railStep (d : Dev) : Dev :=
  match d.island.dropping with
  | [] => d
  | g :: gs =>
    let d1 := (d.updIsland (fun x => { x with dropping := gs })).railSet g false
    if gs.isEmpty then d1.railsDown else d1
/-- Every enable dropped in reverse order, the first of them now (R403). -/
def railsDrop (d : Dev) : Dev :=
  let gs := railOrder.reverse.filter (fun g => d.bget Reg.MHI_PMIC_STATUS g)
  if gs.isEmpty then d.railsDown else (d.updIsland (fun x => { x with dropping := gs })).railStep
/-- A PWR_GOOD input rises: in WAKING the group after it is enabled (R403). -/
def goodRise (d : Dev) (g : Nat) : Dev :=
  let d1 := d.bset Reg.MHI_PMIC_STATUS (4 + g) true
  if d.powered .waking && d.bget Reg.MHI_PMIC_STATUS g && !d.bget Reg.MHI_PMIC_STATUS (4 + g) then
    match railOrder.find? (fun k => !d1.bget Reg.MHI_PMIC_STATUS k) with
    | some k => d1.railSet k true
    | none => d1
  else d1
/-- A PWR_GOOD stayed low for GOOD_TIMEOUT_US (R403). -/
def goodTimeout (d : Dev) (g : Nat) : Dev :=
  if d.powered .waking && d.bget Reg.MHI_PMIC_STATUS g && !d.bget Reg.MHI_PMIC_STATUS (4 + g) then
    ((((d.bset Reg.MHI_WAKE_CAUSE 18 true).fset Reg.MHI_PMIC_STATUS 11 8 g).toPower .furled).domainReset).railsDrop
  else d
/-- The rails dropped without a snapshot (R404, R441). -/
def powerLoss (d : Dev) (group : Nat) : Dev :=
  let d1 := ((d.bset Reg.MHI_WAKE_CAUSE 19 true).fset Reg.MHI_PMIC_STATUS 11 8 group).domainReset
  (d1.updIsland (fun x => { x with power := .furled, woken := false, autoWait := d.bget Reg.MHI_PMIC_CFG 16 })).railsDrop
/-- A PWR_GOOD input falls (R404). -/
def goodFall (d : Dev) (g : Nat) : Dev :=
  let d1 := d.bset Reg.MHI_PMIC_STATUS (4 + g) false
  if d.inRun then d1.powerLoss g else d1
/-- 10 ms after the last enable fell (R404). -/
def restartAuto (d : Dev) : Dev :=
  if d.powered .furled && d.island.autoWait && d.island.dropping.isEmpty then d.wakeStart else d

/-! Wake sources (R408, R409). -/

/-- Source `k` of the wake controller is true. -/
def wakeEvent (d : Dev) (k : Nat) : Dev :=
  if !d.bget Reg.MHI_WAKE_EN k then d
  else
    let first := (d.fset Reg.MHI_WAKE_CAUSE 15 0 (2 ^ k)).updIsland (fun x => { x with woken := true })
    let more := d.bset Reg.MHI_WAKE_CAUSE k true
    let held := (if d.island.wakeHeld then more else first).updIsland (fun x => { x with wakeHeld := true })
    match d.island.power with
    | .furled => if d.island.dropping.isEmpty then first.wakeStart else held
    | .entering => held
    | .waking => more
    | _ => d
/-- The interrupt source of a wake source (R383). -/
def wakeIrq (k : Nat) : Option Nat :=
  if k < 4 then some 29 else match k with | 4 => some 26 | 5 => some 27 | 6 => some 28 | 7 => some 30 | _ => none
/-- Pin `k` has stood at a level for `edges` SCLK edges (R408): true at the polarity in POL, after four of them where DEBOUNCE is set. Source 29
is the level of the pins. -/
def pinLevel (d : Dev) (k : Nat) (high : Bool) (edges : Nat) : Dev :=
  let set := fun (x : Dev) (v : Bool) => x.updIsland (fun y => { y with pins := BitVec.ofNat 4 (y.pins.toNat - y.pins.toNat / 2 ^ k % 2 * 2 ^ k + b2n v * 2 ^ k) })
  if high != d.bget Reg.MHI_WAKE_CFG k then set d false
  else if edges < (if d.bget Reg.MHI_WAKE_CFG (4 + k) then 4 else 1) then d
  else if d.inRun then (set d true).irqSync 29
  else (set d true).wakeEvent k
/-- A wake source that pulses its interrupt source in RUN (log 11). -/
def wakePulse (d : Dev) (k : Nat) : Dev :=
  match wakeIrq k with
  | some s => if d.inRun then d.irqPulse s else d.wakeEvent k
  | none => d.wakeEvent k
/-- The SMBus address byte matches MHI_SMB_ADDR (R408). -/
def smbMatch (d : Dev) (addr : Nat) : Dev :=
  if d.fget Reg.MHI_SMB_ADDR 6 0 = addr then (d.emit (.smbusAck addr)).wakePulse 6 else d
/-- The RTC alarm (R408). -/
def alarm (d : Dev) : Dev :=
  if d.bget Reg.MHI_RTC_CTRL 16 && decide (d.rd Reg.MHI_RTC_SEC = d.rd Reg.MHI_RTC_ALARM) then
    if d.inRun then d.irqSync 26 else d.wakeEvent 4
  else d
/-- PERST# rises (R365, R408). -/
def perstUp (d : Dev) : Dev := (d.updHost (fun h => { h with perst := false })).wakeRelease.wakeEvent 8

/-! The wake sequence (R410, R411). -/

/-- Is a SEQ newer than another in serial arithmetic (R407)? -/
def seqNewer (a b : Nat) : Bool := decide (0 < (a + 2 ^ 32 - b) % 2 ^ 32) && decide ((a + 2 ^ 32 - b) % 2 ^ 32 < 2 ^ 31)
/-- The newest snapshot, with its slot (R407). -/
def newestSnap (d : Dev) : Option (Nat × Snapshot) :=
  d.island.snaps.foldl (fun b p => match b with | none => some p | some q => if seqNewer p.2.seq q.2.seq then some p else b) none
/-- TICKS as it stands now (R418): no row counts SCLK, so it is a free value (log 135). -/
def ticks (d : Dev) : Nat × Dev := (d.freeWord.1.toNat % 32768, d.freeWord.2)
/-- The RTC in 0.25 ns. -/
def rtcTime (d : Dev) : Nat := (d.rd Reg.MHI_RTC_SEC).toNat * 4000000000 + d.ticks.1 * 4000000000 / 32768
/-- The PLLs lock (R410 step 3, R411): reset is released, the newest snapshot is taken, the time base is seeded from the RTC, and the
flashes are read. -/
def pllDone (d : Dev) : Dev :=
  if d.powered .waking && d.railsUp && d.loader.job.isNone && !d.island.imageDone then
    let d1 := match d.newestSnap with
      | some (s, x) =>
        (((d.updIsland (fun y => { y with slotUsed := some x })).fset Reg.MHI_SNAP_STATUS 5 0 s).fset Reg.MHI_SNAP_STATUS 31 16 x.seq
          ).setFreq x.freq
      | none => d
    let d2 := d1.updTime (fun t => { t with ticks := (d.rtcTime * timeUnit : Nat) })
    { d2.ticks.2.bset Reg.GLB_IMG_STATUS 4 true with loader := { d2.loader with job := some { flash := true }, reading := true } }
  else d
/-- READY once image, lanes and HBM3E are done (R410 step 7): RUN, and the wake's interrupt sources pend (R383). -/
def wakeReady (d : Dev) : Dev :=
  let x := d.island
  if d.powered .waking && x.imageDone && x.lanesDone && x.hbmDone then
    let d1 := (d.toPower .run).bset Reg.GLB_SLEEP_STATUS 4 true
    let d2 := d1.say (chars ['r', 'e', 'a', 'd', 'y'] ++ hexOf 8 (d1.rd Reg.GLB_IMG_ACTIVE_ID).toNat)
    let ks := (upto 8).filter (fun k => x.woken && d.bget Reg.MHI_WAKE_CAUSE k)
    (ks.filterMap wakeIrq).eraseDups.foldl pendSet (d2.updIsland (fun y => { y with woken := false }))
  else d
/-- HBM3E training ends. -/
def hbmReady (d : Dev) : Dev :=
  if d.powered .waking then (d.updIsland (fun x => { x with hbmDone := true })).wakeReady else d

/-! Lanes and the snapshot (R84–R86). -/

/-- The fields of a lane record in order (R85, log 121). -/
def recBytes (r : LaneRec) : Bytes :=
  leBytes 2 r.lane ++ leBytes 4 r.image.toNat ++ leBytes 1 (b2n r.held + 2 * b2n r.rev + 4 * b2n r.inv)
    ++ leBytes 4 r.taps.toNat ++ leBytes 4 r.eq.toNat ++ leBytes 2 r.ppm ++ r.ffe.map (fun x => BitVec.ofNat 8 (unsgn 8 x))
/-- The CRC-32C of a lane record over its fields. -/
def recCrc (r : LaneRec) : Word := wd (crc32c (recBytes r))
/-- The bytes of a snapshot slot (R407): the header, 1,024 lane records of 48 bytes, and the CRC-32C of them all. -/
def snapBytes (s : Snapshot) : Bytes :=
  let body := chars ['O', 'V', 'Q', 'S'] ++ leBytes 4 s.seq ++ leBytes 4 s.imageId.toNat ++ leBytes 4 s.count ++ leBytes 8 s.instant
    ++ leBytes 4 s.freq.toNat ++ leBytes 4 (b2n s.locked) ++ List.replicate 32 0
    ++ s.lanes.flatMap (fun r => (recBytes r ++ leBytes 4 r.crc.toNat ++ List.replicate 48 0).take 48)
  body ++ leBytes 4 (crc32c body)
/-- The bytes of even, and of odd, place in a list: what goes to XSPI0 and to XSPI1 (R38, R407). -/
def deal : Bytes → Bytes × Bytes
  | [] => ([], [])
  | [x] => ([x], [])
  | x :: y :: r => (x :: (deal r).1, y :: (deal r).2)
/-- A snapshot written to slot `s` of both flashes, each at 0x0080_0000 + s × 0x8000 (R407). -/
def flashPut (d : Dev) (s : Nat) (x : Snapshot) : Dev :=
  let a := 0x00800000 + s * 0x8000
  d.emits [.flashWrite 0 a (deal (snapBytes x)).1, .flashWrite 1 a (deal (snapBytes x)).2]
/-- The record of a lane. -/
def laneRec (d : Dev) (l : Nat) : LaneRec :=
  let r : LaneRec := { lane := l, image := d.rd Reg.GLB_IMG_ACTIVE_ID, crc := 0, held := (d.lane l).held
                       taps := d.rd (Reg.LANE_TX_TAPS l), eq := d.rd (Reg.LANE_RX_EQ l), ppm := d.fget (Reg.LANE_RX_STATUS l) 31 16
                       rev := d.bget (Reg.LANE_TRAIN_STATUS l) 4, inv := d.bget (Reg.LANE_TRAIN_STATUS l) 3, ffe := (d.lane l).ffe }
  { r with crc := recCrc r }
/-- A lane that starts from preset 1 (R85, R86). -/
def lanePreset (d : Dev) (l : Nat) : Dev :=
  (d.updLane l (fun x => { x with held := false })).wr (Reg.LANE_TX_TAPS l) (tapsWord (presetTaps 1))
/-- The override taps of a lane taken where they are enabled and inside the limits (R71, R94); once EN is 0 again the taps stay as the override
left them (DESIGN CHOICE, log 121). -/
def laneOverride (d : Dev) (l : Nat) : Dev :=
  let v := d.rd (Reg.LANE_TX_OVR l)
  if !wbit v 31 then d
  else if tapsOk (tapsOf v) then d.wr (Reg.LANE_TX_TAPS l) (tapsWord (tapsOf v))
  else d.laneEvent l 7
/-- A lane loaded from its record of the snapshot, where that has a good CRC, its number and the IMAGE_ID of the image just loaded; else it
starts from preset 1 (R85). With no snapshot at all every lane's record counts as refused (DESIGN CHOICE, log 121). -/
def laneLoad (d : Dev) (l : Nat) : Dev :=
  let st := Reg.LANE_TRAIN_STATUS l
  let good := match d.island.slotUsed with
    | some s => (s.lanes[l]?).filter (fun (r : LaneRec) => r.crc == recCrc r && r.lane == l && r.image == d.rd Reg.GLB_IMG_ACTIVE_ID)
    | none => none
  match good with
  | some r =>
    let d1 := ((((d.wr (Reg.LANE_TX_TAPS l) r.taps).wr (Reg.LANE_RX_EQ l) r.eq).fset (Reg.LANE_RX_STATUS l) 31 16 r.ppm).bset st 4 r.rev)
    (((d1.bset st 3 r.inv).bset st 13 false).bset st 12 true).updLane l (fun x => { x with held := r.held, ffe := r.ffe })
  | none => ((d.lanePreset l).bset st 13 true).bset st 12 false
/-- Every lane loaded at a wake (R85 step 3). -/
def lanesLoad (d : Dev) : Dev := (upto 1024).foldl (fun x l => (x.laneLoad l).laneOverride l) d
/-- ADC calibration ends (R85 step 4): the lanes in use wait for a signal. -/
def lanesReady (d : Dev) : Dev :=
  let d1 := (upto 1024).foldl (fun x l => if x.laneState l = lsOff then x.laneStart l else x) d
  (d1.updIsland (fun x => { x with lanesDone := true })).wakeReady

/-! Furled entry (R405–R407). -/

/-- Why a sleep request is refused: 0 where it is not (R405). -/
def sleepCause (d : Dev) : Nat :=
  let sqs := (d.listed 0x0E01 0).filter (fun q => d.tf 0x0E01 0 q 2 9 8 != 0)
  if sqs.any (fun q => !d.bget (Reg.HQ_SQ_CTRL q) 4) then 1
  else if d.host.dmas.any (fun p => p.2.active) then 2
  else if d.bget Reg.GLB_IMG_STATUS 4 then 3
  else 0
/-- REQ written 1 (R405). -/
def sleepAsk (d : Dev) : Dev :=
  if !d.inRun then d
  else if d.sleepCause ≠ 0 then (d.fset Reg.GLB_SLEEP_STATUS 11 8 d.sleepCause).bset Reg.GLB_SLEEP_STATUS 5 true
  else
    let d1 := (d.updCommit (fun c => { c with arm := none, decided := false })).bset Reg.GLB_COMMIT_CTRL 0
      (d.commit.window && d.commit.swap)
    ((d1.updIsland (fun x => { x with power := .entering, entryArmed := true })).bset Reg.GLB_SLEEP_CTRL 0 true).commitEvent 1
/-- REQ written 0 (R405). -/
def sleepBack (d : Dev) : Dev :=
  if d.island.entryArmed && !d.island.entryOpen then
    (d.updIsland (fun x => { x with power := .run, entryArmed := false })).bset Reg.GLB_SLEEP_CTRL 0 false
  else d
/-- The wake mask that IRQ_WAKE_EN gives (R383, R408). -/
def wakeMask (v : Word) : Nat :=
  b2n (wbit v 0) * 16 + b2n (wbit v 1) * 32 + b2n (wbit v 2) * 64 + b2n (wbit v 3) * 15 + b2n (wbit v 4) * 128
/-- The entry boundary (R406 step 1): everything is fenced, the lane records are captured, the RTC is set. -/
def furledStart (d : Dev) : Dev :=
  let t := d.time.last.quarterNs
  let seq := ((d.newestSnap.map (fun p => p.2.seq)).getD 0 + 1) % 2 ^ 32
  let snap : Snapshot := { seq := seq, imageId := d.rd Reg.GLB_IMG_ACTIVE_ID, count := (d.rd Reg.GLB_PERIOD_COUNT).toNat, instant := t
                           freq := d.rd Reg.PTP_FREQ, locked := d.bget Reg.PTP_STATUS 0, lanes := (upto 1024).map d.laneRec }
  let d1 := d.updIsland (fun x => { x with entryArmed := false, entryOpen := false, writeTry := 0, snapNew := some snap })
  let d2 := (d1.namedPorts.filter (fun p => !d1.portFenced p)).foldl fenceOn d1
  let d3 := d2.updFault (fun x => { x with fencedEngines := upto 128, fencedWalls := upto 128 })
  let d4 := (upto 1024).foldl (fun x l => if x.laneState l = lsOff then x else x.laneTo l lsOff) d3
  let d5 := if d.bget Reg.MHI_RTC_CTRL 17 && d.bget Reg.PTP_STATUS 0 then
      (d4.wr Reg.MHI_RTC_SEC (wd (t / 4000000000))).wr Reg.MHI_RTC_SUB (wd (t % 4000000000 * 32768 / 4000000000)) else d4
  d5.fset Reg.MHI_WAKE_EN 7 0 (wakeMask (d.rd Reg.IRQ_WAKE_EN))
/-- The snapshot has been written and read back (R406, R407). A slot that fails read-back gives way to the one after it, once. -/
def snapDone (d : Dev) (good : Bool) : Dev :=
  match d.island.snapNew with
  | none => d
  | some s =>
    let slot := (d.fget Reg.MHI_SNAP_STATUS 5 0 + 1 + d.island.writeTry) % 64
    let d0 := ((d.bset Reg.MHI_SNAP_STATUS 8 false).updIsland (fun x => { x with eraseAt := 0 })).flashPut slot s
    if good then
      let d1 := (d0.updIsland (fun x => { x with snaps := SMap.put x.snaps slot s })).fset Reg.MHI_SNAP_STATUS 5 0 slot
      ((d1.fset Reg.MHI_SNAP_STATUS 31 16 s.seq).domainReset).railsDrop
    else
      let d1 := d0.updIsland (fun x => { x with snaps := SMap.erase x.snaps slot, writeTry := x.writeTry + 1 })
      if d.island.writeTry = 0 then d1 else ((d1.bset Reg.MHI_WAKE_CAUSE 20 true).domainReset).railsDrop
/-- One 4 KiB sector of the next slot erased (R407): 8 sectors in each flash. -/
def snapErase (d : Dev) : Dev :=
  if d.inRun && !d.bget Reg.MHI_SNAP_STATUS 8 then
    let slot := (d.fget Reg.MHI_SNAP_STATUS 5 0 + 1) % 64
    let k := d.island.eraseAt + 1
    let d1 := d.updIsland (fun x => { x with snaps := SMap.erase x.snaps slot, eraseAt := k })
    if k = 16 then (d1.updIsland (fun x => { x with eraseAt := 0 })).bset Reg.MHI_SNAP_STATUS 8 true else d1
  else d

/-! Warm reset (R417). -/

/-- Everything but the island is reset while the rails stay on; the wake sequence runs from step 3. -/
def warmReset (d : Dev) : Dev :=
  if d.railsUp && d.island.dropping.isEmpty then
    let d1 := (d.bset Reg.MHI_WAKE_CAUSE 17 true).domainReset
    d1.updIsland (fun x => { x with power := .waking, wakeHeld := false, woken := false, lanesDone := false, hbmDone := false, imageDone := false })
  else d

/-! The RTC and the console (R412–R415, R418). -/

/-- One second on the RTC. -/
def rtcTick (d : Dev) : Dev := ((d.wr Reg.MHI_RTC_SEC (d.rd Reg.MHI_RTC_SEC + 1)).wr Reg.MHI_RTC_SUB 0).irqSync 26
/-- A read of MHI_RTC_SUB latches SEC (R10, R418). -/
def subRead (d : Dev) : Dev :=
  (d.ticks.2.updIsland (fun y => { y with secLatch := d.rd Reg.MHI_RTC_SEC })).emit (.readData Reg.MHI_RTC_SUB (wd d.ticks.1))
/-- MHI_RTC_SEC written: TICKS is zeroed. -/
def rtcWrite (d : Dev) (sec : Word) : Dev := ((d.wr Reg.MHI_RTC_SEC sec).wr Reg.MHI_RTC_SUB 0).irqSync 26
/-- A read of MHI_UART_DATA. -/
def uartPop (d : Dev) : Dev :=
  match d.island.rx with
  | [] => d.emit (.readData Reg.MHI_UART_DATA 0)
  | c :: cs => (d.updIsland (fun y => { y with rx := cs })).emit (.readData Reg.MHI_UART_DATA (wd (2 ^ 31 + c)))
/-- A character queued to transmit; discarded where the FIFO is full. -/
def uartPut (d : Dev) (c : Byte) : Dev :=
  if 16 ≤ d.island.tx.length then d else d.updIsland (fun y => { y with tx := y.tx ++ [c], fclk := true })
/-- The UART finishes a character (R412). -/
def uartOut (d : Dev) : Dev :=
  match d.island.tx with
  | [] => d
  | c :: cs => (d.updIsland (fun y => { y with tx := cs })).emit (.uart c)
/-- FCLK stops once the TX FIFO is empty (R412). -/
def uartIdle (d : Dev) : Dev := if d.island.tx.isEmpty then d.updIsland (fun y => { y with fclk := false }) else d
/-- A monitor line is taken (R415), where the monitor is on; in FURLED only `s` is. -/
def monitor (d : Dev) (status : Bool) (f : Dev → Dev) : Dev :=
  if d.bget Reg.MHI_UART_CFG 8 && (status || !d.powered .furled) && !d.powered .off then
    f (d.updIsland (fun y => { y with line := [] }))
  else d
/-- The `s` reply (R415). -/
def statusReply (d : Dev) : Dev :=
  if d.powered .furled then d.say (hexOf 1 d.island.power.code)
  else d.say (hexOf 1 d.island.power.code ++ hexOf 1 (d.fget Reg.GLB_IMG_STATUS 3 0) ++ (upto 16).flatMap (fun c => hexOf 1 (d.classLevel c)))

/-- A write to an MHI_ register (R401, R418): from the host or the monitor, or a pair of an image, which triggers no WO, W1S or W1C
field (R454). -/
def mhiWrite (d : Dev) (r : RegDef) (a : Nat) (v : Word) (image : Bool) : Dev :=
  let new := if image then r.pair (d.rd a) v else r.host (d.rd a) v
  if a = Reg.MHI_RTC_SEC then d.rtcWrite v
  else if a = Reg.MHI_UART_DATA then (if image then d else d.uartPut (by8 v.toNat))
  else if a = Reg.MHI_RESET_CTRL then (if !image && wbit v 0 then d.warmReset else d)
  else if a = Reg.MHI_RTC_ALARM ∨ a = Reg.MHI_RTC_CTRL then (d.wr a new).irqSync 26
  else if a = Reg.MHI_UART_CFG then (d.wr a new).irqSync 27
  else d.wr a new

/-! Supply and temperature (R439–R441, R447). -/

/-- The hottest of a list, with its index: the first among equals. -/
def hottest : List Nat → Nat → Nat × Nat → Nat × Nat
  | [], _, b => b
  | x :: xs, i, b => hottest xs (i + 1) (if b.1 < x then (x, i) else b)
/-- A threshold with its hysteresis of 5 °C (R439). -/
def threshold (d : Dev) (src bit' t hot : Nat) : Dev :=
  if t ≤ hot ∧ !d.fault.causes.contains src then ((d.cause src true).envEvent bit').flag src hot
  else if hot + 5 < t then d.cause src false
  else d
/-- The sensors read. -/
def sensors (d : Dev) (junction : List Nat) (hbm : Nat) : Dev :=
  let (hot, i) := hottest (junction.take 16) 0 (0, 0)
  let a := Reg.GLB_ENV_STATUS
  let was := d.fget a 23 16
  let d1 := ((d.fset a 7 0 (min 255 hot)).fset a 11 8 i).fset a 23 16 (min 255 hbm)
  let d2 := if was ≤ 85 ∧ 85 < hbm then d1.envEvent 4 else d1
  (d2.threshold 35 0 (d.fget Reg.GLB_THERM_CFG 7 0) hot).threshold 36 1 110 hot
/-- The operating range of a rail in mV, by its place in RAIL_OOR (R437, R447). -/
def railRange (rail : Nat) : Nat × Nat :=
  [(728, 773), (776, 824), (873, 927), (1164, 1236), (1067, 1133), (388, 412), (1746, 1854), (1710, 1890)].getD rail (0, 0)
/-- Is a voltage in mV inside a rail's range? -/
def railOk (rail mv : Nat) : Bool := decide ((railRange rail).1 ≤ mv) && decide (mv ≤ (railRange rail).2)
/-- A rail has stood at a voltage for a time: outside its range for more than 10 µs, source 37 (R439). -/
def supplyOut (d : Dev) (rail mv us : Nat) : Dev :=
  if d.bget Reg.GLB_ENV_STATUS (24 + rail) || railOk rail mv || decide (us ≤ 10) then d
  else (((d.bset Reg.GLB_ENV_STATUS (24 + rail) true).cause 37 true).envEvent 2).flag 37 rail
/-- A rail stands at a voltage: back in its range, its part of source 37 ends (R439). -/
def supplyIn (d : Dev) (rail mv : Nat) : Dev :=
  if !railOk rail mv then d else
  let d1 := d.bset Reg.GLB_ENV_STATUS (24 + rail) false
  if d1.fget Reg.GLB_ENV_STATUS 31 24 = 0 then d1.cause 37 false else d1
/-- The hottest junction has stood at or above a temperature for a time: at 115 °C for 100 µs the rails are dropped (R441). -/
def tripRails (d : Dev) (junction us : Nat) : Dev :=
  if junction < 115 ∨ us < 100 ∨ d.fget Reg.MHI_PMIC_STATUS 3 0 = 0 then d else d.powerLoss 0xF
/-- Is a rail below its threshold of R440, in mV? -/
def drooped (core sram : Nat) : Bool := decide (core < 735) || decide (sram < 784)
/-- VDD_CORE and VDD_SRAM stand at voltages (R440): below a threshold an episode begins, reported at Grey unless one was reported within the
last 1 ms. `since` counts the µs since the last report. -/
def droop (d : Dev) (core sram : Nat) (since : Option Nat) : Dev :=
  if d.time.stretch || !drooped core sram then d
  else
    let d1 := (d.updTime (fun t => { t with stretch := true })).regInc Reg.GLB_ENV_STRETCH
    if since.any (fun us => decide (us < 1000)) then d1 else (d1.envEvent 3).flag 38 0
/-- A read of GLB_ENV_STRETCH. -/
def stretchRead (d : Dev) : Dev := (d.emit (.readData Reg.GLB_ENV_STRETCH (d.rd Reg.GLB_ENV_STRETCH))).wr Reg.GLB_ENV_STRETCH 0

end Dev

/-- LANE_RESTART_DONE (R85). -/
def execLaneRestartDone (s : State) : Host.Outcome State Fault Refusal := finish s s.lanesReady
/-- POWER_ON_RESET (R402). -/
def execPowerOnReset (s : State) : Host.Outcome State Fault Refusal := finish s (s.fullReset .cold)
/-- PORN_ASSERT (R417). -/
def execPornAssert (s : State) : Host.Outcome State Fault Refusal := finish s (s.fullReset .off)
/-- COLD_CRYSTAL_READY (R402). -/
def execColdCrystalReady (s : State) : Host.Outcome State Fault Refusal :=
  finish s (if s.powered .cold then s.wakeStart else s.toDev)
/-- WAKE_PIN (R408). -/
def execWakePin (k : Fin 4) (high : Bool) (edges : Nat) (s : State) : Host.Outcome State Fault Refusal := finish s (s.pinLevel k high edges)
/-- RTC_ALARM (R408). -/
def execRtcAlarm (s : State) : Host.Outcome State Fault Refusal := finish s s.alarm
/-- RTC_SECOND_TICK (R418). -/
def execRtcSecondTick (s : State) : Host.Outcome State Fault Refusal := finish s s.rtcTick
/-- SMBUS_ADDRESS_MATCH (R408). -/
def execSmbusAddressMatch (addr : BitVec 7) (s : State) : Host.Outcome State Fault Refusal := finish s (s.smbMatch addr.toNat)
/-- STACK_WAKE_RELAY (R433): the General Call address and the byte 0x5A, each with its ACK. -/
def execStackWakeRelay (s : State) : Host.Outcome State Fault Refusal := finish s ((s.emits [.smbusAck 0, .smbusAck 0x5A]).wakePulse 7)
/-- PERST_RISE (R408). -/
def execPerstRise (s : State) : Host.Outcome State Fault Refusal := finish s s.perstUp
/-- PWR_GOOD_RISE (R403). -/
def execPwrGoodRise (g : Fin 4) (s : State) : Host.Outcome State Fault Refusal := finish s (s.goodRise g)
/-- PWR_GOOD_TIMEOUT (R403). -/
def execPwrGoodTimeout (g : Fin 4) (s : State) : Host.Outcome State Fault Refusal := finish s (s.goodTimeout g)
/-- BROWNOUT (R404). -/
def execBrownout (g : Fin 4) (s : State) : Host.Outcome State Fault Refusal := finish s (s.goodFall g)
/-- AUTO_RESTART (R404). -/
def execAutoRestart (s : State) : Host.Outcome State Fault Refusal := finish s s.restartAuto
/-- RAIL_DOWN_STEP (R403). -/
def execRailDownStep (s : State) : Host.Outcome State Fault Refusal := finish s s.railStep
/-- PLL_LOCK_DONE (R410). -/
def execPllLockDone (s : State) : Host.Outcome State Fault Refusal := finish s s.pllDone
/-- HBM_TRAINING_DONE (R410). -/
def execHbmTrainingDone (s : State) : Host.Outcome State Fault Refusal := finish s s.hbmReady
/-- SLEEP_REQUEST (R405). -/
def execSleepRequest (s : State) : Host.Outcome State Fault Refusal := finish s s.sleepAsk
/-- SLEEP_CANCEL (R405). -/
def execSleepCancel (s : State) : Host.Outcome State Fault Refusal := finish s s.sleepBack
/-- SNAPSHOT_WRITE_DONE (R406). -/
def execSnapshotWriteDone (good : Bool) (s : State) : Host.Outcome State Fault Refusal := finish s (s.snapDone good)
/-- SNAPSHOT_ERASE_SECTOR (R407). -/
def execSnapshotEraseSector (s : State) : Host.Outcome State Fault Refusal := finish s s.snapErase
/-- WRSTN_ASSERT (R417). -/
def execWrstnAssert (s : State) : Host.Outcome State Fault Refusal := finish s s.warmReset
/-- WARM_RESET (R417): MHI_RESET_CTRL is reached in RUN. -/
def execWarmReset (s : State) : Host.Outcome State Fault Refusal := finish s (if s.inRun then s.warmReset else s.toDev)
/-- UART_CHARACTER_SENT (R412). -/
def execUartCharacterSent (s : State) : Host.Outcome State Fault Refusal := finish s s.uartOut
/-- MONITOR_STATUS (R415). -/
def execMonitorStatus (s : State) : Host.Outcome State Fault Refusal := finish s (s.monitor true Dev.statusReply)
/-- MONITOR_ERR (R415). -/
def execMonitorErr (s : State) : Host.Outcome State Fault Refusal := finish s (s.monitor false (fun x => x.say (chars ['e', 'r', 'r'])))
/-- FCLK_STOP (R412). -/
def execFclkStop (s : State) : Host.Outcome State Fault Refusal := finish s s.uartIdle
/-- UART_DATA_READ (R418): the host reaches the register in RUN. -/
def execUartDataRead (s : State) : Host.Outcome State Fault Refusal := finish s (if s.inRun then s.uartPop else s.toDev)
/-- UART_DATA_WRITE (R418). -/
def execUartDataWrite (c : Byte) (s : State) : Host.Outcome State Fault Refusal := finish s (if s.inRun then s.uartPut c else s.toDev)
/-- RTC_SET (R418). -/
def execRtcSet (sec : Word) (s : State) : Host.Outcome State Fault Refusal := finish s (if s.inRun then s.rtcWrite sec else s.toDev)
/-- RTC_SUB_READ (R418): SEC is latched (R10). -/
def execRtcSubRead (s : State) : Host.Outcome State Fault Refusal := finish s (if s.inRun then s.subRead else s.toDev)
/-- SENSOR_READ (R439). -/
def execSensorRead (junction : List Nat) (hbm : Nat) (s : State) : Host.Outcome State Fault Refusal := finish s (s.sensors junction hbm)
/-- SUPPLY_OUT_OF_RANGE (R439). -/
def execSupplyOutOfRange (rail : Fin 8) (mv us : Nat) (s : State) : Host.Outcome State Fault Refusal := finish s (s.supplyOut rail mv us)
/-- SUPPLY_BACK_IN_RANGE (R439). -/
def execSupplyBackInRange (rail : Fin 8) (mv : Nat) (s : State) : Host.Outcome State Fault Refusal := finish s (s.supplyIn rail mv)
/-- THERMAL_TRIP (R441). -/
def execThermalTrip (junction us : Nat) (s : State) : Host.Outcome State Fault Refusal := finish s (s.tripRails junction us)
/-- DROOP_DETECT (R440). -/
def execDroopDetect (core sram : Nat) (since : Option Nat) (s : State) : Host.Outcome State Fault Refusal :=
  finish s (s.droop core sram since)
/-- STRETCH_END (R440): both rails have stayed above their thresholds for a number of cycles. -/
def execStretchEnd (core sram cycles : Nat) (s : State) : Host.Outcome State Fault Refusal :=
  finish s (if Dev.drooped core sram || decide (cycles < 64) then s.toDev else s.updTime (fun t => { t with stretch := false }))
/-- ENV_STRETCH_READ (R447). -/
def execEnvStretchRead (s : State) : Host.Outcome State Fault Refusal := finish s s.stretchRead

end Sys2Proof.Machine
end

