-- ==== Sys2Proof/Machine/Image.lean ====
section
/-!
DEFINITION. Brepel images (R31–R42, R454): the checks in the order of their codes, what the sections build, the loads from the host and
from the flashes, and the end of an expansion.
-/
namespace Sys2Proof.Machine

/-- A section (R32). -/
structure Sect where
  kind : Nat
  sflags : Nat
  resv : Nat
  target : Nat
  payload : Bytes
  deriving DecidableEq, Repr

/-- The header of a section and its payload, from the start of `b`. -/
def sectOf (b : Bytes) : Sect :=
  { kind := leAt b 0 1, sflags := leAt b 1 1, resv := leAt b 2 2, target := leAt b 8 4, payload := slice b 12 (leAt b 4 4) }
/-- `n` sections back to back, with what is left; none where one passes the end. -/
def sects : Nat → Bytes → Option (List Sect × Bytes)
  | 0, b => some ([], b)
  | n + 1, b =>
    if b.length < 12 + leAt b 4 4 ∨ b.length < 12 then none
    else match sects n (b.drop (12 + leAt b 4 4)) with
      | some (ss, r) => some (sectOf b :: ss, r)
      | none => none

/-! The header (R31) and the checks that need no more than it and the bytes (R35–R37). -/

/-- LENGTH. -/
def imgLength (b : Bytes) : Nat := leAt b 8 4
/-- FLAGS.DELTA. -/
def imgDelta (b : Bytes) : Bool := bit (leAt b 14 2) 0
/-- FLAGS.SIGNED. -/
def imgSigned (b : Bytes) : Bool := bit (leAt b 14 2) 1
/-- STACK_SIZE. -/
def imgSize (b : Bytes) : Nat := leAt b 16 1
/-- IMAGE_ID. -/
def imgId (b : Bytes) : Nat := leAt b 20 4
/-- BASE_ID. -/
def imgBase (b : Bytes) : Nat := leAt b 24 4
/-- Where the last section ends, by the sum of R35. -/
def imgEnd (b : Bytes) : Nat := imgLength b - (if imgSigned b then 200 else 0)
/-- Codes 1 to 3 as far as the header tells (R37): 0 where it passes. -/
def headCode (b : Bytes) : Nat :=
  let target := leAt b 17 1
  if b.take 4 ≠ [0x4F, 0x56, 0x51, 0x42] then 1
  else if leAt b 4 2 ≠ 1 ∨ 4 ≤ leAt b 14 2 ∨ leAt b 18 2 ≠ 0 ∨ leAt b 12 2 = 0 ∨ imgSize b = 0 ∨ 8 < imgSize b
      ∨ (8 ≤ target ∧ target < 255) ∨ imgId b = 0 ∨ (imgDelta b = false ∧ imgBase b ≠ 0) ∨ (imgDelta b = true ∧ imgBase b = 0) then 2
  else if imgLength b < 44 ∨ 8388608 < imgLength b ∨ imgLength b % 4 ≠ 0 then 3
  else 0
/-- The sections of an image; none where they do not end where R35 puts the end of the last one. -/
def imgSects (b : Bytes) : Option (List Sect) :=
  match sects (leAt b 12 2) ((b.take (imgEnd b)).drop 32) with
  | some (ss, []) => if 32 ≤ imgEnd b then some ss else none
  | _ => none
/-- Does the CRC of the header match (R31)? -/
def crcOk (b : Bytes) : Bool := crc32c (patch (b.take (imgEnd b)) 28 [0, 0, 0, 0]) == leAt b 28 4
/-- The signature policy (R36): 0 accepted, else code 5 or 6. -/
def signCode (hash : Bytes) (b : Bytes) : Nat :=
  if hash.all (fun x => x == 0) then 0
  else if !imgSigned b then 5
  else
    let s := slice b (imgEnd b) 200
    let key := s.take 97
    if key.head? = some 4 ∧ slice s 97 3 = [0, 0, 0] ∧ slice s 196 4 = [0, 0, 0, 0] ∧ Config.sha384 key = hash
        ∧ Config.ecdsaP384 key (Config.sha384 (b.take (imgEnd b))) (slice s 100 48) (slice s 148 48) = true then 0
    else 6

/-- What the sections of an image build: the device with them, whether one is refused, whether a class L one is touched, the pairs for
the island, the golden copies' bytes (engine, offset, bytes), and the keys of the class B entries. -/
structure Build where
  dev : Dev
  bad : Bool := false
  loads : Bool := false
  mhi : List (Nat × Word) := []
  golden : List (Nat × Nat × Bytes) := []
  keys : List Nat := []
  /-- The class B registers set. -/
  regs : List Nat := []
  deriving DecidableEq, Repr

namespace Build

/-- A build that is refused. -/
def refuse (b : Build) : Build := { b with bad := true }

/-- A pair of a Register section (R454): in a delta, class B goes to the shadow alone. A value that the register's field table refuses
refuses the image, whatever a later pair makes of it. -/
def pair (delta : Bool) (b : Build) (a : Nat) (v : Word) : Build :=
  match Reg.at? a with
  | none => b.refuse
  | some r =>
    if 0x800 ≤ a ∧ a < 0x1000 then (if a = Reg.MHI_UART_DATA then b.refuse else { b with mhi := b.mhi ++ [(a, v)] })
    else match r.cls with
      | .I => b.refuse
      | .L =>
        let x := r.pair (b.dev.rd a) v
        { b with loads := true, dev := b.dev.wr a x, bad := b.bad || Dev.valueBad a x }
      | .B =>
        let x := r.pair (if delta then b.dev.rdSh a else b.dev.rd a) v
        { b with dev := if delta then b.dev.wrSh a x else b.dev.wrBoth a x
                 regs := b.regs ++ [a], bad := b.bad || Dev.valueBad a x }
/-- The pairs of a Register section, their offsets from `base`, each below `lim`. -/
def pairs (delta : Bool) (base lim : Nat) (b : Build) : List Word → Build
  | a :: v :: ws =>
    if lim ≤ a.toNat then b.refuse else pairs delta base lim (b.pair delta (base + a.toNat) v) ws
  | [] => b
  | _ => b.refuse

/-- The entries of a Table section from index `i` on. -/
def entries (delta : Bool) (t : TabDef) (n : Nat) (b : Build) (i : Nat) : Nat → List Word → Build
  | 0, _ => b
  | k + 1, ws =>
    let e := ws.take t.words
    let key := tkey t.id n i
    let b0 := if Dev.entryBad0 t.id i e then b.refuse else b
    let b1 : Build := match t.cls with
      | .L => { b0 with loads := true, dev := b.dev.tabSet t.id n i e }
      | _ => if delta then { b0 with dev := b.dev.shTabPut key e, keys := b.keys ++ [key] }
             else { b0 with dev := b.dev.tabBoth t.id n i e, keys := b.keys ++ [key] }
    entries delta t n b1 (i + 1) k (ws.drop t.words)
/-- A Table section (R32): `n` is its spar in a broadcast. A table that each spar has is reached by a broadcast alone. -/
def table (delta : Bool) (spar : Option Nat) (target : Nat) (b : Build) (ws : List Word) : Build :=
  match tab? (target / 65536), ws with
  | some t, start :: es =>
    let k := es.length / t.words
    if target % 65536 ≠ 0 ∨ t.cls = .ro ∨ es.length % t.words ≠ 0 ∨ t.entries < start.toNat + k ∨ t.entries ≤ start.toNat
        ∨ (t.perSpar = true ∧ spar = none) then b.refuse
    else b.entries delta t (if t.perSpar then spar.getD 0 else 0) start.toNat k es
  | _, _ => b.refuse

/-- Parse microwords stored from an address on (R32, R119). -/
def parseStore (n st a : Nat) (b : Build) : List Word → Build
  | lo :: hi :: ws =>
    if fld hi 31 16 ≠ 0 ∨ (fld hi 15 14 = 2 ∧ 12 < fld hi 9 6) ∨ 256 ≤ a then b.refuse
    else parseStore n st (a + 1) { b with loads := true, dev := b.dev.tabSet tidParse n (256 * st + a) [lo, hi] } ws
  | [] => b
  | _ => b.refuse
/-- Engine microwords with their parity bits stored from an address on, with their golden copies (R32, R33). -/
def engineStore (n a : Nat) (b : Build) : List Word → Build
  | w :: ws =>
    if 8192 ≤ a then b.refuse
    else engineStore n (a + 1) { b with
      loads := true, dev := b.dev.tabSet tidEngine n a [w, oddParity w]
      golden := b.golden ++ [(n, 4 * a, leBytes 4 w.toNat)] } ws
  | [] => b
/-- A Microcode section for a spar (R32). -/
def micro (n target : Nat) (b : Build) : List Word → Build
  | start :: ws =>
    let kind := target / 2 ^ 24
    let st := bits target 15 8
    if target % 256 ≠ 0 ∨ 128 ≤ n then b.refuse
    else if kind = 1 ∧ st ≤ 15 ∧ start.toNat < 256 then b.parseStore n st start.toNat ws
    else if kind = 2 ∧ st = 0 ∧ start.toNat < 8192 then b.engineStore n start.toNat ws
    else b.refuse
  | [] => b.refuse

/-- The inner section of a broadcast for one spar (R33). -/
def inner (delta : Bool) (s : Sect) (b : Build) (n : Nat) : Build :=
  let ws := wordsOf s.payload
  match s.kind with
  | 1 => if s.target ≠ 0 then b.refuse else b.pairs delta (Reg.spar n) 0x40000 ws
  | 2 => b.table delta (some n) s.target ws
  | 3 => b.micro n s.target ws
  | _ => b.refuse

/-- Is a broadcast's inner section refused though no spar is selected? It is judged as for spar 1, and as for spar 0 whose device-wide
registers it may then name (R33). -/
def innerBad (delta : Bool) (d : Dev) (s : Sect) : Bool :=
  [0, 1].all (fun n => (inner delta s { dev := d } n).bad)
/-- A section (R32–R34). -/
def sect (delta : Bool) (b : Build) (s : Sect) : Build :=
  let ws := wordsOf s.payload
  if 2 ≤ s.sflags ∨ s.resv ≠ 0 ∨ s.payload.length % 4 ≠ 0 then b.refuse
  else match s.kind with
    | 1 => if s.target ≠ 0 then b.refuse else b.pairs delta 0 (2 ^ 32) ws
    | 2 => b.table delta none s.target ws
    | 3 => b.micro (bits s.target 23 16) s.target ws
    | 4 =>
      let i := sectOf (s.payload.drop 16)
      if s.target ≠ 0 ∨ s.payload.length < 28 ∨ 2 ≤ i.sflags ∨ i.resv ≠ 0 ∨ s.payload.length ≠ 28 + leAt s.payload 20 4 then b.refuse
      else
        let picked := (upto 128).filter (fun n => bit (leAt s.payload 0 16) n)
        if picked.isEmpty then (if innerBad delta b.dev i then b.refuse else b) else picked.foldl (inner delta i) b
    | _ => if s.sflags = 1 then b else b.refuse

end Build

namespace Dev

/-- What a full image starts from: registers and tables of both banks at reset, immediate registers and read-only tables as they are. -/
def loadBase (d : Dev) : Dev :=
  { d with
    regs := d.regs.filter (fun p => clsAt p.1 == .I), shadow := []
    tabs := d.tabs.filter (fun p => match tab? (p.1 / 2 ^ 28) with | some t => t.cls == .ro | none => false), shTabs := [] }
/-- The lane rate that a port mode gives (R68, R93). -/
def modeRate (mode : Nat) : Nat := if mode = 5 then 2 else if mode = 0 ∨ mode = 7 then 0 else 1
/-- The place of engine `n`'s golden copy, in 4 KiB units: inside the reserved region, chosen by the loader (R332, log 7). -/
def goldenAt (d : Dev) (n : Nat) : Word :=
  d.rd Reg.FMC_RSV_BASE + wd ((Config.goldenBase n).toNat % atLeast1 ((d.rd Reg.FMC_RSV_SIZE).toNat - 7))
/-- What the device derives by itself (R454): the lanes' rates, and the places of the golden copies. -/
def derived (d : Dev) : Dev :=
  (upto 128).foldl (fun x n =>
    ((upto 8).foldl (fun y i => y.fset (Reg.LANE_CFG (8 * n + i)) 17 16 (modeRate (x.portMode n))) x).wr (Reg.CE_GOLDEN n)
      (x.goldenAt n)) d
/-- What an image builds on the device. -/
def build (d : Dev) (img : Bytes) : Build :=
  let delta := imgDelta img
  let b := ((imgSects img).getD []).foldl (Build.sect delta) { dev := if delta then d else d.loadBase }
  if delta then b else { b with dev := b.dev.derived }

/-- Codes 7 to 10 (R37, R419): the stack, the sections, and the settings that the image would leave. -/
def buildCode (d : Dev) (img : Bytes) (kindBad : Bool) : Nat :=
  let delta := imgDelta img
  let size := imgSize img
  let id := d.fuses.stackId
  let target := leAt img 17 1
  let b := d.build img
  if (target ≠ 255 ∧ target ≠ id) ∨ (size = 1 ∧ d.fuses.master = false) ∨ (1 < size ∧ d.fuses.master = true ∧ id ≠ 0)
      ∨ (1 < size ∧ d.fuses.master = false ∧ (id = 0 ∨ size ≤ id)) then 7
  else if kindBad || b.bad || !(if delta then b.dev.deltaOk b.regs b.keys else b.dev.settingsOk && b.dev.imageFits size) then 8
  else if delta && b.loads then 9
  else if delta && decide (imgBase img ≠ (d.rd Reg.GLB_IMG_SHADOW_ID).toNat) then 10
  else 0

/-- The checks of R37 in order: `lenBad` says that GLB_IMG_LEN differs from LENGTH, `kindBad` that KIND, or a flash copy, does not fit
FLAGS.DELTA. -/
def imageCode (d : Dev) (img : Bytes) (lenBad kindBad : Bool) : Nat :=
  if headCode img ≠ 0 then headCode img
  else if lenBad || (imgSects img).isNone then 3
  else if !crcOk img then 4
  else if signCode d.fuses.keyHash img ≠ 0 then signCode d.fuses.keyHash img
  else d.buildCode img kindBad

/-! Loads (R38–R42). -/

/-- A change of the loader. -/
def updLoader (d : Dev) (f : Loader → Loader) : Dev := { d with loader := f d.loader }
/-- The ports that the breakout names and that are fenced, un-fenced where nothing holds them. -/
def unfence (d : Dev) : Dev := (d.namedPorts.filter d.portFenced).foldl fenceOff d
/-- GO (R37, R41, R42): a full image fences every port and tenant and ends every routine and entry. While a member has reported READY
the start of a delta waits for the target's boundary (R52). -/
def loadGo (d : Dev) (delta : Bool) : Dev :=
  let d0 := d.bset Reg.GLB_IMG_CTRL 1 delta
  if d.bget Reg.GLB_IMG_STATUS 4 then d0.fset Reg.GLB_IMG_STATUS 3 0 11
  else
    let d1 := (d0.bset Reg.GLB_IMG_STATUS 4 true).updLoader (fun x => { x with
      job := some { delta := delta }, reading := !(delta && d.commit.readyFor.isSome), hostDone := false })
    if delta then d1
    else
      let d2 := d1.updLoader (fun x => { x with fence := true })
      ((d2.namedPorts.filter (fun p => !d2.portFenced p)).foldl fenceOn d2).abortAll

/-- The result of a load: BUSY falls. -/
def loadEnd (d : Dev) (code : Nat) : Dev :=
  ((d.fset Reg.GLB_IMG_STATUS 3 0 code).bset Reg.GLB_IMG_STATUS 4 false).updLoader (fun x => { x with job := none, reading := false })
/-- A refused host image (R37, R42): nothing of it is applied, and the fences of the load are lifted. -/
def hostRefuse (d : Dev) (code : Nat) : Dev :=
  (((d.loadEnd code).updLoader (fun x => { x with hostDone := true, fence := false })).unfence).irqSync 18
/-- Everything of the data paths taken down as the expansion of a full image begins (R42): arm and hold buffer go, links go down, the
lanes stop; a WRITE of a class B table that has not finished is dropped with the hold buffer. -/
def loadDown (d : Dev) : Dev :=
  let d0 : Dev := { d with winPend := d.winPend.filter (fun w => match d.winTab? w with | some t => t.cls != .B | none => true) }
  let d1 := (d0.updCommit (fun c => { c with arm := none, swap := false, decided := false, hold := [], readyFor := none })).bset
    Reg.GLB_COMMIT_CTRL 0 false
  let d2 := d1.upPorts.foldl portDown d1
  let d3 := (d2.stack.links.map (·.1)).foldl linkDown d2
  (upto 1024).foldl (fun x l => if x.laneState l = lsOff ∨ x.laneState l = lsLow then x else x.laneTo l lsOff) d3
/-- The expansion of an accepted image begins. -/
def expandStart (d : Dev) (img : Bytes) : Dev :=
  let d1 := d.updLoader (fun x => { x with reading := false, job := x.job.map (fun j => { j with image := img, expanding := true }) })
  if imgDelta img then d1 else d1.loadDown

/-- The loader has read the host image (R41): the header, then LENGTH bytes where the header passes; a double-bit error is BAD_CRC.
GLB_IMG_ADDR and GLB_IMG_LEN are taken here, when the read is done, and not at GO (DESIGN CHOICE, log 126: R41 does not say when). -/
def hostRead (d : Dev) : Dev :=
  match d.loader.job with
  | some j =>
    if j.flash || !d.loader.reading then d
    else
      let addr := (d.rd Reg.GLB_IMG_ADDR).toNat * 32
      let (h, bad1, d1) := d.memRead 257 addr 32 false
      let n := if headCode h = 0 then imgLength h - 32 else 0
      let (r, bad2, d2) := if n = 0 then ([], false, d1) else d1.memRead 257 (addr + 32) n false
      let img := h ++ r
      let code := if bad1 || bad2 then 4
        else d2.imageCode img ((d.rd Reg.GLB_IMG_LEN).toNat != imgLength h) (j.delta != imgDelta img)
      if code = 0 then d2.expandStart img else d2.hostRefuse code
  | none => d
/-- `n` bytes of a flash half from its start; what is erased reads 0xFF. -/
def halfBytes (h : Bytes) (n : Nat) : Bytes := (h ++ List.replicate (n - h.length) (0xFF : Byte)).take n
/-- Bytes of XSPI0 and of XSPI1 in turn: byte 2k of a copy from the one, byte 2k + 1 from the other (R38). -/
def interleave : Bytes → Bytes → Bytes
  | x :: xs, y :: ys => x :: y :: interleave xs ys
  | _, _ => []
/-- The `n` bytes of a copy, the primary from 0x0000_0000 or the fallback from 0x0040_0000 of each flash (R38). -/
def flashBytes (x0 x1 : Flash) (fallback : Bool) (n : Nat) : Bytes :=
  let half := fun (x : Flash) => halfBytes (if fallback then x.high else x.low) (n / 2)
  interleave (half x0) (half x1)
/-- A flash copy has been read (R38, R39): the header, then LENGTH bytes where the header passes. -/
def flashRead (d : Dev) (x0 x1 : Flash) : Dev :=
  match d.loader.job with
  | some j =>
    if !j.flash || !d.loader.reading then d
    else
      let head := flashBytes x0 x1 d.loader.fallback 32
      let img := if headCode head = 0 then flashBytes x0 x1 d.loader.fallback (imgLength head) else head
      let code := d.imageCode img false (imgDelta img)
      if code = 0 then d.expandStart img
      else if !d.loader.fallback then
        (d.fset Reg.GLB_IMG_STATUS 3 0 code).updLoader (fun x => { x with fallback := true, firstCode := code })
      else
        (((d.loadEnd code).bset Reg.GLB_IMG_STATUS 7 true).updLoader (fun x => { x with fallback := false })).say
          (chars ['n', 'o', 'i', 'm', 'g'] ++ hexOf 1 d.loader.firstCode ++ hexOf 1 code)
  | none => d

/-! The end of an expansion. -/

/-- The period count and the boundary after a load (R54, R59, R62). -/
def periodLoad (d : Dev) : Dev :=
  let src := d.periodSrc
  let d1 := d.updTime (fun t => { t with
    next := gridNext (instantOf d.now) d.rateN d.rateD, last := instantOf d.now, setCount := src != 2, stepped := false, transition := false
    firstMark := src == 1, markCount := none, markSeen := false, markNext := none })
  let d2 := d1.updStack (fun x => { x with missedRun := 0 })
  if src = 0 then d2.followLock
  else if src = 1 then (d2.bset Reg.GLB_PERIOD_STATUS 0 false).setHoldover true
  else ((d2.wr Reg.GLB_PERIOD_COUNT 0).bset Reg.GLB_PERIOD_STATUS 0 false).setHoldover false
/-- The units as a full image leaves them: engines at rest with no context, free stacks in order, parse stores and entries whole, tabled numbers
at 0 (R30, R165, R193, R225). -/
def unitsLoad (d : Dev) : Dev :=
  { d with
    engines := (d.engines.map (fun p =>
      (p.1, { p.2.rest with ctxs := [], hold := [], failed := false, reloading := false }))).filter
        (fun p => p.2 != {})
    spars := (d.spars.map (fun p => (p.1, { p.2 with
      tabExpected := [], tabBase := [], tabNext := [], wallPipes := [], pictures := [], sources := [], prevSources := [], frameStats := [], underrun := []
      policers := [], mgmtBucket := {}, puntBuckets := [], pcBucket := {}, reloading := false, badEntries := [] }))).filter
        (fun p => p.2 != {})
    slices := (d.slices.map (fun p => (p.1, p.2.restack))).filter (fun p => p.2 != {})
    stack := { d.stack with gangGen := [], arrived := [] } }
/-- The lanes after a load (R86): from their coefficients, or from preset 1 where the rate changed; at a wake from the snapshot (R85). -/
def lanesRestart (d : Dev) (was : Nat → Nat) : Dev :=
  if d.powered .waking then d.lanesLoad
  else (upto 1024).foldl (fun x l =>
    let y := if x.fget (Reg.LANE_CFG l) 17 16 = was l then x else x.lanePreset l
    (y.bset (Reg.LANE_TRAIN_STATUS l) 12 false).laneOverride l) d
/-- The entries of a spar's active schedule. -/
def scheduled (d : Dev) (n : Nat) : List Nat := (upto (d.wCount n)).filter (fun i => d.wType n i != 0)
/-- Is a block kept ungated for the wall schedule (R27)? A picture lies in the pseudo-channels of its slot's group (R330). -/
def keptUngated (d : Dev) : Block → Bool
  | .parse _ => false
  | .engine n => !(d.scheduled n).isEmpty
  | .egress n => d.busySpars.any (fun m => (d.scheduled m).any (fun i => d.wOut m i == n.val))
  | .pseudo k => d.busySpars.any (fun m => !(d.scheduled m).isEmpty
      && (d.spar m).pictures.any (fun p => groupOf (addr37 (p.slot * 32)) == k.val / 8))
/-- The blocks that the schedule keeps ungated come out of gating (R27). -/
def keepUngated (d : Dev) : Dev := d.ungateIf d.keptUngated
/-- Is a table key that of a parse control store, a condition set or an extraction set (R138)? -/
def isParseStore (k : Nat) : Bool := decide (k / 2 ^ 28 = tidParse) || decide (k / 2 ^ 28 = 0x0501) || decide (k / 2 ^ 28 = 0x0502)
/-- The copies of the parse stores and tables written to the reserved region (R138); where, the spec leaves open (log 7). -/
def parseCopies (d : Dev) : Dev :=
  (d.tabs.filter (fun p => isParseStore p.1)).foldl (fun x p =>
    x.fmWrite (((d.rd Reg.FMC_RSV_BASE).toNat + (Config.parseBase p.1).toNat % atLeast1 (d.rd Reg.FMC_RSV_SIZE).toNat) * 4096)
      (p.2.flatMap (fun w => leBytes 4 w.toNat))) d
/-- The banks of a full image put in place. -/
def bankLoad (d : Dev) (img : Bytes) : Build :=
  let shTabs := (d.build img).dev.shTabs
  (({ d with shTabs := shTabs } : Dev).queueSwap).build img
/-- A full image takes effect (R30, R42, R44, R394). -/
def fullLoad (d : Dev) (j : Load) : Dev :=
  let img := j.image
  let id := wd (imgId img)
  let rates := fun (l : Nat) => d.fget (Reg.LANE_CFG l) 17 16
  let b := d.bankLoad img
  let d1 := b.golden.foldl (fun x p => x.fmWrite ((b.dev.rd (Reg.CE_GOLDEN p.1)).toNat * 4096 + p.2.1) p.2.2) b.dev.parseCopies
  let d2 := (((d1.wr Reg.GLB_IMG_ACTIVE_ID id).wr Reg.GLB_IMG_SHADOW_ID id).fset Reg.STK_STATUS 27 24 (imgSize img)).bset
    Reg.FLT_STATUS 3 (decide (2 < imgSize img))
  let d3 := (((d2.bset Reg.GLB_IMG_STATUS 5 (imgSigned img && (signCode d.fuses.keyHash img == 0)
      && d.fuses.keyHash.all (fun x => x == 0))).bset Reg.GLB_IMG_STATUS 6 (j.flash && d.loader.fallback)).bset
      Reg.GLB_IMG_STATUS 7 false).updCommit (fun c => { c with hold := [] })
  let d4 := ((d3.unitsLoad.poolsLoad).periodLoad).lanesRestart rates
  let d5 := ((d4.loadEnd 0).updLoader (fun x => { x with fence := false, fallback := false, hostDone := !j.flash })).classesLoad.unfence
  let d6 := b.mhi.foldl (fun x p => match Reg.at? p.1 with | some r => x.mhiWrite r p.1 p.2 true | none => x) d5
  let d7 := (if d6.bget Reg.PTP_CFG 31 then d6 else d6.ppsDrive false).keepUngated
  (((d7.updIsland (fun x => { x with imageDone := true })).pauseSyncAll).irqSyncAll).wakeReady

/-- A class B entry that was in error has been rewritten through the shadow (R139). -/
def entryRewritten (d : Dev) (key : Nat) : Dev :=
  { d with spars := d.spars.map (fun p => (p.1, { p.2 with
      badEntries := p.2.badEntries.map (fun e => if e.1 = key then (key, true) else e) })) }
/-- A delta has been expanded into the shadow (R41, R44). -/
def deltaLoad (d : Dev) (j : Load) : Dev :=
  let b := d.build j.image
  let d1 := (b.dev.wr Reg.GLB_IMG_SHADOW_ID (wd (imgId j.image))).bset Reg.GLB_IMG_STATUS 5
    (imgSigned j.image && d.fuses.keyHash.all (fun x => x == 0))
  let d2 := (b.keys.foldl entryRewritten d1).loadEnd 0 |>.updLoader (fun x => { x with hostDone := true })
  let d3 := b.mhi.foldl (fun x p => match Reg.at? p.1 with | some r => x.mhiWrite r p.1 p.2 true | none => x) d2
  (d3.irqSync 18).readyAgain
/-- An expansion ends. That of a delta waits while a commit window is open, for the shadow is frozen (R48). -/
def expandEnd (d : Dev) : Dev :=
  match d.loader.job with
  | some j =>
    if !j.expanding then d
    else if !j.delta then d.fullLoad j
    else if d.commit.window then d.updLoader (fun x => { x with job := some { j with late := true } })
    else d.deltaLoad j
  | none => d

end Dev

/-- IMG_GO (R37, R41, R42). -/
def execImgGo (delta : Bool) (s : State) : Host.Outcome State Fault Refusal := finish s (s.loadGo delta)
/-- HOST_IMAGE_READ_DONE (R37, R41). -/
def execHostImageReadDone (s : State) : Host.Outcome State Fault Refusal := finish s s.hostRead
/-- FLASH_COPY_READ_DONE (R38, R39). -/
def execFlashCopyReadDone (x0 x1 : Flash) (s : State) : Host.Outcome State Fault Refusal := finish s (s.flashRead x0 x1)
/-- IMAGE_EXPANSION_DONE (R40–R44). -/
def execImageExpansionDone (s : State) : Host.Outcome State Fault Refusal := finish s s.expandEnd

end Sys2Proof.Machine
end

