-- ==== Sys2Proof/Machine/Lanes.lean ====
section
/-!
DEFINITION. What happens on a serial lane (R68–R94).
-/
namespace Sys2Proof.Machine

/-! Requests of a receiver in training (R79). -/

/-- The receiver's requests so far (R79): the best SNR estimate, the requests in a row that gained less than 0.125 dB, the requests sent,
and the messages. -/
structure Ask where
  best : Nat
  run : Nat := 0
  sent : Nat := 0
  outs : List Output := []
  deriving DecidableEq, Repr
/-- Does the receiver stop asking: MIN_SNR + 2 dB reached, or eight requests in a row without gain (R79)? -/
def askDone (goal : Nat) (a : Ask) : Bool := decide (goal ≤ a.best) || decide (8 ≤ a.run)
/-- One tap step asked for on transmit lane `k`, and kept where it raises the estimate; else it is taken back (log 119). -/
def askStep (k goal : Nat) (a : Ask) (t : TapStep) : Ask :=
  if askDone goal a then a
  else
    let o := Output.requestStep k t.tap t.up
    if a.best < t.snr.toNat then { best := t.snr.toNat, sent := a.sent + 1, outs := a.outs ++ [o] }
    else { a with run := a.run + 1, sent := a.sent + 2, outs := a.outs ++ [o, .requestStep k t.tap (!t.up)] }

/-! Levels, patterns and checkers (R69, R88, R89). -/

/-- The two bits of a PAM4 level 0 to 3, that is −3, −1, +1, +3 (R69). -/
def grayBits (x : Nat) : Nat := x ^^^ x / 2
/-- Bits that differ between two pairs. -/
def pairDiff (x y : Nat) : Nat := b2n (bit (x ^^^ y) 0) + b2n (bit (x ^^^ y) 1)
/-- The feedback taps of the patterns PRBS7 to PRBS31 (R88, log 120). -/
def prbsTaps : Nat → List Nat
  | 1 => [7, 6] | 2 => [9, 5] | 3 => [13, 12, 2, 1] | 4 => [15, 14] | 5 => [23, 18] | _ => [31, 28]
/-- The bit of a pattern that follows the bits before, the newest of which is bit 0. -/
def prbsNext (p hist : Nat) : Nat := b2n ((prbsTaps p).foldl (fun b t => b ^^ bit hist (t - 1)) false)
/-- The two bits of a pattern that follow the bits before, the first of them the higher; SSPRQ is a standard outside the spec (log 120). -/
def patternPair (p hist : Nat) : Nat :=
  if p = 7 then (Config.ssprqNext hist).toNat
  else
    let b := prbsNext p hist
    2 * b + prbsNext p (2 * hist + b)
/-- Bits kept of what a checker has seen. -/
def histCut (x : Nat) : Nat := x % 2 ^ 32
/-- A symbol at an unlocked checker: each of the two readings follows the symbols themselves. -/
def Checker.seek (p : Nat) (c : Checker) (x : Nat) : Checker :=
  let next := fun (h run y : Nat) => (histCut (4 * h + y), if h ≠ 0 ∧ patternPair p h = y then run + 1 else 0)
  let n := next c.hist c.run (grayBits x)
  let i := next c.invHist c.invRun (grayBits (3 - x))
  { hist := n.1, run := n.2, invHist := i.1, invRun := i.2, inv := decide (n.2 < 64), missed := [] }

namespace Dev

/-! The detectors (R75). Levels are in µV differential peak to peak, times in CCLK, frequency offsets in 0.1 ppm. -/

/-- LOS_ON of a lane. -/
def losLevel (d : Dev) (l : Nat) : Nat := 2000 * d.fget (Reg.LANE_DET_CFG l) 7 0
/-- The effective off threshold of a lane: LOS_OFF, or 10 mV above LOS_ON. -/
def losOffLevel (d : Dev) (l : Nat) : Nat := max (2000 * d.fget (Reg.LANE_DET_CFG l) 15 8) (d.losLevel l + 10000)
/-- The frequency limit of LOL. -/
def lolLimit (d : Dev) (l : Nat) : Nat := 10 * min 300 (d.fget (Reg.LANE_DET_CFG l) 27 16)
/-- The magnitude of a signed frequency offset. -/
def ppmAbs (ppm : Nat) : Nat := (sgn 16 ppm).natAbs

/-- LOS asserts (R75, R78). -/
def losOn (d : Dev) (l : Nat) : Dev :=
  if d.bget (Reg.LANE_RX_STATUS l) 0 then d
  else
    let d1 := (d.bset (Reg.LANE_RX_STATUS l) 0 true).laneEvent l 0
    if d.laneState l = lsTrain ∨ d.laneState l = lsData then d1.laneTo l lsWait else d1.groupEval l
/-- LOS deasserts (R75–R78). -/
def losOff (d : Dev) (l : Nat) : Dev := ((d.bset (Reg.LANE_RX_STATUS l) 0 false).leaveWait l).groupClear l
/-- LOL asserts (R75, R78). -/
def lolOn (d : Dev) (l : Nat) : Dev :=
  if d.bget (Reg.LANE_RX_STATUS l) 1 then d
  else
    let d1 := ((d.bset (Reg.LANE_RX_STATUS l) 1 true).bset (Reg.LANE_RX_STATUS l) 2 false).laneEvent l 1
    if d.laneState l = lsData then d1.laneWait l else d1.groupEval l
/-- LOL deasserts (R75, R76). -/
def lolOff (d : Dev) (l : Nat) : Dev :=
  (((d.bset (Reg.LANE_RX_STATUS l) 1 false).bset (Reg.LANE_RX_STATUS l) 2 true).leaveWait l).groupClear l
/-- The input has stayed at or below `peak` for `cclks`: LOS asserts below LOS_ON for 1 µs (R75). -/
def losDip (d : Dev) (l peak cclks : Nat) : Dev := if peak < d.losLevel l ∧ 1500 ≤ cclks then d.losOn l else d
/-- The input has stayed at or above `floor` for `cclks`: LOS deasserts above the off threshold for 10 µs (R75). -/
def losRise (d : Dev) (l floor cclks : Nat) : Dev := if d.losOffLevel l < floor ∧ 15000 ≤ cclks then d.losOff l else d
/-- The CDR stands at an offset, its phase error having passed 0.5 UI for `wide` updates in a row (R75). -/
def lolJudge (d : Dev) (l ppm wide : Nat) : Dev :=
  let d1 := d.fset (Reg.LANE_RX_STATUS l) 31 16 ppm
  if d.lolLimit l < ppmAbs ppm ∨ 256 ≤ wide then d1.lolOn l else d1
/-- The CDR has stayed at an offset with its phase error within 0.25 UI for `run` updates (R75). -/
def lolSettle (d : Dev) (l ppm run : Nat) : Dev :=
  let d1 := d.fset (Reg.LANE_RX_STATUS l) 31 16 ppm
  if ppmAbs ppm ≤ d.lolLimit l ∧ 4096 ≤ run then d1.lolOff l else d1
/-- An SNR estimate in 0.125 dB. -/
def setSnr (d : Dev) (l snr : Nat) : Dev := d.fset (Reg.LANE_RX_STATUS l) 15 8 snr
/-- MIN_SNR of a lane. -/
def minSnr (d : Dev) (l : Nat) : Nat := d.fget (Reg.LANE_TRAIN_CTRL l) 15 8

/-- Lock in RESUME (R77): DATA when the SNR reaches MIN_SNR. -/
def resumeDone (d : Dev) (l snr : Nat) : Dev :=
  if d.laneState l = lsResume then
    let d1 := (d.setSnr l snr).bset (Reg.LANE_RX_STATUS l) 2 true
    if d.minSnr l ≤ snr then d1.laneData l else d1
  else d

/-- The mapping that a partner lane shows on lane index `i` of width `w`: 0 identity, 1 reversal, 2 none of the two (R81).
A group of width 1 has no reversal. -/
def laneMap (w i j : Nat) : Nat := if j = i ∨ w = 1 then 0 else if j + i + 1 = w ∧ 1 < w then 1 else 2
/-- Is the mapping of a lane valid beside those of the other lanes of its group that have been heard (R81)? -/
def mapOk (d : Dev) (l m : Nat) : Bool :=
  decide (m < 2) && (d.groupLanes (d.groupBase l)).all (fun k =>
    k == l || decide (d.laneState k ≠ lsPartner ∧ d.laneState k ≠ lsData)
      || (d.bget (Reg.LANE_TRAIN_STATUS k) 4 == (m == 1)) || decide (d.widthAt l = 1))

/-- What the training leaves in analog registers is not stated: peaking code, frequency offset and taps are free values (log 4). -/
def trainedFree (d : Dev) (l : Nat) : Dev :=
  let k := d.freeCtr
  let d1 := { d with freeCtr := k + 27 }
  let d2 := d1.fset (Reg.LANE_RX_EQ l) 4 0 (Config.freeWord k).toNat
  let d3 := d2.fset (Reg.LANE_RX_STATUS l) 31 16 (Config.freeWord (k + 1)).toNat
  let d4 := d3.fset (Reg.LANE_RX_EQ l) 13 8 (Config.freeWord (k + 2)).toNat
  d4.updLane l (fun x => { x with ffe := (upto 24).map (fun i => free8 (k + 3 + i)) })

/-- The requests of a receiver that stands at an estimate (R79): INIT_PRESET where it is still to be asked for, then the steps. -/
def asks (d : Dev) (l snr partner : Nat) (steps : List TapStep) : Ask :=
  let k := d.requestLane l partner
  let first := if (d.lane l).asked then [] else [.request k (atLeast1 (d.fget (Reg.LANE_TRAIN_CTRL l) 2 1))]
  steps.foldl (askStep k (d.minSnr l + 16)) { best := snr, sent := first.length, outs := first }

/-- Training goes on to its local end (R78, R79, R81): the requests and the estimate; polarity and lane mapping as heard; WAIT_PARTNER
where the receiver stopped asking with MIN_SNR reached. With TRAIN_EN = 0 nothing is asked, and lock with MIN_SNR is DATA. -/
def trainDone (d : Dev) (l snr partner : Nat) (inverted : Bool) (steps : List TapStep) : Dev :=
  if d.laneState l ≠ lsTrain then d
  else
    let base := d.groupBase l
    let w := atLeast1 (d.widthAt l)
    let cfg := Reg.LANE_CFG l
    let m := laneMap w (l - base) partner
    let forced := d.fget cfg 5 4
    let rev := if forced = 1 then false else if forced = 2 then true else m == 1
    let pol := d.fget cfg 2 1
    let inv := if pol = 1 then false else if pol = 2 then true else inverted
    let st := Reg.LANE_TRAIN_STATUS l
    let en := d.bget (Reg.LANE_TRAIN_CTRL l) 0
    let a : Ask := if en then d.asks l snr partner steps else { best := snr }
    let stopped := !en || askDone (d.minSnr l + 16) a
    let sent := (d.lane l).sent + a.sent
    let d0 := (d.updLane l (fun x => { x with
      asked := true, sent := sent, lowSnr := stopped && decide (a.best < d.minSnr l) })).fset st 31 16 (min 65535 sent)
    let d1 := ((((d0.fset st 7 5 partner).bset st 4 rev).bset st 3 inv).setSnr l a.best).emits a.outs
    if !(forced == 1 || forced == 2) && !d.mapOk l m then d1.laneFail l 3
    else if stopped && decide (d.minSnr l ≤ a.best) then
      let d2 := (d1.trainedFree l).fset st 11 8 0
      if en then d2.laneTo l lsPartner else d2.laneData l
    else d1
/-- The training timer stands at `ms` (R78, R93): at TIMEOUT the lane fails, because the partner reported failure, because the receiver
had stopped asking below MIN_SNR, or for the time alone. -/
def trainLimit (d : Dev) (l ms : Nat) (partnerFailed : Bool) : Dev :=
  let st := d.laneState l
  if (st = lsTrain ∨ st = lsPartner) ∧ 100 * atLeast1 (d.fget (Reg.LANE_TRAIN_CTRL l) 22 16) ≤ ms then
    d.laneFail l (if partnerFailed then 4 else if (d.lane l).lowSnr && st == lsTrain then 2 else 1)
  else d

/-- The answer to a partner's request (R80): 0 Updated, 1 At limit, 2 Not applied. With TRAIN_EN = 0 the taps are fixed and no request is
answered (R93). -/
def trainAnswer (d : Dev) (l : Nat) (r : TrainReq) : Dev :=
  let ts := tapsOf (d.rd (Reg.LANE_TX_TAPS l))
  let move := fun (i : Nat) (x : Int) =>
    let ts' := tapMove ts i x
    if tapsOk ts' then (d.wr (Reg.LANE_TX_TAPS l) (tapsWord ts')).emit (.answer l 0) else d.emit (.answer l 1)
  if !d.bget (Reg.LANE_TRAIN_CTRL l) 0 then d
  else if d.bget (Reg.LANE_TX_OVR l) 31 then d.emit (.answer l 2)
  else match r with
  | .preset k => (d.wr (Reg.LANE_TX_TAPS l) (tapsWord (presetTaps (k + 1)))).emit (.answer l 0)
  | .inc i => move i 1
  | .dec i => move i (-1)
  | .hold _ => d.emit (.answer l 0)

/-- A value moved toward a target by at most 1 (R73). -/
def stepTo (x y : Int) : Int := if x < y then x + 1 else if y < x then x - 1 else x
/-- An adaptation update (R73): from the end of training on, on the live signal, every equalizer tap moves by at most 1 LSB, unless
adaptation is off or frozen. -/
def adapt (d : Dev) (l : Nat) (ffe : List Int) (dfe : Int) : Dev :=
  if d.bget (Reg.LANE_TRAIN_CTRL l) 25 && !d.bget (Reg.LANE_RX_STATUS l) 3 && !d.bget (Reg.LANE_RX_STATUS l) 0
      && (d.laneState l == lsData || d.laneState l == lsPartner) then
    let d1 := d.updLane l (fun x => { x with ffe := (upto 24).map (fun i =>
      max (-128) (min 127 (stepTo (x.ffe.getD i 0) (ffe.getD i (x.ffe.getD i 0))))) })
    let old := sgn 6 (d.fget (Reg.LANE_RX_EQ l) 13 8)
    d1.fset (Reg.LANE_RX_EQ l) 13 8 (unsgn 6 (max (-32) (min 31 (stepTo old dfe))))
  else d

/-- REQ written 1 (R83). -/
def lpEnter (d : Dev) (l : Nat) : Dev :=
  ((((d.bset (Reg.LANE_LP_CTRL l) 0 true).bset (Reg.LANE_LP_CTRL l) 1 true).bset (Reg.LANE_LP_CTRL l) 2 false).laneTo l lsLow)
/-- REQ written 0 (R84): a lane in the low-power state starts its exit. -/
def lpExit (d : Dev) (l : Nat) : Dev :=
  let d1 := d.bset (Reg.LANE_LP_CTRL l) 0 false
  if d.bget (Reg.LANE_LP_CTRL l) 1 then d1.bset (Reg.LANE_LP_CTRL l) 2 true else d1
/-- The exit completes (R84): WAIT_SIGNAL, or TEST while a test is active (R87). -/
def lpExitDone (d : Dev) (l : Nat) : Dev :=
  if d.bget (Reg.LANE_LP_CTRL l) 2 then
    let d1 := ((d.bset (Reg.LANE_LP_CTRL l) 2 false).bset (Reg.LANE_LP_CTRL l) 1 false).laneEvent l 6
    if d1.laneTest l then d1.laneTo l lsTest else d1.laneWait l
  else d

/-- The checker's pattern: 1 to 7, 0 where it counts as off (R88). -/
def chkPattern (d : Dev) (l : Nat) : Nat := let c := d.fget (Reg.LANE_TEST_CTRL l) 7 4; if c ≤ 7 then c else 0
/-- The generator's pattern: 1 to 8, 0 where it counts as off (R88). -/
def genPattern (d : Dev) (l : Nat) : Nat := let g := d.fget (Reg.LANE_TEST_CTRL l) 3 0; if g ≤ 8 then g else 0

/-- A symbol at the checker of lane `l` (R89): locked, it counts bits and errors against the pattern that runs on by itself, and loses lock
at 16 symbol errors within 64; unlocked, it locks at 64 symbols in a row without error. -/
def chkSym (l p : Nat) (d : Dev) (x : Nat) : Dev :=
  let c := (d.lane l).chk
  let rx := Reg.LANE_RX_STATUS l
  if d.bget rx 4 then
    let h := if c.inv then c.invHist else c.hist
    let want := patternPair p h
    let e := pairDiff want (grayBits (if c.inv then 3 - x else x))
    let missed := (decide (0 < e) :: c.missed).take 64
    let d1 := (d.cntAdd (Reg.C_LANE_PRBS_BITS l) 2).cntAdd (Reg.C_LANE_PRBS_ERR l) e
    let d2 := if 0 < e then d1.laneEvent l 4 else d1
    if 16 ≤ missed.countP id then ((d2.updLane l (fun y => { y with chk := {} })).bset rx 4 false).laneEvent l 5
    else
      let h' := histCut (4 * h + want)
      d2.updLane l (fun y => { y with chk := { c with
        hist := if c.inv then c.hist else h', invHist := if c.inv then h' else c.invHist, missed := missed } })
  else
    let c' := c.seek p x
    let d1 := d.updLane l (fun y => { y with chk := c' })
    if 64 ≤ c'.run ∨ 64 ≤ c'.invRun then d1.bset rx 4 true else d1
/-- Received levels as the receive DSP hands them on: inverted where the polarity is (R81). -/
def rxLevels (d : Dev) (l : Nat) (syms : List (Fin 4)) : List Nat :=
  syms.map (fun x => if d.bget (Reg.LANE_TRAIN_STATUS l) 3 then 3 - x.val else x.val)
/-- Levels as the transmitter sends them: inverted by TX_INV (R81). -/
def txLevels (d : Dev) (l : Nat) (xs : List Nat) : List Nat := xs.map (fun x => if d.bget (Reg.LANE_CFG l) 0 then 3 - x else x)
/-- Symbols received by a lane that is not in the low-power state (R87, R89, R91): a far-end loopback sends them back, and the checker of
a pattern takes them. -/
def received (d : Dev) (l : Nat) (syms : List (Fin 4)) : Dev :=
  let xs := d.rxLevels l syms
  if d.laneState l = lsLow then d
  else
    let d1 := if d.laneState l = lsTest ∧ d.fget (Reg.LANE_TEST_CTRL l) 10 8 = 3 then d.emit (.symbols l (d.txLevels l xs)) else d
    if d.chkPattern l = 0 then d1 else xs.foldl (chkSym l (d.chkPattern l)) d1
/-- One bit error injected (R90): the lane's own checker counts it where a near-end loopback brings it back. A write within the symbol
period of the one before is merged with it. The transmitter is idle in the digital loopback, and sends what it received in the far-end
one (R91). -/
def inject (d : Dev) (l : Nat) (again : Bool) : Dev :=
  if again || decide (d.genPattern l = 0) || decide (d.laneState l ≠ lsTest) then d
  else
    let loop := d.fget (Reg.LANE_TEST_CTRL l) 10 8
    let d1 := if loop = 2 ∨ loop = 3 then d else d.emit (.injectedSymbol l)
    if (loop = 1 ∨ loop = 2) ∧ d.bget (Reg.LANE_RX_STATUS l) 4 ∧ d.chkPattern l = d.genPattern l then
      ((d1.cntAdd (Reg.C_LANE_PRBS_BITS l) 2).inc (Reg.C_LANE_PRBS_ERR l)).laneEvent l 4
    else d1
/-- Both checker counters cleared (R89). -/
def prbsClear (d : Dev) (l : Nat) : Dev := (d.cntSet (Reg.C_LANE_PRBS_ERR l) 0).cntSet (Reg.C_LANE_PRBS_BITS l) 0

end Dev

end Sys2Proof.Machine
end

