-- ==== Sys2Proof/Machine/Commit.lean ====
section
/-!
DEFINITION. Boundary commit (R44–R53), the boundary itself with everything that happens at it (R54–R59, R300, R406), boundary marks
(R428–R432), the pulse-per-second input (R64), and clock gating (R26–R28).
-/
namespace Sys2Proof.Machine
namespace Dev

/-! Arming (R46, R52). -/

/-- A change of the commit machinery's arm: ARM reads 1 while armed, and until a decided swap takes place (R46). An ARM written after the
stack master has decided takes the place of the decided arm and undoes the decision (DESIGN CHOICE, log 125: R46 and R53 leave it open). -/
def armSet (d : Dev) (a : Option Arm) : Dev :=
  (d.updCommit (fun c => { c with arm := a, decided := false })).bset Reg.GLB_COMMIT_CTRL 0
    (a.isSome || (d.commit.window && d.commit.swap))
/-- The target of a stack commit sent to the members, whose reports for an earlier one no longer count (R431). -/
def armSend (d : Dev) (target : Nat) : Dev :=
  (d.fset Reg.STK_STATUS 15 8 0).msgSend { kind := 2, dst := 255, src := d.fuses.stackId
                                           body := beBytes 4 target ++ beBytes 4 (d.rd Reg.GLB_IMG_SHADOW_ID).toNat } none
/-- DISARM (R46): cancels the arm, unless the stack master has announced it. -/
def disarmDo (d : Dev) : Dev := if d.commit.decided then d else d.armSet none
/-- ARM (R46, R52, R393, R405): refused with LATE where the boundary has opened, under Black, or once a Furled entry is accepted. In a
stack only the stack master arms, with STACK and MODE set. -/
def armDo (d : Dev) : Dev :=
  let stack := d.bget Reg.GLB_COMMIT_CTRL 3
  let mode := d.bget Reg.GLB_COMMIT_CTRL 2
  let many := decide (1 < d.stackSize)
  let target := if mode then (d.rd Reg.GLB_COMMIT_TARGET).toNat else d.nextCount
  if many && !(d.fuses.master && stack && mode) then d
  else if (mode && d.targetPassed target) || d.inBlack || d.powered .entering then d.commitEvent 0
  else
    let d1 := d.armSet (some { target := target, stack := many, next := !mode })
    if many then d1.armSend target else d1
/-- A write of GLB_COMMIT_CTRL (R45, R46): the settings, then DISARM, then ARM. -/
def commitWrite (d : Dev) (view stack mode disarm arm : Bool) : Dev :=
  let d1 := ((d.bset Reg.GLB_COMMIT_CTRL 4 view).bset Reg.GLB_COMMIT_CTRL 3 stack).bset Reg.GLB_COMMIT_CTRL 2 mode
  let d2 := if disarm then d1.disarmDo else d1
  if arm then d2.armDo else d2

/-! The window (R47, R48). -/

/-- An arm moved to the next boundary: DEFERRED, and a stack commit is announced again (R47, R52). -/
def armDefer (d : Dev) (a : Arm) : Dev :=
  let t := (a.target + 1) % 2 ^ 32
  let d1 := (d.armSet (some { a with target := t })).commitEvent 1
  if a.stack then d1.armSend t else d1
/-- The arm refused: INVALID (R47). -/
def armInvalid (d : Dev) : Dev := (d.armSet none).commitEvent 2
/-- The swap of the coming boundary is decided: the arm is used. -/
def swapDecide (d : Dev) : Dev :=
  (d.updCommit (fun c => { c with swap := true, arm := none, decided := false })).bset Reg.GLB_COMMIT_CTRL 0 true
/-- The window opens 64 CCLK before the boundary (R47, R48): the shadow freezes, and the arm of this boundary is judged; an arm of MODE 0
is of the first boundary whose window opens, whatever its count (R46). -/
def windowOpen (d : Dev) : Dev :=
  if d.commit.window then d
  else
    let n := d.nextCount
    let d1 := d.updCommit (fun c => { c with window := true })
    let d2 := if d.island.entryArmed then d1.updIsland (fun x => { x with entryOpen := true }) else d1
    match d.commit.arm with
    | none => d2
    | some a =>
      if !a.next && a.target != n then d2
      else if d.commit.decided then d2.swapDecide
      else if d.deltaLoading || a.stack then d2.armDefer a
      else if d.shadowOk then d2.swapDecide
      else d2.armInvalid
/-- The stack master decides, 4 µs before the boundary (R52, R431): its own checks, then the members' reports. -/
def stackDecide (d : Dev) : Dev :=
  match d.commit.arm with
  | some a =>
    if !(a.stack && d.fuses.master) || d.commit.decided || d.commit.window || (!a.next && decide (a.target ≠ d.nextCount)) then d
    else if d.deltaLoading then d.armDefer a
    else if !d.shadowOk then d.armInvalid
    else if (upto d.stackSize).all (fun i => i == d.fuses.stackId || d.bget Reg.STK_STATUS (8 + i)) then
      d.updCommit (fun c => { c with decided := true })
    else d.armDefer a
  | none => d

/-! The shadow (R44, R48, R49). -/

/-- Is an offset that of a MAC_CFG? -/
def isMacCfg (a : Nat) : Bool :=
  decide (0x01000000 ≤ a) && decide (a < 0x03000000) && decide (0x8000 ≤ a % 0x40000) && decide (a % 0x40000 < 0xA000)
    && decide (a % 0x400 = 0)
/-- Is a value's MAX_FRAME out of range (R102)? -/
def maxFrameBad (v : Word) : Bool := decide (fld v 29 16 < 64) || decide (16352 < fld v 29 16)
/-- A class B write put into the shadow bank, a MAX_FRAME out of range left as it was (R102); a member's checks run again (R431). -/
def shadowPut (d : Dev) (a : Nat) (v : Word) : Dev :=
  match Reg.at? a with
  | some r =>
    let old := d.rdSh a
    let new := r.host old v
    (d.wrSh a (if isMacCfg a && maxFrameBad new then setFld new 29 16 (fld old 29 16) else new)).readyAgain
  | none => d
/-- The oldest held write enters the shadow bank, from the boundary on (R48). -/
def heldEnter (d : Dev) : Dev :=
  if d.commit.window then d
  else match d.commit.hold with
    | [] => d
    | (a, v) :: hs => (d.updCommit (fun c => { c with hold := hs })).shadowPut a v

/-! What a swap does beside the exchange of the banks. -/

/-- A frame bucket brought up to now at a rate. -/
def bucketAge (d : Dev) (rate burst : Nat) (b : Bucket) : Bucket :=
  if b.started then
    { b with tokens := min (atLeast1 burst * 1500000000) (b.tokens + rate * ((d.time.cclk : Int) - b.upd).toNat), upd := d.time.cclk }
  else b
/-- The meters of a spar brought up to now at the rates before the swap (R135); a policer that no frame has used yet has held its bursts. -/
def metersAge (d : Dev) (n : Nat) : Dev :=
  let fresh := ((d.listed 0x0512 n).filter (fun i => (SMap.get? (d.spar n).policers i).isNone)).map (fun i =>
    (i, ({ committed := d.tf 0x0512 n i 2 23 0 * 12000, peak := d.tf 0x0512 n i 3 23 0 * 12000, upd := d.time.cclk } : Policer)))
  let age := fun (a : Nat) (b : Bucket) => d.bucketAge (d.fget a 23 0) (d.fget a 31 24) b
  d.updSpar n (fun y => { y with
    policers := fresh.foldl (fun m p => SMap.put m p.1 p.2) (y.policers.map (fun p =>
      let cir := d.tf 0x0512 n p.1 0 20 0
      let pir := max cir (d.tf 0x0512 n p.1 1 20 0)
      let dt := ((d.time.cclk : Int) - p.2.upd).toNat
      (p.1, { committed := min (d.tf 0x0512 n p.1 2 23 0 * 12000) (p.2.committed + cir * dt)
              peak := min (d.tf 0x0512 n p.1 3 23 0 * 12000) (p.2.peak + pir * dt), upd := d.time.cclk })))
    mgmtBucket := age (Reg.PRS_MGMT_RATE n) y.mgmtBucket
    puntBuckets := y.puntBuckets.map (fun p => (p.1, age (Reg.PRS_PUNT_RATE n p.1) p.2))
    pcBucket := age (Reg.TEL_PC_RATE n) y.pcBucket })
/-- A lane at a swap (R78, R87, R89, R94), `old` the device before it. -/
def laneSwap (old d : Dev) (l : Nat) : Dev :=
  let st := d.laneState l
  let d1 :=
    if st = lsLow then d
    else if d.laneTest l then (if st = lsTest then d else d.laneTo l lsTest)
    else if st = lsTest ∨ (st = lsOff ∧ d.laneUsed l = true) then d.laneWait l
    else d
  let d2 := if d1.fget (Reg.LANE_TEST_CTRL l) 7 4 = old.fget (Reg.LANE_TEST_CTRL l) 7 4 then d1
    else ((d1.prbsClear l).updLane l (fun x => { x with chk := {} })).bset (Reg.LANE_RX_STATUS l) 4 false
  if d2.rd (Reg.LANE_TX_OVR l) = old.rd (Reg.LANE_TX_OVR l) then d2 else d2.laneOverride l
/-- A port at a swap: negotiation starts where the swap enables it, and no longer holds the lanes where it ends it
(R101), and the link follows its conditions (R99). -/
def portSwap (old d : Dev) (p : Nat) : Dev :=
  let on := fun (x : Dev) => x.bget (Reg.MAC_CFG p) 0 && x.bget (Reg.MAC_CFG p) 2
  let off := d.named p && old.bget (Reg.MAC_CFG p) 2 && !d.bget (Reg.MAC_CFG p) 2
  let d1 := if on d && !on old then d.anStart p else if off then d.groupLeaveWait p else d
  if d1.named p && !d1.isHalyard (p / 8) then d1.portEval p else d1
/-- An engine at a swap (R238, R244): a change of its class B settings abandons the running routine, a new list restarts a halted
context 0; an index past the new list starts at its first command. -/
def engineSwap (old d : Dev) (e : Nat) : Dev :=
  let regs := [Reg.CE_CFG e, Reg.CE_EVENT_EN e, Reg.CE_INLET_LIST e, Reg.CE_INLET_LEN e, Reg.CE_INLET_SEG e]
  let differs := fun (rs : List Nat) => rs.any (fun a => old.rd a != d.rd a)
  let d1 := if differs regs && (d.engine e).cur.isSome && !(d.engine e).committed then (d.abandon e false).inc (Reg.C_CE_AB_SWAP e) else d
  if !differs (regs.drop 2) then d1
  else if (d1.ctx e 0).state = 5 then
    (d1.updCtx e 0 (fun c => { c with state := 1, cmdIdx := 0 })).updEngine e (fun x => { x with hold := [] })
  else if d1.ctxCount e 0 ≤ (d1.ctx e 0).cmdIdx then d1.updCtx e 0 (fun c => { c with cmdIdx := 0 })
  else d1
/-- The interrupt controller at a swap (R380): requests follow their enables, and a pending source whose target or priority changed
comes to qualify. -/
def irqSwap (old d : Dev) : Dev :=
  let d1 := (upto 8).foldl (fun x t => x.requestOut t (old.request t)) d
  let moved := d1.pendSrcs.filter (fun s => d1.qualifies s && (old.targetOf s != d1.targetOf s || !old.qualifies s))
  moved.foldl cameToQualify d1
/-- A swap (R44, R48): the active bank takes the shadow values, and what depends on them follows. -/
def swapNow (old : Dev) : Dev :=
  let metered : List Nat := (old.tabs.filter (fun p => p.1 / 2 ^ 28 == 0x0512)).map (fun p => p.1 / 2 ^ 20 % 256)
  let d1 := ((old.spars.map (·.1) ++ metered).eraseDups.foldl metersAge old).queueSwap
  let d2 := (d1.swapped.wr Reg.GLB_IMG_ACTIVE_ID (d1.rd Reg.GLB_IMG_SHADOW_ID)).updCommit (fun c => { c with swap := false })
  let d3 := (d2.bset Reg.GLB_COMMIT_CTRL 0 d2.commit.arm.isSome).commitEvent 3
  let ns := (old.busySpars ++ d3.busySpars).eraseDups
  let ls := ns.flatMap (fun n => (upto 8).map (fun i => 8 * n + i))
  let d4 := ls.foldl (fun x p => portSwap old x p) (ls.foldl (fun x l => laneSwap old x l) d3)
  let d5 := (d4.engines.map (·.1)).foldl (fun x e => engineSwap old x e) d4
  let d6 : Dev := { d5 with spars := d5.spars.map (fun p => (p.1, { p.2 with badEntries := p.2.badEntries.filter (fun e => !e.2) })) }
  let d7 := (d6.spars.map (·.1)).foldl inSync (d6.slotEnd [])
  let d8 := (d7.upPorts.foldl ownerSync d7).pauseSyncAll
  let d9 := if d8.bget Reg.PTP_CFG 31 then d8 else d8.ppsDrive false
  (irqSwap old d9).irqSyncAll

/-! Boundaries (R54–R59, R429). -/

/-- Where the boundary after one at `t` lies (R56, R57, R59): on the grid, after half a new period where the rate changes; under good
marks of BOUNDARY_IN one period on, or where the mark says. -/
def after (d : Dev) (t : Instant) (n dd : Nat) (changed : Bool) : Instant :=
  if d.periodSrc = 1 && !d.time.firstMark then
    (match changed, d.time.markNext with
     | true, some q => instantOf q
     | true, none => gridAfterHalf t n dd
     | false, _ => periodAfter t n dd)
  else if changed then gridAfterHalf t n dd else gridNext t n dd
/-- The instant of the boundary after the coming one (R300, R428), with a swap there or not. -/
def afterComing (d : Dev) (swap : Bool) : Instant :=
  let n := fld (if swap then d.rdSh Reg.GLB_RATE_N else d.rd Reg.GLB_RATE_N) 19 0
  let dd := fld (if swap then d.rdSh Reg.GLB_RATE_D else d.rd Reg.GLB_RATE_D) 19 0
  d.after d.time.next (atLeast1 n) (atLeast1 dd) (decide (atLeast1 n ≠ d.rateN ∨ atLeast1 dd ≠ d.rateD))

/-- A mark is missed (R429, R432): holdover, and the reports; a stack commit that this member was ready for is missed too. -/
def markMissed (d : Dev) : Dev :=
  let run := d.stack.missedRun + 1
  let count := d.comingCount
  let d1 := ((d.updTime (fun t => { t with markSeen := true, markNext := none })).updStack (fun x => { x with missedRun := run })).setHoldover true
  let d2 := (((d1.bset Reg.GLB_PERIOD_STATUS 0 false).bset Reg.STK_STATUS 0 false).inc Reg.C_STK_MARK_MISSED).stkEvent 0
  let d3 := d2.flag 32 0
  let d4 := if d.commit.readyFor = some count then (d3.splitSet).toMaster 5 count [] else d3
  if run = atLeast1 (d4.fget Reg.STK_CFG 15 8) then (d4.stkEvent 4).flag 34 0 else d4
/-- A good mark (R53, R59, R429): the boundary stands at the edge plus the delay; the first one sets the count. -/
def markGood (d : Dev) (edge count next : Nat) (commit : Bool) : Dev :=
  let delay := sgn 32 (d.rd Reg.STK_BIN_DELAY).toNat
  let sample := d.stack.calRun && decide (1024 ≤ d.stack.calTimes)
  let d1 := d.updTime (fun t => { t with
    next := instantOf ((edge : Int) + delay), markSeen := true, markNext := some next, edgeOff := delay, firstMark := false
    markCount := if t.firstMark then some count else t.markCount, setCount := false, stepped := t.stepped || t.firstMark })
  let d2 := d1.updStack (fun x => { x with
    missedRun := 0, calMarks := if sample then x.calMarks + 1 else x.calMarks
    calSum := if sample then x.calSum + ((d.time.showAt : Int) - edge) else x.calSum })
  let d3 := ((d2.bset Reg.GLB_PERIOD_STATUS 0 true).bset Reg.STK_STATUS 0 true).setHoldover false
  if commit then d3.updCommit (fun c => { c with swap := true }) else d3
/-- Is an edge within 50 ns of where the coming boundary puts it (R429)? -/
def edgeFits (d : Dev) (edge : Nat) : Bool :=
  let x : Int := ((edge : Int) + d.time.edgeOff) * d.time.next.den - (d.time.next.num * 4000000000 : Nat)
  decide (x.natAbs ≤ 200 * d.time.next.den)
/-- A boundary mark arrives at a device whose period comes from BOUNDARY_IN (R59, R428, R429). -/
def markIn (d : Dev) (edge word : Nat) : Dev :=
  if d.periodSrc != 1 then d
  else if crc8 (word / 256) 120 0 = word % 256 && (d.time.firstMark || d.edgeFits edge) then
    d.markGood edge (bits word 127 96) (bits word 95 32) (bit word 31)
  else if d.time.firstMark then d else d.markMissed
/-- The stack master's mark for the coming boundary (R428): edge, count, next instant, commit flag and CRC-8. -/
def markOut (d : Dev) : Dev :=
  if !d.fuses.master then d
  else
    let commit := d.commit.decided
    let x := (d.comingCount * 2 ^ 64 + (d.afterComing commit).quarterNs % 2 ^ 64) * 2 ^ 24 + b2n commit * 2 ^ 23
    d.emit (.boundaryMark (d.time.next.quarterNs - 4 * d.fget Reg.STK_CFG 31 16) (x * 256 + crc8 x 120 0))
/-- No good mark for 1.5 expected periods (R59). -/
def markLate (d : Dev) : Dev :=
  if d.periodSrc != 1 then d
  else ((d.bset Reg.GLB_PERIOD_STATUS 0 false).setHoldover true).periodEvent 2

/-- What waits for the boundary itself: the entry to Furled (R406), an expansion held by the window (R48), a delta held by a report of
READY (R52). -/
def boundaryWaits (d : Dev) : Dev :=
  let d1 := match d.commit.readyFor with
    | some t => if t = (d.rd Reg.GLB_PERIOD_COUNT).toNat then d.updCommit (fun c => { c with readyFor := none }) else d
    | none => d
  let d2 := match d1.loader.job with
    | some j =>
      if j.late then d1.deltaLoad j
      else if j.delta && !j.expanding && !d1.loader.reading && d1.commit.readyFor.isNone then
        d1.updLoader (fun x => { x with reading := true })
      else d1
    | none => d1
  if d2.island.entryOpen then d2.furledStart else d2
/-- The start of the period at the wall stages and in the core, with its stamps (R178, R300). -/
def periodStart (d : Dev) (changed : Bool) : Dev :=
  let next := d.after d.time.last d.rateN d.rateD changed
  (d.updTime (fun t => { t with
    next := next, transition := changed, perSeq := t.perSeq + 1
    pround := if t.cclk % 128 = 0 then 0 else t.pround, freshRound := t.cclk % 128 != 0
    holdAt := d.bget Reg.GLB_PERIOD_STATUS 1
    showAt := match t.markNext with | some q => q | none => next.quarterNs
    setCount := d.periodSrc == 1 && t.firstMark, markCount := none, markSeen := false, markNext := none, stepped := false })).wallPeriod
/-- A boundary (R48, R54): the count, the swap where one is decided, then the new period. The time base has reached the boundary's
instant. -/
def boundaryNow (d : Dev) : Dev :=
  let d0 := if d.periodSrc = 1 && !d.time.firstMark && !d.time.markSeen then d.markMissed else d
  let at' := d0.time.next
  let q := at'.quarterNs
  let d1 := d0.updTime (fun t => { t with last := at', ticks := max t.ticks ((ceilDiv (at'.num * 4000000000) (atLeast1 at'.den) * timeUnit : Nat) : Int) })
  let d2 := ((d1.wr Reg.GLB_PERIOD_COUNT (wd d0.comingCount)).wr Reg.GLB_BOUNDARY_TIME_LO (wd q)).wr Reg.GLB_BOUNDARY_TIME_HI (wd (q >>> 32))
  let d3 := if d0.time.stepped then d2.periodEvent 3 else d2
  let d4 := d3.updCommit (fun c => { c with window := false })
  let d5 := if d4.commit.swap then d4.swapNow else d4
  let changed := d5.rateN != d4.rateN || d5.rateD != d4.rateD
  (((((d5.periodStart changed).keepUngated).lineRaise 16).irqEdge 20).boundaryWaits)

/-! The pulse per second, and clock gating. -/

/-- A rising edge on PTP_PPS_IN (R64, R367). -/
def ppsIn (d : Dev) : Dev :=
  (((d.wr Reg.PTP_PPS_IN_TS_LO (wd d.nowU)).wr Reg.PTP_PPS_IN_TS_HI (wd (d.nowU >>> 32))).ptpEvent 3).lineRaise 17
/-- A block idle for 4,096 cycles is gated (R26, R27). -/
def gate (d : Dev) (b : Block) : Dev :=
  if d.keptUngated b || d.gated.contains b then d else { d with gated := d.gated ++ [b] }

end Dev

/-- COMMIT_ARM (R46). -/
def execCommitArm (view stack mode disarm : Bool) (s : State) : Host.Outcome State Fault Refusal :=
  finish s (s.commitWrite view stack mode disarm true)
/-- COMMIT_DISARM (R46). -/
def execCommitDisarm (view stack mode : Bool) (s : State) : Host.Outcome State Fault Refusal :=
  finish s (s.commitWrite view stack mode true false)
/-- VIEW_SHADOW (R45). -/
def execViewShadow (on stack mode : Bool) (s : State) : Host.Outcome State Fault Refusal :=
  finish s (s.commitWrite on stack mode false false)
/-- COMMIT_WINDOW_OPEN (R47, R48). -/
def execCommitWindowOpen (s : State) : Host.Outcome State Fault Refusal := finish s s.windowOpen
/-- HELD_WRITE_ENTER_SHADOW (R48, R49). -/
def execHeldWriteEnterShadow (s : State) : Host.Outcome State Fault Refusal := finish s s.heldEnter
/-- BOUNDARY (R48, R54). -/
def execBoundary (s : State) : Host.Outcome State Fault Refusal := finish s s.boundaryNow
/-- STACK_COMMIT_DECIDE (R52, R431). -/
def execStackCommitDecide (s : State) : Host.Outcome State Fault Refusal := finish s s.stackDecide
/-- BOUNDARY_MARK_SEND (R428). -/
def execBoundaryMarkSend (s : State) : Host.Outcome State Fault Refusal := finish s s.markOut
/-- BOUNDARY_MARK_RECEIVE (R429): `edge` is the member's time base at the timing edge. -/
def execBoundaryMarkReceive (edge : Nat) (word : BitVec 128) (s : State) : Host.Outcome State Fault Refusal :=
  finish s (s.markIn edge word.toNat)
/-- BOUNDARY_IN_TIMEOUT (R59). -/
def execBoundaryInTimeout (s : State) : Host.Outcome State Fault Refusal := finish s s.markLate
/-- PPS_IN_EDGE (R64). -/
def execPpsInEdge (s : State) : Host.Outcome State Fault Refusal := finish s s.ppsIn
/-- CLOCK_GATE (R26, R27). -/
def execClockGate (b : Block) (s : State) : Host.Outcome State Fault Refusal := finish s (s.gate b)
/-- CLOCK_UNGATE (R26). -/
def execClockUngate (b : Block) (s : State) : Host.Outcome State Fault Refusal := finish s (s.ungate b)

end Sys2Proof.Machine
end

