-- ==== Sys2Proof/Machine/CoreCmds.lean ====
section
/-!
DEFINITION. The commands of parse, admission, the switch core, the leak audit, pools and the slice scrubber (R103, R117–R173,
R176–R198).
-/
namespace Sys2Proof.Machine

/-- FRAME_PARSE (R117–R139). -/
def execFrameParse (n : Fin 128) (found : Option (ParseWord × Ecc)) (s : State) : Host.Outcome State Fault Refusal :=
  finish s (s.parseHead n found)
/-- PARSE_RELOAD_DONE (R138). -/
def execParseReloadDone (n : Fin 128) (s : State) : Host.Outcome State Fault Refusal := finish s (s.prsReloaded n)
/-- PRS_CNT_CLR (R142, R143). -/
def execPrsCntClr (n : Fin 128) (s : State) : Host.Outcome State Fault Refusal := finish s (s.prsClear n)
/-- PARSE_SCRUB_READ (R138, R139, R399). -/
def execParseScrubRead (n : Fin 128) (w : ParseWord) (e : Ecc) (s : State) : Host.Outcome State Fault Refusal :=
  finish s (s.parseScrub n w e)
/-- FIRST_CELL_OFFER (R103, R155, R208). -/
def execFirstCellOffer (n : Fin 128) (s : State) : Host.Outcome State Fault Refusal := finish s (s.offer n)
/-- CORE_SLOT (R176). -/
def execCoreSlot (s : State) : Host.Outcome State Fault Refusal := finish s s.coreSlot
/-- REORDER_TIMEOUT (R187). -/
def execReorderTimeout (o i : Fin 128) (queue : Nat) (s : State) : Host.Outcome State Fault Refusal := finish s (s.seqSkip o i queue)
/-- FLUSH_WALKER_FREE (R151). -/
def execFlushWalkerFree (m : Fin 128) (s : State) : Host.Outcome State Fault Refusal := finish s (s.walkerFree m)
/-- CORE_CNT_CLR (R198). -/
def execCoreCntClr (n : Fin 128) (s : State) : Host.Outcome State Fault Refusal := finish s (s.cntClr (Reg.C_CORE_TAB_CELLS n) 12)
/-- AUDIT_QUERY (R163). -/
def execAuditQuery (owner : BitVec 12) (s : State) : Host.Outcome State Fault Refusal := finish s (s.auditAsk owner.toNat true)
/-- POOL_GET (R166). -/
def execPoolGet (k : Fin 4) (s : State) : Host.Outcome State Fault Refusal := finish s (s.poolRead k)
/-- POOL_FREE (R167). -/
def execPoolFree (handle : Word) (s : State) : Host.Outcome State Fault Refusal := finish s (s.poolWrite handle.toNat)
/-- OCC_PEAK_READ (R174). -/
def execOccPeakRead (n : Fin 128) (s : State) : Host.Outcome State Fault Refusal := finish s (s.peakRead n)
/-- BUF_CNT_CLR (R174). -/
def execBufCntClr (n : Fin 128) (s : State) : Host.Outcome State Fault Refusal := finish s (s.bufClear n)
/-- CREDIT_RETURN (R169). -/
def execCreditReturn (n : Fin 128) (f : CreditFifo) (s : State) : Host.Outcome State Fault Refusal := finish s (s.creditBack n f)
/-- SLICE_SCRUB_READ (R172). -/
def execSliceScrubRead (m : Fin 128) (w : ScrubWord) (e : Ecc) (s : State) : Host.Outcome State Fault Refusal :=
  finish s (s.sliceScrub m w e)

end Sys2Proof.Machine
end

