-- ==== Sys2Proof/Machine/Irq.lean ====
section
/-!
DEFINITION. What the interrupt controller does on its registers (R374–R384).
-/
namespace Sys2Proof.Machine
namespace Dev

/-- A claim of target `t` (R378): the best qualifying source moves from PEND to ACT; the read's data leaves the device. -/
def claim (d : Dev) (t : Nat) : Dev :=
  match d.bestOf (d.claimables t) with
  | none => d.emit (.readData (Reg.IRQ_CLAIM t) 0)
  | some s =>
    let d1 := (d.bset (Reg.IRQ_PEND (srcWord s)) (s % 32) false).bset (Reg.IRQ_ACTIVE (srcWord s)) (s % 32) true
    let d2 := { d1 with irq := { d1.irq with claimedBy := SMap.put d1.irq.claimedBy s t } }
    let d3 := if s = 32 then
        d2.updHost (fun h => { h with cqs := h.cqs.map (fun p =>
          if d2.tf 0x0E02 0 p.1 2 13 12 = 2 then (p.1, { p.2 with pend := false }) else p) })
      else d2
    let d4 := (d3.emit (.readData (Reg.IRQ_CLAIM t) (wd (2 ^ 31 + d.prioOf s * 65536 + s)))).moderate t
    if decide (4 ≤ t) && d4.request t then d4.msix 0 (t - 4) else d4

/-- A completion written to target `t` (R379). -/
def complete (d : Dev) (t s : Nat) : Dev :=
  if d.actOf s && decide (SMap.get? d.irq.claimedBy s = some t) then
    let d1 := d.bset (Reg.IRQ_ACTIVE (srcWord s)) (s % 32) false
    { d1 with irq := { d1.irq with claimedBy := SMap.erase d1.irq.claimedBy s } }.irqSync s
  else (d.fset Reg.IRQ_STATUS 10 0 s).bset Reg.IRQ_STATUS 31 true

/-- The sources of a word of a bit vector whose bits are 1 in `v`; reserved sources are left out (R374). -/
def wordSrcs (w : Nat) (v : Word) : List Nat :=
  ((upto 32).filter (fun j => wbit v j)).map (fun j => 32 * w + j) |>.filter
    (fun s => !(s == 31 || (decide (33 ≤ s) && decide (s < 120))))

/-- A write of ones to IRQ_PEND SET (R375). -/
def pendSetWord (d : Dev) (w : Nat) (v : Word) : Dev := (wordSrcs w v).foldl pendSet d
/-- A write of ones to IRQ_PEND CLEAR (R375). -/
def pendClearWord (d : Dev) (w : Nat) (v : Word) : Dev := (wordSrcs w v).foldl pendClear d

/-- The mask word that a write of form 0 VALUE, 1 SET, 2 CLEAR leaves (R11). -/
def maskNext (old v : Word) (form : Nat) : Word :=
  match form with
  | 0 => v
  | 1 => old ||| v
  | _ => old &&& ~~~v

/-- A write to the IRQ_MASK triple (R11, R377): an unmasked pending source comes to qualify. -/
def maskWrite (d : Dev) (w form : Nat) (v : Word) : Dev :=
  let old := d.rd (Reg.IRQ_MASK w)
  let new := maskNext old v form
  let d1 := d.wr (Reg.IRQ_MASK w) new
  let opened := (wordSrcs w (old &&& ~~~new)).filter (fun s => d1.qualifies s)
  (upto 8).foldl moderate (opened.foldl cameToQualify d1)

/-- A write of ones to IRQ_SWI gives sources 120 to 127 one edge each (R384). -/
def swi (d : Dev) (v : Nat) : Dev := ((upto 8).filter (fun j => bit v j)).foldl (fun x j => x.irqEdge (120 + j)) d

/-- HOLDOFF µs have passed since the first source counted in U: D rises (R380). -/
def holdoffRise (d : Dev) (t : Nat) : Dev :=
  if (d.target t).counting && !(d.target t).d && !(d.claimables t).isEmpty then
    (d.updTarget t (fun _ => { u := 0, d := true, counting := false })).requestOut t (d.request t)
  else d

/-- Is it a pending word of the interrupt controller? -/
def isPend (a : Nat) : Prop := ∃ w < 36, a = Reg.IRQ_PEND w

/-- The device without registers, outputs and the moderation and messages of interrupts: what the operations of the interrupt
controller leave alone, as the statements say it. -/
def beside (d : Dev) : Dev :=
  { d with regs := [], irq := { d.irq with targets := [] }, outs := []
           host := { d.host with fns := [], heldMsix := [], wake := false } }

end Dev

end Sys2Proof.Machine
end

