-- ==== Sys2Proof/Machine/Bus.lean ====
section
/-!
DEFINITION. Register space as the host and the monitor reach it: reads with their latches and effects (R4–R14, R45), writes by access
type and commit class (R12), the table access windows (R450–R453), and the VF register pages (R352).
-/
namespace Sys2Proof.Machine
namespace Dev

/-! What is not there (R4, R96, R142, R167, R220). -/

/-- The port that a register of its own belongs to, where one does: its MAC block, parse settings and counters, egress settings. -/
def regPort? (a : Nat) : Option Nat :=
  if a < 0x01000000 ∨ 0x03000000 ≤ a then none
  else
    let n := (a - 0x01000000) / 0x40000
    let r := a % 0x40000
    if 0x8000 ≤ r ∧ r < 0xA000 then some (8 * n + (r - 0x8000) / 0x400)
    else if 0x10000 ≤ r ∧ r < 0x10040 then some (8 * n + r % 0x20 / 4)
    else if 0x10200 ≤ r ∧ r < 0x10600 then some (8 * n + (r - 0x10200) / 0x80)
    else if 0x20000 ≤ r ∧ r < 0x20060 then some (8 * n + r % 0x20 / 4)
    else none
/-- Does an offset read zero and discard writes, for its port is unused or the pools are? -/
def deadAt (d : Dev) (a : Nat) : Bool :=
  (match regPort? a with | some p => !d.named p | none => false)
    || (decide (Reg.spar 0 + 0x18810 ≤ a) && decide (a < Reg.spar 0 + 0x18870) && !d.poolMode)

/-! Reads. -/

/-- The register pairs beside the counters (R10): the offsets of their low words. -/
def pairLows : List Nat :=
  [Reg.PTP_TIME_LO, Reg.PTP_OFFSET_LO, Reg.PTP_PPS_IN_TS_LO, Reg.GLB_BOUNDARY_TIME_LO, Reg.FMC_ERR_ADDR_LO, Reg.HQ_TEN_BUSY_LO,
   Reg.HQ_TEN_STUCK_LO, Reg.GLB_SERIAL_LO]
/-- The pair that an offset is a word of: its low word's offset, and whether the offset is the high word's. The two words of a
transmit stamp are both latched by the read of its sequence number instead (R108). -/
def pairAt? (a : Nat) : Option (Nat × Bool) :=
  match Reg.counterAt? a with
  | some x => some x
  | none =>
    if pairLows.contains a then some (a, false)
    else if 4 ≤ a ∧ pairLows.contains (a - 4) then some (a - 4, true)
    else none
/-- The 64 bits of a pair. -/
def pairVal (d : Dev) (lo : Nat) : Nat :=
  if lo = Reg.PTP_TIME_LO then d.nowU
  else if lo = Reg.PTP_OFFSET_LO then unsgn 64 (d.time.slew / (timeUnit : Int))
  else if lo = Reg.GLB_SERIAL_LO then d.fuses.serial
  else if (Reg.counterAt? lo).isSome then (d.cnt lo).toNat
  else (d.rd lo).toNat + 2 ^ 32 * (d.rd (lo + 4)).toNat

/-- Registers below the spars whose bits the device keeps elsewhere; `v` is what is stored. -/
def viewGlobal (d : Dev) (a : Nat) (v : Word) : Word :=
  if a = Reg.GLB_SLEEP_STATUS then setFld v 2 0 d.island.power.code
  else if a = Reg.GLB_REV then setBit (setBit v 9 (d.fuses.keyHash.any (fun x => x != 0))) 8 d.fuses.sample
  else if a = Reg.MHI_RTC_SEC then d.island.secLatch
  else if a = Reg.MHI_UART_STATUS then setFld (setFld v 12 8 d.island.tx.length) 4 0 d.island.rx.length
  else if a = Reg.STK_STATUS then setFld (setBit v 31 d.fuses.master) 30 28 d.fuses.stackId
  else if 0x200040 ≤ a ∧ a < 0x200080 then
    setBit (setBit v 2 (d.causeOf ((a - 0x200040) / 4))) 3 (d.resettingOf ((a - 0x200040) / 4))
  else if 0x200400 ≤ a ∧ a < 0x200800 ∧ d.bget Reg.FLT_LOG_STATUS 31 then 0
  else if 0x400400 ≤ a ∧ a < 0x400600 then d.pcStatus ((a - 0x400400) / 4)
  else v
/-- Registers of the interrupt controller (R11, R384). -/
def viewIrq (d : Dev) (a : Nat) (v : Word) : Word :=
  if 0x101000 ≤ a ∧ a < 0x101240 then d.rd (Reg.IRQ_MASK ((a - 0x101000) / 16))
  else if 0x102000 ≤ a ∧ a < 0x102240 then d.rd (Reg.IRQ_PEND ((a - 0x102000) / 16))
  else if 0x103400 ≤ a ∧ a < 0x103490 then
    wd ((upto 32).foldl (fun x j => x + b2n (d.irqInput (8 * (a - 0x103400) + j)) * 2 ^ j) 0)
  else if 0x100100 ≤ a ∧ a < 0x100200 ∧ a % 32 = 12 then
    let t := (a - 0x100100) / 32
    wd ((d.target t).u * 256 + b2n (!(d.claimables t).isEmpty && !(d.target t).d) * 2 + b2n (d.request t))
  else v
/-- The state of an engine (R247). -/
def engineCode (d : Dev) (e : Nat) : Nat :=
  let x := d.engine e
  if d.engFenced e then 7
  else if x.reloading then 6
  else if x.cur.isNone then 0
  else match x.stall with
    | .outlet _ _ => 2
    | .memory => 3
    | .rows => 3
    | .hostStore => 3
    | .unit _ _ => 4
    | .wait _ => 4
    | .barrier _ _ => 4
    | .none => if x.committed then 5 else 1
/-- CE_CTX_STATE (R247): context 0 is ready while its list has commands; a running context waits while its routine stands in a WAIT. The
priority is that with which the context last ran, or that of its job. -/
def ctxWord (d : Dev) (e k : Nat) : Word :=
  let c := d.ctx e k
  let waits : Bool := match (d.engine e).stall with | .wait _ => true | .barrier _ _ => true | _ => false
  let st := if k = 0 ∧ c.state = 0 ∧ 0 < d.ctxCount e 0 then 1 else if c.state == 2 && waits then 3 else c.state
  wd (c.cmdIdx % 65536 * 65536 + c.tenant % 64 * 1024 + c.prio % 4 * 256 + st)
/-- Registers of spar `n` at offset `r` of its block. -/
def viewSpar (d : Dev) (n r : Nat) (v : Word) : Word :=
  let e := d.engine n
  if r = 0x1800C then
    wd (b2n (d.engPause n) * 32 + b2n (d.reefAct n 4) * 16 + d.devLevel * 4 + (d.sliceOf n).level)
  else if r = 0x18010 then wd ((d.sliceOf n).mgmtUsed * 65536 + (d.sliceOf n).occ)
  else if r = 0x18018 then wd (d.sliceOf n).unlinked.length
  else if decide (n = 0) && decide (0x18830 ≤ r) && decide (r < 0x18840) then
    wd (d.poolCount ((r - 0x18830) / 4) - d.poolUsed ((r - 0x18830) / 4))
  else if r = 0x1C000 then wd (d.time.pround % 2 ^ 20 * 128 + d.slot)
  else if r = 0x1C02C then wd ((d.spar n).inFifo.length * 65536 + (d.spar n).reorder.length)
  else if r = 0x2006C then wd ((upto 8).foldl (fun x i => x + b2n (decide ((d.port (8 * n + i)).bucket < 0)) * 2 ^ i) 0)
  else if r = 0x30004 then d.gangWord n
  else if r = 0x30008 then wd (e.stack.length * 2 ^ 24 + e.mpc % 8192 * 256 + e.cur.getD 0 * 16 + d.engineCode n)
  else if 0x30010 ≤ r ∧ r < 0x30020 then d.ctxWord n ((r - 0x30010) / 4)
  else if 0x30020 ≤ r ∧ r < 0x30030 then (d.ctx n ((r - 0x30020) / 4)).job
  else v
/-- What a read of a register returns (R6, R13, R45), where it has no effect and no latch. -/
def regVal (d : Dev) (a : Nat) : Word :=
  match Reg.at? a with
  | none => 0
  | some r =>
    let v := if r.cls == .B && d.bget Reg.GLB_COMMIT_CTRL 4 then d.rdSh a else d.rd a
    if a < 0x00100000 then d.viewGlobal a v
    else if a < 0x00200000 then d.viewIrq a v
    else if a < 0x01000000 then d.viewGlobal a v
    else d.viewSpar ((a - 0x01000000) / 0x40000) (a % 0x40000) v

/-- A read of the fault log (R398, R399): an access of its memory; zero while INVALID is set. -/
def logRead (a : Nat) (d : Dev) : Dev :=
  let d1 := if !d.bget Reg.FLT_LOG_STATUS 31 && d.armed 39 then d.logBroken else d
  d1.emit (.readData a (if d1.bget Reg.FLT_LOG_STATUS 31 then 0 else d1.rd a))
/-- The effect of a read that has one of its own (R108, R166, R378, R398, R418, R447). -/
def readOp? (a : Nat) : Option (Dev → Dev) :=
  if decide (0x100100 ≤ a) && decide (a < 0x100200) && decide (a % 32 = 0) then some (fun x => x.claim ((a - 0x100100) / 32))
  else if a = Reg.MHI_UART_DATA then some uartPop
  else if a = Reg.MHI_RTC_SUB then some subRead
  else if a = Reg.GLB_ENV_STRETCH then some stretchRead
  else if decide (0x200400 ≤ a) && decide (a < 0x200800) && decide (a % 4 = 0) then some (logRead a)
  else if 0x01000000 ≤ a ∧ a < 0x03000000 then
    let n := (a - 0x01000000) / 0x40000
    let r := a % 0x40000
    if 0x8000 ≤ r ∧ r < 0xA000 then
      (if r % 0x400 = 0x14 then some (fun x => x.tsPop (8 * n + (r - 0x8000) / 0x400)) else none)
    else if r = 0x18014 then some (fun x => x.peakRead n)
    else if decide (n = 0) && decide (0x18850 ≤ r) && decide (r < 0x18860) && decide (r % 4 = 0) then
      some (fun x => x.poolRead ((r - 0x18850) / 4))
    else none
  else none
/-- Is an output the data of a register read? -/
def isRead : Output → Bool
  | .readData _ _ => true
  | _ => false
/-- The data of the first register read among outputs. -/
def readOf : List Output → Word
  | [] => 0
  | .readData _ v :: _ => v
  | _ :: r => readOf r
/-- An operation that answers a read, with the data it answers taken out of what leaves the device. -/
def capture (d : Dev) (f : Dev → Dev) : Word × Dev :=
  let x := f { d with outs := [] }
  (readOf x.outs, { x with outs := d.outs ++ x.outs.filter (fun o => !isRead o) })

/-- A queue of function `f` by its LOCAL number (R352, R354): the SQs, or the CQs, that its settings give it. -/
def localSq? (d : Dev) (f i : Nat) : Option Nat := d.sqList.find? (fun q => d.sqFn q == f && d.sqf q 2 23 16 == i)
/-- A completion queue of function `f` by its LOCAL number. -/
def localCq? (d : Dev) (f i : Nat) : Option Nat :=
  ((d.tabs.filter (fun p => decide (tkey 0x0E02 0 0 ≤ p.1) && decide (p.1 < tkey 0x0E02 0 4096))).map (fun p => p.1 % 2 ^ 20)).find?
    (fun c => d.cqf c 2 11 11 == 1 && d.cqFn c == f && d.cqf c 2 23 16 == i)
/-- A word of an MSI-X table (R352, log 136): the address, the data, and in bit 0 of the fourth word the vector's mask. -/
def msixWord (d : Dev) (f o : Nat) : Word :=
  let v := o / 16
  if o / 4 % 4 = 3 then wd (b2n (!(d.fn f).unmasked.contains v)) else (SMap.get (fun _ => []) (d.fn f).vectors v).getD (o / 4 % 4) 0
/-- A word of an MSI-X pending bit array. -/
def pbaWord (d : Dev) (f o : Nat) : Word := wd ((upto 32).foldl (fun x j => x + b2n ((d.fn f).pba.contains (8 * o + j)) * 2 ^ j) 0)
/-- A write of an MSI-X table: a vector unmasked sends the message that waits for it (R365). -/
def msixPut (d : Dev) (f o : Nat) (w : Word) : Dev :=
  let v := o / 16
  if o / 4 % 4 = 3 then
    (if wbit w 0 then d.updFn f (fun x => { x with unmasked := x.unmasked.filter (fun y => y != v) }) else d.vectorOpen f v)
  else d.updFn f (fun x => { x with vectors := SMap.upd (fun _ => []) x.vectors v (fun l => ((l ++ [0, 0, 0]).take 3).set (o / 4 % 4) w) })
/-- BAR4 of the physical function (R352): the MSI-X table of 2,048 vectors, and its PBA at 0x8000. -/
def bar4Read (d : Dev) (o : Nat) : Word :=
  if o % 4 ≠ 0 then 0 else if o < 0x8000 then d.msixWord 0 o else if o < 0x8100 then d.pbaWord 0 (o - 0x8000) else 0
/-- A write in BAR4. -/
def bar4Write (d : Dev) (o : Nat) (v : Word) : Dev := if o % 4 = 0 ∧ o < 0x8000 then d.msixPut 0 o v else d
/-- A read in the register page of VF `f` (R352); there is none in NO_IMAGE (R39). -/
def vfRead (d : Dev) (f o : Nat) : Word :=
  if f = 0 ∨ 64 ≤ f ∨ o % 4 ≠ 0 ∨ d.noImage = true then 0
  else if o < 0x0400 then (match d.localSq? f (o / 4) with | some q => d.rd (Reg.HQ_SQ_TAIL q) | none => 0)
  else if o < 0x0800 then (match d.localCq? f ((o - 0x0400) / 4) with | some c => d.rd (Reg.HQ_CQ_HEAD c) | none => 0)
  else if o < 0x0C00 then (match d.localSq? f ((o - 0x0800) / 4) with | some q => d.rd (Reg.HQ_SQ_HEAD q) | none => 0)
  else if o < 0x1000 then
    (match d.localSq? f ((o - 0x0C00) / 4) with
     | some q => wd (b2n (d.bget (Reg.HQ_SQ_CTRL q) 3) * 8 + b2n (d.bget (Reg.HQ_SQ_CTRL q) 1) * 2)
     | none => 0)
  else if o = 0x1000 then wd (b2n (d.fnFenced f) * 2 + b2n (d.fn f).resetting)
  else if 0x8000 ≤ o ∧ o < 0x8400 then d.msixWord f (o - 0x8000)
  else if 0x9000 ≤ o ∧ o < 0x9008 then d.pbaWord f (o - 0x9000)
  else if 0xA000 ≤ o ∧ o < 0xA020 then
    wd ((upto 32).foldl (fun x j => x + b2n ((d.fn f).mirror.contains (8 * (o - 0xA000) + j)) * 2 ^ j) 0)
  else 0

/-- A 32-bit read at an address: the PF's BAR0, and from the host, at 0x04000000 + 0x10000·f, BAR4 of the PF and the pages of the VFs (log 40). -/
def busRead (d : Dev) (host : Bool) (a : Nat) : Word × Dev :=
  if 0x04000000 ≤ a then
    (if !host then 0 else if a < 0x04010000 then d.bar4Read (a % 0x10000) else d.vfRead ((a - 0x04000000) / 0x10000) (a % 0x10000), d)
  else if d.deadAt a || (host && decide (0x800 ≤ a) && decide (a < 0x1000) && !d.inRun) then (0, d)
  else match pairAt? a with
    | some (lo, false) => (wd (d.pairVal lo), d.latchSet lo (wd (d.pairVal lo / 2 ^ 32)))
    | some (lo, true) => (SMap.get (fun _ => 0) d.latch lo, d)
    | none => match readOp? a with
      | some f => d.capture f
      | none => (d.regVal a, d)

/-! Table access windows (R450–R453). -/

/-- The entry that a window names. -/
def winIndex (d : Dev) (w : Nat) : Nat := d.fget (Reg.GLB_TW_INDEX w) 19 0
/-- The key of a window's entry; SPAR is ignored for a device table. -/
def winKey (d : Dev) (w : Nat) (t : TabDef) : Nat :=
  tkey t.id (if t.perSpar then d.fget (Reg.GLB_TW_SEL w) 6 0 else 0) (d.winIndex w)
/-- Why an operation of a window is refused (R452); 0 where it is not. -/
def winCode (d : Dev) (w : Nat) (write : Bool) : Nat :=
  match d.winTab? w with
  | none => 1
  | some t =>
    if t.entries ≤ d.winIndex w then 2
    else if write && t.cls == .ro then 3
    else if write && t.cls == .L && !d.noImage then 4
    else 0
/-- ERR of a window. -/
def winErr (d : Dev) (w code : Nat) : Dev := d.fset (Reg.GLB_TW_CTRL w) 7 4 code
/-- Is a window busy? -/
def winBusy (d : Dev) (w : Nat) : Bool := d.bget (Reg.GLB_TW_CTRL w) 2
/-- The words of a window's entry as a READ takes them (R45, R451). -/
def winWords (d : Dev) (w : Nat) (t : TabDef) : List Word :=
  let key := d.winKey w t
  if t.id = 0x0301 then ((d.lane (8 * d.fget (Reg.GLB_TW_SEL w) 6 0 + d.winIndex w)).ffe).map (fun x => wd (unsgn 8 x))
  else if t.cls == .B && d.bget Reg.GLB_COMMIT_CTRL 4 then SMap.get tabDefault d.shTabs key
  else SMap.get tabDefault d.tabs key
/-- The data words of a window replaced; those past the list read zero. -/
def winFill (d : Dev) (w : Nat) (ws : List Word) : Dev :=
  let lo := Reg.GLB_TW_DATA w 0
  let d1 : Dev := { d with regs := d.regs.filter (fun p => !(decide (lo ≤ p.1) && decide (p.1 < lo + 8192))) }
  (upto ws.length).foldl (fun x k => x.wr (Reg.GLB_TW_DATA w k) (ws.getD k 0)) d1
/-- A READ (R451): the entry is taken in one step; one of table 0x0810 clears its peaks (R214). -/
def winRead (d : Dev) (w : Nat) : Dev :=
  if d.winBusy w then d.winErr w 5
  else match d.winTab? w with
    | none => d.winErr w 1
    | some t =>
      if d.winCode w false ≠ 0 then d.winErr w (d.winCode w false)
      else
        let d1 := ((d.winFill w (d.winWords w t)).winErr w 0).bset (Reg.GLB_TW_CTRL w) 2 true
        if t.id = 0x0810 then
          let key := d.winKey w t
          { d1 with tabs := SMap.upd tabDefault d1.tabs key (fun e => (e.set 1 0).set 3 0) }
        else d1
/-- Is a full image being expanded, so that what the shadow holds is about to be replaced (R42)? -/
def fullExpanding (d : Dev) : Bool := match d.loader.job with | some j => j.expanding && !j.delta | none => false
/-- A WRITE begins (R451): it waits for its end in the order of the commands. One of a class B table that arrives while a full image is
expanded is discarded (R42): the window is busy for it, and nothing is applied. -/
def winWrite (d : Dev) (w : Nat) : Dev :=
  if d.winBusy w then d.winErr w 5
  else if d.winCode w true ≠ 0 then d.winErr w (d.winCode w true)
  else if d.fullExpanding && (match d.winTab? w with | some t => t.cls == .B | none => false) then
    (d.winErr w 0).bset (Reg.GLB_TW_CTRL w) 2 true
  else { (d.winErr w 0).bset (Reg.GLB_TW_CTRL w) 2 true with winPend := d.winPend ++ [w] }
/-- A WRITE applied: the whole entry, into the shadow bank, or in NO_IMAGE straight into a class L table. -/
def winApply (d : Dev) (w : Nat) : Dev :=
  match d.winTab? w with
  | none => d
  | some t =>
    let key := d.winKey w t
    let ws := (upto t.words).map (fun k => d.rd (Reg.GLB_TW_DATA w k))
    if t.cls == .L then
      (if d.noImage then { d with tabs := SMap.set tabDefault d.tabs key ws } else d.winErr w 4)
    else ((d.shTabPut key ws).entryRewritten key).readyAgain
/-- The members of a list up to and including `w`, and the rest. -/
def splitAfter (w : Nat) : List Nat → List Nat × List Nat
  | [] => ([], [])
  | x :: xs => if x = w then ([x], xs) else let (a, b) := splitAfter w xs; (x :: a, b)
/-- BUSY falls; INDEX advances after an operation that succeeded, and wraps at the table's entry count. -/
def winIdle (d : Dev) (w : Nat) : Dev :=
  let d1 := d.bset (Reg.GLB_TW_CTRL w) 2 false
  if d1.bget (Reg.GLB_TW_CTRL w) 8 && decide (d1.fget (Reg.GLB_TW_CTRL w) 7 4 = 0 ∨ d1.fget (Reg.GLB_TW_CTRL w) 7 4 = 5) then
    match d1.winTab? w with
    | some t => d1.fset (Reg.GLB_TW_INDEX w) 19 0 ((d1.winIndex w + 1) % atLeast1 t.entries)
    | none => d1
  else d1
/-- An operation of a window is done (R451): a WRITE with every one before it; none while a commit window is open. -/
def winDone (d : Dev) (w : Nat) : Dev :=
  if !d.winBusy w then d
  else if d.winPend.contains w then
    if d.commit.window then d
    else
      let (now, rest) := splitAfter w d.winPend
      (now.foldl winApply { d with winPend := rest }).winIdle w
  else d.winIdle w
/-- A write to a window's registers (R450, R452). -/
def winRegWrite (d : Dev) (r : RegDef) (a : Nat) (v : Word) : Dev :=
  let w := (a - 0x00600000) / 0x40000
  if d.winBusy w then d.winErr w 5
  else
    let d1 := d.wr a (r.host (d.rd a) v)
    if a = Reg.GLB_TW_CTRL w then (if wbit v 0 then d1.winRead w else if wbit v 1 then d1.winWrite w else d1) else d1

/-! Writes. -/

/-- A write by its fields alone. -/
def plainWrite (d : Dev) (r : RegDef) (a : Nat) (v : Word) : Dev := d.wr a (r.host (d.rd a) v)
/-- An operation where a bit is 1. -/
def onBit (d : Dev) (v : Word) (i : Nat) (f : Dev → Dev) : Dev := if wbit v i then f d else d
/-- Class I registers of the global region. -/
def glbWrite (d : Dev) (r : RegDef) (a : Nat) (v : Word) : Dev :=
  if a = Reg.GLB_COMMIT_CTRL then d.commitWrite (wbit v 4) (wbit v 3) (wbit v 2) (wbit v 1) (wbit v 0)
  else if a = Reg.GLB_IMG_CTRL then (if wbit v 0 then d.loadGo (wbit v 1) else d.plainWrite r a v)
  else if a = Reg.GLB_SLEEP_CTRL then (if wbit v 0 then d.sleepAsk else d.sleepBack)
  else if 0x800 ≤ a then d.mhiWrite r a v false
  else d.plainWrite r a v
/-- The interrupt controller. -/
def irqWrite (d : Dev) (r : RegDef) (a : Nat) (v : Word) : Dev :=
  if 0x101000 ≤ a ∧ a < 0x101240 then d.maskWrite ((a - 0x101000) / 16) (a % 16 / 4) v
  else if 0x102000 ≤ a ∧ a < 0x102240 then
    let w := (a - 0x102000) / 16
    (match a % 16 / 4 with | 1 => d.pendSetWord w v | 2 => d.pendClearWord w v | _ => d)
  else if a = Reg.IRQ_SWI then d.swi (fld v 7 0)
  else if decide (0x100100 ≤ a) && decide (a < 0x100200) && decide (a % 32 = 4) then d.complete ((a - 0x100100) / 32) (fld v 10 0)
  else d.plainWrite r a v
/-- The fault collector. -/
def fltWrite (d : Dev) (r : RegDef) (a : Nat) (v : Word) : Dev :=
  if a = Reg.FLT_CLASS_CLR then ((upto 16).filter (fun c => wbit v c)).foldl classAck d
  else if a = Reg.FLT_BLACK_CLR then d.onBit v 0 blackAck
  else if a = Reg.FLT_INJ then
    (if wbit v 31 then (d.onBit v 30 (fun x => x.bset Reg.FLT_INJ 30 false)).armInj (fld v 8 0) (wbit v 16) else d.plainWrite r a v)
  else if a = Reg.FLT_LOG_CTRL then d.onBit v 0 logClr
  else if a = Reg.FLT_CMD then d.onBit v 0 fltClear
  else d.plainWrite r a v
/-- A write of HQ_SQ_CTRL. -/
def sqCtrlWrite (d : Dev) (q : Nat) (v : Word) : Dev :=
  ((d.stopWrite q (wbit v 0)).pauseWrite q (wbit v 1)).onBit v 2 (fun x => x.cacheEmpty q)
/-- The host queues. -/
def hqWrite (d : Dev) (r : RegDef) (a : Nat) (v : Word) : Dev :=
  if a = Reg.HQ_TEN_CTRL then (if wbit v 31 then d.tenantWrite (fld v 5 0) else d.plainWrite r a v)
  else if a = Reg.HQ_CMD then d.onBit v 0 (fun x => x.cntClr Reg.C_HQ_JOBS 11)
  else if 0x310000 ≤ a ∧ a < 0x320000 then
    let q := (a - 0x310000) / 16
    (match a % 16 / 4 with | 0 => d.tailBell q (fld v 15 0) | 2 => d.sqCtrlWrite q v | _ => d)
  else if 0x320000 ≤ a ∧ a < 0x330000 then (if a % 16 = 0 then d.headBell ((a - 0x320000) / 16) (fld v 15 0) else d)
  else d.plainWrite r a v
/-- The DMA channels. -/
def dmaRegWrite (d : Dev) (r : RegDef) (a : Nat) (v : Word) : Dev :=
  if a = Reg.DMA_SWREQ then ((upto 16).filter (fun l => wbit v l)).foldl lineRaise d
  else if a = Reg.DMA_CMD then (d.fset a 5 0 (fld v 5 0)).onBit v 31 (fun x => x.dmaEnd (fld v 5 0) 1)
  else d.plainWrite r a v
/-- Frame memory. -/
def fmcWrite (d : Dev) (r : RegDef) (a : Nat) (v : Word) : Dev :=
  if a = Reg.FMC_BAR2 then d.bar2Base (fld v 6 0)
  else if a = Reg.FMC_CMD then d.onBit v 0 (fun x => x.cntClr Reg.C_FMC_CORR_CNT 10)
  else if a = Reg.FMC_PORT_CLR then d.readmit (fld v 8 0)
  else d.plainWrite r a v
/-- Stacking. -/
def stkWrite (d : Dev) (r : RegDef) (a : Nat) (v : Word) : Dev :=
  if a = Reg.STK_CAL_CTRL then d.onBit v 0 calStart
  else if a = Reg.STK_CMD then d.onBit v 0 (fun x => x.cntClr Reg.C_STK_HL_REPLAY 6)
  else d.plainWrite r a v
/-- The time base (R60–R63, R66). -/
def ptpWrite (d : Dev) (r : RegDef) (a : Nat) (v : Word) : Dev :=
  if a = Reg.PTP_FREQ then d.setFreq v
  else if a = Reg.PTP_OFFSET_LO then d.updTime (fun t => { t with offLo := v })
  else if a = Reg.PTP_OFFSET_HI then d.setOffset v
  else if a = Reg.PTP_STEP_LO then d.updTime (fun t => { t with stepLo := v })
  else if a = Reg.PTP_STEP_HI then d.stepTime v
  else if a = Reg.PTP_CMD then (d.onBit v 1 ptpLockOff).onBit v 0 ptpLockOn
  else d.plainWrite r a v
/-- Class I registers of spar `n` at offset `o` of its block. -/
def sparWrite (d : Dev) (r : RegDef) (n o a : Nat) (v : Word) : Dev :=
  if o < 0x8000 then
    let l := 8 * n + o / 0x1000
    (match o % 0x1000 with
     | 0x24 => if wbit v 0 then d.lpEnter l else d.lpExit l
     | 0x2C => (d.onBit v 1 (fun x => x.prbsClear l)).onBit v 0 (fun x => x.inject l false)
     | _ => d.plainWrite r a v)
  else if o < 0xA000 then
    let p := 8 * n + (o - 0x8000) / 0x400
    if o % 0x400 = 8 then
      ((d.fenceWrite p (wbit v 0)).onBit v 1 (fun x => x.macClear p)).onBit v 2 (fun x => x.anStart p)
    else d.plainWrite r a v
  else match o with
    | 0x100CC => d.onBit v 0 (fun x => x.prsClear n)
    | 0x18028 => d.onBit v 0 (fun x => x.bufClear n)
    | 0x18808 => d.auditAsk (fld v 11 0) (wbit v 31)
    | 0x18840 => d.poolWrite v.toNat
    | 0x1C038 => d.onBit v 0 (fun x => x.cntClr (Reg.C_CORE_TAB_CELLS n) 12)
    | 0x20068 => d.onBit v 0 (fun x => x.cntClr (Reg.C_EQ_QDROP_GREEN n) 7)
    | 0x28028 => (d.onBit v 0 (fun x => x.cntClr (Reg.C_TEL_PC_SENT n) 4)).onBit v 1 (fun x => x.histClear n)
    | 0x30034 =>
      (((((d.onBit v 0 (fun x => x.ceClear n)).bset (Reg.CE_CMD n) 1 (wbit v 1)).onBit v 2 (fun x => x.forceReload n)).onBit v 3
        (fun x => x.inletResumeCmd n)).onBit v 4 (fun x => x.inletSkipCmd n))
    | 0x38028 => d.onBit v 0 (fun x => x.cntClr (Reg.C_WALL_TILES_SENT n) 10)
    | _ => d.plainWrite r a v
/-- A class I write, at once (R12). -/
def immediate (d : Dev) (r : RegDef) (a : Nat) (v : Word) : Dev :=
  if a < 0x00100000 then d.glbWrite r a v
  else if a < 0x00200000 then d.irqWrite r a v
  else if a < 0x00300000 then d.fltWrite r a v
  else if a < 0x00380000 then d.hqWrite r a v
  else if a < 0x00400000 then d.dmaRegWrite r a v
  else if a < 0x00500000 then d.fmcWrite r a v
  else if a < 0x00580000 then d.stkWrite r a v
  else if a < 0x00600000 then d.ptpWrite r a v
  else if a < 0x00800000 then d.winRegWrite r a v
  else d.sparWrite r ((a - 0x01000000) / 0x40000) (a % 0x40000) a v

/-- Is an offset that of a PRS_PORT_CFG, and the value one that it discards (R142)? -/
def parseCfgBad (a : Nat) (v : Word) : Bool :=
  decide (0x01000000 ≤ a) && decide (0x10000 ≤ a % 0x40000) && decide (a % 0x40000 < 0x10020)
    && (decide (fld v 4 0 < 1) || decide (16 < fld v 4 0) || decide (fld v 14 6 < 64) || decide (256 < fld v 14 6))
/-- A class B write (R44, R48, R102, R142): to the shadow bank, or held while a commit window is open or held writes wait. -/
def boundaryWrite (d : Dev) (a : Nat) (v : Word) : Dev :=
  if parseCfgBad a v then d.prsEvent ((a - 0x01000000) / 0x40000) 5
  else
    let d1 := if isMacCfg a && maxFrameBad v then
        d.macEvent (8 * ((a - 0x01000000) / 0x40000) + (a % 0x40000 - 0x8000) / 0x400) 4
      else d
    if d1.fullExpanding then d1
    else if d1.commit.window || !d1.commit.hold.isEmpty then d1.updCommit (fun c => { c with hold := c.hold ++ [(a, v)] })
    else d1.shadowPut a v

/-- A write in the register page of VF `f` (R352); there is none in NO_IMAGE (R39). -/
def vfWrite (d : Dev) (f o : Nat) (v : Word) : Dev :=
  if f = 0 ∨ 64 ≤ f ∨ o % 4 ≠ 0 ∨ d.noImage = true then d
  else if o < 0x0400 then (match d.localSq? f (o / 4) with | some q => d.tailBell q (fld v 15 0) | none => d)
  else if o < 0x0800 then (match d.localCq? f ((o - 0x0400) / 4) with | some c => d.headBell c (fld v 15 0) | none => d)
  else if decide (0x0C00 ≤ o) && decide (o < 0x1000) then
    (match d.localSq? f ((o - 0x0C00) / 4) with
     | some q => (d.pauseWrite q (wbit v 1)).onBit v 2 (fun x => x.cacheEmpty q)
     | none => d)
  else if decide (0x8000 ≤ o) && decide (o < 0x8400) then d.msixPut f (o - 0x8000) v
  else if decide (0xA000 ≤ o) && decide (o < 0xA020) then
    d.updFn f (fun x => { x with mirror := x.mirror.filter (fun i => !(i / 32 == (o - 0xA000) / 4 && wbit v (i % 32))) })
  else d

/-- A 32-bit write at an address, by the class of its register (R4, R12, R14). -/
def busWrite (d : Dev) (host : Bool) (a : Nat) (v : Word) : Dev :=
  if 0x04000000 ≤ a then
    (if !host then d else if a < 0x04010000 then d.bar4Write (a % 0x10000) v else d.vfWrite ((a - 0x04000000) / 0x10000) (a % 0x10000) v)
  else if d.deadAt a || (host && decide (0x800 ≤ a) && decide (a < 0x1000) && !d.inRun) then d
  else match Reg.at? a with
    | none => d
    | some r => match r.cls with
      | .L => d
      | .B => d.boundaryWrite a v
      | .I => d.immediate r a v

/-! The console monitor (R413–R415). -/

/-- The monitor reads a register. -/
def monRead (d : Dev) (a : Word) : Dev :=
  d.monitor false (fun x => (x.busRead false a.toNat).2.say (hexOf 8 (x.busRead false a.toNat).1.toNat))
/-- The monitor writes a register. -/
def monWrite (d : Dev) (a v : Word) : Dev := d.monitor false (fun x => (x.busWrite false a.toNat v).say (chars ['o', 'k']))
/-- The value of a hexadecimal digit, upper or lower case. -/
def hexVal? (c : Byte) : Option Nat :=
  let x := c.toNat
  if 48 ≤ x ∧ x ≤ 57 then some (x - 48) else if 65 ≤ x ∧ x ≤ 70 then some (x - 55) else if 97 ≤ x ∧ x ≤ 102 then some (x - 87) else none
/-- The word that eight hexadecimal digits spell. -/
def hexWord? (cs : List Byte) : Option Word :=
  if cs.length = 8 then (cs.foldl (fun b c => match b, hexVal? c with | some x, some y => some (x * 16 + y) | _, _ => none) (some 0)).map wd
  else none
/-- A line taken by the monitor (R415): `r AAAAAAAA`, `w AAAAAAAA DDDDDDDD`, `s`, or anything else. -/
def lineRun (d : Dev) (l : List Byte) : Dev :=
  let err := d.monitor false (fun x => x.say (chars ['e', 'r', 'r']))
  if l = [0x73] then d.monitor true statusReply
  else if l.take 2 = [0x72, 0x20] then (match hexWord? (l.drop 2) with | some a => d.monRead a | none => err)
  else if l.take 2 = [0x77, 0x20] then
    (match hexWord? ((l.drop 2).take 8), (l.drop 10).head?, hexWord? (l.drop 11) with
     | some a, some b, some v => if b = 0x20 then d.monWrite a v else err
     | _, _, _ => err)
  else err
/-- A character received while the monitor is on: LF is ignored, CR ends the line, and a line of more than 32 is discarded. -/
def lineChar (d : Dev) (c : Byte) : Dev :=
  let l := d.island.line
  if c = 10 then d
  else if c = 13 then (if 32 < l.length then d.updIsland (fun y => { y with line := [] }) else (d.lineRun l).updIsland (fun y => { y with line := [] }))
  else d.updIsland (fun y => { y with line := if l.length ≤ 32 then l ++ [c] else l })
/-- A character's ten samples, the start bit lowest (R412–R414): data 0x00 with FE and BRK where all were low, FE where the stop sample was.
In FURLED a good WAKE_CHAR wakes, and no character reaches the RX FIFO. -/
def uartIn (d : Dev) (w : BitVec 10) : Dev :=
  if d.powered .off then d
  else
    let x := d.updIsland (fun y => { y with fclk := true })
    let fe := !w.getLsbD 9
    let c : Byte := w.extractLsb' 1 8
    let x1 := if d.bget Reg.MHI_UART_CFG 8 then x.lineChar c
      else if d.powered .furled then x
      else if 16 ≤ d.island.rx.length then (x.bset Reg.MHI_UART_STATUS 16 true).irqSync 27
      else (x.updIsland (fun y => { y with rx := y.rx ++ [c.toNat + b2n fe * 256 + b2n (w == 0) * 512] })).irqSync 27
    if d.powered .furled && !fe && decide (c.toNat = d.fget Reg.MHI_UART_CFG 23 16) then x1.wakeEvent 5 else x1

end Dev

/-- REGISTER_WRITE (R12): an access of `size` bytes; one that is not of 32 bits is discarded (R4). -/
def execRegisterWrite (addr size : Nat) (value : Word) (s : State) : Host.Outcome State Fault Refusal :=
  finish s (if size = 4 then s.busWrite true addr value else s.toDev)
/-- COUNTER_LOW_READ (R10): the low word is read and the high word latched; at any other offset, a register read (R6). An access that is
not of 32 bits returns zero and does nothing (R4). -/
def execCounterLowRead (addr size : Nat) (s : State) : Host.Outcome State Fault Refusal :=
  finish s (if size = 4 then (s.busRead true addr).2.emit (.readData addr (s.busRead true addr).1) else s.emit (.readData addr 0))
/-- UART_CHARACTER_RECEIVE (R412–R415): the ten samples of a character, the start bit lowest. -/
def execUartCharacterReceive (samples : BitVec 10) (s : State) : Host.Outcome State Fault Refusal := finish s (s.uartIn samples)
/-- MONITOR_READ (R415). -/
def execMonitorRead (addr : Word) (s : State) : Host.Outcome State Fault Refusal := finish s (s.monRead addr)
/-- MONITOR_WRITE (R415). -/
def execMonitorWrite (addr data : Word) (s : State) : Host.Outcome State Fault Refusal := finish s (s.monWrite addr data)
/-- TABLE_WINDOW_READ (R451, R452). -/
def execTableWindowRead (w : Fin 8) (s : State) : Host.Outcome State Fault Refusal := finish s (s.winRead w)
/-- TABLE_WINDOW_WRITE (R451, R452). -/
def execTableWindowWrite (w : Fin 8) (s : State) : Host.Outcome State Fault Refusal := finish s (s.winWrite w)
/-- TABLE_WINDOW_DONE (R451). -/
def execTableWindowDone (w : Fin 8) (s : State) : Host.Outcome State Fault Refusal := finish s (s.winDone w)

end Sys2Proof.Machine
end

