-- ==== Sys2Proof/Machine/LinkCmds.lean ====
section
/-!
DEFINITION. The commands of the interrupt controller, the time base, the lanes, the ports and the egress schedulers (R60–R115, R202–R222,
R374–R384).
-/
namespace Sys2Proof.Machine

/-- IRQ_CLAIM (R378). -/
def execIrqClaim (t : Fin 8) (s : State) : Host.Outcome State Fault Refusal := finish s (s.claim t)
/-- IRQ_COMPLETE (R379). -/
def execIrqComplete (t : Fin 8) (src : BitVec 11) (s : State) : Host.Outcome State Fault Refusal :=
  finish s (s.complete t src.toNat)
/-- IRQ_PEND_SET (R375). -/
def execIrqPendSet (w : Fin 36) (v : Word) (s : State) : Host.Outcome State Fault Refusal := finish s (s.pendSetWord w v)
/-- IRQ_PEND_CLEAR (R375). -/
def execIrqPendClear (w : Fin 36) (v : Word) (s : State) : Host.Outcome State Fault Refusal := finish s (s.pendClearWord w v)
/-- IRQ_MASK_WRITE (R11, R377). -/
def execIrqMaskWrite (w : Fin 36) (form : Fin 3) (v : Word) (s : State) : Host.Outcome State Fault Refusal :=
  finish s (s.maskWrite w form v)
/-- IRQ_SWI (R374). -/
def execIrqSwi (edges : BitVec 8) (s : State) : Host.Outcome State Fault Refusal := finish s (s.swi edges.toNat)
/-- TARGET_HOLDOFF_EXPIRE (R380). -/
def execTargetHoldoffExpire (t : Fin 8) (s : State) : Host.Outcome State Fault Refusal := finish s (s.holdoffRise t)

/-- PTP_FREQ_WRITE (R60). -/
def execPtpFreqWrite (adj : Word) (s : State) : Host.Outcome State Fault Refusal := finish s (s.setFreq adj)
/-- PTP_OFFSET_WRITE (R61). -/
def execPtpOffsetWrite (hi : Word) (s : State) : Host.Outcome State Fault Refusal := finish s (s.setOffset hi)
/-- OFFSET_SLEW_DONE (R61). -/
def execOffsetSlewDone (s : State) : Host.Outcome State Fault Refusal := finish s s.slewDone
/-- PTP_STEP (R63). -/
def execPtpStep (hi : Word) (s : State) : Host.Outcome State Fault Refusal := finish s (s.stepTime hi)
/-- PTP_LOCK (R62). -/
def execPtpLock (s : State) : Host.Outcome State Fault Refusal := finish s s.ptpLockOn
/-- PTP_UNLOCK (R62). -/
def execPtpUnlock (s : State) : Host.Outcome State Fault Refusal := finish s s.ptpLockOff
/-- LOCK_WATCHDOG_EXPIRE (R62): nothing to expire while unlocked. -/
def execLockWatchdogExpire (s : State) : Host.Outcome State Fault Refusal :=
  finish s (if s.bget Reg.PTP_STATUS 0 then (s.ptpEvent 0).ptpLockOff else s.toDev)
/-- PPS_OUT_RISE (R64): with PPS_OUT_EN = 0 the pin stays low. -/
def execPpsOutRise (s : State) : Host.Outcome State Fault Refusal :=
  finish s (s.ppsDrive (s.bget Reg.PTP_CFG 31))
/-- PPS_OUT_FALL (R64). -/
def execPpsOutFall (s : State) : Host.Outcome State Fault Refusal := finish s (s.ppsDrive false)

/-- LOS_ASSERT (R75). -/
def execLosAssert (l : Fin 1024) (peak cclks : Nat) (s : State) : Host.Outcome State Fault Refusal := finish s (s.losDip l peak cclks)
/-- LOS_DEASSERT (R75). -/
def execLosDeassert (l : Fin 1024) (floor cclks : Nat) (s : State) : Host.Outcome State Fault Refusal := finish s (s.losRise l floor cclks)
/-- LOL_ASSERT (R75). -/
def execLolAssert (l : Fin 1024) (ppm : BitVec 16) (wide : Nat) (s : State) : Host.Outcome State Fault Refusal :=
  finish s (s.lolJudge l ppm.toNat wide)
/-- LOL_DEASSERT (R75). -/
def execLolDeassert (l : Fin 1024) (ppm : BitVec 16) (run : Nat) (s : State) : Host.Outcome State Fault Refusal :=
  finish s (s.lolSettle l ppm.toNat run)
/-- ALIGN_LOCK_LOSS (R99). -/
def execAlignLockLoss (p : Fin 1024) (s : State) : Host.Outcome State Fault Refusal :=
  finish s (if s.named p then (s.bset (Reg.MAC_STATUS p) 1 false).portEval p else s.toDev)
/-- ALIGN_LOCK_GAIN (R99). -/
def execAlignLockGain (p : Fin 1024) (s : State) : Host.Outcome State Fault Refusal :=
  finish s (if s.named p then (s.bset (Reg.MAC_STATUS p) 1 true).portEval p else s.toDev)
/-- RESUME_LOCK (R77). -/
def execResumeLock (l : Fin 1024) (snr : BitVec 8) (s : State) : Host.Outcome State Fault Refusal :=
  finish s (s.resumeDone l snr.toNat)
/-- RESUME_TIMEOUT (R77). -/
def execResumeTimeout (l : Fin 1024) (s : State) : Host.Outcome State Fault Refusal :=
  finish s (if s.laneState l = lsResume then s.laneTrain l else s.toDev)
/-- TRAIN_LOCAL_DONE (R79, R81). -/
def execTrainLocalDone (l : Fin 1024) (snr : BitVec 8) (partner : Fin 8) (inverted : Bool) (steps : List TapStep) (s : State) :
    Host.Outcome State Fault Refusal := finish s (s.trainDone l snr.toNat partner inverted steps)
/-- PARTNER_READY (R78). -/
def execPartnerReady (l : Fin 1024) (s : State) : Host.Outcome State Fault Refusal :=
  finish s (if s.laneState l = lsPartner then s.laneData l else s.toDev)
/-- TRAIN_TIMEOUT (R78). -/
def execTrainTimeout (l : Fin 1024) (ms : Nat) (partnerFailed : Bool) (s : State) : Host.Outcome State Fault Refusal :=
  finish s (s.trainLimit l ms partnerFailed)
/-- FAIL_RETRY (R78). -/
def execFailRetry (l : Fin 1024) (s : State) : Host.Outcome State Fault Refusal :=
  finish s (if s.laneState l = lsFail then s.laneWait l else s.toDev)
/-- TRAINING_REQUEST (R80). -/
def execTrainingRequest (l : Fin 1024) (r : TrainReq) (s : State) : Host.Outcome State Fault Refusal :=
  finish s (s.trainAnswer l r)
/-- ADAPTATION_UPDATE (R73). -/
def execAdaptationUpdate (l : Fin 1024) (ffe : List Int) (dfe : Int) (s : State) : Host.Outcome State Fault Refusal :=
  finish s (s.adapt l ffe dfe)
/-- BURST_DETECT (R74). -/
def execBurstDetect (l : Fin 1024) (s : State) : Host.Outcome State Fault Refusal :=
  finish s ((s.bset (Reg.LANE_RX_STATUS l) 3 true).laneEvent l 8)
/-- BURST_FREEZE_END (R74). -/
def execBurstFreezeEnd (l : Fin 1024) (s : State) : Host.Outcome State Fault Refusal :=
  finish s (s.bset (Reg.LANE_RX_STATUS l) 3 false)
/-- LANE_LP_ENTER (R83). -/
def execLaneLpEnter (l : Fin 1024) (s : State) : Host.Outcome State Fault Refusal := finish s (s.lpEnter l)
/-- LANE_LP_EXIT (R84). -/
def execLaneLpExit (l : Fin 1024) (s : State) : Host.Outcome State Fault Refusal := finish s (s.lpExit l)
/-- LANE_LP_EXIT_DONE (R84). -/
def execLaneLpExitDone (l : Fin 1024) (s : State) : Host.Outcome State Fault Refusal := finish s (s.lpExitDone l)
/-- CHECKER_LOCK (R89). -/
def execCheckerLock (l : Fin 1024) (syms : List (Fin 4)) (s : State) : Host.Outcome State Fault Refusal := finish s (s.received l syms)
/-- CHECKER_UNLOCK (R89). -/
def execCheckerUnlock (l : Fin 1024) (syms : List (Fin 4)) (s : State) : Host.Outcome State Fault Refusal := finish s (s.received l syms)
/-- PRBS_INJECT (R90). -/
def execPrbsInject (l : Fin 1024) (again : Bool) (s : State) : Host.Outcome State Fault Refusal := finish s (s.inject l again)
/-- PRBS_CLR (R89). -/
def execPrbsClr (l : Fin 1024) (s : State) : Host.Outcome State Fault Refusal := finish s (s.prbsClear l)

/-- FRAME_RECEIVE (R102). -/
def execFrameReceive (p : Fin 1024) (frame : Bytes) (late : Bool) (cws : List Codeword) (shared : Bool) (s : State) :
    Host.Outcome State Fault Refusal := finish s (s.frameIn p frame late cws shared)
/-- FEC_WINDOW_END (R100). -/
def execFecWindowEnd (p : Fin 1024) (cws : List Nat) (s : State) : Host.Outcome State Fault Refusal := finish s (s.fecWindow p cws)
/-- PFC_RECEIVE (R110): a received frame without FEC errors. -/
def execPfcReceive (p : Fin 1024) (frame : Bytes) (s : State) : Host.Outcome State Fault Refusal :=
  finish s (s.frameIn p frame false [] false)
/-- PFC_PAUSE_EXPIRE (R110). -/
def execPfcPauseExpire (p : Fin 1024) (c : Fin 8) (s : State) : Host.Outcome State Fault Refusal :=
  finish s (s.bset (Reg.MAC_STATUS p) (8 + c) false)
/-- PFC_REPEAT (R109). -/
def execPfcRepeat (p : Fin 1024) (s : State) : Host.Outcome State Fault Refusal := finish s (s.pfcAgain p)
/-- PORT_FENCE (R112). -/
def execPortFence (p : Fin 1024) (on : Bool) (s : State) : Host.Outcome State Fault Refusal := finish s (s.fenceWrite p on)
/-- AN_RESTART (R101). -/
def execAnRestart (p : Fin 1024) (s : State) : Host.Outcome State Fault Refusal := finish s (s.anStart p)
/-- AN_PAGE_RECEIVE (R101). -/
def execAnPageReceive (p : Fin 1024) (rates : List Nat) (s : State) : Host.Outcome State Fault Refusal :=
  finish s (s.anPage p rates)
/-- AN_RETRY (R101). -/
def execAnRetry (p : Fin 1024) (s : State) : Host.Outcome State Fault Refusal := finish s (s.anAgain p)
/-- MAC_CNT_CLR (R115). -/
def execMacCntClr (p : Fin 1024) (s : State) : Host.Outcome State Fault Refusal := finish s (s.macClear p)
/-- PTP_TS_POP (R108). -/
def execPtpTsPop (p : Fin 1024) (s : State) : Host.Outcome State Fault Refusal := finish s (s.tsPop p)

/-- PORT_SELECT (R202). -/
def execPortSelect (p : Fin 1024) (s : State) : Host.Outcome State Fault Refusal := finish s (s.portSelect p)
/-- TELEMETRY_SAMPLE (R214). -/
def execTelemetrySample (n : Fin 128) (s : State) : Host.Outcome State Fault Refusal := finish s (s.telSample n)
/-- ENGINE_INLET_SERVE (R207). -/
def execEngineInletServe (n : Fin 128) (s : State) : Host.Outcome State Fault Refusal := finish s (s.inletServe n)
/-- EQ_CNT_CLR (R220). -/
def execEqCntClr (n : Fin 128) (s : State) : Host.Outcome State Fault Refusal := finish s (s.cntClr (Reg.C_EQ_QDROP_GREEN n) 7)
/-- TEL_CNT_CLR (R222). -/
def execTelCntClr (n : Fin 128) (s : State) : Host.Outcome State Fault Refusal := finish s (s.cntClr (Reg.C_TEL_PC_SENT n) 4)
/-- HIST_CLR (R222). -/
def execHistClr (n : Fin 128) (s : State) : Host.Outcome State Fault Refusal := finish s (s.histClear n)

end Sys2Proof.Machine
end

