-- ==== Sys2Proof/Machine/Dispatch.lean ====
section
/-!
DEFINITION. The meaning of every command, one arm per row of the operation and event table.
-/
namespace Sys2Proof.Machine

def exec (i : Instr) (s : State) : Host.Outcome State Fault Refusal :=
  match i with
  -- registers, images, commit
  | .registerWrite addr size value => Sys2Proof.Machine.execRegisterWrite addr size value s
  | .heldWriteEnterShadow => Sys2Proof.Machine.execHeldWriteEnterShadow s
  | .counterLowRead addr size => Sys2Proof.Machine.execCounterLowRead addr size s
  | .imgGo delta => Sys2Proof.Machine.execImgGo delta s
  | .hostImageReadDone => Sys2Proof.Machine.execHostImageReadDone s
  | .imageExpansionDone => Sys2Proof.Machine.execImageExpansionDone s
  | .flashCopyReadDone x0 x1 => Sys2Proof.Machine.execFlashCopyReadDone x0 x1 s
  | .commitArm view stack mode disarm => Sys2Proof.Machine.execCommitArm view stack mode disarm s
  | .commitDisarm view stack mode => Sys2Proof.Machine.execCommitDisarm view stack mode s
  | .viewShadow on stack mode => Sys2Proof.Machine.execViewShadow on stack mode s
  | .commitWindowOpen => Sys2Proof.Machine.execCommitWindowOpen s
  | .boundary => Sys2Proof.Machine.execBoundary s
  | .stackCommitDecide => Sys2Proof.Machine.execStackCommitDecide s
  | .boundaryMarkSend => Sys2Proof.Machine.execBoundaryMarkSend s
  | .boundaryMarkReceive edge word => Sys2Proof.Machine.execBoundaryMarkReceive edge word s
  | .boundaryInTimeout => Sys2Proof.Machine.execBoundaryInTimeout s
  -- the PTP time base
  | .ptpFreqWrite adj => Sys2Proof.Machine.execPtpFreqWrite adj s
  | .ptpOffsetWrite hi => Sys2Proof.Machine.execPtpOffsetWrite hi s
  | .offsetSlewDone => Sys2Proof.Machine.execOffsetSlewDone s
  | .ptpStep hi => Sys2Proof.Machine.execPtpStep hi s
  | .ptpLock => Sys2Proof.Machine.execPtpLock s
  | .ptpUnlock => Sys2Proof.Machine.execPtpUnlock s
  | .lockWatchdogExpire => Sys2Proof.Machine.execLockWatchdogExpire s
  | .ppsInEdge => Sys2Proof.Machine.execPpsInEdge s
  | .ppsOutRise => Sys2Proof.Machine.execPpsOutRise s
  | .ppsOutFall => Sys2Proof.Machine.execPpsOutFall s
  | .clockGate b => Sys2Proof.Machine.execClockGate b s
  | .clockUngate b => Sys2Proof.Machine.execClockUngate b s
  -- lanes
  | .losAssert l peak cclks => Sys2Proof.Machine.execLosAssert l peak cclks s
  | .losDeassert l floor cclks => Sys2Proof.Machine.execLosDeassert l floor cclks s
  | .lolAssert l ppm wide => Sys2Proof.Machine.execLolAssert l ppm wide s
  | .lolDeassert l ppm run => Sys2Proof.Machine.execLolDeassert l ppm run s
  | .alignLockLoss p => Sys2Proof.Machine.execAlignLockLoss p s
  | .resumeLock l snr => Sys2Proof.Machine.execResumeLock l snr s
  | .resumeTimeout l => Sys2Proof.Machine.execResumeTimeout l s
  | .trainLocalDone l snr partner inverted steps => Sys2Proof.Machine.execTrainLocalDone l snr partner inverted steps s
  | .partnerReady l => Sys2Proof.Machine.execPartnerReady l s
  | .trainTimeout l ms partnerFailed => Sys2Proof.Machine.execTrainTimeout l ms partnerFailed s
  | .failRetry l => Sys2Proof.Machine.execFailRetry l s
  | .trainingRequest l r => Sys2Proof.Machine.execTrainingRequest l r s
  | .adaptationUpdate l ffe dfe => Sys2Proof.Machine.execAdaptationUpdate l ffe dfe s
  | .burstDetect l => Sys2Proof.Machine.execBurstDetect l s
  | .burstFreezeEnd l => Sys2Proof.Machine.execBurstFreezeEnd l s
  | .laneLpEnter l => Sys2Proof.Machine.execLaneLpEnter l s
  | .laneLpExit l => Sys2Proof.Machine.execLaneLpExit l s
  | .laneLpExitDone l => Sys2Proof.Machine.execLaneLpExitDone l s
  | .checkerLock l syms => Sys2Proof.Machine.execCheckerLock l syms s
  | .checkerUnlock l syms => Sys2Proof.Machine.execCheckerUnlock l syms s
  | .prbsInject l again => Sys2Proof.Machine.execPrbsInject l again s
  | .prbsClr l => Sys2Proof.Machine.execPrbsClr l s
  | .laneRestartDone => Sys2Proof.Machine.execLaneRestartDone s
  -- ports
  | .frameReceive p frame late cws shared => Sys2Proof.Machine.execFrameReceive p frame late cws shared s
  | .fecWindowEnd p cws => Sys2Proof.Machine.execFecWindowEnd p cws s
  | .pfcReceive p frame => Sys2Proof.Machine.execPfcReceive p frame s
  | .pfcPauseExpire p c => Sys2Proof.Machine.execPfcPauseExpire p c s
  | .pfcRepeat p => Sys2Proof.Machine.execPfcRepeat p s
  | .portFence p on => Sys2Proof.Machine.execPortFence p on s
  | .anRestart p => Sys2Proof.Machine.execAnRestart p s
  | .anPageReceive p rates => Sys2Proof.Machine.execAnPageReceive p rates s
  | .anRetry p => Sys2Proof.Machine.execAnRetry p s
  | .macCntClr p => Sys2Proof.Machine.execMacCntClr p s
  | .ptpTsPop p => Sys2Proof.Machine.execPtpTsPop p s
  -- parse
  | .frameParse n found => Sys2Proof.Machine.execFrameParse n found s
  | .parseReloadDone n => Sys2Proof.Machine.execParseReloadDone n s
  | .prsCntClr n => Sys2Proof.Machine.execPrsCntClr n s
  -- buffer and core
  | .firstCellOffer n => Sys2Proof.Machine.execFirstCellOffer n s
  | .coreSlot => Sys2Proof.Machine.execCoreSlot s
  | .reorderTimeout o x queue => Sys2Proof.Machine.execReorderTimeout o x queue s
  | .flushWalkerFree m => Sys2Proof.Machine.execFlushWalkerFree m s
  | .coreCntClr n => Sys2Proof.Machine.execCoreCntClr n s
  | .auditPassEnd => Sys2Proof.Machine.execAuditPassEnd s
  | .auditQuery owner => Sys2Proof.Machine.execAuditQuery owner s
  | .poolGet k => Sys2Proof.Machine.execPoolGet k s
  | .poolFree handle => Sys2Proof.Machine.execPoolFree handle s
  | .occPeakRead n => Sys2Proof.Machine.execOccPeakRead n s
  | .bufCntClr n => Sys2Proof.Machine.execBufCntClr n s
  | .creditReturn n f => Sys2Proof.Machine.execCreditReturn n f s
  | .sliceScrubRead m w e => Sys2Proof.Machine.execSliceScrubRead m w e s
  -- egress
  | .portSelect p => Sys2Proof.Machine.execPortSelect p s
  | .telemetrySample n => Sys2Proof.Machine.execTelemetrySample n s
  | .engineInletServe n => Sys2Proof.Machine.execEngineInletServe n s
  | .eqCntClr n => Sys2Proof.Machine.execEqCntClr n s
  | .telCntClr n => Sys2Proof.Machine.execTelCntClr n s
  | .histClr n => Sys2Proof.Machine.execHistClr n s
  -- engine commands
  | .routineStart e => Sys2Proof.Machine.execRoutineStart e s
  | .setctx e off => Sys2Proof.Machine.execSetctx e off s
  | .ingest e => Sys2Proof.Machine.execIngest e s
  | .fetch e src count => Sys2Proof.Machine.execFetch e src count s
  | .decCtus e ring => Sys2Proof.Machine.execDecCtus e ring s
  | .decEnd e => Sys2Proof.Machine.execDecEnd e s
  | .encCtus e => Sys2Proof.Machine.execEncCtus e s
  | .encEnd e => Sys2Proof.Machine.execEncEnd e s
  | .scale e src dst filter => Sys2Proof.Machine.execScale e src dst filter s
  | .colour e src dst slot => Sys2Proof.Machine.execColour e src dst slot s
  | .emit e off count dest cls => Sys2Proof.Machine.execEmit e off count dest cls s
  | .complete e status user => Sys2Proof.Machine.execComplete e status user s
  | .mark e slot mark => Sys2Proof.Machine.execMark e slot mark s
  | .gsync e bar => Sys2Proof.Machine.execGsync e bar s
  -- engine microwords
  | .uNop e => Sys2Proof.Machine.execUNop e s
  | .uAdd e a => Sys2Proof.Machine.execUAdd e a s
  | .uSub e a => Sys2Proof.Machine.execUSub e a s
  | .uAnd e a => Sys2Proof.Machine.execUAnd e a s
  | .uOr e a => Sys2Proof.Machine.execUOr e a s
  | .uXor e a => Sys2Proof.Machine.execUXor e a s
  | .uShl e a => Sys2Proof.Machine.execUShl e a s
  | .uShr e a => Sys2Proof.Machine.execUShr e a s
  | .uSar e a => Sys2Proof.Machine.execUSar e a s
  | .uNeg e a => Sys2Proof.Machine.execUNeg e a s
  | .uMul e a => Sys2Proof.Machine.execUMul e a s
  | .uMulh e a => Sys2Proof.Machine.execUMulh e a s
  | .uDiv e a => Sys2Proof.Machine.execUDiv e a s
  | .uRem e a => Sys2Proof.Machine.execURem e a s
  | .uMin e a => Sys2Proof.Machine.execUMin e a s
  | .uMax e a => Sys2Proof.Machine.execUMax e a s
  | .uAbs e a => Sys2Proof.Machine.execUAbs e a s
  | .uLdi e rd high imm => Sys2Proof.Machine.execULdi e rd high imm s
  | .uLd e rd ra sp off => Sys2Proof.Machine.execULd e rd ra sp off s
  | .uSt e rs ra sp off => Sys2Proof.Machine.execUSt e rs ra sp off s
  | .uBr e cond target => Sys2Proof.Machine.execUBr e cond target s
  | .uCall e target => Sys2Proof.Machine.execUCall e target s
  | .uRet e => Sys2Proof.Machine.execURet e s
  | .uUnit e unit uop => Sys2Proof.Machine.execUUnit e unit uop s
  | .unitDone e unit results writes changes => Sys2Proof.Machine.execUnitDone e unit results writes changes s
  | .uWait e mask => Sys2Proof.Machine.execUWait e mask s
  | .stallEnd e => Sys2Proof.Machine.execStallEnd e s
  | .uIn e rd => Sys2Proof.Machine.execUIn e rd s
  | .uOut e rs last => Sys2Proof.Machine.execUOut e rs last s
  | .uCommit e => Sys2Proof.Machine.execUCommit e s
  | .uEnd e => Sys2Proof.Machine.execUEnd e s
  | .raiseException e code => Sys2Proof.Machine.execRaiseException e code s
  | .raiseNotice e code => Sys2Proof.Machine.execRaiseNotice e code s
  | .reservedOpcode e => Sys2Proof.Machine.execReservedOpcode e s
  | .routineWatchdogExpire e => Sys2Proof.Machine.execRoutineWatchdogExpire e s
  | .machineCheck e contextMemory => Sys2Proof.Machine.execMachineCheck e contextMemory s
  | .engineReloadDone e copyGood => Sys2Proof.Machine.execEngineReloadDone e copyGood s
  | .engineForceReload e => Sys2Proof.Machine.execEngineForceReload e s
  | .inletResume e => Sys2Proof.Machine.execInletResume e s
  | .inletSkip e => Sys2Proof.Machine.execInletSkip e s
  | .engineFence e on => Sys2Proof.Machine.execEngineFence e on s
  | .ceCntClr e => Sys2Proof.Machine.execCeCntClr e s
  | .outletRelease e => Sys2Proof.Machine.execOutletRelease e s
  -- wall output
  | .pipeFrameSkip n pipe => Sys2Proof.Machine.execPipeFrameSkip n pipe s
  | .wallCntClr n => Sys2Proof.Machine.execWallCntClr n s
  -- frame memory
  | .memoryRequest r => Sys2Proof.Machine.execMemoryRequest r s
  | .bankRefresh pc bank idle => Sys2Proof.Machine.execBankRefresh pc bank idle s
  | .retrainPause pc => Sys2Proof.Machine.execRetrainPause pc s
  | .retrainStale pc => Sys2Proof.Machine.execRetrainStale pc s
  | .patrolScrub addr raced => Sys2Proof.Machine.execPatrolScrub addr raced s
  | .holdWatchdogBite r => Sys2Proof.Machine.execHoldWatchdogBite r s
  | .portReadmit port => Sys2Proof.Machine.execPortReadmit port s
  | .bar2Move base => Sys2Proof.Machine.execBar2Move base s
  | .bar2MoveDone => Sys2Proof.Machine.execBar2MoveDone s
  | .bar2Access offset op => Sys2Proof.Machine.execBar2Access offset op s
  | .fmcCntClr => Sys2Proof.Machine.execFmcCntClr s
  -- host queues and DMA
  | .sqTailDoorbell q tail => Sys2Proof.Machine.execSqTailDoorbell q tail s
  | .cqHeadDoorbell q head => Sys2Proof.Machine.execCqHeadDoorbell q head s
  | .fetchPass rings frames => Sys2Proof.Machine.execFetchPass rings frames s
  | .nopEntry q entry => Sys2Proof.Machine.execNopEntry q entry s
  | .job q entry => Sys2Proof.Machine.execJob q entry s
  | .inject q entry frame => Sys2Proof.Machine.execInject q entry frame s
  | .injectDone => Sys2Proof.Machine.execInjectDone s
  | .poolAlloc q entry => Sys2Proof.Machine.execPoolAlloc q entry s
  | .poolFreeEntry q entry => Sys2Proof.Machine.execPoolFreeEntry q entry s
  | .rxbuf q entry => Sys2Proof.Machine.execRxbuf q entry s
  | .dmaEntry q entry => Sys2Proof.Machine.execDmaEntry q entry s
  | .hostFrameDeliver h => Sys2Proof.Machine.execHostFrameDeliver h s
  | .sqStop q on => Sys2Proof.Machine.execSqStop q on s
  | .sqPause q on => Sys2Proof.Machine.execSqPause q on s
  | .sqInv q => Sys2Proof.Machine.execSqInv q s
  | .tenantResetWrite f => Sys2Proof.Machine.execTenantResetWrite f s
  | .functionLevelReset f => Sys2Proof.Machine.execFunctionLevelReset f s
  | .tenantResetStuck f => Sys2Proof.Machine.execTenantResetStuck f s
  | .cqHoldoffExpire c => Sys2Proof.Machine.execCqHoldoffExpire c s
  | .pcieLinkL0 => Sys2Proof.Machine.execPcieLinkL0 s
  | .vectorUnmask f vec => Sys2Proof.Machine.execVectorUnmask f vec s
  | .functionEnterD0 f => Sys2Proof.Machine.execFunctionEnterD0 f s
  | .hostWritesResume => Sys2Proof.Machine.execHostWritesResume s
  | .perstAssert => Sys2Proof.Machine.execPerstAssert s
  | .dmaSwreq lines => Sys2Proof.Machine.execDmaSwreq lines s
  | .dmaBurst ch data access => Sys2Proof.Machine.execDmaBurst ch data access s
  | .dmaStop ch => Sys2Proof.Machine.execDmaStop ch s
  | .hqCntClr => Sys2Proof.Machine.execHqCntClr s
  -- interrupts
  | .irqClaim t => Sys2Proof.Machine.execIrqClaim t s
  | .irqComplete t src => Sys2Proof.Machine.execIrqComplete t src s
  | .irqPendSet w v => Sys2Proof.Machine.execIrqPendSet w v s
  | .irqPendClear w v => Sys2Proof.Machine.execIrqPendClear w v s
  | .irqMaskWrite w form v => Sys2Proof.Machine.execIrqMaskWrite w form v s
  | .irqSwi edges => Sys2Proof.Machine.execIrqSwi edges s
  | .targetHoldoffExpire t => Sys2Proof.Machine.execTargetHoldoffExpire t s
  -- faults
  | .pllLockLoss pll => Sys2Proof.Machine.execPllLockLoss pll s
  | .blockResetDone c => Sys2Proof.Machine.execBlockResetDone c s
  | .classAutoClear c => Sys2Proof.Machine.execClassAutoClear c s
  | .fltClassClr v => Sys2Proof.Machine.execFltClassClr v s
  | .fltBlackClr => Sys2Proof.Machine.execFltBlackClr s
  | .firstLatchClear c => Sys2Proof.Machine.execFirstLatchClear c s
  | .faultBusLow => Sys2Proof.Machine.execFaultBusLow s
  | .faultBusRelease => Sys2Proof.Machine.execFaultBusRelease s
  | .faultBusIgnoreEnd low => Sys2Proof.Machine.execFaultBusIgnoreEnd low s
  | .faultInjectArm src mode => Sys2Proof.Machine.execFaultInjectArm src mode s
  | .logClear => Sys2Proof.Machine.execLogClear s
  | .logClearDone pass => Sys2Proof.Machine.execLogClearDone pass s
  | .fltCntClr => Sys2Proof.Machine.execFltCntClr s
  -- Masthead island
  | .powerOnReset => Sys2Proof.Machine.execPowerOnReset s
  | .coldCrystalReady => Sys2Proof.Machine.execColdCrystalReady s
  | .wakePin k high edges => Sys2Proof.Machine.execWakePin k high edges s
  | .rtcAlarm => Sys2Proof.Machine.execRtcAlarm s
  | .rtcSecondTick => Sys2Proof.Machine.execRtcSecondTick s
  | .smbusAddressMatch addr => Sys2Proof.Machine.execSmbusAddressMatch addr s
  | .stackWakeRelay => Sys2Proof.Machine.execStackWakeRelay s
  | .perstRise => Sys2Proof.Machine.execPerstRise s
  | .pwrGoodRise g => Sys2Proof.Machine.execPwrGoodRise g s
  | .pwrGoodTimeout g => Sys2Proof.Machine.execPwrGoodTimeout g s
  | .brownout g => Sys2Proof.Machine.execBrownout g s
  | .autoRestart => Sys2Proof.Machine.execAutoRestart s
  | .railDownStep => Sys2Proof.Machine.execRailDownStep s
  | .pllLockDone => Sys2Proof.Machine.execPllLockDone s
  | .hbmTrainingDone => Sys2Proof.Machine.execHbmTrainingDone s
  | .sleepRequest => Sys2Proof.Machine.execSleepRequest s
  | .sleepCancel => Sys2Proof.Machine.execSleepCancel s
  | .snapshotWriteDone good => Sys2Proof.Machine.execSnapshotWriteDone good s
  | .snapshotEraseSector => Sys2Proof.Machine.execSnapshotEraseSector s
  | .wrstnAssert => Sys2Proof.Machine.execWrstnAssert s
  | .warmReset => Sys2Proof.Machine.execWarmReset s
  | .uartCharacterReceive samples => Sys2Proof.Machine.execUartCharacterReceive samples s
  | .monitorRead addr => Sys2Proof.Machine.execMonitorRead addr s
  | .monitorWrite addr data => Sys2Proof.Machine.execMonitorWrite addr data s
  | .monitorStatus => Sys2Proof.Machine.execMonitorStatus s
  | .monitorErr => Sys2Proof.Machine.execMonitorErr s
  | .fclkStop => Sys2Proof.Machine.execFclkStop s
  | .uartDataRead => Sys2Proof.Machine.execUartDataRead s
  | .uartDataWrite c => Sys2Proof.Machine.execUartDataWrite c s
  | .rtcSet sec => Sys2Proof.Machine.execRtcSet sec s
  | .rtcSubRead => Sys2Proof.Machine.execRtcSubRead s
  -- stacking
  | .helloSend => Sys2Proof.Machine.execHelloSend s
  | .hello v src size peerMaster imageId => Sys2Proof.Machine.execHello v src size peerMaster imageId s
  | .arm v target imageId => Sys2Proof.Machine.execArm v target imageId s
  | .ready v src target => Sys2Proof.Machine.execReady v src target s
  | .notReady v src target cause => Sys2Proof.Machine.execNotReady v src target cause s
  | .missed v src count => Sys2Proof.Machine.execMissed v src count s
  | .barrier v src gang bar gen member => Sys2Proof.Machine.execBarrier v src gang bar gen member s
  | .time v src tx => Sys2Proof.Machine.execTime v src tx s
  | .timeResp v src tx rxThere txThere => Sys2Proof.Machine.execTimeResp v src tx rxThere txThere s
  | .halyardCellFrame n frame => Sys2Proof.Machine.execHalyardCellFrame n frame s
  | .halyardAckFrame n ack creditGen creditMgmt => Sys2Proof.Machine.execHalyardAckFrame n ack creditGen creditMgmt s
  | .replayTimeout n => Sys2Proof.Machine.execReplayTimeout n s
  | .stkCalStart => Sys2Proof.Machine.execStkCalStart s
  | .calibrationDone => Sys2Proof.Machine.execCalibrationDone s
  | .stkCntClr => Sys2Proof.Machine.execStkCntClr s
  -- environment, windows, and the rest of the table
  | .sensorRead junction hbm => Sys2Proof.Machine.execSensorRead junction hbm s
  | .supplyOutOfRange rail mv us => Sys2Proof.Machine.execSupplyOutOfRange rail mv us s
  | .thermalTrip junction us => Sys2Proof.Machine.execThermalTrip junction us s
  | .droopDetect core sram since => Sys2Proof.Machine.execDroopDetect core sram since s
  | .stretchEnd core sram cycles => Sys2Proof.Machine.execStretchEnd core sram cycles s
  | .envStretchRead => Sys2Proof.Machine.execEnvStretchRead s
  | .tableWindowRead w => Sys2Proof.Machine.execTableWindowRead w s
  | .tableWindowWrite w => Sys2Proof.Machine.execTableWindowWrite w s
  | .tableWindowDone w => Sys2Proof.Machine.execTableWindowDone w s
  | .alignLockGain p => Sys2Proof.Machine.execAlignLockGain p s
  | .parseScrubRead n w e => Sys2Proof.Machine.execParseScrubRead n w e s
  | .dieToDieLinkError k => Sys2Proof.Machine.execDieToDieLinkError k s
  | .activeBankParityError => Sys2Proof.Machine.execActiveBankParityError s
  | .pcieInternalError => Sys2Proof.Machine.execPcieInternalError s
  | .pcieCompletionTimeout r => Sys2Proof.Machine.execPcieCompletionTimeout r s
  | .faultLogCheckFail => Sys2Proof.Machine.execFaultLogCheckFail s
  | .supplyBackInRange rail mv => Sys2Proof.Machine.execSupplyBackInRange rail mv s
  | .pornAssert => Sys2Proof.Machine.execPornAssert s
  | .pcieLinkDown l2 => Sys2Proof.Machine.execPcieLinkDown l2 s
  | .functionEnterD3hot f => Sys2Proof.Machine.execFunctionEnterD3hot f s
  | .wallPipeCellBuild n => Sys2Proof.Machine.execWallPipeCellBuild n s
  | .rhWindowEnd pc bank => Sys2Proof.Machine.execRhWindowEnd pc bank s
  | .helloReachExpire id => Sys2Proof.Machine.execHelloReachExpire id s
  | .uartCharacterSent => Sys2Proof.Machine.execUartCharacterSent s

end Sys2Proof.Machine
end

