-- ==== Sys2Proof/Machine/Step.lean ====
section
/-!
DEFINITION. One step: the command at the front of the queue; on an empty queue one ECLK of the sequencers
and of frame memory, or idling (log 1).
-/
namespace Sys2Proof.Machine

/-- The microword, decoded, that engine `e` executes of its control store: it runs a routine, and the store holds a word at the micro-PC
(R227). A word whose parity fails is a machine check (R242). -/
def microFetch (d : Dev) (e : Nat) : Option Instr :=
  if h : e < 128 then
    if d.uLive e then
      match SMap.get? d.tabs (tkey tidEngine e (d.engine e).mpc) with
      | some (w :: p :: _) => some (if p = oddParity w then microDecode ⟨e, h⟩ w else .machineCheck ⟨e, h⟩ false)
      | _ => none
    else none
  else none
/-- Engine `e` executes the microword that it fetches, if any. -/
def microStep (s : State) (e : Nat) : State :=
  match microFetch s.toDev e with
  | some i => match exec i s with
    | .next t => t
    | _ => s
  | none => s
/-- One ECLK of frame memory, while it has transfers under way. -/
def memStep (s : State) : State :=
  if s.fmem.xfers.isEmpty then s
  else match finish s s.memTick with
    | .next t => t
    | _ => s
/-- What the block does while no command waits, in one ECLK: every sequencer that runs a routine of its control store executes one microword,
and frame memory moves and issues the bursts of its transfers; where there is none of either, the block idles (DESIGN CHOICE, log 1). -/
def idle (s : State) : State := memStep ((s.engines.map (·.1)).foldl microStep s)

/-- Take the front command and run it on the state with the rest of the queue; when none waits, the sequencers and frame memory go on (log 1). -/
def step (s : State) : Host.Outcome State Fault Refusal :=
  match s.pending with
  | [] => .next (idle s)
  | c :: rest => exec c { s with pending := rest }

/-- The state with the command that a word spells at the front of its queue; unchanged where the word spells none. -/
def State.withFetchWord (s : State) (nbits w : Nat) : State :=
  match Sys2Proof.decodeTableWord nbits w with
  | some c => { s with pending := c :: s.pending }
  | none => s

end Sys2Proof.Machine
end

