-- ==== Sys2Proof/Safety.lean ====
section
/-!
DEFINITION. What counts as a safe state and a safe step, and the terms that the statements use: what a command leaves, what it
leaves alone, and how a command runs.
-/
namespace Sys2Proof.Machine.Dev

/-- A register that the rise or fall of a port or link writes. -/
def portReg (a : Nat) : Prop :=
  (∃ p, a = Reg.MAC_STATUS p ∨ a = Reg.MAC_EVENT p ∨ ∃ c < 9, a = Reg.MAC_FLUSH_CNT p c) ∨ (∃ n < 128, a = Reg.STK_HL_STATUS n) ∨
    a = Reg.STK_EVENT

/-- The device without what the rise or fall of a port or link can change. -/
def around (d : Dev) : Dev := { d.beside with cnts := [], ports := [], spars := [], slices := [], stack := {} }

/-- A register of lane `l` (R93). -/
def ofLane (l a : Nat) : Prop := Reg.lane l ≤ a ∧ a < Reg.lane l + 0x1000

/-- Slice `m` as a CCLK leaves it, with no multicast cell in its lists: no cell freed in it is still to be pushed, and level and peak are those
of the occupancy (R147, R152). -/
def AtRest (d : Dev) (m : Nat) (x : Slice) : Prop :=
  x.mcLists = [] ∧ x.freed = [] ∧ d.reefLevel m x.occ x.level = x.level ∧ x.occ ≤ d.fget (Reg.BUF_OCC_PEAK m) 12 0
/-- Every slice is at rest, in canonical form, and no multicast cell is on its way to an output. -/
def Quiet (d : Dev) : Prop :=
  SMap.wf (fun _ => {}) d.slices = true ∧ (∀ p ∈ d.slices, d.AtRest p.1 p.2) ∧ ∀ n, ∀ c ∈ (d.spar n).arriving, c.mc = false

/-- No spar of the device is in use: no register, table entry or unit of one is away from reset, and no DMA channel is active; the
shadow bank holds registers of class B alone. -/
def Unused (d : Dev) : Prop :=
  (∀ p ∈ d.regs, p.1 < 0x01000000) ∧ (∀ p ∈ d.shadow, p.1 < 0x01000000 ∧ clsAt p.1 = .B) ∧ SMap.wf Reg.resetVal d.shadow = true ∧
    d.tabs = [] ∧ d.shTabs = [] ∧ d.spars = [] ∧ d.slices = [] ∧ d.engines = [] ∧ d.host.dmas = []
/-- A report of source `src` is Grey or Amber now, so that it makes no reaction (R388, R390), and its log entry takes no injection into
the log memory (R399). -/
def Mild (d : Dev) (src : Nat) : Prop :=
  d.armed 39 = false ∧ ∃ c, fltClass? src = some c ∧ Dev.effSev (d.classLevel c) (d.progSev src) ≤ 1
/-- A register of the fault collector (R400). -/
def faultReg (a : Nat) : Prop := 0x200000 ≤ a ∧ a < 0x201000

/-- A routine runs on engine `e`, and has not committed. -/
def Steps (d : Dev) (e : Nat) : Prop := d.fetches e = true ∧ (d.engine e).committed = false
/-- The routine of a standard command of opcode `op` runs on engine `e` in context `k`, before its commit point, its port not fenced, and
its commit ends no job and applies no state change. -/
def OnCommand (d : Dev) (e op k : Nat) : Prop :=
  d.Steps e ∧ d.memFenced e = false ∧ fld ((d.engine e).cmd.getD 1 0) 31 24 = op ∧ (d.engine e).cur = some k ∧
    (d.engine e).changes = [] ∧ (k = 0 ∨ ((d.ctx e k).ended = none ∧ (d.ctx e k).cmdIdx + 1 < d.ctxCount e k))
/-- Frame memory holds no error, and no injection into it is armed. -/
def CleanMem (d : Dev) : Prop := d.armed 29 = false ∧ d.fmem.bad = [] ∧ d.fmem.single = []
/-- The running context can reach `n` bytes from word `i` of its segment on: not refused, and outside the holes (R331, R344). -/
def Reach (d : Dev) (e i n : Nat) : Prop :=
  d.isoRefused (d.segTenant e) (d.segAddr e i) n = false ∧ touchesHole (d.segAddr e i) n = false
/-- The running command can store `n` bytes from word `i` on: reached, and inside its window (R237). -/
def Stores (d : Dev) (e i n : Nat) : Prop :=
  d.Reach e i n ∧ d.inWin e i = true ∧ d.inWin e (i + ceilDiv n 4 - 1) = true
/-- Entry `h` of TYPE `kind` is the head of command queue `q`, with `rest` cached behind it, or comes as `e` to an empty cache; the queue
moves and its completion queue has a free slot (R355, R359). -/
def Comes (d : Dev) (q kind : Nat) (e h : List Word) (rest : List (List Word)) : Prop :=
  d.sqMoves q = true ∧ d.sqKind q = 1 ∧ d.cqFree (d.sqCq q) = true ∧ entType h = kind ∧
    ((d.sq q).cache = h :: rest ∨ ((d.sq q).cache = [] ∧ rest = [] ∧ h = withType e kind ∧ 0 < d.sqWaiting q))

end Sys2Proof.Machine.Dev

namespace Sys2Proof

open Machine

/-- Frame memory is in canonical form, and no store and no report of an earlier command is left over. -/
def Safe (s : State) : Prop := Memory.wf s.fmem.bytes = true ∧ s.stores = [] ∧ s.fault.due = []

/-- A safe state in which the slices are at rest, with no multicast cell on its way. -/
def Calm (s : State) : Prop := Safe s ∧ s.Quiet

/-- A step answers a next state: it neither faults nor refuses. -/
def Answers (s : State) : Prop := ∃ t, step s = .next t

/-- Command `c` answers a next state from `s`, with the queue as it was, of which `post` holds. -/
def Runs (c : Instr) (s : State) (post : State → Prop) : Prop := ∃ t, exec c s = .next t ∧ t.pending = s.pending ∧ post t

/-- Every byte of frame memory reads as before. -/
def SameMem (s t : State) : Prop := ∀ a, t.fmByte a = s.fmByte a

/-- Every register outside `own`, and outside the pending words of the interrupt controller, reads as before. -/
def SameRegs (own : Nat → Prop) (s t : State) : Prop := ∀ a, ¬ own a → ¬ Dev.isPend a → t.rd a = s.rd a

/-- Every counter outside `own` reads as before. -/
def SameCounters (own : Nat → Prop) (s t : State) : Prop := ∀ a, ¬ own a → t.cnt a = s.cnt a

/-- Only registers in `own` changed, with what an event does in the interrupt controller: every other register, every counter, table,
unit and byte of memory is as before. -/
def OnlyRegs (own : Nat → Prop) (s t : State) : Prop := SameRegs own s t ∧ t.beside = s.beside

/-- A counter's value advanced by `n`: it stops at all ones (R9). -/
def addSat (v : BitVec 64) (n : Nat) : BitVec 64 := BitVec.ofNat 64 (min (2 ^ 64 - 1) (v.toNat + n))

/-- What a port or link that goes up or down leaves alone: every register it does not write, and everything outside counters, ports,
spars, slices and links. -/
def PortsFrame (s t : State) : Prop :=
  (∀ a, ¬ Dev.portReg a → ¬ Dev.isPend a → t.rd a = s.rd a) ∧ t.around = s.around

/-- What a command of lane `l` leaves alone: every register that is neither the lane's nor one that a port or link writes as it goes up
or down, every other lane, and everything outside lanes, ports, links and the cells that their fall flushes. -/
def LaneFrame (l : Nat) (s t : State) : Prop :=
  (∀ a, ¬ Dev.ofLane l a → ¬ Dev.portReg a → ¬ Dev.isPend a → t.rd a = s.rd a) ∧ (∀ k, k ≠ l → t.lane k = s.lane k)
    ∧ { t.around with lanes := [], freeCtr := 0 } = { s.around with lanes := [], freeCtr := 0 }

/-- What a microword leaves alone: everything but its engine and that engine's count of busy ECLK, which takes `n` more. -/
def EngineFrame (e n : Nat) (s t : State) : Prop :=
  t = { s with engines := t.engines, cnts := t.cnts } ∧ (∀ k, k ≠ e → t.engine k = s.engine k) ∧
    SameCounters (fun a => a = Reg.C_CE_BUSY_ECLK e) s t ∧ t.cnt (Reg.C_CE_BUSY_ECLK e) = addSat (s.cnt (Reg.C_CE_BUSY_ECLK e)) n

/-- An exception word latched in CE_EXC: the first is kept and a later one sets OVF; counted, with EXC (R243). -/
def Latched (e : Nat) (w : Word) (s t : State) : Prop :=
  let exc := Reg.CE_EXC e
  (s.bget exc 31 = false → t.rd exc = w) ∧ (s.bget exc 31 = true → t.rd exc = setFld (s.rd exc) 30 30 1) ∧
    t.cnt (Reg.C_CE_EXC_CNT e) = addSat (s.cnt (Reg.C_CE_EXC_CNT e)) 1 ∧ t.bget (Reg.CE_EVENT e) 1 = true

/-- The running routine ended by an exception of code 1 to 10 (R243, R244): latched, the engine at rest, a job's context free, and
context 0 skipped or halted by INLET_SKIP. -/
def Excepted (e code detail : Nat) (s t : State) : Prop := ∀ k, (s.engine e).cur = some k →
  Latched e (Dev.excWord k detail code (s.engine e).mpc) s t ∧ (t.engine e).cur = none ∧ (t.engine e).rest = t.engine e ∧
    (0 < k → t.ctx e k = {}) ∧ (k = 0 → (t.ctx e 0).state = if s.bget (Reg.CE_CFG e) 12 then 1 else 5)

/-- A standard command ended at its commit point (R227, R236, R239): the engine at rest, the context ready with its next command, the commit
counted. -/
def CommandEnds (e k : Nat) (s t : State) : Prop :=
  (t.engine e).cur = none ∧ (t.engine e).rest = t.engine e ∧ (t.ctx e k).state = 1 ∧ (t.ctx e k).fails = 0 ∧
    (t.ctx e k).cmdIdx = (if k = 0 then ((s.ctx e k).cmdIdx + 1) % atLeast1 (s.ctxCount e k) else (s.ctx e k).cmdIdx + 1) ∧
    t.cnt (Reg.C_CE_COMMITS e) = addSat (s.cnt (Reg.C_CE_COMMITS e)) 1

/-- The head entry `h` of queue `q` has been dispatched: it has left the cache, and HEAD is past it. -/
def Dispatched (q running : Nat) (rest : List (List Word)) (s t : State) : Prop :=
  (t.sq q).cache = rest ∧ (t.sq q).running = (s.sq q).running + running ∧ t.sqHead q = (s.sqHead q + 1) % s.sqSize q

/-- The head entry `h` of queue `q` ended as it was dispatched (R356, R359): its completion, posted where none is held, tells the job, the
status and the result. -/
def Ended (q status : Nat) (result : Word) (h : List Word) (rest : List (List Word)) (s t : State) : Prop :=
  Dispatched q 0 rest s t ∧ (s.host.heldCqe = [] → t.cnt Reg.C_HQ_CQE_POSTED = addSat (s.cnt Reg.C_HQ_CQE_POSTED) 1 ∧
    ∃ pre post f addr ws, t.outs = s.outs ++ pre ++ .cqe (s.sqCq q) f addr ws :: post ∧ ws.getD 0 0 = entJob h ∧
      fld (ws.getD 1 0) 7 0 = status ∧ ws.getD 3 0 = result)

/-- Every domain outside the island is at reset (R404, R406, R417): its registers, banks, units and memory. -/
def DomainsReset (s t : State) : Prop :=
  (∀ a, ¬ (0x800 ≤ a ∧ a < 0x1000) → t.rd a = Reg.resetVal a) ∧
    { t.toDev with regs := [], island := {}, outs := [], freeCtr := 0 } = { Dev.reset with regs := [], fuses := s.fuses, island := {} }

/-- The island's registers but the rails' and the causes' read as before. -/
def IslandKept (s t : State) : Prop :=
  ∀ a, 0x800 ≤ a → a < 0x1000 → a ≠ Reg.MHI_PMIC_STATUS → a ≠ Reg.MHI_WAKE_CAUSE → t.rd a = s.rd a

/-- The first of the enables `k :: ks` has been dropped, and the others wait (R403); with none left the device is FURLED, or wakes where
an event was held (R409). -/
def RailDropped (k : Nat) (ks : List Nat) (s t : State) : Prop :=
  t.island.dropping = ks ∧ t.bget Reg.MHI_PMIC_STATUS (4 + k) = false ∧
    (ks ≠ [] ∨ s.island.wakeHeld = false → t.bget Reg.MHI_PMIC_STATUS k = false ∧ t.outs = s.outs ++ [.rail k false]) ∧
    (ks = [] → t.island.power = if s.island.wakeHeld then .waking else .furled)

/-- A wake has started (R409, R410): WAKING, with PWR_EN0 high. -/
def WakeStarted (s t : State) : Prop :=
  t.island.power = .waking ∧ t.island.lanesDone = false ∧ t.island.hbmDone = false ∧ t.island.imageDone = false ∧
    t.bget Reg.MHI_PMIC_STATUS 0 = true ∧ t.outs = s.outs ++ [.rail 0 true] ∧
    t = { s with regs := t.regs, island := t.island, outs := t.outs }

/-- Wake source `k` is true (R408, R409): discarded where it is not enabled, recorded in WAKING, held in ENTERING or while rails fall; in
FURLED it starts the wake, alone in SRC. -/
def WakeEvent (k : Nat) (s t : State) : Prop :=
  let cause := Reg.MHI_WAKE_CAUSE
  let p := s.island.power
  let on := s.bget Reg.MHI_WAKE_EN k
  let waits := p = .entering ∨ (p = .furled ∧ s.island.dropping ≠ [])
  (on = false ∨ p = .off ∨ p = .cold ∨ p = .run → t = s) ∧
    (∀ a, a ≠ cause → a ≠ Reg.MHI_PMIC_STATUS → t.rd a = s.rd a) ∧
    (on = true → p = .waking → t.bget cause k = true ∧ t = { s with regs := t.regs }) ∧
    (on = true → waits → t.bget cause k = true ∧ t.island = { s.island with wakeHeld := true, woken := t.island.woken } ∧
      t = { s with regs := t.regs, island := t.island }) ∧
    (on = true → p = .furled → s.island.dropping = [] → t.fget cause 15 0 = 2 ^ k ∧ t.island.woken = true ∧ WakeStarted s t)

/-- A pulse on a wake source that has an interrupt source too (R383, log 11): in RUN it pends, elsewhere it is a wake event. -/
def WakePulse (k src : Nat) (s t : State) : Prop :=
  (s.island.power = .run → OnlyRegs (fun _ => False) s t ∧ (s.actOf src = false → t.pendOf src = true)) ∧
    (s.island.power ≠ .run → WakeEvent k s t)

end Sys2Proof
end

