-- ==== Sys2Proof/Certificates/Slice0/Obligations.lean ====
section
/-!
DEFINITION. The statements about the model, each with the rules of the spec that it rests on and the choices of the model that it
rests on beside them.
-/
open Sys2Proof Sys2Proof.Machine Sys2Proof.Machine.Dev

/-- A step takes the command at the front of the queue and runs it on the state with the rest of the queue. With no command waiting
the sequencers and the frame memory go on (the model's choice, log 1): where neither has work nothing changes, and an engine that
alone fetches a microword executes it. -/
def Obligations.StepRunsFront : Prop :=
  (∀ (s : State) (c : Instr) (rest : List Instr), s.pending = c :: rest →
  step s = exec c { s with pending := rest }) ∧
  (∀ s : State, s.pending = [] → s.fmem.xfers = [] → (∀ e, microFetch s.toDev e = none) → step s = .next s) ∧
  (∀ (s t : State) (e : Nat) (i : Instr), s.pending = [] → s.engines.map (·.1) = [e] → microFetch s.toDev e = some i → exec i s = .next t →
    t.fmem.xfers = [] → step s = .next t)

/-- The state after reset is safe. Choices of the model: log 44. -/
def Obligations.ResetIsSafe : Prop := Safe State.reset

/-- Every step from a safe state leaves a safe state, with the queue one command shorter and the fuses as they were: frame memory
keeps its canonical form, no store and no report is left over (R388: reports are handled with the command; log 44). -/
def Obligations.StepKeepsSafe : Prop := ∀ s t : State, Safe s → step s = .next t →
  Safe t ∧ t.fuses = s.fuses ∧ t.pending = s.pending.tail

/-- LOS and LOL (R75, R78): the thresholds at their exact edges, levels in µV, times in CCLK and offsets in 0.1 ppm; the detector's
bit and event, the fall of a lane in DATA (or in TRAIN, for LOS) to WAIT_SIGNAL, and the way out of WAIT_SIGNAL when the signal
returns: to RESUME with held coefficients and QUICK_RESUME, else to TRAIN. Choices of the model: logs 15, 16. -/
def Obligations.LaneDetectors : Prop := ∀ (s : State) (l : Fin 1024) (level cclks run : Nat) (ppm : BitVec 16), Calm s →
  let rx := Reg.LANE_RX_STATUS l
  let away : Nat := if s.bget (Reg.LANE_TRAIN_CTRL l) 24 && (s.lane l).held then lsResume else lsTrain
  let det := Reg.LANE_DET_CFG l
  let dips := level < 2000 * s.fget det 7 0 ∧ 1500 ≤ cclks
  let rises := max (2000 * s.fget det 15 8) (2000 * s.fget det 7 0 + 10000) < level ∧ 15000 ≤ cclks
  let far := 10 * min 300 (s.fget det 27 16) < (sgn 16 ppm.toNat).natAbs
  Runs (.losAssert l level cclks) s (fun t => LaneFrame l s t ∧ (¬ dips → t = s) ∧ (dips → t.bget rx 0 = true ∧ (s.bget rx 0 = false →
    t.bget (Reg.LANE_EVENT l) 0 = true ∧
    t.laneState l = if s.laneState l = lsTrain ∨ s.laneState l = lsData then lsWait else s.laneState l))) ∧
  Runs (.lolAssert l ppm run) s (fun t => LaneFrame l s t ∧ t.fget rx 31 16 = ppm.toNat ∧
    (¬ far → run < 256 → OnlyRegs (fun a => a = rx) s t ∧ t.bget rx 1 = s.bget rx 1) ∧
    (far ∨ 256 ≤ run → t.bget rx 1 = true ∧ (s.bget rx 1 = false → t.bget rx 2 = false ∧
      t.bget (Reg.LANE_EVENT l) 1 = true ∧ (s.laneState l ≠ lsData → t.laneState l = s.laneState l) ∧
      (s.laneState l = lsData → s.bget rx 0 = true → t.laneState l = lsWait)))) ∧
  Runs (.losDeassert l level cclks) s (fun t => LaneFrame l s t ∧ (¬ rises → t = s) ∧ (rises → t.bget rx 0 = false ∧
    (s.laneState l ≠ lsWait → t.laneState l = s.laneState l) ∧
    (s.laneState l = lsWait → s.bget (Reg.MAC_CFG (s.groupBase l)) 2 = false → t.laneState l = away))) ∧
  Runs (.lolDeassert l ppm run) s (fun t => LaneFrame l s t ∧ t.fget rx 31 16 = ppm.toNat ∧
    (far ∨ run < 4096 → OnlyRegs (fun a => a = rx) s t ∧ t.bget rx 1 = s.bget rx 1) ∧
    (¬ far → 4096 ≤ run → t.bget rx 1 = false ∧ t.bget rx 2 = true ∧ (s.laneState l ≠ lsWait → t.laneState l = s.laneState l)))

/-- The walk of R78 for a lane that leaves RESUME, TRAIN, WAIT_PARTNER or FAIL; in every other state the command changes nothing. A
training timer at TIMEOUT fails the lane, with the cause: the partner's report, an estimate that stayed below MIN_SNR, or the time.
Choices of the model: log 18. -/
def Obligations.LaneWalk : Prop := ∀ (s : State) (l : Fin 1024) (snr : BitVec 8) (ms : Nat) (partnerFailed : Bool), Calm s →
  let rx := Reg.LANE_RX_STATUS l
  Runs (.resumeLock l snr) s (fun t => LaneFrame l s t ∧ (s.laneState l ≠ lsResume → t = s) ∧ (s.laneState l = lsResume →
    t.fget rx 15 8 = snr.toNat ∧ t.bget rx 2 = true ∧
    t.laneState l = if s.fget (Reg.LANE_TRAIN_CTRL l) 15 8 ≤ snr.toNat then lsData else lsResume)) ∧
  Runs (.resumeTimeout l) s (fun t => LaneFrame l s t ∧ (s.laneState l ≠ lsResume → t = s) ∧ (s.laneState l = lsResume →
    t.laneState l = lsTrain ∧ (t.lane l).timer = true)) ∧
  Runs (.partnerReady l) s (fun t => LaneFrame l s t ∧ (s.laneState l ≠ lsPartner → t = s) ∧ (s.laneState l = lsPartner →
    t.laneState l = lsData ∧ (t.lane l).held = true ∧ t.bget (Reg.LANE_EVENT l) 2 = true)) ∧
  let due := (s.laneState l = lsTrain ∨ s.laneState l = lsPartner) ∧ 100 * atLeast1 (s.fget (Reg.LANE_TRAIN_CTRL l) 22 16) ≤ ms
  Runs (.trainTimeout l ms partnerFailed) s (fun t => LaneFrame l s t ∧ (¬ due → t = s) ∧ (due → t.laneState l = lsFail ∧
    t.bget (Reg.LANE_EVENT l) 3 = true ∧ (t.lane l).held = false ∧ t.fget (Reg.LANE_TRAIN_STATUS l) 11 8 =
      if partnerFailed then 4 else if (s.lane l).lowSnr = true ∧ s.laneState l = lsTrain then 2 else 1)) ∧
  Runs (.failRetry l) s (fun t => LaneFrame l s t ∧ (s.laneState l ≠ lsFail → t = s) ∧
    (s.laneState l = lsFail → s.bget rx 0 = true → t.laneState l = lsWait))

/-- The end of local training (R78, R79, R81, R82): the requests on the transmit lane that TX_REV gives, the first of them
INIT_PRESET; the estimate that they reach; what was learnt of the partner lane, polarity and reversal; the way to WAIT_PARTNER or
DATA where the receiver stopped asking with enough SNR; and the failure with cause MAP (3) of a mapping that is neither identity nor
full reversal. Choices of the model: log 18. -/
def Obligations.LaneTrained : Prop := ∀ (s : State) (l : Fin 1024) (snr : BitVec 8) (partner : Fin 8) (inverted : Bool)
    (steps : List TapStep), Calm s →
  let cfg := Reg.LANE_CFG l
  let st := Reg.LANE_TRAIN_STATUS l
  let ctrl := Reg.LANE_TRAIN_CTRL l
  let w := atLeast1 (s.widthAt l)
  let b := s.groupBase l
  let i := (l : Nat) - b
  let en := s.bget ctrl 0
  let k := if s.bget (Reg.LANE_CFG b) 3 then b + (w - 1 - partner % w) else b + partner % w
  let goal := s.fget ctrl 15 8 + 16
  let first : List Output := if (s.lane l).asked then [] else [.request k (atLeast1 (s.fget ctrl 2 1))]
  let a : Ask := if en then steps.foldl (askStep k goal) { best := snr.toNat, sent := first.length, outs := first } else { best := snr.toNat }
  let stopped := en = false ∨ goal ≤ a.best ∨ 8 ≤ a.run
  Runs (.trainLocalDone l snr partner inverted steps) s (fun t => LaneFrame l s t ∧ (s.laneState l ≠ lsTrain → t = s) ∧
    (s.laneState l = lsTrain → (∃ more, t.outs = s.outs ++ a.outs ++ more) ∧
      t.fget st 31 16 = min 65535 ((s.lane l).sent + a.sent) ∧
      t.fget st 7 5 = partner ∧ t.fget (Reg.LANE_RX_STATUS l) 15 8 = a.best ∧
      (s.fget cfg 2 1 = 1 → t.bget st 3 = false) ∧ (s.fget cfg 2 1 = 2 → t.bget st 3 = true) ∧ (s.fget cfg 2 1 = 0 → t.bget st 3 = inverted) ∧
      (s.fget cfg 5 4 = 1 → t.bget st 4 = false) ∧ (s.fget cfg 5 4 = 2 → t.bget st 4 = true) ∧
      (s.fget cfg 5 4 = 0 → (t.bget st 4 = true ↔ (partner : Nat) ≠ i ∧ (partner : Nat) + i + 1 = w ∧ 1 < w)) ∧
      (s.fget cfg 5 4 = 1 ∨ s.fget cfg 5 4 = 2 →
        (stopped ∧ s.fget ctrl 15 8 ≤ a.best → t.laneState l = if en then lsPartner else lsData) ∧
        (¬ (stopped ∧ s.fget ctrl 15 8 ≤ a.best) → t.laneState l = lsTrain)) ∧
      (s.fget cfg 5 4 = 0 → 1 < w → (partner : Nat) ≠ i → (partner : Nat) + i + 1 ≠ w → t.laneState l = lsFail ∧ t.fget st 11 8 = 3)))

/-- Answers to training requests (R80): override leaves the taps and answers Not applied (2); a preset of R72 and a legal step
change them and answer Updated (0); a step that would break a range or the sum of R71 leaves them and answers At limit (1). A
request to hold answers Updated with the taps as they are (the model's reading, log 17). Only the taps register changes. -/
def Obligations.TrainingAnswers : Prop := ∀ (s : State) (l : Fin 1024) (r : TrainReq), Safe s →
  let ts := tapsOf (s.rd (Reg.LANE_TX_TAPS l))
  Runs (.trainingRequest l r) s (fun t =>
    t.beside = s.beside ∧ (∀ a, a ≠ Reg.LANE_TX_TAPS l → t.rd a = s.rd a) ∧
    (s.bget (Reg.LANE_TRAIN_CTRL l) 0 = false → t = s) ∧
    (s.bget (Reg.LANE_TRAIN_CTRL l) 0 = true → s.bget (Reg.LANE_TX_OVR l) 31 = true → t.rd (Reg.LANE_TX_TAPS l) = s.rd (Reg.LANE_TX_TAPS l) ∧ t.outs = s.outs ++ [.answer l 2]) ∧
    (s.bget (Reg.LANE_TRAIN_CTRL l) 0 = true → s.bget (Reg.LANE_TX_OVR l) 31 = false → match r with
      | .preset k => t.rd (Reg.LANE_TX_TAPS l) = tapsWord (presetTaps (k + 1)) ∧ t.outs = s.outs ++ [.answer l 0]
      | .inc i => if tapsOk (tapMove ts i 1) then t.rd (Reg.LANE_TX_TAPS l) = tapsWord (tapMove ts i 1) ∧ t.outs = s.outs ++ [.answer l 0]
          else t.rd (Reg.LANE_TX_TAPS l) = s.rd (Reg.LANE_TX_TAPS l) ∧ t.outs = s.outs ++ [.answer l 1]
      | .dec i => if tapsOk (tapMove ts i (-1)) then t.rd (Reg.LANE_TX_TAPS l) = tapsWord (tapMove ts i (-1)) ∧ t.outs = s.outs ++ [.answer l 0]
          else t.rd (Reg.LANE_TX_TAPS l) = s.rd (Reg.LANE_TX_TAPS l) ∧ t.outs = s.outs ++ [.answer l 1]
      | .hold _ => t.rd (Reg.LANE_TX_TAPS l) = s.rd (Reg.LANE_TX_TAPS l) ∧ t.outs = s.outs ++ [.answer l 0]))

/-- Adaptation and bursts (R73, R74): an update moves each tap by at most 1 LSB, and moves none while adaptation is off, frozen or
the lane has no signal or is neither in DATA nor in WAIT_PARTNER; a burst sets BURST with its event and the end of the freeze clears
it. Test patterns (R88, R89, R90): the checker outside the low-power state, symbol by symbol: locked, it counts two bits and the
errors of a received level against its pattern and loses lock at 16 symbol errors within 64; unlocked, it locks at 64 in a row
without one; the injected symbol of a generator that is on, and the clear of both counters. Choices of the model: log 16. -/
def Obligations.LaneUpkeep : Prop :=
  (∀ (s : State) (l : Fin 1024) (ffe : List Int) (dfe : Int), Safe s →
  let rx := Reg.LANE_RX_STATUS l
  let eq := Reg.LANE_RX_EQ l
  Runs (.adaptationUpdate l ffe dfe) s (fun t =>
    (∀ a, a ≠ eq → t.rd a = s.rd a) ∧ (∀ k, k ≠ (l : Nat) → t.lane k = s.lane k) ∧ { t.beside with lanes := [] } = { s.beside with lanes := [] } ∧
    t.fget eq 4 0 = s.fget eq 4 0 ∧
    (s.bget (Reg.LANE_TRAIN_CTRL l) 25 = false ∨ s.bget rx 3 = true ∨ s.bget rx 0 = true ∨
      (s.laneState l ≠ lsData ∧ s.laneState l ≠ lsPartner) → t = s) ∧
    (sgn 6 (t.fget eq 13 8) - sgn 6 (s.fget eq 13 8)).natAbs ≤ 1 ∧
    (∀ i < 24, ∀ x, (s.lane l).ffe[i]? = some x → -128 ≤ x → x ≤ 127 →
      ∃ y, (t.lane l).ffe[i]? = some y ∧ (y - x).natAbs ≤ 1 ∧ -128 ≤ y ∧ y ≤ 127)) ∧
  Runs (.burstDetect l) s (fun t => OnlyRegs (fun a => a = rx ∨ a = Reg.LANE_EVENT l) s t ∧ t.bget rx 3 = true ∧
    t.bget (Reg.LANE_EVENT l) 8 = true) ∧
  Runs (.burstFreezeEnd l) s (fun t => OnlyRegs (fun a => a = rx) s t ∧ t.bget rx 3 = false ∧ ∀ i, i ≠ 3 → t.bget rx i = s.bget rx i)) ∧
  (∀ (s : State) (l : Fin 1024) (syms : List (Fin 4)) (x : Fin 4) (again : Bool), Safe s →
  let rx := Reg.LANE_RX_STATUS l
  let chk := s.fget (Reg.LANE_TEST_CTRL l) 7 4
  let gen := s.fget (Reg.LANE_TEST_CTRL l) 3 0
  let loop := s.fget (Reg.LANE_TEST_CTRL l) 10 8
  let c := (s.lane l).chk
  let level := if s.bget (Reg.LANE_TRAIN_STATUS l) 3 then 3 - (x : Nat) else x
  let want := patternPair chk (if c.inv then c.invHist else c.hist)
  let errors := pairDiff want (grayBits (if c.inv then 3 - level else level))
  let misses := ((decide (0 < errors) :: c.missed).take 64).countP id
  (∀ mk ∈ [Instr.checkerLock l, Instr.checkerUnlock l],
    Runs (mk syms) s (fun t => (∀ a, a ≠ rx → a ≠ Reg.LANE_EVENT l → ¬ isPend a → t.rd a = s.rd a) ∧ (∀ k, k ≠ (l : Nat) → t.lane k = s.lane k) ∧
      { t.beside with cnts := [], lanes := [] } = { s.beside with cnts := [], lanes := [] } ∧
      SameCounters (fun a => a = Reg.C_LANE_PRBS_ERR l ∨ a = Reg.C_LANE_PRBS_BITS l) s t ∧
      (s.laneState l = lsLow → t = s) ∧ (chk = 0 ∨ 7 < chk → t = { s with outs := t.outs })) ∧
    Runs (mk [x]) s (fun t => s.laneState l ≠ lsLow → 1 ≤ chk → chk ≤ 7 →
      (s.bget rx 4 = true → t.cnt (Reg.C_LANE_PRBS_BITS l) = addSat (s.cnt (Reg.C_LANE_PRBS_BITS l)) 2 ∧
        t.cnt (Reg.C_LANE_PRBS_ERR l) = addSat (s.cnt (Reg.C_LANE_PRBS_ERR l)) errors ∧
        (0 < errors → t.bget (Reg.LANE_EVENT l) 4 = true) ∧ t.bget rx 4 = decide (misses < 16) ∧
        (16 ≤ misses → t.bget (Reg.LANE_EVENT l) 5 = true)) ∧
      (s.bget rx 4 = false → (t.lane l).chk = c.seek chk level ∧
        t.bget rx 4 = decide (64 ≤ (c.seek chk level).run ∨ 64 ≤ (c.seek chk level).invRun)))) ∧
  Runs (.prbsInject l again) s (fun t => (∀ a, a ≠ Reg.LANE_EVENT l → ¬ isPend a → t.rd a = s.rd a) ∧
    { t.beside with cnts := [] } = { s.beside with cnts := [] } ∧
    SameCounters (fun a => a = Reg.C_LANE_PRBS_ERR l ∨ a = Reg.C_LANE_PRBS_BITS l) s t ∧
    (again = true ∨ gen = 0 ∨ 8 < gen ∨ s.laneState l ≠ lsTest → t = s) ∧
    (again = false → 1 ≤ gen → gen ≤ 8 → s.laneState l = lsTest → (loop ≠ 2 → loop ≠ 3 → ∃ more, t.outs = s.outs ++ .injectedSymbol l :: more) ∧
      (loop = 1 ∨ loop = 2 → s.bget rx 4 = true → chk = gen → gen ≤ 7 → t.bget (Reg.LANE_EVENT l) 4 = true ∧
        t.cnt (Reg.C_LANE_PRBS_ERR l) = addSat (s.cnt (Reg.C_LANE_PRBS_ERR l)) 1))) ∧
  Runs (.prbsClr l) s (fun t => (∀ a, t.cnt a = if a = Reg.C_LANE_PRBS_ERR l ∨ a = Reg.C_LANE_PRBS_BITS l then 0 else s.cnt a) ∧
    t = { s with cnts := t.cnts }))

/-- The low-power state of a lane and the start of lanes at a wake (R78, R83, R84, R85, R87): entered at REQ, its exit started at
REQ 0, and the exit's end with LP_EXIT_DONE, to WAIT_SIGNAL, or to TEST under a test (R87). When calibration ends at a wake every
lane that is OFF starts: to TEST under a test, to WAIT_SIGNAL where used without a signal, and the others stay as they are. Choices
of the model: log 19. -/
def Obligations.LaneLowPower : Prop := ∀ (s : State) (l : Fin 1024), Calm s →
  let lp := Reg.LANE_LP_CTRL l
  Runs (.laneLpEnter l) s (fun t => LaneFrame l s t ∧ t.bget lp 0 = true ∧ t.bget lp 1 = true ∧ t.bget lp 2 = false ∧ t.laneState l = lsLow) ∧
  Runs (.laneLpExit l) s (fun t => OnlyRegs (fun a => a = lp) s t ∧ t.bget lp 0 = false ∧ t.bget lp 1 = s.bget lp 1 ∧
    t.bget lp 2 = (s.bget lp 2 || s.bget lp 1)) ∧
  Runs (.laneLpExitDone l) s (fun t => LaneFrame l s t ∧ (s.bget lp 2 = false → t = s) ∧ (s.bget lp 2 = true →
    t.bget lp 2 = false ∧ t.bget lp 1 = false ∧ t.bget (Reg.LANE_EVENT l) 6 = true ∧ (s.laneTest l = true → t.laneState l = lsTest) ∧
    (s.laneTest l = false → s.bget (Reg.LANE_RX_STATUS l) 0 = true → t.laneState l = lsWait))) ∧
  Runs .laneRestartDone s (fun t => t.island.lanesDone = true ∧ (s.laneState l ≠ lsOff → t.laneState l = s.laneState l) ∧
    (s.laneState l = lsOff → (s.laneTest l = true → t.laneState l = lsTest) ∧
      (s.laneTest l = false → s.laneUsed l = false → t.laneState l = lsOff) ∧
      (s.laneTest l = false → s.laneUsed l = true → s.bget (Reg.LANE_RX_STATUS l) 0 = true → t.laneState l = lsWait)))

/-- Alignment of a port (R99): a loss takes the link down; a gain brings it up where the port is enabled, every lane of its group is
in DATA, and auto-negotiation is off or done. A port that the breakout does not name is left alone. Choices of the model: log 53. -/
def Obligations.PortAlignment : Prop := ∀ (s : State) (p : Fin 1024), Calm s →
  let st := Reg.MAC_STATUS p
  Runs (.alignLockLoss p) s (fun t => PortsFrame s t ∧ (s.named p = false → t = s) ∧
    (s.named p = true → t.bget st 1 = false ∧ t.linkUp p = false)) ∧
  Runs (.alignLockGain p) s (fun t => PortsFrame s t ∧ (s.named p = false → t = s) ∧ (s.named p = true → t.bget st 1 = true ∧
    (s.fault.downChips.contains (p / 128 : Nat) = false → s.bget (Reg.MAC_CFG p) 0 = true →
      (∀ l ∈ s.groupLanes p, s.laneState l = lsData ∧ s.fget (Reg.LANE_RX_STATUS l) 1 0 = 0) →
      s.bget (Reg.MAC_CFG p) 2 = false ∨ s.bget st 2 = true → t.linkUp p = true)))

/-- Auto-negotiation (R101): a restart forgets the outcome and takes the lanes of the group that train or carry data back to
WAIT_SIGNAL, and sends a base page that advertises the port's rate; the partner's last page resolves it where it names that rate, or
sets AN_FAIL with its event; the retry acts only after a failure. Choices of the model: logs 53, 67. -/
def Obligations.AutoNegotiation : Prop := ∀ (s : State) (p : Fin 1024) (rates : List Nat), Calm s →
  let st := Reg.MAC_STATUS p
  let common := rates.contains (s.portRate p / 1000)
  let page := fun (t : State) => s.bget (Reg.MAC_CFG p) 0 = true → ∃ more, t.outs = s.outs ++ more ++ [.basePage p (s.portRate p / 1000)]
  let an := s.named p && s.bget (Reg.MAC_CFG p) 2
  let restarted := fun (t : State) => t.bget st 2 = false ∧ t.bget st 3 = false ∧
    ∀ l ∈ s.groupLanes p, 3 ≤ s.laneState l → s.laneState l ≤ 7 → t.laneState l = lsWait
  Runs (.anRestart p) s (fun t => (an = false → t = s) ∧ (an = true → restarted t ∧ page t)) ∧
  Runs (.anRetry p) s (fun t => (an = false ∨ s.bget st 3 = false → t = s) ∧ (an = true → s.bget st 3 = true → restarted t ∧ page t)) ∧
  Runs (.anPageReceive p rates) s (fun t =>
    (an = false ∨ s.bget (Reg.MAC_CFG p) 0 = false ∨ s.bget st 2 = true → t = s) ∧
    (an = true → s.bget (Reg.MAC_CFG p) 0 = true → s.bget st 2 = false →
      (common = true → t.bget st 2 = true ∧ t.bget st 3 = false) ∧
      (common = false → t.bget st 3 = true ∧ t.bget (Reg.MAC_EVENT p) 1 = true ∧
        OnlyRegs (fun a => a = st ∨ a = Reg.MAC_EVENT p) s t)))

/-- Reception (R98, R102, R103, R112): what an up, named port does with a frame, by length, limit, FCS and fence; a port that is
down takes nothing. Codewords are counted by their symbol errors, of which 15 can be corrected (R97), and an uncorrectable one that
the frame touches makes it bad. A good frame is counted with its bytes and handed to its spar's parse engine with its arrival time,
or dropped while that reloads (R138); the frame ungates the engine (R26). Choices of the model: log 53. -/
def Obligations.FrameReception : Prop := ∀ (s : State) (p : Fin 1024) (f : Bytes) (late : Bool) (cws : List Codeword)
    (shared : Bool), Safe s →
  let n : Nat := p / 8
  let errs := cws.map (·.errors)
  let fixed := errs.filter (fun e => decide (0 < e) && decide (e ≤ 15))
  let hit := cws.any (fun c => c.touches && decide (15 < c.errors)) || (shared && (s.port p).cwBad)
  let good := fcsGood f && !hit
  let up := s.named p && s.linkUp p
  let taken := up && !s.rxFenced p
  Runs (.frameReceive p f late cws shared) s (fun t =>
    (∀ a, a ≠ Reg.MAC_EVENT p → a ≠ Reg.MAC_STATUS p → a ≠ Reg.PRS_EVENT n → ¬ isPend a → t.rd a = s.rd a) ∧
    { t.beside with cnts := [], ports := [], spars := [], gated := [] } = { s.beside with cnts := [], ports := [], spars := [], gated := [] } ∧
    (∀ k, k ≠ n → t.spar k = s.spar k) ∧
    (up = false → t = s) ∧
    (up = true → t.cnt (Reg.C_MAC_FEC_UNCORR_CW p) = addSat (s.cnt (Reg.C_MAC_FEC_UNCORR_CW p)) (errs.filter (fun e => decide (15 < e))).length ∧
      t.cnt (Reg.C_MAC_FEC_CORR_CW p) = addSat (s.cnt (Reg.C_MAC_FEC_CORR_CW p)) fixed.length ∧
      t.cnt (Reg.C_MAC_FEC_CORR_SYM p) = addSat (s.cnt (Reg.C_MAC_FEC_CORR_SYM p)) fixed.sum ∧
      ∀ k, (.parse k : Block) ∈ t.gated → (k : Nat) ≠ n) ∧
    (up = true → s.rxFenced p = true → t.spars = s.spars ∧
      t.cnt (Reg.C_MAC_RX_FENCE_DROP p) = addSat (s.cnt (Reg.C_MAC_RX_FENCE_DROP p)) 1) ∧
    (taken = true → f.length < 64 → t.spars = s.spars ∧ t.cnt (Reg.C_MAC_RX_RUNT p) = addSat (s.cnt (Reg.C_MAC_RX_RUNT p)) 1) ∧
    (taken = true → 64 ≤ f.length → s.maxFrame p < f.length →
      t.cnt (Reg.C_MAC_RX_OVERSIZE p) = addSat (s.cnt (Reg.C_MAC_RX_OVERSIZE p)) 1) ∧
    (taken = true → 64 ≤ f.length → isControl f = false → f.length ≤ s.maxFrame p → good = false →
      t.cnt (Reg.C_MAC_RX_FCS_ERR p) = addSat (s.cnt (Reg.C_MAC_RX_FCS_ERR p)) 1) ∧
    (taken = true → 64 ≤ f.length → isControl f = false → f.length ≤ s.maxFrame p → good = true →
      t.cnt (Reg.C_MAC_RX_FRAMES_OK p) = addSat (s.cnt (Reg.C_MAC_RX_FRAMES_OK p)) 1 ∧
      t.cnt (Reg.C_MAC_RX_BYTES_OK p) = addSat (s.cnt (Reg.C_MAC_RX_BYTES_OK p)) f.length ∧
      ((s.spar n).reloading = false → (t.spar n).rx = (s.spar n).rx ++ [{ bytes := f, port := p, stamp := s.nowU, bad := false, res := {} }]) ∧
      ((s.spar n).reloading = true → t.spars = s.spars ∧ t.bget (Reg.PRS_EVENT n) 4 = true ∧
        t.cnt (Reg.C_PRS_MEM_ERR_DROP p) = addSat (s.cnt (Reg.C_PRS_MEM_ERR_DROP p)) 1)))

/-- Pause (R109, R110): a good PFC frame sets or ends the pause of each class that its vector and the receive mask name; an expiry
ends one class; the repeat sends every held class again with the port's quanta, at once or after the frame that the port is sending.
Choices of the model: log 14. -/
def Obligations.PauseFrames : Prop := ∀ (s : State) (p : Fin 1024) (f : Bytes) (c : Fin 8), Safe s →
  let st := Reg.MAC_STATUS p
  let named := beAt f 16 2 &&& s.fget (Reg.MAC_PFC_CFG p) 31 24
  Runs (.pfcReceive p f) s (fun t => s.named p = true → s.linkUp p = true → s.rxFenced p = false → 64 ≤ f.length →
    f.length ≤ s.maxFrame p → fcsGood f = true → isControl f = true → beAt f 14 2 = 0x0101 →
      t.cnt (Reg.C_MAC_RX_PFC p) = addSat (s.cnt (Reg.C_MAC_RX_PFC p)) 1 ∧ t.spars = s.spars ∧
      t.bget st (8 + c) = if bit named c then decide (beAt f (18 + 2 * c) 2 ≠ 0) else s.bget st (8 + c)) ∧
  Runs (.pfcPauseExpire p c) s (fun t => OnlyRegs (fun a => a = st) s t ∧ t.bget st (8 + c) = false ∧
    ∀ i, i ≠ 8 + (c : Nat) → t.bget st i = s.bget st i) ∧
  let cs := if s.linkUp p && !s.portFenced p then (upto 8).filter (fun i => bit (s.port p).txPause i) else []
  Runs (.pfcRepeat p) s (fun t => t.regs = s.regs ∧ { t.beside with cnts := [], ports := [] } = { s.beside with cnts := [], ports := [] } ∧
    SameCounters (fun a => a = Reg.C_MAC_TX_PFC p) s t ∧
    (s.sending p = false → t.ports = s.ports ∧ t.outs = s.outs ++ cs.map (fun i => Output.pfc p (pfcBytes i (s.quanta p)))) ∧
    (s.sending p = true → t.outs = s.outs ∧ t.cnts = s.cnts ∧ (∀ k, k ≠ (p : Nat) → t.port k = s.port k) ∧
      t.port p = { s.port p with pfcDue := (s.port p).pfcDue ++ cs.map (fun i => (i, s.quanta p)) }))

/-- The timestamp FIFO (R108): a read of MAC_PTP_TX_SEQ pops the oldest stamp into the stamp registers and answers its sequence
number with VALID; with none it answers 0 and changes nothing. Fences and FEC windows (R100, R112): FENCE takes the port's output
down at once, and lifting it ends the fence where neither a load nor Black holds one; a window's end counts its codewords without a
frame, with the threshold's event, and restarts its count. Choices of the model: log 53. -/
def Obligations.PortFencesAndStamps : Prop :=
  (∀ (s : State) (p : Fin 1024), Safe s →
  Runs (.ptpTsPop p) s (fun t =>
    (s.named p = false ∨ (s.port p).tsFifo = [] → t = { s with outs := s.outs ++ [.readData (Reg.MAC_PTP_TX_SEQ p) 0] }) ∧
    (s.named p = true → ∀ stamp seq rest, (s.port p).tsFifo = (stamp, seq) :: rest → (t.port p).tsFifo = rest ∧
      t.rd (Reg.MAC_PTP_TX_TS_LO p) = wd stamp ∧ t.rd (Reg.MAC_PTP_TX_TS_HI p) = wd (stamp / 2 ^ 32) ∧
      t.outs = s.outs ++ [.readData (Reg.MAC_PTP_TX_SEQ p) (wd (2 ^ 31 + seq % 65536))] ∧
      (∀ a, a ≠ Reg.MAC_PTP_TX_TS_LO p → a ≠ Reg.MAC_PTP_TX_TS_HI p → t.rd a = s.rd a) ∧
      { t.beside with ports := [] } = { s.beside with ports := [] }))) ∧
  (∀ (s : State) (p : Fin 1024) (on : Bool) (cws : List Nat), Calm s →
  Runs (.portFence p on) s (fun t => (∀ a, a ≠ Reg.MAC_CMD p → ¬ portReg a → ¬ isPend a → t.rd a = s.rd a) ∧ t.around = s.around ∧
    (s.named p = false → t = s) ∧ (s.named p = true → t.bget (Reg.MAC_CMD p) 0 = on ∧ (on = true → t.portFenced p = true) ∧
      (on = false → s.loader.fence = false → s.inBlack = false → t.portFenced p = false))) ∧
  let bad := (cws.filter (fun e => decide (15 < e))).length
  Runs (.fecWindowEnd p cws) s (fun t => OnlyRegs (fun a => a = Reg.MAC_EVENT p) s { t with ports := s.ports, cnts := s.cnts } ∧
    SameCounters (fun a => a = Reg.C_MAC_FEC_CORR_CW p ∨ a = Reg.C_MAC_FEC_CORR_SYM p ∨ a = Reg.C_MAC_FEC_UNCORR_CW p) s t ∧
    (t.port p).fecCount = 0 ∧ (t.port p).fecFired = false ∧ (∀ k, k ≠ (p : Nat) → t.port k = s.port k) ∧
    (s.named p = false ∨ s.linkUp p = false → t = { s with ports := t.ports }) ∧
    (s.named p = true → s.linkUp p = true → t.cnt (Reg.C_MAC_FEC_UNCORR_CW p) = addSat (s.cnt (Reg.C_MAC_FEC_UNCORR_CW p)) bad ∧
      (0 < bad → (s.port p).fecFired = false → atLeast1 (s.fget (Reg.MAC_FEC_THRESH p) 15 0) ≤ (s.port p).fecCount + bad →
        t.bget (Reg.MAC_EVENT p) 2 = true))))

/-- Writes of the time base (R60, R61, R63): the frequency clamped at ±500 ppm with its event, an offset that replaces the rest of
the one before, its end, and the step, refused with its event where stepping is not allowed. Lock of the time base (R58, R62, R63):
LOCKED, the end of stepping, and, under the PTP source, LOCK and HOLDOVER of the period with HOLD_CHG at a change; the lock watchdog
acts only while locked. Clock gating (R26, R27): an idle block is gated unless the wall schedule keeps it ungated, and a trigger
ungates it; no register tells. The pulse pins (R64): the output follows its enable, and a rising input edge is stamped with the time
base and sets PPS_IN. Choices of the model: logs 12, 36, 66, 111. -/
def Obligations.TimeAndClocks : Prop :=
  ((∀ (s : State) (v : Word), Safe s →
  let x := sgn 32 v.toNat
  Runs (.ptpFreqWrite v) s (fun t => OnlyRegs (fun a => a = Reg.PTP_FREQ ∨ a = Reg.PTP_EVENT) s t ∧
    sgn 32 (t.rd Reg.PTP_FREQ).toNat = max (-32768000) (min 32768000 x) ∧
    (x < -32768000 ∨ 32768000 < x → t.bget Reg.PTP_EVENT 2 = true) ∧
    (-32768000 ≤ x → x ≤ 32768000 → t.rd Reg.PTP_EVENT = s.rd Reg.PTP_EVENT)) ∧
  Runs (.ptpOffsetWrite v) s (fun t => SameRegs (fun a => a = Reg.PTP_STATUS) s t ∧
    t.time = { s.time with slew := signed64 v s.time.offLo * (timeUnit : Int) } ∧ { t.beside with time := {} } = { s.beside with time := {} } ∧
    (t.bget Reg.PTP_STATUS 1 = true ↔ signed64 v s.time.offLo ≠ 0)) ∧
  Runs .offsetSlewDone s (fun t => SameRegs (fun a => a = Reg.PTP_STATUS) s t ∧
    t.time = { s.time with ticks := s.time.ticks + s.time.slew, slew := 0 } ∧ { t.beside with time := {} } = { s.beside with time := {} } ∧
    t.bget Reg.PTP_STATUS 1 = false) ∧
  Runs (.ptpStep v) s (fun t =>
    (s.bget Reg.PTP_STATUS 2 = false → t.bget Reg.PTP_EVENT 1 = true ∧ OnlyRegs (fun a => a = Reg.PTP_EVENT) s t) ∧
    (s.bget Reg.PTP_STATUS 2 = true → t.time.ticks = s.time.ticks + signed64 v s.time.stepLo * (timeUnit : Int) ∧
      t.regs = s.regs ∧ t = { s with time := t.time }))) ∧
  (∀ s : State, Safe s →
  let per := Reg.GLB_PERIOD_STATUS
  let own := fun a => a = Reg.PTP_STATUS ∨ a = per ∨ a = Reg.PTP_EVENT
  Runs .ptpLock s (fun t => OnlyRegs own s t ∧ t.bget Reg.PTP_STATUS 0 = true ∧ t.bget Reg.PTP_STATUS 2 = false ∧
    (s.periodSrc = 0 → t.bget per 0 = true ∧ t.bget per 1 = false ∧ (s.bget per 1 = true → t.bget per 4 = true)) ∧
    (s.periodSrc ≠ 0 → t.rd per = s.rd per)) ∧
  Runs .ptpUnlock s (fun t => OnlyRegs own s t ∧ t.bget Reg.PTP_STATUS 0 = false ∧
    (s.periodSrc = 0 → t.bget per 0 = false ∧ t.bget per 1 = true ∧ (s.bget per 1 = false → t.bget per 4 = true)) ∧
    (s.periodSrc ≠ 0 → t.rd per = s.rd per)) ∧
  Runs .lockWatchdogExpire s (fun t => OnlyRegs own s t ∧ (s.bget Reg.PTP_STATUS 0 = false → t = s) ∧
    (s.bget Reg.PTP_STATUS 0 = true → t.bget Reg.PTP_EVENT 0 = true ∧ t.bget Reg.PTP_STATUS 0 = false ∧
      (s.periodSrc = 0 → t.bget per 1 = true))))) ∧
  ((∀ (s : State) (b : Block), Safe s →
  Runs (.clockGate b) s (fun t => t = { s with gated := t.gated } ∧ ∀ x, x ∈ t.gated ↔ x ∈ s.gated ∨ (x = b ∧ s.keptUngated b = false)) ∧
  Runs (.clockUngate b) s (fun t => t = { s with gated := t.gated } ∧ ∀ x, x ∈ t.gated ↔ x ∈ s.gated ∧ x ≠ b)) ∧
  (∀ s : State, Safe s →
  Runs .ppsOutRise s (fun t => t.time = { s.time with ppsOut := s.bget Reg.PTP_CFG 31 } ∧ t = { s with time := t.time, outs := t.outs }) ∧
  Runs .ppsOutFall s (fun t => t.time = { s.time with ppsOut := false } ∧ t = { s with time := t.time, outs := t.outs } ∧
    t.outs = if s.time.ppsOut then s.outs ++ [.pps false] else s.outs) ∧
  Runs .ppsInEdge s (fun t => t.rd Reg.PTP_PPS_IN_TS_LO = wd s.nowU ∧ t.rd Reg.PTP_PPS_IN_TS_HI = wd (s.nowU / 2 ^ 32) ∧
    t.bget Reg.PTP_EVENT 3 = true ∧ t.time = s.time ∧ SameMem s t)))

/-- A claim (R378): among the sources that target `t` and are pending, unmasked and of a priority above 0, the one of highest
priority, the lowest number among equals, is returned and moves from PEND to ACT; with none the read returns 0 and changes nothing.
A completion (R379): of an active source, through the target that claimed it, it ends ACT; any other is refused in IRQ_STATUS with
the source written. -/
def Obligations.InterruptClaims : Prop :=
  (∀ (s : State) (t : Fin 8), Safe s →
  let waits := fun (x : Nat) => x < 1152 ∧ s.pendOf x = true ∧ s.maskOf x = false ∧ 0 < s.prioOf x ∧ s.targetOf x = t
  Runs (.irqClaim t) s (fun u =>
    ((∀ x, ¬ waits x) → u = { s with outs := s.outs ++ [.readData (Reg.IRQ_CLAIM t) 0] }) ∧
    (∀ x, waits x → (∀ y, waits y → s.prioOf y < s.prioOf x ∨ (s.prioOf y = s.prioOf x ∧ x ≤ y)) →
      u.pendOf x = false ∧ u.actOf x = true ∧ SMap.get? u.irq.claimedBy x = some (t : Nat) ∧
      (∃ more, u.outs = s.outs ++ .readData (Reg.IRQ_CLAIM t) (wd (2 ^ 31 + s.prioOf x * 65536 + x)) :: more) ∧
      SameRegs (fun a => a = Reg.IRQ_ACTIVE (x / 32)) s u ∧ (∀ y < 1152, y ≠ x → u.pendOf y = s.pendOf y) ∧
      { u.beside with irq := {}, host := {} } = { s.beside with irq := {}, host := {} }))) ∧
  (∀ (s : State) (t : Fin 8) (x : BitVec 11), Safe s →
  Runs (.irqComplete t x) s (fun u =>
    (s.actOf x.toNat = true → SMap.get? s.irq.claimedBy x.toNat = some (t : Nat) →
      u.actOf x.toNat = false ∧ SMap.get? u.irq.claimedBy x.toNat = none ∧ SameRegs (fun a => a = Reg.IRQ_ACTIVE (x.toNat / 32)) s u ∧
      { u.beside with irq := {} } = { s.beside with irq := {} }) ∧
    (s.actOf x.toNat = false ∨ SMap.get? s.irq.claimedBy x.toNat ≠ some (t : Nat) →
      u.bget Reg.IRQ_STATUS 31 = true ∧ u.fget Reg.IRQ_STATUS 10 0 = x.toNat ∧ OnlyRegs (fun a => a = Reg.IRQ_STATUS) s u)))

/-- Pending bits by hand (R11, R374, R375, R384): ones written to IRQ_PEND SET pend their sources, software interrupts pend sources
120 to 127, and ones written to CLEAR end the pending of sources without an input; reserved sources never pend. Nothing else
changes. Masks and moderation (R11, R377, R380): the three forms of a mask write, and a delivered state that rises when HOLDOFF has
passed with a source counted and claimable. -/
def Obligations.InterruptWrites : Prop :=
  (∀ (s : State) (w : Fin 36) (v : Word) (edges : BitVec 8), Safe s →
  let named := fun (x : Nat) => x / 32 = w ∧ wbit v (x % 32) = true ∧ x ≠ 31 ∧ ¬ (33 ≤ x ∧ x < 120)
  Runs (.irqPendSet w v) s (fun u => OnlyRegs (fun _ => False) s u ∧
    ∀ x < 1152, (u.pendOf x = true ↔ s.pendOf x = true ∨ named x)) ∧
  Runs (.irqPendClear w v) s (fun u => OnlyRegs (fun _ => False) s u ∧
    ∀ x < 1152, (¬ named x → u.pendOf x = s.pendOf x) ∧ (named x → s.irqInput x = false → u.pendOf x = false)) ∧
  Runs (.irqSwi edges) s (fun u => OnlyRegs (fun _ => False) s u ∧
    ∀ x < 1152, (u.pendOf x = true ↔ s.pendOf x = true ∨ (120 ≤ x ∧ x < 128 ∧ edges.getLsbD (x - 120) = true)))) ∧
  (∀ (s : State) (w : Fin 36) (v : Word) (t : Fin 8), Safe s →
  let old := s.rd (Reg.IRQ_MASK w)
  Runs (.irqMaskWrite w 0 v) s (fun u => u.rd (Reg.IRQ_MASK w) = v ∧ OnlyRegs (fun a => a = Reg.IRQ_MASK w) s u ∧
    ∀ x < 1152, u.pendOf x = s.pendOf x) ∧
  Runs (.irqMaskWrite w 1 v) s (fun u => u.rd (Reg.IRQ_MASK w) = (old ||| v) ∧ OnlyRegs (fun a => a = Reg.IRQ_MASK w) s u) ∧
  Runs (.irqMaskWrite w 2 v) s (fun u => u.rd (Reg.IRQ_MASK w) = (old &&& ~~~v) ∧ OnlyRegs (fun a => a = Reg.IRQ_MASK w) s u) ∧
  Runs (.targetHoldoffExpire t) s (fun u => u.regs = s.regs ∧ u.beside = s.beside ∧
    ((s.target t).counting = true → (s.target t).d = false → s.claimables t ≠ [] → (u.target t).d = true ∧ (u.target t).u = 0) ∧
    ((s.target t).counting = false ∨ (s.target t).d = true ∨ s.claimables t = [] → u = s)))

/-- A counter clear (R89, R115, R143, R174, R199, R221, R222, R248, R327, R349, R373, R400, R436): the block's counters read 0 and
every other counter as before; the histograms of a spar read empty. -/
def Obligations.CounterClears : Prop := ∀ (s : State) (n : Fin 128) (p : Fin 1024), Safe s →
  let cleared := fun (base pairs : Nat) (t : State) =>
    ∀ a, t.cnt a = if base ≤ a ∧ a < base + 8 * pairs then 0 else s.cnt a
  Runs (.macCntClr p) s (fun t => (s.named p = false → t = s) ∧ (s.named p = true → cleared (Reg.C_MAC_RX_FRAMES_OK p) 18 t ∧
    (∀ c < 9, t.rd (Reg.MAC_FLUSH_CNT p c) = 0) ∧ (∀ a, (∀ c < 9, a ≠ Reg.MAC_FLUSH_CNT p c) → t.rd a = s.rd a) ∧
    t = { s with cnts := t.cnts, regs := t.regs })) ∧
  Runs (.coreCntClr n) s (fun t => cleared (Reg.C_CORE_TAB_CELLS n) 12 t ∧ t = { s with cnts := t.cnts }) ∧
  Runs (.eqCntClr n) s (fun t => cleared (Reg.C_EQ_QDROP_GREEN n) 7 t ∧ t = { s with cnts := t.cnts }) ∧
  Runs (.telCntClr n) s (fun t => cleared (Reg.C_TEL_PC_SENT n) 4 t ∧ t = { s with cnts := t.cnts }) ∧
  Runs (.wallCntClr n) s (fun t => cleared (Reg.C_WALL_TILES_SENT n) 10 t ∧ t = { s with cnts := t.cnts }) ∧
  Runs .fmcCntClr s (fun t => cleared Reg.C_FMC_CORR_CNT 10 t ∧ t = { s with cnts := t.cnts }) ∧
  Runs .hqCntClr s (fun t => cleared Reg.C_HQ_JOBS 11 t ∧ t = { s with cnts := t.cnts }) ∧
  Runs .stkCntClr s (fun t => cleared Reg.C_STK_HL_REPLAY 6 t ∧ t = { s with cnts := t.cnts }) ∧
  Runs (.prsCntClr n) s (fun t => t = { s with cnts := t.cnts } ∧ ∀ a, t.cnt a =
    if (upto 8).any (fun i => decide (Reg.C_PRS_PARSE_FAIL (8 * n + i) ≤ a) && decide (a < Reg.C_PRS_PARSE_FAIL (8 * n + i) + 80)) then 0 else s.cnt a) ∧
  Runs (.bufCntClr n) s (fun t => t = { s with cnts := t.cnts } ∧ ∀ a, t.cnt a =
    if Reg.C_BUF_REEF_DROP_RED n ≤ a ∧ a < Reg.C_BUF_REEF_DROP_RED n + 80 ∨
      ((n : Nat) = 0 ∧ Reg.C_BUF_POOL_EMPTY ≤ a ∧ a < Reg.C_BUF_POOL_EMPTY + 16) then 0 else s.cnt a) ∧
  Runs (.ceCntClr n) s (fun t => t = { s with cnts := t.cnts } ∧ ∀ a, t.cnt a =
    if (Reg.C_CE_COMMANDS n ≤ a ∧ a < Reg.C_CE_COMMANDS n + 88) ∨ (Reg.C_CE_ENC_PICTURES n ≤ a ∧ a < Reg.C_CE_ENC_PICTURES n + 48) ∨
      (Reg.C_CE_DEC_PICTURES n ≤ a ∧ a < Reg.C_CE_DEC_PICTURES n + 64) then 0 else s.cnt a) ∧
  Runs .fltCntClr s (fun t => t = { s with regs := t.regs } ∧ (∀ c < 16, t.rd (Reg.FLT_COUNT c) = 0 ∧ t.rd (Reg.FLT_RECOV c) = 0) ∧
    ∀ a, (∀ c < 16, a ≠ Reg.FLT_COUNT c ∧ a ≠ Reg.FLT_RECOV c) → t.rd a = s.rd a) ∧
  Runs (.histClr n) s (fun t => t = { s with tabs := t.tabs } ∧ (∀ i < 1152, t.tab 0x0811 n i = tabDefault (tkey 0x0811 n i)) ∧
    ∀ k, k < tkey 0x0811 n 0 ∨ tkey 0x0811 n 1152 ≤ k → SMap.get tabDefault t.tabs k = SMap.get tabDefault s.tabs k)

/-- Writes to class L registers from outside an image load are discarded (R14): a host write changes nothing at all, and a monitor
write leaves every register of class L as it was. -/
def Obligations.LoadOnlyWritesDiscarded : Prop := ∀ (s : State) (a v : Word) (r : RegDef), Safe s → a.toNat < 0x04000000 →
  Reg.at? a.toNat = some r → r.cls = .L →
  Runs (.registerWrite a.toNat 4 v) s (fun t => t = s) ∧ Runs (.monitorWrite a v) s (fun t => t.rd a.toNat = s.rd a.toNat)

/-- Class B writes (R12, R44, R48, R49): to the shadow bank by field access types, the active bank untouched; held while the window
is open or held writes wait; and the oldest held write enters the shadow bank from the boundary on. Choices of the model: logs 51,
52. -/
def Obligations.BoundaryWrites : Prop := ∀ (s : State) (a : Nat) (v : Word) (r : RegDef), Safe s → a < 0x800 ∨ 0x1000 ≤ a → a < 0x04000000 →
  Reg.at? a = some r → r.cls = .B → isMacCfg a = false ∨ (maxFrameBad v = false ∧ maxFrameBad (r.host (s.rdSh a) v) = false) →
  (s.deadAt a = false → parseCfgBad a v = false → s.fullExpanding = false → Runs (.registerWrite a 4 v) s (fun t =>
    (s.commit.window = false → s.commit.hold = [] → s.commit.readyFor = none →
      t = { s with shadow := t.shadow } ∧ ∀ b, t.rdSh b = if b = a then r.host (s.rdSh a) v else s.rdSh b) ∧
    (s.commit.window = true ∨ s.commit.hold ≠ [] →
      t = { s with commit := { s.commit with hold := s.commit.hold ++ [(a, v)] } }))) ∧
  Runs .heldWriteEnterShadow s (fun t => (s.commit.window = true ∨ s.commit.hold = [] → t = s) ∧
    (∀ hs, s.commit.window = false → s.commit.hold = (a, v) :: hs → s.commit.readyFor = none →
      t = { s with shadow := t.shadow, commit := { s.commit with hold := hs } } ∧
      ∀ b, t.rdSh b = if b = a then r.host (s.rdSh a) v else s.rdSh b))

/-- The operands of one-shot operations (R12) are written at once and whole. Viewing the shadow (R13, R45): VIEW_SHADOW, STACK and
MODE as written, and reads of the period rate, of class B, that return shadow or active values by it. -/
def Obligations.ShadowView : Prop :=
  (∀ (s : State) (v : Word), Safe s →
  ∀ a ∈ [Reg.GLB_COMMIT_TARGET, Reg.GLB_IMG_ADDR, Reg.GLB_IMG_LEN],
    Runs (.registerWrite a 4 v) s (fun t => t.rd a = v ∧ (∀ b, b ≠ a → t.rd b = s.rd b) ∧ t = { s with regs := t.regs })) ∧
  (∀ (s : State) (on stack mode : Bool), Safe s →
  Runs (.viewShadow on stack mode) s (fun t => OnlyRegs (fun a => a = Reg.GLB_COMMIT_CTRL) s t ∧
    t.bget Reg.GLB_COMMIT_CTRL 4 = on ∧ t.bget Reg.GLB_COMMIT_CTRL 3 = stack ∧ t.bget Reg.GLB_COMMIT_CTRL 2 = mode ∧
    t.bget Reg.GLB_COMMIT_CTRL 0 = s.bget Reg.GLB_COMMIT_CTRL 0) ∧
  ∀ a ∈ [Reg.GLB_RATE_N, Reg.GLB_RATE_D], Runs (.counterLowRead a 4) s (fun t =>
    t = { s with outs := s.outs ++ [.readData a (if s.bget Reg.GLB_COMMIT_CTRL 4 then s.rdSh a else s.rd a)] }))

/-- A 64-bit value in two registers (R10): a read of the low word, of a counter or of any other pair, returns it and latches the
high word, and a read of the high word returns what the last low read latched, until the next. -/
def Obligations.PairLatches : Prop := ∀ (s : State) (lo : Nat), Safe s → lo < 0x04000000 → s.deadAt lo = false →
  s.deadAt (lo + 4) = false → pairAt? lo = some (lo, false) → pairAt? (lo + 4) = some (lo, true) →
  (∀ p, Reg.counterAt? lo = some p → s.pairVal lo = (s.cnt lo).toNat) ∧
  Runs (.counterLowRead lo 4) s (fun t =>
    t.outs = s.outs ++ [.readData lo (wd (s.pairVal lo))] ∧ SMap.get (fun _ => 0) t.latch lo = wd (s.pairVal lo / 2 ^ 32) ∧
    (∀ a, a ≠ lo → SMap.get (fun _ => 0) t.latch a = SMap.get (fun _ => 0) s.latch a) ∧ t = { s with latch := t.latch, outs := t.outs }) ∧
  Runs (.counterLowRead (lo + 4) 4) s (fun t =>
    t = { s with outs := s.outs ++ [.readData (lo + 4) (SMap.get (fun _ => 0) s.latch lo)] })

/-- ARM and DISARM (R46, R52, R393, R405): the settings as written; the arm cancelled unless the stack master has announced it; the
arm of the next boundary, or of TARGET, or LATE where that boundary has opened, under Black or in a Furled entry. In a stack only
the master with STACK and MODE arms. A device alone sends nothing else. Choices of the model: logs 56, 57. -/
def Obligations.CommitArming : Prop := ∀ (s : State) (view stack mode disarm : Bool), Safe s →
  let ctrl := Reg.GLB_COMMIT_CTRL
  let many := decide (1 < s.stackSize)
  let target := if mode then (s.rd Reg.GLB_COMMIT_TARGET).toNat else s.nextCount
  let may := !many || (s.fuses.master && stack && mode)
  let late := (mode && s.targetPassed target) || s.inBlack || s.powered .entering
  let cancelled := if s.commit.decided then s.commit else { s.commit with arm := none, decided := false }
  let before := if disarm then cancelled else s.commit
  let written := fun (t : State) => t.bget ctrl 4 = view ∧ t.bget ctrl 3 = stack ∧ t.bget ctrl 2 = mode
  let alone := fun (t : State) => SameRegs (fun a => a = ctrl ∨ a = Reg.GLB_COMMIT_STATUS) s t ∧
    { t.beside with commit := {} } = { s.beside with commit := {} }
  Runs (.commitArm view stack mode disarm) s (fun t => written t ∧ (many = false → alone t) ∧
    (may = false → alone t ∧ t.commit = before) ∧
    (may = true → late = true → alone t ∧ t.commit = before ∧ t.bget Reg.GLB_COMMIT_STATUS 0 = true) ∧
    (may = true → late = false → t.commit = { s.commit with arm := some { target := target, stack := many, next := !mode }, decided := false } ∧
      t.bget ctrl 0 = true ∧ (many = true → ∀ i < 8, t.bget Reg.STK_STATUS (8 + i) = false))) ∧
  Runs (.commitDisarm view stack mode) s (fun t => written t ∧ alone t ∧ t.commit = cancelled ∧
    t.rd Reg.GLB_COMMIT_STATUS = s.rd Reg.GLB_COMMIT_STATUS ∧
    (s.commit.decided = false → t.bget ctrl 0 = (s.commit.window && s.commit.swap)))

/-- The window opens and the arm of its boundary is judged (R47, R48, R52, R431): a swap where the shadow is well formed, DEFERRED
by one boundary under a delta load or without the members' readiness, INVALID else. The stack master judges its own arm 4 µs before.
Choices of the model: log 57. -/
def Obligations.CommitJudged : Prop := ∀ (s : State) (a : Arm), Safe s →
  let due := s.commit.arm = some a ∧ (a.next = true ∨ a.target = s.nextCount)
  let decides := a.stack = true ∧ s.fuses.master = true ∧ s.commit.decided = false ∧ s.commit.window = false
  let ready := (upto s.stackSize).all (fun i => i == s.fuses.stackId || s.bget Reg.STK_STATUS (8 + i))
  let swaps := fun (t : State) => t.commit.swap = true ∧ t.commit.arm = none ∧ t.bget Reg.GLB_COMMIT_CTRL 0 = true
  let deferred := fun (t : State) => t.commit.swap = s.commit.swap ∧ t.commit.arm = some { a with target := (a.target + 1) % 2 ^ 32 } ∧
    t.bget Reg.GLB_COMMIT_STATUS 1 = true
  let invalid := fun (t : State) => t.commit.swap = s.commit.swap ∧ t.commit.arm = none ∧ t.bget Reg.GLB_COMMIT_STATUS 2 = true
  Runs .commitWindowOpen s (fun t => t.commit.window = true ∧ t.commit.hold = s.commit.hold ∧ t.shadow = s.shadow ∧
    (s.commit.window = true → t = s) ∧
    (s.commit.window = false → (s.commit.arm = none ∨ ∃ b, s.commit.arm = some b ∧ b.next = false ∧ b.target ≠ s.nextCount) →
      t = { s with commit := { s.commit with window := true }, island := t.island }) ∧
    (s.commit.window = false → due → s.commit.decided = true → swaps t) ∧
    (s.commit.window = false → due → s.commit.decided = false → s.deltaLoading = true ∨ a.stack = true → deferred t) ∧
    (s.commit.window = false → due → s.commit.decided = false → s.deltaLoading = false → a.stack = false →
      (s.shadowOk = true → swaps t) ∧ (s.shadowOk = false → invalid t))) ∧
  Runs .stackCommitDecide s (fun t => (s.commit.arm = none → t = s) ∧ (s.commit.arm = some a → ¬ (due ∧ decides) → t = s) ∧
    (due → decides → (s.deltaLoading = true → deferred t) ∧ (s.deltaLoading = false → s.shadowOk = false → invalid t) ∧
      (s.deltaLoading = false → s.shadowOk = true → ready = true → t = { s with commit := { s.commit with decided := true } }) ∧
      (s.deltaLoading = false → s.shadowOk = true → ready = false → deferred t)))

/-- A boundary without a swap, under a period source that is not BOUNDARY_IN (R48, R54, R56, R58): the count, the boundary's time,
the next boundary on the grid, the end of the window, and interrupt source 20; the shadow bank, every table but the wall stages'
status table, and the lanes stay. Choices of the model: logs 61, 79. -/
def Obligations.BoundaryReached : Prop := ∀ s : State, Safe s → s.periodSrc ≠ 1 → s.commit.swap = false → s.commit.readyFor = none →
  s.loader.job = none → s.island.entryOpen = false →
  let q := s.time.next.quarterNs
  Runs .boundary s (fun t => t.rd Reg.GLB_PERIOD_COUNT = wd s.comingCount ∧ t.rd Reg.GLB_BOUNDARY_TIME_LO = wd q ∧
    t.rd Reg.GLB_BOUNDARY_TIME_HI = wd (q / 2 ^ 32) ∧ t.commit = { s.commit with window := false } ∧ t.time.last = s.time.next ∧
    t.time.next = gridNext s.time.next s.rateN s.rateD ∧ t.pendOf 20 = true ∧ t.shadow = s.shadow ∧
    ((∀ p ∈ s.spars, p.1 < 256 ∧ ∀ f ∈ p.2.frameStats, f.1 < 2 ^ 20) →
      ∀ k, k / 2 ^ 28 ≠ 0x0C10 → SMap.get tabDefault t.tabs k = SMap.get tabDefault s.tabs k) ∧ t.shTabs = s.shTabs ∧ t.lanes = s.lanes ∧
    t.ports = s.ports ∧ t.engines = s.engines ∧ t.loader = s.loader)

/-- A boundary with a swap, on a device none of whose spars is in use (R44, R48, R54): every register of class B takes its shadow
value, the shadow stays, the active identifier takes the shadow's, and SWAPPED is set. Choices of the model: logs 62, 68. -/
def Obligations.BoundarySwaps : Prop := ∀ (s : State), Safe s → s.Unused → s.periodSrc ≠ 1 → s.commit.swap = true → s.commit.readyFor = none →
  s.loader.job = none → s.island.entryOpen = false →
  Runs .boundary s (fun t => (∀ a r, Reg.at? a = some r → r.cls = .B → t.rd a = s.rdSh a) ∧ t.shadow = s.shadow ∧
    t.rd Reg.GLB_IMG_ACTIVE_ID = s.rd Reg.GLB_IMG_SHADOW_ID ∧ t.commit = { s.commit with window := false, swap := false } ∧
    t.bget Reg.GLB_COMMIT_CTRL 0 = s.commit.arm.isSome ∧ t.bget Reg.GLB_COMMIT_STATUS 3 = true ∧
    t.rd Reg.GLB_PERIOD_COUNT = wd s.comingCount)

/-- Boundary marks (R53, R59, R428, R429): the stack master's mark with count, next instant, commit flag and CRC; at a member a good
mark, which places the boundary at its edge plus the delay and decides a swap by its flag; a bad one after the first, which is
missed, with holdover; and the missing edge. Choices of the model: logs 57, 58, 59. -/
def Obligations.BoundaryMarks : Prop := ∀ (s : State) (edge : Nat) (word : BitVec 128), Safe s →
  let member := !s.fuses.master && s.periodSrc == 1
  let good := decide (crc8 (word.toNat / 256) 120 0 = word.toNat % 256) && (s.time.firstMark || s.edgeFits edge)
  let per := Reg.GLB_PERIOD_STATUS
  Runs .boundaryMarkSend s (fun t => (s.fuses.master = false → t = s) ∧ (s.fuses.master = true → t = { s with outs := t.outs } ∧
    ∃ w, t.outs = s.outs ++ [.boundaryMark (s.time.next.quarterNs - 4 * s.fget Reg.STK_CFG 31 16) w] ∧ w / 2 ^ 96 = s.comingCount ∧
      w / 2 ^ 32 % 2 ^ 64 = (s.afterComing s.commit.decided).quarterNs % 2 ^ 64 ∧ bit w 31 = s.commit.decided ∧ w / 256 % 2 ^ 23 = 0 ∧
      crc8 (w / 256) 120 0 = w % 256)) ∧
  Runs (.boundaryMarkReceive edge word) s (fun t => (member = false → t = s) ∧
    (member = true → good = true → t.time.next = instantOf ((edge : Int) + sgn 32 (s.rd Reg.STK_BIN_DELAY).toNat) ∧
      t.time.markSeen = true ∧ t.time.markNext = some (bits word.toNat 95 32) ∧ t.time.firstMark = false ∧
      (s.time.firstMark = true → t.time.markCount = some (bits word.toNat 127 96)) ∧
      (s.time.firstMark = false → t.time.markCount = s.time.markCount) ∧ t.bget per 0 = true ∧ t.bget per 1 = false ∧
      t.bget Reg.STK_STATUS 0 = true ∧ t.stack.missedRun = 0 ∧ t.commit.swap = (s.commit.swap || bit word.toNat 31) ∧
      SameRegs (fun a => a = per ∨ a = Reg.STK_STATUS) s t) ∧
    (member = true → good = false → s.time.firstMark = true → t = s) ∧
    (member = true → good = false → s.time.firstMark = false → t.time.markNext = none ∧ t.bget per 0 = false ∧ t.bget per 1 = true ∧
      t.bget Reg.STK_STATUS 0 = false ∧ t.bget Reg.STK_EVENT 0 = true ∧ t.stack.missedRun = s.stack.missedRun + 1 ∧
      t.cnt Reg.C_STK_MARK_MISSED = addSat (s.cnt Reg.C_STK_MARK_MISSED) 1)) ∧
  Runs .boundaryInTimeout s (fun t => OnlyRegs (fun a => a = per) s t ∧ (member = false → t = s) ∧
    (member = true → t.bget per 0 = false ∧ t.bget per 1 = true ∧ t.bget per 2 = true ∧ (s.bget per 1 = false → t.bget per 4 = true)))

/-- IMG_GO, HOST_IMAGE_READ_DONE, FLASH_COPY_READ_DONE and IMAGE_EXPANSION_DONE each complete, with a next state, from every safe
state (imgGo, hostImageReadDone, flashCopyReadDone, imageExpansionDone). Image loads (R37, R38, R39, R41, R42): GO, busy or not; the
host image refused for a double-bit error or its header with nothing applied, or accepted into its expansion; and a copy of the
flashes refused, first and second, or accepted. The end of an expansion (R30, R40, R41, R42, R44, R48): nothing without one; a delta
waits for the end of a commit window, and else leaves the active bank and changes the shadow's identifier; a full image takes both
identifiers, its size, and the fence away. Choices of the model: logs 63, 64, 65, 68, 80. -/
def Obligations.ImageLoads : Prop :=
  (∀ (s : State) (delta : Bool) (x0 x1 : Flash) (j : Load), Safe s →
  let st := Reg.GLB_IMG_STATUS
  let h := s.memRead 257 ((s.rd Reg.GLB_IMG_ADDR).toNat * 32) 32 false
  let r := h.2.2.memRead 257 ((s.rd Reg.GLB_IMG_ADDR).toNat * 32 + 32) (imgLength h.1 - 32) false
  let code := if h.2.1 then 4 else if headCode h.1 ≠ 0 then headCode h.1 else if r.2.1 then 4
    else r.2.2.imageCode (h.1 ++ r.1) ((s.rd Reg.GLB_IMG_LEN).toNat != imgLength h.1) (j.delta != imgDelta (h.1 ++ r.1))
  let head := flashBytes x0 x1 s.loader.fallback 32
  let img := if headCode head = 0 then flashBytes x0 x1 s.loader.fallback (imgLength head) else head
  let fcode := s.imageCode img false (imgDelta img)
  Runs (.imgGo delta) s (fun t => t.bget Reg.GLB_IMG_CTRL 1 = delta ∧ t.bget st 4 = true ∧
    (s.bget st 4 = true → t.fget st 3 0 = 11 ∧ OnlyRegs (fun a => a = st ∨ a = Reg.GLB_IMG_CTRL) s t) ∧
    (s.bget st 4 = false → delta = true → t.loader = { s.loader with
        job := some { delta := true }, reading := s.commit.readyFor.isNone, hostDone := false } ∧
      SameRegs (fun a => a = st ∨ a = Reg.GLB_IMG_CTRL) s t ∧ { t.beside with loader := {} } = { s.beside with loader := {} }) ∧
    (s.bget st 4 = false → delta = false → t.loader = { s.loader with
        job := some { delta := false }, reading := true, hostDone := false, fence := true } ∧
      ∀ p < 1024, s.named p = true → t.portFenced p = true)) ∧
  Runs .hostImageReadDone s (fun t => (s.loader.job = none → t = s) ∧
    (s.loader.job = some j → j.flash = true ∨ s.loader.reading = false → t = s) ∧
    (s.loader.job = some j → j.flash = false → s.loader.reading = true →
      (code ≠ 0 → t.fget st 3 0 = code ∧ t.bget st 4 = false ∧ t.shadow = s.shadow ∧ t.shTabs = s.shTabs ∧ t.tabs = s.tabs ∧
        t.loader = { s.loader with job := none, reading := false, hostDone := true, fence := false }) ∧
      (code = 0 → t.loader = { s.loader with reading := false, job := some { j with image := h.1 ++ r.1, expanding := true } }))) ∧
  Runs (.flashCopyReadDone x0 x1) s (fun t => (s.loader.job = none → t = s) ∧
    (s.loader.job = some j → j.flash = false ∨ s.loader.reading = false → t = s) ∧
    (s.loader.job = some j → j.flash = true → s.loader.reading = true →
      (fcode = 0 → t.loader = { s.loader with reading := false, job := some { j with image := img, expanding := true } }) ∧
      (fcode ≠ 0 → s.loader.fallback = false → t.loader = { s.loader with fallback := true, firstCode := fcode } ∧ t.fget st 3 0 = fcode ∧
        OnlyRegs (fun a => a = st) { s with loader := t.loader } t) ∧
      (fcode ≠ 0 → s.loader.fallback = true → t.loader = { s.loader with job := none, reading := false, fallback := false } ∧
        t.fget st 3 0 = fcode ∧ t.bget st 4 = false ∧ t.bget st 7 = true ∧ t.outs = s.outs ++
          ([chars ['n', 'o', 'i', 'm', 'g'], hexOf 1 s.loader.firstCode, hexOf 1 fcode].flatten.map Output.uart))))) ∧
  (∀ (s : State) (j : Load), Safe s →
  let st := Reg.GLB_IMG_STATUS
  let id := wd (imgId j.image)
  Runs .imageExpansionDone s (fun t => (s.loader.job = none → t = s) ∧ (s.loader.job = some j → j.expanding = false → t = s) ∧
    (s.loader.job = some j → j.expanding = true → j.delta = true → s.commit.window = true →
      t = { s with loader := { s.loader with job := some { j with late := true } } }) ∧
    (s.loader.job = some j → j.expanding = true → j.delta = true → s.commit.window = false →
      t.rd Reg.GLB_IMG_SHADOW_ID = id ∧ t.rd Reg.GLB_IMG_ACTIVE_ID = s.rd Reg.GLB_IMG_ACTIVE_ID ∧ t.fget st 3 0 = 0 ∧ t.bget st 4 = false ∧
        t.loader = { s.loader with job := none, reading := false, hostDone := true }) ∧
    (s.loader.job = some j → j.expanding = true → j.delta = false →
      t.rd Reg.GLB_IMG_ACTIVE_ID = id ∧ t.rd Reg.GLB_IMG_SHADOW_ID = id ∧ t.fget Reg.STK_STATUS 27 24 = imgSize j.image % 16 ∧
        t.bget Reg.FLT_STATUS 3 = decide (2 < imgSize j.image) ∧ t.fget st 3 0 = 0 ∧ t.bget st 4 = false ∧ t.bget st 7 = false ∧
        t.bget st 6 = (j.flash && s.loader.fallback) ∧ t.commit = { s.commit with hold := [] } ∧
        t.loader = { s.loader with job := none, reading := false, fence := false, fallback := false, hostDone := !j.flash })))

/-- Parsing (R116, R117, R128, R132, R138, R139): the oldest frame of the MAC block whose turn it is leaves the receive queue; a
reload, an injection or an error in an entry drops it; a parse that fails under the drop policy is counted; and one that hits a rule
with a direct destination, no policer and no copy goes on with the rule's result, unless Black keeps it out. The end of a reload
takes frames again. Reports are taken as making no reaction. Choices of the model: logs 37, 38, 39, 95. -/
def Obligations.FrameParsing : Prop := ∀ (s : State) (n : Fin 128) (found : Option (ParseWord × Ecc)) (w : ParseWord) (f : Frame)
    (rest : List Frame) (i : Nat) (r' : Result), Safe s → s.Mild (64 + 3 * n) →
  let x := s.spar n
  let cfg := Reg.PRS_PORT_CFG n (f.port % 8)
  let armed := s.armed (64 + 3 * n)
  let d0 : Dev := s.updSpar n (fun y => { y with rx := rest, rxTurn := (f.port + 1) % 8 })
  let walk := d0.parseFrom n (s.fget cfg 4 0) (s.fget cfg 14 6) f.bytes 16 0 (s.fget cfg 31 24) 0 {}
  let act := wide (s.tab 0x0511 n i)
  let r : Result := { dest := bits act 63 44, cls := actionClass d0 n f.port f.bytes act, owner := f.port, marks := walk.1.marks
                      edit := bits act 7 0, stamp := f.stamp, rule := i, prune := bit act 8, inPort := f.port }
  let dropped := fun (t : State) => t.cnt (Reg.C_PRS_MEM_ERR_DROP f.port) = addSat (s.cnt (Reg.C_PRS_MEM_ERR_DROP f.port)) 1 ∧
    t.bget (Reg.PRS_EVENT n) 4 = true ∧ (t.spar n).parsed = x.parsed
  Runs (.frameParse n found) s (fun t => (rxNext x = none → t = s) ∧
    SameRegs (fun a => a = Reg.PRS_EVENT n ∨ faultReg a) s t ∧ (∀ k, k ≠ (n : Nat) → t.spar k = s.spar k) ∧
    { t.beside with cnts := [], spars := [], fault := {} } = { s.beside with cnts := [], spars := [], fault := {} } ∧
    (rxNext x = some (f, rest) → (t.spar n).rx = rest ∧ (t.spar n).rxTurn = (f.port + 1) % 8 ∧
      (x.reloading = true → dropped t) ∧
      (x.reloading = false → armed = true → dropped t ∧ t.bget Reg.FLT_INJ 31 = false) ∧
      (x.reloading = false → armed = false → found = some (w, .double) → dropped t) ∧
      (x.reloading = false → armed = false → found = none → (∀ q ∈ s.spars, q.2.badEntries = []) →
        (∀ k, walk.2 = .fail k → s.fget cfg 17 16 = 0 → (t.spar n).parsed = x.parsed ∧ t.bget (Reg.PRS_EVENT n) 1 = true ∧
          t.cnt (Reg.C_PRS_PARSE_FAIL f.port) = addSat (s.cnt (Reg.C_PRS_PARSE_FAIL f.port)) 1) ∧
        (walk.2 = .done → d0.ruleHit n (parseKey f.port walk.1 false false) = some i → bits act 43 42 = 1 ∨ bits act 43 42 = 3 →
          bit act 10 = false → f.port < 1217 → bits act 34 23 = 0 → bit act 9 = false → r.cls ≠ 8 →
          (s.inBlack = true → (t.spar n).parsed = x.parsed ∧
            t.cnt (Reg.C_MAC_RX_FENCE_DROP f.port) = addSat (s.cnt (Reg.C_MAC_RX_FENCE_DROP f.port)) 1) ∧
          (s.inBlack = false → d0.resolve n f.port r = .go r' →
            (t.spar n).parsed = x.parsed ++ [{ f with res := { r' with colour := min 2 (bits act 36 35) } }]))))) ∧
  Runs (.parseReloadDone n) s (fun t => (t.spar n).reloading = false ∧ t.bget (Reg.PRS_STATUS n) 0 = false ∧
    (∀ a, a ≠ Reg.PRS_STATUS n → t.rd a = s.rd a) ∧ (∀ k, k ≠ (n : Nat) → t.spar k = s.spar k) ∧
    t = { s with regs := t.regs, spars := t.spars })

/-- A parse scrubber's read (R138, R139, R399), its report taken as making no reaction: nothing for a good word; an error is
reported in its class, a double-bit error keeps its entry in error, and an armed injection is taken. The slice scrubber (R172,
R399): nothing for a good word; a single-bit error is corrected and counted; a double-bit error in a cell in use marks it DISCARD
and counts it. An armed injection is taken. Reports are taken as making no reaction. Choices of the model: logs 39, 114. -/
def Obligations.Scrubbers : Prop :=
  (∀ (s : State) (n : Fin 128) (w : ParseWord) (e : Ecc) (c : Nat), Safe s → s.Mild (64 + 3 * n) →
  fltClass? (64 + 3 * n) = some c →
  let armed := s.armed (64 + 3 * n)
  Runs (.parseScrubRead n w e) s (fun t => SameRegs faultReg s t ∧ (∀ k, k ≠ (n : Nat) → t.spar k = s.spar k) ∧
    { t.beside with spars := [], fault := {} } = { s.beside with spars := [], fault := {} } ∧
    (armed = false → e = .good → t = s) ∧ (armed = true → t.bget Reg.FLT_INJ 31 = false) ∧
    (armed = true ∨ e ≠ .good → (t.rd (Reg.FLT_COUNT c)).toNat = min (2 ^ 32 - 1) ((s.rd (Reg.FLT_COUNT c)).toNat + 1)) ∧
    (armed = false → e = .double → ∀ k, entryKey? n w = some k → (k, false) ∈ (t.spar n).badEntries))) ∧
  (∀ (s : State) (m : Fin 128) (w : ScrubWord) (e : Ecc) (j : Fin 8192) (c : Cell), Safe s →
  let src : Nat := match w with | .data _ => 26 | _ => 65 + 3 * m
  s.Mild src → Runs (.sliceScrubRead m w e) s (fun t => SameRegs faultReg s t ∧ (∀ k, k ≠ (m : Nat) → t.sliceOf k = s.sliceOf k) ∧
    { t.beside with cnts := [], slices := [], fault := {} } = { s.beside with cnts := [], slices := [], fault := {} } ∧
    (s.armed src = false → e = .good → t = s) ∧ (s.armed src = true → t.bget Reg.FLT_INJ 31 = false) ∧
    (s.armed src = false → e = .single → t.slices = s.slices ∧
      t.cnt (Reg.C_BUF_ECC_CORR m) = addSat (s.cnt (Reg.C_BUF_ECC_CORR m)) 1) ∧
    (s.armed src = false → e = .double → w = .data j → SMap.get? (s.sliceOf m).cells j = some c →
      SMap.get? (t.sliceOf m).cells j = some { c with discard := true } ∧
      t.cnt (Reg.C_BUF_ECC_UNCORR_DROP m) = addSat (s.cnt (Reg.C_BUF_ECC_UNCORR_DROP m)) 1)))

/-- Admission (R103, R155, R179, R208): the oldest parsed frame is taken: dropped under Black, without room in the ingress FIFO
beside what is reserved there, or by a limit; else its first cell enters the FIFO, and all of its cells where it comes from no port,
as a frame of class 8 always does where there is room. What is still to come of the port's frame before it enters first. Choices of
the model: logs 98, 99. -/
def Obligations.FrameAdmission : Prop := ∀ (s : State) (n : Fin 128) (f : Frame) (rest : List Frame), Safe s →
  let x := s.spar n
  let d0 : Dev := s.updSpar n (fun y => { y with parsed := rest })
  let black := decide (f.port < 1024) && s.inBlack && f.res.cls != 8
  let need := ceilDiv (if f.port < 1024 then s.maxFrame f.port else f.bytes.length) 256
  let fifo := x.inFifo ++ (x.entering.filter (fun e => e.port == f.port)).flatMap (·.rest)
  let others := x.entering.filter (fun e => e.port != f.port)
  let room := decide (fifo.length + (others.map (fun e => e.need - e.inn)).sum + need ≤ 512)
  let cs := cellsOf n f.res f.bytes f.bad
  let part := decide (f.port < 1024) && decide (1 < cs.length)
  Runs (.firstCellOffer n) s (fun t => (x.parsed = [] → t = s) ∧
    SameRegs (fun a => a = Reg.CORE_EVENT n ∨ a = Reg.EQ_EVENT n) s t ∧ (∀ k, k ≠ (n : Nat) → t.spar k = s.spar k) ∧
    { t.beside with cnts := [], spars := [], ports := [] } = { s.beside with cnts := [], spars := [], ports := [] } ∧
    (x.parsed = f :: rest → (t.spar n).parsed = rest ∧
      (black = true → (t.spar n).inFifo = x.inFifo ∧ (t.spar n).entering = x.entering ∧
        t.cnt (Reg.C_MAC_RX_FENCE_DROP f.port) = addSat (s.cnt (Reg.C_MAC_RX_FENCE_DROP f.port)) 1) ∧
      (black = false → room = false → (t.spar n).inFifo = fifo ∧ (t.spar n).entering = others ∧ t.bget (Reg.CORE_EVENT n) 3 = true ∧
        t.cnt (Reg.C_CORE_IN_DROP n) = addSat (s.cnt (Reg.C_CORE_IN_DROP n)) 1) ∧
      (black = false → room = true → f.res.cls ≠ 8 → s.tf 0x0601 0 f.res.owner 0 20 0 ≤ s.ownerCount f.res.owner →
        (t.spar n).inFifo = fifo ∧ (t.spar n).entering = others ∧
        t.cnt (Reg.C_BUF_OWNER_DROP n) = addSat (s.cnt (Reg.C_BUF_OWNER_DROP n)) 1) ∧
      (black = false → room = true → f.res.cls = 8 ∨ (d0.refusal n f.res).isNone = true →
        (part = true → (t.spar n).inFifo = fifo ++ cs.take 1 ∧
          (t.spar n).entering = others ++ [{ port := f.port, need := need, inn := 1, rest := cs.drop 1 }]) ∧
        (part = false → (t.spar n).inFifo = fifo ++ cs ∧ (t.spar n).entering = others))))

/-- A slot of the core (R60, R176, R178, R192): one CCLK on the time base with its corrections, the period round at its end, and a
tabled cell that stands latched, here the only cell in the core, crosses stage one to the intermediate of the slot. Choices of the
model: logs 12, 96, 110. -/
def Obligations.CoreSlots : Prop := ∀ (s : State) (i : Fin 128) (c : TabCell), Safe s →
  let k : Int := if s.time.stretch then 10 else 8
  let sl : Int := max (-(k * 65536)) (min (k * 65536) s.time.slew)
  Runs .coreSlot s (fun t => t.time.cclk = s.time.cclk + 1 ∧ t.time.slew = s.time.slew - sl ∧
    t.time.ticks = s.time.ticks + k * (65536 * 1000000 + sgn 32 (s.rd Reg.PTP_FREQ).toNat) + sl ∧
    t.time.last = s.time.last ∧ t.time.next = s.time.next ∧
    ((s.time.cclk + 1) % 128 ≠ 0 → t.time.pround = s.time.pround ∧ t.time.freshRound = s.time.freshRound) ∧
    ((s.time.cclk + 1) % 128 = 0 → t.time.freshRound = false ∧
      t.time.pround = if s.time.freshRound then 0 else (s.time.pround + 1) % 2 ^ 20) ∧
    (s.spars = [((i : Nat), { latched := some c })] → s.slices = [] → s.isHalyard i = false →
      (t.sliceOf ((i : Nat) ^^^ s.time.cclk % 128)).bypassNext = some c ∧ (t.spar i).latched = none ∧
      t.cnt (Reg.C_CORE_TAB_CELLS i) = addSat (s.cnt (Reg.C_CORE_TAB_CELLS i)) 1))

/-- Losses and returns in the core (R150, R151, R169, R187): the reorder timeout passes the lost cells of a stream, its report taken
as making no reaction; the flush walker frees one unlinked cell to the stack that its MGMT bit names; a credit goes back to its
producer, or is one too many. Choices of the model: logs 97, 98. -/
def Obligations.CoreReturns : Prop := ∀ (s : State) (o i m : Fin 128) (q : Nat) (f : CreditFifo) (c : Cell) (k : Nat) (r : List Nat), Safe s →
  let full := match f with
    | .inlet => decide (1024 ≤ (s.spar m).inletCr)
    | .outlet => decide (1024 ≤ (s.spar m).outletCr)
    | .wall => decide (2048 ≤ (s.spar m).wallCr)
  Runs (.reorderTimeout o i q) s (fun t => (s.lowestHeld o i q = none → t = s) ∧
    (s.lowestHeld o i q = some c → s.seqDist c = 0 ∨ outSpar q ≠ o → t = s) ∧
    (s.lowestHeld o i q = some c → s.seqDist c ≠ 0 → outSpar q = o → s.Mild 28 → t.seqExp i q = c.seq % 1024 ∧
      t.bget (Reg.CORE_EVENT o) 4 = true ∧ t.cnt (Reg.C_CORE_SEQ_SKIP o) = addSat (s.cnt (Reg.C_CORE_SEQ_SKIP o)) 1 ∧
      t.slices = s.slices ∧ SameMem s t)) ∧
  Runs (.flushWalkerFree m) s (fun t => ((s.sliceOf m).unlinked = [] → t = s) ∧
    ((s.sliceOf m).unlinked = k :: r → s.armed (65 + 3 * m) = false → SMap.get? (s.sliceOf m).cells k = some c → c.ref = 1 →
      (t.sliceOf m).unlinked = r ∧ SMap.get? (t.sliceOf m).cells k = none ∧ (t.sliceOf m).freed = [] ∧
      (c.mgmt = true → k ∈ (t.sliceOf m).mgmtFree) ∧ (c.mgmt = false → k ∈ (t.sliceOf m).genFree) ∧
      ((s.sliceOf m).freed = [] →
        (c.mgmt = true → (t.sliceOf m).mgmtFree = k :: (s.sliceOf m).mgmtFree ∧ (t.sliceOf m).genFree = (s.sliceOf m).genFree) ∧
        (c.mgmt = false → (t.sliceOf m).genFree = k :: (s.sliceOf m).genFree ∧ (t.sliceOf m).mgmtFree = (s.sliceOf m).mgmtFree)) ∧
      t.cnt (Reg.C_BUF_FLUSH_FREED m) = addSat (s.cnt (Reg.C_BUF_FLUSH_FREED m)) 1)) ∧
  Runs (.creditReturn m f) s (fun t => (full = true → t.bget (Reg.BUF_EVENT m) 7 = true) ∧
    (full = false → t = { s with spars := t.spars } ∧ (∀ j, j ≠ (m : Nat) → t.spar j = s.spar j) ∧ t.spar m = match f with
      | .inlet => { s.spar m with inletCr := (s.spar m).inletCr + 1 }
      | .outlet => { s.spar m with outletCr := (s.spar m).outletCr + 1 }
      | .wall => { s.spar m with wallCr := (s.spar m).wallCr + 1 }))

/-- Pools, peaks and the audit's question (R163, R165, R166, R167, R174): a buffer taken is the handle at the top of the stack of
the pool asked for, or of the first larger one that has any, and is in use; a free of a buffer in use pushes its handle, any other
is counted; the peak reads and clears (R6); a question is asked anew; a pass of the audit publishes what each owner holds and
answers the question of the pass before it (R160). Choices of the model: logs 97, 101. -/
def Obligations.BufferCommands : Prop := ∀ (s : State) (k : Fin 4) (h : Word) (n : Fin 128) (owner : BitVec 12), Safe s →
  let get := Reg.BUF_POOL_GET k
  let ctl := Reg.BUF_AUDIT_CTRL
  Runs (.poolGet k) s (fun t => (s.poolMode = false → t = { s with outs := s.outs ++ [.readData get 0] }) ∧
    (s.poolMode = true → s.poolTake k = none → (∃ more, t.outs = s.outs ++ more ++ [.readData get 0xFFFFFFFF]) ∧
      t.bget (Reg.BUF_EVENT 0) 5 = true ∧ OnlyRegs (fun a => a = Reg.BUF_EVENT 0) s t) ∧
    (s.poolMode = true → ∀ j < 4, (k : Nat) ≤ j → s.poolDepth j ≠ 0 → (∀ i, (k : Nat) ≤ i → i < j → s.poolDepth i = 0) →
      let b := s.fmWord (s.poolStack j + 4 * (s.poolDepth j - 1))
      t.host.inUse = s.host.inUse ++ [b.toNat] ∧ t.poolDepth j = s.poolDepth j - 1 ∧ (∀ i, i ≠ j → t.poolDepth i = s.poolDepth i) ∧
      t = { s with host := t.host, outs := s.outs ++ [.readData get b] })) ∧
  Runs (.poolFree h) s (fun t => (s.poolMode = false → t = s) ∧
    (s.poolMode = true → h.toNat ∈ s.host.inUse → let top := s.poolStack (h.toNat / 2 ^ 30) + 4 * s.poolDepth (h.toNat / 2 ^ 30)
      t = { s with host := t.host, fmem := t.fmem } ∧ t.host.inUse = s.host.inUse.erase h.toNat ∧ t.fmWord top = h ∧
      (∀ a, a < top ∨ top + 4 ≤ a → t.fmByte a = s.fmByte a) ∧
      t.poolDepth (h.toNat / 2 ^ 30) = s.poolDepth (h.toNat / 2 ^ 30) + 1) ∧
    (s.poolMode = true → h.toNat ∉ s.host.inUse → t.cnt Reg.C_BUF_POOL_BAD_FREE = addSat (s.cnt Reg.C_BUF_POOL_BAD_FREE) 1 ∧
      t.bget (Reg.BUF_EVENT 0) 6 = true ∧ t.host.inUse = s.host.inUse ∧ SameRegs (fun a => a = Reg.BUF_EVENT 0) s t)) ∧
  Runs (.occPeakRead n) s (fun t => t.outs = s.outs ++ [.readData (Reg.BUF_OCC_PEAK n) (s.rd (Reg.BUF_OCC_PEAK n))] ∧
    t.rd (Reg.BUF_OCC_PEAK n) = 0 ∧ (∀ a, a ≠ Reg.BUF_OCC_PEAK n → t.rd a = s.rd a) ∧
    t = { s with regs := t.regs, outs := t.outs }) ∧
  Runs (.auditQuery owner) s (fun t => t.fget ctl 11 0 = owner.toNat ∧ t.bget ctl 30 = true ∧ t.bget ctl 29 = false ∧ t.audit = 2 ∧
    t.auditOf = owner.toNat ∧ (∀ a, a ≠ ctl → t.rd a = s.rd a) ∧ t = { s with regs := t.regs, audit := t.audit, auditOf := t.auditOf }) ∧
  ((∀ p ∈ s.host.fns, p.2.resetting = false) → (∀ p ∈ s.slices, p.2.genAvail + p.2.mgmtAvail + p.2.cells.length = 8192) →
    (∀ p ∈ s.slices, ∀ x ∈ p.2.cells, x.2.owner < 4096) → Runs .auditPassEnd s (fun t =>
      t.rd Reg.BUF_AUDIT_PASS = s.rd Reg.BUF_AUDIT_PASS + 1 ∧
      (∀ o < 4096, fld ((t.tab 0x0602 0 o).getD 0 0) 30 0 = s.ownerCount o % 2 ^ 31) ∧ (s.audit = 2 → t.audit = 1 ∧ t.rd ctl = s.rd ctl) ∧
      (s.audit = 1 → t.audit = 0 ∧ t.bget ctl 30 = false ∧ t.bget ctl 29 = decide (s.ownerCount s.auditOf = 0) ∧
        t.bget (Reg.BUF_EVENT 0) 4 = true)))

/-- A port's transmitter (R24, R109, R201, R202, R211): nothing while the link is down or a frame is being cut through; a PFC frame
that waits comes first; then a complete tabled frame, sent unedited; then management, strict classes and the rotation, whose whole
head frame leaves its staging FIFO and, with an empty edit profile, no event message, inside MAX_FRAME and with postcards off, is
sent as it is with a fresh FCS. Choices of the model: logs 101, 102, 104. -/
def Obligations.PortTransmit : Prop := ∀ (s : State) (p : Fin 1024) (f rest : List TabCell) (g more : List Cell) (c : Nat), Safe s →
  let n : Nat := p / 8
  let held := s.portFenced p && !(s.inBlack && !s.bget (Reg.MAC_CMD p) 0)
  let tabled := if held then none else tabFrame p (s.spar n).tabLane
  let free := s.linkUp p = true ∧ (s.port p).cut = none ∧ (s.port p).pfcDue = []
  let pick := if s.headReady (portQ p 8) then some 8
    else match [7, 6, 5, 4, 3, 2, 1, 0].find? (fun k => s.strict p k && s.eligible p k) with
      | some k => some k
      | none => if (upto 8).any (fun k => !s.strict p k && s.eligible p k) then (s.roundRobin p 4400 (s.port p)).1 else none
  let r := (g.head?.map (·.res)).getD {}
  let raw := g.flatMap (·.data)
  let body := raw.take (raw.length - 4)
  Runs (.portSelect p) s (fun t => (s.linkUp p = false ∨ (s.port p).cut.isSome = true → t = s) ∧
    (s.linkUp p = true → (s.port p).cut = none → ∀ k timer more, (s.port p).pfcDue = (k, timer) :: more →
      t = { s with outs := s.outs ++ [.pfc p (pfcBytes k timer)], cnts := t.cnts, ports := t.ports } ∧ (t.port p).pfcDue = more ∧
      t.cnt (Reg.C_MAC_TX_PFC p) = addSat (s.cnt (Reg.C_MAC_TX_PFC p)) 1) ∧
    (free → tabled = some (f, rest) →
      t = { s with outs := s.outs ++ [.frame p (f.flatMap (·.data))], cnts := t.cnts, spars := t.spars } ∧ (t.spar n).tabLane = rest ∧
      t.cnt (Reg.C_MAC_TX_FRAMES p) = addSat (s.cnt (Reg.C_MAC_TX_FRAMES p)) 1 ∧
      t.cnt (Reg.C_MAC_TX_BYTES p) = addSat (s.cnt (Reg.C_MAC_TX_BYTES p)) (f.flatMap (·.data)).length ∧
      t.cnt (Reg.C_EQ_TAB_TX n) = addSat (s.cnt (Reg.C_EQ_TAB_TX n)) 1) ∧
    (free → tabled = none → pick = none → t = { s with ports := t.ports }) ∧
    (free → tabled = none → pick = some c → c < 9 → s.headFrame (portQ p c) = (g, more) → wholeFrame g = true →
      (∀ w ∈ s.tab 0x0803 n r.edit, w = 0) → r.marks.getD 8 255 = 255 → r.inPort < 1024 → body.length + 4 ≤ s.maxFrame p →
      s.bget (Reg.TEL_PC_CFG n) 0 = false → t.outs = s.outs ++ [.frame p (body ++ fcsBytes body)] ∧
        SMap.get (fun _ => []) (t.spar n).staging (portQ p c) = more ∧
        t.cnt (Reg.C_MAC_TX_FRAMES p) = addSat (s.cnt (Reg.C_MAC_TX_FRAMES p)) 1 ∧ t.regs = s.regs ∧ t.slices = s.slices))

/-- Queue telemetry and the engine inlet queue (R168, R169, R207, R214): a sample of a spar's queues takes each queue's depth and
keeps its peak; the next cell of a whole frame crosses to the inlet, each word on one credit, and the words for which no credit is
left are held and cross first later. Choices of the model: log 100. -/
def Obligations.EgressService : Prop := ∀ (s : State) (n : Fin 128) (c : Cell) (cs rest : List Cell), Safe s →
  let q := engineQ n
  let x := s.spar n
  let go := fun (ws : List FWord) => min (min x.inletCr (1024 - x.inlet.length)) ws.length
  let crossed := fun (ws : List FWord) (t : State) => (∀ k, k ≠ (n : Nat) → t.spar k = s.spar k) ∧
    (t.spar n).inlet = x.inlet ++ ws.take (go ws) ∧ (t.spar n).inletHold = ws.drop (go ws) ∧ (t.spar n).inletCr = x.inletCr - go ws
  let ws := fifoWords c.last c.data
  Runs (.telemetrySample n) s (fun t => t = { s with tabs := t.tabs } ∧ (s.fget (Reg.TEL_SAMPLE n) 15 0 = 0 → t = s) ∧
    (s.fget (Reg.TEL_SAMPLE n) 15 0 ≠ 0 → ∀ i < 72, let depth := s.depthOf (portQ (8 * n + i / 9) (i % 9))
      (t.tab 0x0810 n i).getD 0 0 = wd depth ∧ (t.tab 0x0810 n i).getD 1 0 = wd (max depth (wAt (s.tab 0x0810 n i) 1)))) ∧
  Runs (.engineInletServe n) s (fun t =>
    (x.inletHold ≠ [] → t = { s with spars := t.spars } ∧ crossed x.inletHold t ∧ (t.spar n).staging = x.staging) ∧
    (x.inletHold = [] → (s.headFrame q).1 = [] → t = s) ∧
    (x.inletHold = [] → s.headFrame q = (c :: cs, rest) → wholeFrame (c :: cs) = false → t = s) ∧
    (x.inletHold = [] → s.headFrame q = (c :: cs, rest) → wholeFrame (c :: cs) = true → crossed ws t ∧
      t = { s with spars := t.spars, gated := s.gated.filter (fun b => b != .engine n) } ∧
      SMap.get (fun _ => []) (t.spar n).staging q = cs ++ rest))

/-- The ALU (R227, R231, R236): every operation of R231 as a function of the two operands, over the word or two lanes, its result in
the destination and, with F, in the flags; one ECLK, or the further ECLK of MULH, DIV and REM. After the commit point only a tail of
16 microwords on r1 to r47 runs. Choices of the model: logs 29, 103. -/
def Obligations.EngineAlu : Prop := ∀ (s : State) (e : Fin 128) (a : Alu), Safe s →
  let x := s.engine e
  let inTail := fun (f : Alu) => (Alu.regs f).all (fun r => decide (1 ≤ r) && decide (r ≤ 47)) && decide (x.tail < 16)
  ∀ p ∈ [(Instr.uAdd e a, a, aluAdd, true, false, 0), (.uSub e a, a, aluSub, true, false, 0), (.uAnd e a, a, aluAnd, true, false, 0),
      (.uOr e a, a, aluOr, true, false, 0), (.uXor e a, a, aluXor, true, false, 0), (.uShl e a, a, aluShl, true, false, 0),
      (.uShr e a, a, aluShr, true, false, 0), (.uSar e a, a, aluSar, true, false, 0), (.uNeg e a, Alu.unary a, aluNeg, true, false, 0),
      (.uMul e a, a, aluMul, true, false, 0), (.uMulh e a, a, aluMulh, false, false, 1), (.uDiv e a, a, aluDiv, false, true, 17),
      (.uRem e a, a, aluRem, false, true, 17), (.uMin e a, a, aluMin, true, false, 0), (.uMax e a, a, aluMax, true, false, 0),
      (.uAbs e a, Alu.unary a, aluAbs, true, false, 0)],
    let o := aluRun p.2.2.1 (Alu.paired a) (x.operandA a) (x.operandB a)
    let y := x.setReg (Alu.dest a) (wd o.val)
    Runs p.1 s (fun t => (s.uLive e = false → t = s) ∧
      (s.fetches e = true → x.committed = true → inTail p.2.1 = false → Excepted e 8 0 s t) ∧
      (s.fetches e = true → x.committed = false ∨ inTail p.2.1 = true → Alu.paired a = true → p.2.2.2.1 = false → Excepted e 1 0 s t) ∧
      (s.fetches e = true → x.committed = false ∨ inTail p.2.1 = true → Alu.paired a = false ∨ p.2.2.2.1 = true →
        EngineFrame e (1 + p.2.2.2.2.2) s t ∧ t.engine e = { (if Alu.flags a then y.setFlags o p.2.2.2.2.1 else y) with
          mpc := (x.mpc + 1) % 8192, tail := if x.committed then x.tail + 1 else x.tail }))

/-- The results of R231 and R232: before the commit point an operation writes its result and, with F = 1 alone, Z, N, C and V, DIV
and REM also DZ; MULH, DIV and REM with P = 1 raise ILLEGAL; the two lanes are independent, with V and C joined and Z and N of the
whole; and at each width every result, C, V and DZ is that of two's complement, the edges among them. r0 reads zero and discards
writes (R229); another register reads what was last written. -/
def Obligations.AluResults : Prop :=
  (∀ (s : State) (e : Fin 128) (a : Alu), Safe s → s.fetches e = true → (s.engine e).committed = false →
    let x := s.engine e
    ∀ p ∈ [(Instr.uAdd e a, aluAdd, true, false, 0), (.uSub e a, aluSub, true, false, 0), (.uAnd e a, aluAnd, true, false, 0),
        (.uOr e a, aluOr, true, false, 0), (.uXor e a, aluXor, true, false, 0), (.uShl e a, aluShl, true, false, 0),
        (.uShr e a, aluShr, true, false, 0), (.uSar e a, aluSar, true, false, 0), (.uNeg e a, aluNeg, true, false, 0),
        (.uMul e a, aluMul, true, false, 0), (.uMulh e a, aluMulh, false, false, 1), (.uDiv e a, aluDiv, false, true, 17),
        (.uRem e a, aluRem, false, true, 17), (.uMin e a, aluMin, true, false, 0), (.uMax e a, aluMax, true, false, 0),
        (.uAbs e a, aluAbs, true, false, 0)],
      let o := aluRun p.2.1 (Alu.paired a) (x.operandA a) (x.operandB a)
      let y := x.setReg (Alu.dest a) (wd o.val)
      Runs p.1 s (fun t => (Alu.paired a = true → p.2.2.1 = false → Excepted e 1 0 s t) ∧ (Alu.paired a = false ∨ p.2.2.1 = true →
        t.engine e = { (if Alu.flags a then y.setFlags o p.2.2.2.1 else y) with mpc := (x.mpc + 1) % 8192 }))) ∧
  (∀ (f : Nat → Nat → Nat → AluOut) (a b : Word), aluRun f false a b = f 32 a.toNat b.toNat ∧
    let lo := f 16 (a.toNat % 65536) (b.toNat % 65536)
    let hi := f 16 (a.toNat / 65536) (b.toNat / 65536)
    (aluRun f true a b).val = hi.val * 65536 + lo.val ∧ (aluRun f true a b).c = (lo.c || hi.c) ∧ (aluRun f true a b).v = (lo.v || hi.v)) ∧
  (∀ (x : Engine) (r : Word) (c v dz divides : Bool), let y := x.setFlags { val := r.toNat, c := c, v := v, dz := dz } divides
    y.z = (r == 0) ∧ y.nf = r.msb ∧ y.c = c ∧ y.v = v ∧ y.dz = if divides then dz else x.dz) ∧
  (∀ w, w = 16 ∨ w = 32 → ∀ a b : BitVec w,
    let k := b.toNat % (2 * w)
    let is := fun (f : Nat → Nat → Nat → AluOut) (r : BitVec w) (c v dz : Bool) => f w a.toNat b.toNat = { val := r.toNat, c := c, v := v, dz := dz }
    is aluAdd (a + b) (decide (2 ^ w ≤ a.toNat + b.toNat)) (BitVec.saddOverflow a b) false ∧
    is aluSub (a - b) (BitVec.ult a b) (BitVec.ssubOverflow a b) false ∧
    is aluAnd (a &&& b) false false false ∧ is aluOr (a ||| b) false false false ∧ is aluXor (a ^^^ b) false false false ∧
    is aluShl (a <<< k) false ((a <<< k) >>> k != a) false ∧ is aluShr (a >>> k) false false false ∧
    is aluSar (BitVec.sshiftRight a k) false false false ∧ is aluNeg (-a) false (a == BitVec.intMin w) false ∧
    is aluMul (a * b) false (BitVec.smulOverflow a b) false ∧ is aluMulh (BitVec.ofInt w (a.toInt * b.toInt / 2 ^ w)) false false false ∧
    (b ≠ 0 → is aluDiv (BitVec.sdiv a b) false (a == BitVec.intMin w && b == BitVec.allOnes w) false) ∧
    (b = 0 → is aluDiv (if a.msb then BitVec.intMin w else BitVec.intMax w) false false true) ∧
    (b ≠ 0 → is aluRem (BitVec.srem a b) false false false) ∧ (b = 0 → is aluRem a false false true) ∧
    is aluMin (if BitVec.sle a b then a else b) false false false ∧ is aluMax (if BitVec.sle a b then b else a) false false false ∧
    is aluAbs (if a.msb then -a else a) false (a == BitVec.intMin w) false) ∧
  (∀ (x : Engine) (v : Word), x.reg 0 = 0 ∧ x.setReg 0 v = x ∧ ∀ i, i ≠ 0 → ∀ j, (x.setReg i v).reg j = if j = i then v else x.reg j)

/-- Control flow (R227, R228, R230, R236): NOP, LDI, BR, CALL and RET, with the ECLK of each; a taken branch and a call cost one
more; a call on a full stack and a return on an empty one are exceptions; after the commit point LDI, CALL and RET break the tail.
Choices of the model: logs 29, 103. -/
def Obligations.EngineFlow : Prop := ∀ (s : State) (e : Fin 128) (rd : Fin 64) (high : Bool) (imm : BitVec 16) (cond : Fin 16)
    (target : BitVec 13), Safe s →
  let x := s.engine e
  let tail := if x.committed then x.tail + 1 else x.tail
  let next := (x.mpc + 1) % 8192
  let may := s.fetches e = true ∧ (x.committed = false ∨ x.tail < 16)
  let idle := fun (t : State) => s.uLive e = false → t = s
  let late := fun (t : State) => s.fetches e = true → x.committed = true → Excepted e 8 0 s t
  Runs (.uNop e) s (fun t => idle t ∧ (may → EngineFrame e 1 s t ∧ t.engine e = { x with mpc := next, tail := tail })) ∧
  Runs (.uLdi e rd high imm) s (fun t => idle t ∧ late t ∧ (s.Steps e → EngineFrame e 1 s t ∧
    t.engine e = { x.setReg rd (if high then setFld (x.reg rd) 31 16 imm.toNat else wd imm.toNat) with mpc := next })) ∧
  Runs (.uBr e cond target) s (fun t => idle t ∧ (may →
    EngineFrame e (if x.holds cond then 2 else 1) s t ∧
    t.engine e = { x with mpc := if x.holds cond then target.toNat else next, tail := tail })) ∧
  Runs (.uCall e target) s (fun t => idle t ∧ late t ∧ (s.Steps e → 8 ≤ x.stack.length → Excepted e 3 0 s t) ∧
    (s.Steps e → x.stack.length < 8 → EngineFrame e 2 s t ∧ t.engine e = { x with stack := next :: x.stack, mpc := target.toNat })) ∧
  Runs (.uRet e) s (fun t => idle t ∧ late t ∧ (s.Steps e → x.stack = [] → Excepted e 4 0 s t) ∧
    (∀ a r, s.Steps e → x.stack = a :: r → EngineFrame e 2 s t ∧ t.engine e = { x with stack := r, mpc := a % 8192 }))

/-- UNIT, UNIT_DONE, WAIT and STALL_END each complete, with a next state, from every safe state (uUnit, unitDone, uWait, stallEnd).
Units and waits (R224, R227, R228, R237, R241, R245): an operation starts on an idle unit, else the sequencer stands at it; one of
the barrier unit arrives at its gang's barrier; the end of an operation frees the unit, leaves its results in the unit's registers,
stores inside the command's window, and holds the state changes that it names until the commit; WAIT passes or stands; and a stall
ends when its condition holds. Choices of the model: logs 4, 27, 29. -/
def Obligations.EngineUnits : Prop := ∀ (s : State) (e : Fin 128) (u : Fin 16) (uop : BitVec 8) (results : List (Fin 16 × Word))
    (writes : List (Word × Word)) (changes : List Change) (mask : BitVec 16), Safe s →
  let x := s.engine e
  let next := (x.mpc + 1) % 8192
  let busy := x.unitBusy.any (fun p => p.1 == (u : Nat))
  let started := if (u : Nat) = 9 then x.unitBusy else x.unitBusy ++ [((u : Nat), uop.toNat)]
  let idle := fun (t : State) => s.uLive e = false → t = s
  Runs (.uUnit e u uop) s (fun t => idle t ∧ (s.Steps e → 10 ≤ (u : Nat) → Excepted e 1 0 s t) ∧
    (s.Steps e → (u : Nat) ≤ 9 → s.unitIdle e u = false → EngineFrame e 1 s t ∧ t.engine e = { x with stall := .unit u uop.toNat }) ∧
    (s.Steps e → (u : Nat) ≤ 9 → s.unitIdle e u = true → s.gangOf e = none ∨ (u : Nat) ≠ 9 →
      EngineFrame e 1 s t ∧ t.engine e = { x with unitBusy := started, mpc := next }) ∧
    (s.Steps e → (u : Nat) = 9 → s.unitIdle e u = true → s.gangOf e ≠ none →
      let b := (SMap.get (fun _ => 0) x.unitRegs 144).toNat % 16
      t.engine e = { x with
        mpc := next, gsync := x.gsync.filter (fun p => p.1 != b) ++ [(b, SMap.get (fun _ => 0) (s.ctx e (s.curOf e)).gens b + 1)] })) ∧
  let frees := fun (t : State) (cs : List (Word × Word)) (post : Option (Nat × Word)) =>
    t = { s with engines := t.engines } ∧ (∀ k, k ≠ (e : Nat) → t.engine k = s.engine k) ∧ t.engine e = { x with
      unitBusy := x.unitBusy.filter (fun p => p.1 != (u : Nat)), unitRegs := (t.engine e).unitRegs, changes := cs, post := post }
  Runs (.unitDone e u results writes changes) s (fun t => (x.cur = none ∨ busy = false → t = s) ∧
    (∀ i v st, x.cur ≠ none → busy = true → writes = [] → x.committed = false →
      (changes = [.word i v] → s.inWin e i.toNat = true → frees t (x.changes ++ [(i, v)]) x.post) ∧
      (changes = [.word i v] → s.inWin e i.toNat = false → Excepted e 5 0 s t ∧ SameMem s t) ∧
      (changes = [.entry st v] → frees t x.changes (some (st.toNat, v)))) ∧
    (x.cur ≠ none → busy = true → writes = [] → x.committed = true ∨ changes = [] → frees t x.changes x.post ∧
      (∀ (i : Fin 16) (v : Word) (r : List (Fin 16 × Word)), results = r ++ [(i, v)] → SMap.get (fun _ => 0) (t.engine e).unitRegs (16 * u + i) = v) ∧
      (∀ k, (∀ p ∈ results, k ≠ 16 * (u : Nat) + p.1) →
        SMap.get (fun _ => 0) (t.engine e).unitRegs k = SMap.get (fun _ => 0) x.unitRegs k)) ∧
    (∀ i v, x.cur ≠ none → busy = true → writes = [(i, v)] → s.inWin e i.toNat = false → Excepted e 5 0 s t ∧ SameMem s t)) ∧
  Runs (.uWait e mask) s (fun t => idle t ∧ (s.Steps e → EngineFrame e 1 s t ∧
    t.engine e = if s.waitMet e mask.toNat then { x with mpc := next } else { x with stall := .wait mask.toNat })) ∧
  Runs (.stallEnd e) s (fun t =>
    let goes := fun (y : Engine) => t = { s with engines := t.engines } ∧ t.engine e = y ∧ ∀ k, k ≠ (e : Nat) → t.engine k = s.engine k
    (x.stall = .none → t = s) ∧
    (∀ m, x.stall = .wait m → (s.waitMet e m = false → t = s) ∧ (s.waitMet e m = true → goes { x with stall := .none, mpc := next })) ∧
    (∀ v o, x.stall = .unit v o → (s.unitIdle e v = false → t = s) ∧ (s.unitIdle e v = true → v ≠ 9 →
      goes { x with stall := .none, mpc := next, unitBusy := x.unitBusy ++ [(v, o)] }) ∧
      (s.unitIdle e v = true → v = 9 → s.gangOf e = none → goes { x with stall := .none, mpc := next })) ∧
    (∀ b g, x.stall = .barrier b g → s.barrierOpen e b g = false → t = s) ∧
    (∀ w l, x.stall = .outlet w l → (s.stageFree e = false → t = s) ∧ (s.stageFree e = true → x.openStage.length < 2048 →
      goes { x with stall := .none, mpc := next, openStage := x.openStage ++ [{ data := w, v := true, l := l }] })) ∧
    (x.stall = .memory → (s.memFenced e = true → t = s) ∧ (s.memFenced e = false → goes { x with stall := .none })) ∧
    (x.stall = .rows → goes { x with stall := .none }) ∧
    (x.stall = .hostStore → (s.cqeRoom = false → t = s) ∧ (s.cqeRoom = true → goes { x with stall := .none })))

/-- Loads and stores (R227, R229, R237, R343, R344): scratch, segment, operands and unit registers; an offset added to the register;
a store into the operands is ILLEGAL, one outside the window WIN; a refused tenant WIN; under the fence of its port the sequencer
stands still. The segment's bytes are taken without a hole, an error or an armed injection in the way. Choices of the model: logs
28, 29. -/
def Obligations.EngineMemory : Prop := ∀ (s : State) (e : Fin 128) (r ra : Fin 64) (sp : Fin 4) (off : BitVec 13), Safe s →
  let x := s.engine e
  let next := (x.mpc + 1) % 8192
  let i := (x.reg ra + off.signExtend 32).toNat
  let a := s.segAddr e i
  let refused := s.isoRefused (s.segTenant e) a 4
  let clean := touchesHole a 4 = false ∧ s.armed 29 = false ∧ s.burstErrs a 4 = []
  let idle := fun (t : State) => s.uLive e = false → t = s
  let late := fun (t : State) => s.fetches e = true → x.committed = true → Excepted e 8 0 s t
  let gets := fun (t : State) (v : Word) => t.engine e = { x.setReg r v with mpc := next }
  let stands := fun (t : State) => EngineFrame e 0 s t ∧ t.engine e = { x with stall := .memory }
  let around := fun (t : State) => OnlyRegs (fun b => b = Reg.FMC_EVENT)
      { s with engines := t.engines, cnts := t.cnts, fmem := t.fmem, gated := t.gated } t ∧ ∀ k, k ≠ (e : Nat) → t.engine k = s.engine k
  Runs (.uLd e r ra sp off) s (fun t => idle t ∧ late t ∧
    (s.Steps e → sp = 0 → EngineFrame e 1 s t ∧ gets t (SMap.get (fun _ => 0) x.scratch (i % 4096))) ∧
    (s.Steps e → sp = 1 → s.memFenced e = true → stands t) ∧
    (s.Steps e → sp = 1 → s.memFenced e = false → refused = true → Excepted e 5 0 s t ∧ SameMem s t) ∧
    (s.Steps e → sp = 1 → s.memFenced e = false → refused = false → clean → around t ∧ SameMem s t ∧ gets t (s.fmWord a)) ∧
    (s.Steps e → sp = 2 → EngineFrame e 1 s t ∧ gets t (s.operandWord e (off.toNat % 16))) ∧
    (s.Steps e → sp = 3 → EngineFrame e 1 s t ∧ gets t (SMap.get (fun _ => 0) x.unitRegs (off.toNat % 256)))) ∧
  Runs (.uSt e r ra sp off) s (fun t => idle t ∧ late t ∧
    (s.Steps e → sp = 0 → EngineFrame e 1 s t ∧
      t.engine e = { x with scratch := SMap.set (fun _ => 0) x.scratch (i % 4096) (x.reg r), mpc := next }) ∧
    (s.Steps e → sp = 1 → s.memFenced e = true → stands t) ∧
    (s.Steps e → sp = 1 → s.memFenced e = false → s.inWin e i = false ∨ refused = true → Excepted e 5 0 s t ∧ SameMem s t) ∧
    (s.Steps e → sp = 1 → s.memFenced e = false → s.inWin e i = true → refused = false → clean →
      around t ∧ t.engine e = { x with mpc := next } ∧ (∀ b, b < a ∨ a + 4 ≤ b → t.fmByte b = s.fmByte b) ∧ t.fmWord a = x.reg r) ∧
    (s.Steps e → sp = 2 → Excepted e 1 0 s t) ∧
    (s.Steps e → sp = 3 → EngineFrame e 1 s t ∧
      t.engine e = { x with unitRegs := SMap.set (fun _ => 0) x.unitRegs (off.toNat % 256) (x.reg r), mpc := next }))

/-- Streams and the commit point (R227, R233, R234, R236, R244): IN, which context 0 alone takes from the inlet and which a full
hold refuses; OUT into the open stage, or the stall for a free one; the release of a sealed stage under credit; COMMIT and END of
context 0 with no barrier, no notice and no change outstanding; and the notice, delivered at the commit, as a state change that a
unit's registers named takes effect (R241). Choices of the model: logs 28, 29, 100. -/
def Obligations.EngineStreams : Prop := ∀ (s : State) (e : Fin 128) (r : Fin 64) (last : Bool) (code : BitVec 7), Safe s →
  let x := s.engine e
  let n : Nat := e
  let next := (x.mpc + 1) % 8192
  let idle := fun (t : State) => s.uLive e = false → t = s
  let late := fun (t : State) => s.fetches e = true → x.committed = true → Excepted e 8 0 s t
  let gets := fun (t : State) (w : FWord) (y : Engine) =>
    t.engine e = { (y.setReg r (wd w.data.toNat)).setReg ((r : Nat) + 1) (wd (w.data.toNat / 2 ^ 32)) with iv := w.v, il := w.l, mpc := next }
  let word : FWord := { data := BitVec.ofNat 64 ((x.reg r).toNat + 2 ^ 32 * (x.reg ((r : Nat) + 1)).toNat), v := true, l := last }
  let k := min (min (s.spar n).outletCr (1024 - (s.spar n).outlet.length)) x.releasing.length
  let sealed := if x.openStage.isEmpty then x.sealedStages else x.sealedStages ++ [(0, x.openStage)]
  let committed := { x with committed := true, tail := 0, replay := 0, hold := [], sealedStages := sealed, openStage := [], ctxs := [],
                             changes := [], post := none }
  let c0 := { s.ctx e 0 with a := (upto 16).map (fun i => x.reg (48 + i)), cmdIdx := ((s.ctx e 0).cmdIdx + 1) % atLeast1 (s.ctxCount e 0), fails := 0 }
  let plain := s.Steps e ∧ x.cur = some 0 ∧ x.notices = [] ∧ x.gsync = [] ∧ x.changes = []
  let counted := fun (t : State) => t.cnt (Reg.C_CE_COMMITS e) = addSat (s.cnt (Reg.C_CE_COMMITS e)) 1 ∧
    t.cnt (Reg.C_CE_BUSY_ECLK e) = addSat (s.cnt (Reg.C_CE_BUSY_ECLK e)) 1 ∧ (∀ j, j ≠ n → t.engine j = s.engine j) ∧
    t = { s with engines := t.engines, cnts := t.cnts }
  Runs (.uIn e r) s (fun t => idle t ∧ late t ∧ (s.Steps e → (r : Nat) % 2 = 1 ∨ 46 < (r : Nat) → Excepted e 1 0 s t) ∧
    (s.Steps e → (r : Nat) % 2 = 0 → (r : Nat) ≤ 46 →
      (s.curOf e ≠ 0 ∨ (x.hold.drop x.replay = [] ∧ (s.spar n).inlet = []) →
        EngineFrame e 1 s t ∧ gets t { data := 1, v := false, l := false } x) ∧
      (∀ w ws, s.curOf e = 0 → x.hold.drop x.replay = w :: ws → EngineFrame e 1 s t ∧ gets t w { x with replay := x.replay + 1 }) ∧
      (∀ w ws, s.curOf e = 0 → x.hold.drop x.replay = [] → (s.spar n).inlet = w :: ws →
        (2048 ≤ x.hold.length → Excepted e 6 0 s t ∧ t.spar n = s.spar n) ∧
        (x.hold.length < 2048 → gets t w { x with hold := x.hold ++ [w], replay := x.replay + 1 } ∧ (t.spar n).inlet = ws ∧
          EngineFrame e 1 { s with spars := t.spars } t ∧ ∀ j, j ≠ n → t.spar j = s.spar j)))) ∧
  Runs (.uOut e r last) s (fun t => idle t ∧ late t ∧ (s.Steps e → (r : Nat) % 2 = 1 → Excepted e 1 0 s t) ∧
    (s.Steps e → (r : Nat) % 2 = 0 → s.stageFree e = false → EngineFrame e 1 s t ∧ t.engine e = { x with stall := .outlet word.data last }) ∧
    (s.Steps e → (r : Nat) % 2 = 0 → s.stageFree e = true → (2048 ≤ x.openStage.length → Excepted e 7 0 s t) ∧
      (x.openStage.length < 2048 → EngineFrame e 1 s t ∧ t.engine e = { x with openStage := x.openStage ++ [word], mpc := next }))) ∧
  Runs (.outletRelease e) s (fun t => (s.engFenced e = true → t = s) ∧
    (s.engFenced e = false → x.releasing ≠ [] → t = { s with engines := t.engines, spars := t.spars } ∧
      (t.spar n).outlet = (s.spar n).outlet ++ x.releasing.take k ∧ (t.spar n).outletCr = (s.spar n).outletCr - k ∧
      t.engine e = { x with releasing := x.releasing.drop k } ∧ (∀ j, j ≠ n → t.spar j = s.spar j ∧ t.engine j = s.engine j)) ∧
    (∀ j ws more, s.engFenced e = false → x.releasing = [] → x.sealedStages = (j, ws) :: more →
      (t.engine e).sealedStages = more ∧ t.cnt (Reg.C_CE_OUT_BAD e) =
        addSat (s.cnt (Reg.C_CE_OUT_BAD e)) ((packetsOf ws []).filter (fun p => !s.packetOk p)).length)) ∧
  Runs (.uCommit e) s (fun t => idle t ∧ late t ∧ (plain → counted t ∧ t.ctx e 0 = c0 ∧
    { t.engine e with ctxs := [] } = { committed with mpc := next }) ∧
    (∀ c, s.Steps e → x.cur = some 0 → x.notices = [c] → t.rd (Reg.CE_NOTE e) = wd c ∧ t.bget (Reg.CE_EVENT e) 0 = true) ∧
    (∀ i v, s.Steps e → x.cur = some 0 → x.notices = [] → x.changes = [(i, v)] → touchesHole (s.segAddr e i.toNat) 4 = false →
      t.fmWord (s.segAddr e i.toNat) = v ∧ (t.engine e).changes = [])) ∧
  Runs (.uEnd e) s (fun t => idle t ∧ (plain → counted t ∧ t.ctx e 0 = { c0 with state := 1, resumed := false } ∧
      { t.engine e with ctxs := [] } = committed.rest) ∧
    (∀ j, s.fetches e = true → x.committed = true → x.cur = some j → EngineFrame e 1 s t ∧ (t.engine e).cur = none ∧
      (t.engine e).rest = t.engine e ∧ ((s.ctx e j).ended = none → (t.ctx e j).state = 1) ∧
      ((s.ctx e j).ended ≠ none → 0 < j → t.ctx e j = {}))) ∧
  Runs (.raiseNotice e code) s (fun t => idle t ∧ late t ∧ (s.Steps e → EngineFrame e 1 s t ∧
    t.engine e = { x with notices := x.notices ++ [code.toNat], mpc := next }))

/-- Routines that start and end otherwise (R225, R226, R227, R240, R242, R243, R244, R247): a start of a ready context of highest
priority; RAISE, a reserved opcode and the watchdog; a machine check, its reload, which brings the control store back from the
golden copy, and a forced one, reports taken as making no reaction; the inlet's halt resumed or skipped, which preempts a routine of
lower priority (R238); and the engine's fence. Choices of the model: logs 103, 105. -/
def Obligations.EngineExceptions : Prop := ∀ (s : State) (e : Fin 128) (code : BitVec 7) (b : Bool), Safe s →
  let x := s.engine e
  let idle := fun (t : State) => s.uLive e = false → t = s
  let late := fun (t : State) => s.fetches e = true → x.committed = true → Excepted e 8 0 s t
  let engines := fun (t : State) => t = { s with engines := t.engines } ∧ ∀ j, j ≠ (e : Nat) → t.engine j = s.engine j
  let c0 := s.ctx e 0
  Runs (.routineStart e) s (fun t => (s.memFenced e = true ∨ s.engUsable e = false ∨ x.reloading = true ∨ x.cur ≠ none → t = s) ∧
    (s.pickCtx e = none → t = s) ∧
    (∀ k, s.memFenced e = false → s.engUsable e = true → x.reloading = false → x.cur = none → s.pickCtx e = some k →
      (k < 4 ∧ s.ctxReady e k = true ∧ ∀ j < 4, s.ctxReady e j = true → s.ctxPrio e j ≤ s.ctxPrio e k) ∧
      let c := s.ctx e k
      let a := addr37 (s.ctxList e k + 32 * c.cmdIdx)
      let ws := wordsOf (s.fmRead a 32)
      let entry := (s.tab 0x0901 e (fld (ws.getD 1 0) 31 24)).getD 0 0
      (touchesHole a 32 = false → s.armed 29 = false → s.burstErrs a 32 = [] → SameMem s t ∧
        t.cnt (Reg.C_CE_COMMANDS e) = addSat (s.cnt (Reg.C_CE_COMMANDS e)) 1 ∧
        (wbit entry 31 = false → (t.engine e).cur = none ∧ Latched e (excWord k 0 2 (fld entry 12 0)) s t) ∧
        (wbit entry 31 = true → { t.engine e with ctxs := [] } = { x.rest with uregs := startRegs c.a, cur := some k, lastCtx := k, cmd := ws
                                                                               mpc := fld entry 12 0, ctxs := [] } ∧
          t.ctx e k = { c with state := 2, resumed := false, prio := s.ctxPrio e k } ∧
          t.cnt (Reg.C_CE_BUSY_ECLK e) = addSat (s.cnt (Reg.C_CE_BUSY_ECLK e)) 4)))) ∧
  Runs (.raiseException e code) s (fun t => idle t ∧ late t ∧ (s.Steps e → Excepted e 10 code.toNat s t)) ∧
  Runs (.reservedOpcode e) s (fun t => idle t ∧ late t ∧ (s.Steps e → Excepted e 1 0 s t)) ∧
  Runs (.routineWatchdogExpire e) s (fun t => (x.cur = none → t = s) ∧ Excepted e 9 0 s t) ∧
  (s.Mild (66 + 3 * e) → Runs (.machineCheck e b) s (fun t => Latched e (excWord (x.cur.getD 0) 0 (if b then 13 else 12) x.mpc) s t ∧
    t.cnt (Reg.C_CE_MCHK_CNT e) = addSat (s.cnt (Reg.C_CE_MCHK_CNT e)) 1 ∧ t.bget (Reg.CE_EVENT e) 2 = true ∧ (t.engine e).cur = none ∧
    (t.engine e).failed = (x.failed || b) ∧ (t.engine e).reloading = !b)) ∧
  (s.armed 40 = false → b = true ∨ s.Mild 40 → Runs (.engineReloadDone e b) s (fun t => (x.reloading = false → t = s) ∧ (x.reloading = true →
    (t.engine e).reloading = false ∧ (t.engine e).failed = (x.failed || !b) ∧ (b = true → t.bget (Reg.CE_EVENT e) 3 = true ∧
      OnlyRegs (fun a => a = Reg.CE_EVENT e) { s with engines := t.engines, tabs := t.tabs } t ∧ t.engine e = { x with reloading := false } ∧
      ∀ i < 8192, ∀ old, SMap.get? s.tabs (tkey tidEngine e i) = some old → let w := s.fmWord ((s.rd (Reg.CE_GOLDEN e)).toNat * 4096 + 4 * i)
        SMap.get? t.tabs (tkey tidEngine e i) = some [w, oddParity w])))) ∧
  Runs (.engineForceReload e) s (fun t => engines t ∧ (t.engine e).cur = none ∧ (t.engine e).reloading = true) ∧
  Runs (.inletResume e) s (fun t => (c0.state ≠ 5 → t = s) ∧ (c0.state = 5 → t = { s with engines := t.engines, cnts := t.cnts } ∧
    (x.cur ≠ some 0 → t.ctx e 0 = { c0 with state := 4 }) ∧ (x.cur = none → engines t) ∧
    (∀ j, j ≠ 0 → x.cur = some j → s.bget (Reg.CE_CFG e) 3 = true → x.committed = false → 0 < s.ctxCount e 0 → s.ctxPrio e j < s.ctxPrio e 0 →
      (t.engine e).cur = none ∧ t.ctx e j = { s.ctx e j with state := 4, resumed := true } ∧
      t.cnt (Reg.C_CE_AB_PREEMPT e) = addSat (s.cnt (Reg.C_CE_AB_PREEMPT e)) 1))) ∧
  Runs (.inletSkip e) s (fun t => (c0.state ≠ 5 → t = s) ∧ (c0.state = 5 → (t.engine e).hold = [] ∧ (x.cur ≠ some 0 →
    t.ctx e 0 = { c0 with state := 1, cmdIdx := (c0.cmdIdx + 1) % atLeast1 (s.ctxCount e 0), fails := 0 }) ∧
    t.cnt (Reg.C_CE_INLET_SKIPS e) = addSat (s.cnt (Reg.C_CE_INLET_SKIPS e)) 1 ∧
    t = { s with engines := t.engines, cnts := t.cnts })) ∧
  Runs (.engineFence e b) s (fun t => t.bget (Reg.CE_CMD e) 1 = b ∧ (∀ i, i ≠ 1 → t.bget (Reg.CE_CMD e) i = s.bget (Reg.CE_CMD e) i) ∧
    OnlyRegs (fun a => a = Reg.CE_CMD e) s t)

/-- The standard commands that read and move data (R233, R234, R237, R239, R245, R259, R356), each run by its own routine: it ends
at a commit, or in the exception of a refused store, or of a window that meets what it reads. INGEST is taken of a packet of one
word, FETCH of one word; SCALE and COLOUR write the rows of their region, of the values that R305 to R309 give; a routine of another
command changes nothing. Choices of the model: logs 29, 31, 32, 33. -/
def Obligations.StandardCommands : Prop := ∀ (s : State) (e : Fin 128) (k : Nat) (off : Word) (count dest cls status : Nat) (user : Word)
    (src dst : Region) (filter : Fin 16) (cslot : Fin 1024) (slot : BitVec 8) (mark : Fin 4) (bar : Fin 16), Safe s → s.CleanMem →
  let x := s.engine e
  let n : Nat := e
  let stands := fun (t : State) (w : Stall) => t = { s with engines := t.engines } ∧ t.engine e = { x with stall := w }
  let other := fun (op : Nat) (t : State) => s.uLive e = false ∨ x.committed = true ∨ fld (x.cmd.getD 1 0) 31 24 ≠ op → t = s
  let ring := (x.reg 48).toNat
  let ring1 := s.ringNext e ring
  let p := s.picAt (s.segAddr e src.pic.toNat)
  let q := s.picAt (s.segAddr e dst.pic.toNat)
  let dep := if q.ten then 10 else 8
  let region := fun (op : Nat) (r0 r1 : Int) (val : Nat → Nat → Nat → Nat) (t : State) =>
    let reads := regionReads p src.pic.toNat (edge p.h r0) (edge p.h r1)
    let rows := (upto 3).flatMap (regionRows q dst val)
    let at' := fun (o : Nat) => addr37 (s.ctxSeg e k * 4096 + (4 * dst.pic.toNat + o))
    let can := ∀ r ∈ rows, r.2 = [] ∨ (s.inWin e ((4 * dst.pic.toNat + r.1) / 4) = true ∧
      s.inWin e ((4 * dst.pic.toNat + r.1 + r.2.length - 1) / 4) = true ∧ s.isoRefused (s.segTenant e) (at' r.1) r.2.length = false ∧
      touchesHole (at' r.1) r.2.length = false)
    other op t ∧ (s.OnCommand e op k → (reads.any (fun r => s.winMeets e r.1 r.2) = true → Excepted e 10 1 s t ∧ SameMem s t) ∧
      (reads.any (fun r => s.winMeets e r.1 r.2) = false → (∀ r ∈ reads, r.2 = 0 ∨ s.Reach e r.1 (4 * r.2)) →
        (can → CommandEnds e k s t ∧ (∀ a, (∀ r ∈ rows, a < at' r.1 ∨ at' r.1 + r.2.length ≤ a) → t.fmByte a = s.fmByte a) ∧
          ∀ pre r post, rows = pre ++ r :: post → (∀ y ∈ post, at' y.1 + y.2.length ≤ at' r.1 ∨ at' r.1 + r.2.length ≤ at' y.1) →
            t.fmRead (at' r.1) r.2.length = r.2) ∧
        (∀ r more, rows = r :: more → r.2 ≠ [] → s.inWin e ((4 * dst.pic.toNat + r.1) / 4) = false → Excepted e 5 0 s t ∧ SameMem s t)))
  let pos := fun (o n w j : Nat) => srcPos o n (atLeast1 w) j
  let row := fun (j : Nat) => (pos src.y.toNat src.h.toNat dst.h.toNat j).1
  let cs := s.tab 0x0C03 e cslot
  let c := s.ctx e k
  Runs (.ingest e) s (fun t => other 2 t ∧ (s.OnCommand e 2 k → (s.inletWords e).any (fun w => w.l) = false → stands t (.wait (2 ^ 15))) ∧
    (∀ w ws, s.OnCommand e 2 0 → x.hold = [] → (s.spar n).inlet = w :: ws → w.l = true → s.Stores e ring 4 → s.Stores e ring1 4 → ring ≠ ring1 →
      CommandEnds e 0 s t ∧ (t.spar n).inlet = ws ∧ t.fmWord (s.segAddr e ring) = wd w.data.toNat ∧
        t.fmWord (s.segAddr e ring1) = wd (w.data.toNat / 2 ^ 32) ∧ (t.ctx e 0).a.getD 0 0 = wd (s.ringNext e ring1))) ∧
  Runs (.fetch e off 4) s (fun t => other 3 t ∧ (s.OnCommand e 3 k → (s.winMeets e off.toNat 1 = true → Excepted e 10 1 s t ∧ SameMem s t) ∧
    (s.winMeets e off.toNat 1 = false → s.Reach e off.toNat 4 →
    (s.inWin e ring = false → Excepted e 5 0 s t ∧ SameMem s t) ∧
    (s.Stores e ring 4 → CommandEnds e k s t ∧ t.fmWord (s.segAddr e ring) = s.fmWord (s.segAddr e off.toNat) ∧
      (t.ctx e k).a.getD 0 0 = wd ring1)))) ∧
  Runs (.scale e src dst filter) s (region 0x30 (row 0 - 1) (row (dst.h.toNat - 1) + 2) (fun c x y => reduce 0 dep 0 x y
    (s.scaled p (s.tab 0x0C04 e filter) (pos src.x.toNat src.w.toNat dst.w.toNat x) (pos src.y.toNat src.h.toNat dst.h.toNat y) c))) ∧
  Runs (.colour e src dst cslot) s (region 0x31 src.y.toNat (src.y.toNat + dst.h.toNat - 1) (fun c x y =>
    reduce (fld (cs.getD 4 0) 17 16) dep (s.rd Reg.GLB_PERIOD_COUNT).toNat x y
      (slotLut cs c (slotMatrix cs c (fun v => s.sample16 p v (src.x.toNat + x) (src.y.toNat + y)))))) ∧
  Runs (.emit e off count dest cls) s (fun t => other 0x40 t ∧ (s.OnCommand e 0x40 k →
    let p := packetWords dest cls (s.ctxOwner e) (s.fmRead (s.segAddr e off.toNat) count)
    let clear := s.ringSession e off.toNat = none ∧ s.winMeets e off.toNat (ceilDiv count 4) = false
    (s.ringSession e off.toNat = none → s.winMeets e off.toNat (ceilDiv count 4) = true → Excepted e 10 1 s t ∧ SameMem s t) ∧
    (clear → s.stageFree e = false → stands t (.wait (2 ^ 14))) ∧
    (clear → s.stageFree e = true → s.Reach e off.toNat (4 * ceilDiv count 4) →
      (p.length ≤ 2048 → CommandEnds e k s t ∧ (t.engine e).sealedStages = x.sealedStages ++ [(k, p)] ∧ SameMem s t) ∧
      (2048 < p.length → Excepted e 7 0 s t ∧ (t.engine e).sealedStages = x.sealedStages)))) ∧
  Runs (.complete e status user) s (fun t => other 0x41 t ∧ (s.OnCommand e 0x41 0 → CommandEnds e 0 s t) ∧
    (s.Steps e → s.memFenced e = false → fld (x.cmd.getD 1 0) 31 24 = 0x41 → x.cur = some k → 0 < k → c.ended = none →
      (s.cqeRoom = false → stands t .hostStore) ∧
      (s.cqeRoom = true → c.gang = none → (t.engine e).cur = none ∧ t.ctx e k = {} ∧ (t.sq c.sq).running = (s.sq c.sq).running - 1 ∧
        (s.host.taking = false → t.host.heldCqe = s.host.heldCqe ++
          [{ cq := s.sqCq c.sq, words := [c.job, wd (completeStatus status + c.sq * 65536), wd (s.sqHead c.sq), user, 0, 0, 0, 0] }]) ∧
        (s.host.taking = true → s.host.heldCqe = [] → t.cnt Reg.C_HQ_CQE_POSTED = addSat (s.cnt Reg.C_HQ_CQE_POSTED) 1)))) ∧
  Runs (.mark e slot mark) s (fun t => other 0x50 t ∧ (s.OnCommand e 0x50 k →
    (c.encEsb = none → c.decDsb = none → CommandEnds e k s t ∧ SameMem s t) ∧
    (∀ b, c.encEsb = some b → slot.toNat < bf b 44 3 0 → let w := bf b 42 31 0 + slot.toNat * bf b 43 31 0
      s.Stores e w 4 → CommandEnds e k s t ∧ t.fmWord (s.segAddr e w) = markWord (s.fmWord (s.segAddr e w)) mark) ∧
    (∀ b, c.encEsb = none → c.decDsb = some b → slot.toNat < bf b 8 4 0 → let w := bf b 6 31 0 + slot.toNat * bf b 7 31 0 + 4
      s.Stores e w 4 → CommandEnds e k s t ∧ t.fmWord (s.segAddr e w) = setBit (s.fmWord (s.segAddr e w)) 6 (mark != 0)))) ∧
  Runs (.gsync e bar) s (fun t => other 0x60 t ∧ (s.OnCommand e 0x60 k → x.gsync = [] →
    let g1 := SMap.get (fun _ => 0) c.gens bar + 1
    (s.gangOf e = none → CommandEnds e k s t) ∧
    (∀ g, s.gangOf e = some g → (∀ j < s.gangSize g, j ≠ s.memberIndex e → g1 ≤ s.arrivedAt g bar j) →
      CommandEnds e k s t ∧ g1 ≤ t.released g bar ∧ SMap.get (fun _ => 0) (t.ctx e k).gens bar = g1) ∧
    (∀ g j, s.gangOf e = some g → j < s.gangSize g → j ≠ s.memberIndex e → s.arrivedAt g bar j < g1 → s.released g bar < g1 →
      (t.engine e).stall = .barrier bar g1 ∧ t.arrivedAt g bar (s.memberIndex e) = max g1 (s.arrivedAt g bar (s.memberIndex e)))))

/-- The sessions of the encoder and the decoder (R237, R241, R256–R260, R263, R266, R267, R282, R284, R285, R290): SETCTX checks its
block and opens the session; without one the other commands raise 0x2F or 0x4F. ENC_CTUS refuses a wrong CTU or source, waits for
lines, or codes its CTUs and commits; ENC_END ends a picture; DEC_CTUS takes what the ring gives and decodes; DEC_END closes a
picture, or leaves it open. Each of setctx, encCtus, encEnd, decCtus, decEnd completes where its reads, its stores and the words
that it changes are inside the segment and its window, an outlet stage is free and no other member is waited for. Choices of the
model: logs 29, 31, 108, 109. -/
def Obligations.CodingSessions : Prop := ∀ (s : State) (e : Fin 128) (k : Nat) (off : Word) (ring : List RingPacket) (b : List Word)
    (p : Config.ParamSet), Safe s → s.CleanMem →
  let x := s.engine e
  let c := s.ctx e k
  let other := fun (op : Nat) (t : State) => s.uLive e = false ∨ x.committed = true ∨ fld (x.cmd.getD 1 0) 31 24 ≠ op → t = s
  let seg := fun (i n : Nat) => wordsOf (s.fmRead (s.segAddr e i) (4 * n))
  let w0 := wAt x.cmd 0 + 2 ^ 32 * wAt x.cmd 1
  let slot := bits w0 55 48
  let first := bits w0 47 28
  let r := wAt x.cmd 2
  let lo := seg off.toNat 32
  let raw := lo ++ seg (off.toNat + 32) 32
  let opens := fun (t : State) (enc dec : Option (List Word)) => CommandEnds e k s t ∧ (t.ctx e k).encEsb = enc ∧ (t.ctx e k).decDsb = dec
  let same := fun (t : State) => CommandEnds e k s t ∧ SameMem s t
  let holds := fun (d : Dev) (ws : List (Nat × Word)) (fs : List Bytes) => (∀ q ∈ ws, s.inWin e q.1 = true) ∧ (fs = [] ∨ d.stageFree e = true) ∧
    x.openStage.length + (fs.flatMap (packetWords (bf b 11 19 0) (bf b 11 23 20) (s.ctxOwner e))).length ≤ 2048
  Runs (.setctx e off) s (fun t => other 1 t ∧ (s.OnCommand e 1 k → (s.winMeets e off.toNat 32 = true → Excepted e 10 1 s t ∧ SameMem s t) ∧
    (s.winMeets e off.toNat 32 = false → s.Reach e off.toNat 128 →
      (bf lo 0 7 0 = 0x81 → match s.dsbFails e lo (s.rateFilled lo) with
        | some code => Excepted e 10 code s t
        | none => opens t none (some (s.rateFilled lo))) ∧
      (bf lo 0 7 0 ≠ 0x81 → s.winMeets e (off.toNat + 32) 32 = false → s.Reach e (off.toNat + 32) 128 →
        match s.esbFails e raw (s.rateFilled raw) with
        | some code => Excepted e 10 code s t
        | none => opens t (some (s.rateFilled raw)) none)))) ∧
  Runs (.encCtus e) s (fun t => other 0x20 t ∧ (s.OnCommand e 0x20 k → (c.encEsb = none → Excepted e 10 0x2F s t) ∧
    (c.encEsb = some b → s.Reach e r 64 →
      let rmb := rmbTake b (seg r 16) c.encFresh
      let src := s.encSrc e b
      let last := (s.encRange e b).2
      let reads := s.encReads e b
      let hd := seg src 4
      let want := if s.isLeader e then wAt rmb 7 else c.encNext
      let fits := fld (hd.getD 0 0) 1 0 = bf b 4 25 24 ∧ fld (hd.getD 0 0) 2 2 = bf b 4 23 23
      let waits := (first < last ∧ wAt hd 1 < s.encLines e b) ∨ s.encWaits e b = true
      let slotOk := first ≠ 0 ∨ (s.encSlot e b).isSome = true
      (first ≠ want → Excepted e 10 0x20 s t) ∧
      (first = want → ((src, 4) :: reads).any (fun q => s.winMeets e q.1 q.2) = true → Excepted e 10 1 s t ∧ SameMem s t) ∧
      (first = want → ((src, 4) :: reads).any (fun q => s.winMeets e q.1 q.2) = false → s.Reach e src 16 →
        (¬ fits → Excepted e 10 0x21 s t) ∧ (fits → waits → (t.engine e).stall = .rows ∧ SameMem s t) ∧
        (fits → ¬ waits → ¬ slotOk → Excepted e 10 0x22 s t) ∧
        (fits → ¬ waits → slotOk → ∀ d1 d2 d3 d4 d5 o, s.segRead e r 16 = (some (seg r 16), d1) → d1.segRead e src 4 = (some hd, d2) →
          d2.segReads e reads = (true, d3) → let g := d3.encStart e b rmb hd
          d3.encCtuRun e g.1 g.2.1 (s.encRing e) g.2.2 (s.encMine e b first last) = (some o, d4) →
          d4.segPuts e (o.done.map (fun q => (4 * ringEntry b q.1 + 4, q.2))) = (true, d5) →
          holds d4 (d5.encWords e b rmb hd o) (d3.encFrames e b rmb hd o) →
            CommandEnds e k s t ∧ (t.ctx e k).encNext = last ∧
              t.cnt (Reg.C_CE_ENC_NAL_BYTES e) = addSat (s.cnt (Reg.C_CE_ENC_NAL_BYTES e)) o.bytes ∧
              t.cnt (Reg.C_CE_ENC_FALLBACK e) = addSat (s.cnt (Reg.C_CE_ENC_FALLBACK e)) o.run.fall))))) ∧
  Runs (.encEnd e) s (fun t => other 0x21 t ∧ (s.OnCommand e 0x21 k → (c.encEsb = none → Excepted e 10 0x2F s t) ∧
    (c.encEsb = some b → (s.encAcross e b = true → s.othersPast e (esbCols b * esbRows b) = false → (t.engine e).stall = .rows ∧ SameMem s t) ∧
      (s.encAcross e b = false → s.isLeader e = false → same t ∧ (t.ctx e k).encNext = 0) ∧
      (s.encAcross e b = false → s.isLeader e = true → bf b 4 28 27 = 0 ∨ s.othersPast e (esbCols b * esbRows b + 1) = true → s.Reach e r 64 →
        s.Reach e (s.encSrc e b) 16 → ∀ d1 d2, s.segRead e r 16 = (some (seg r 16), d1) →
        d1.segRead e (s.encSrc e b) 4 = (some (seg (s.encSrc e b) 4), d2) →
        let y := d2.encClose e b (rmbTake b (seg r 16) c.encFresh) (seg (s.encSrc e b) 4)
        holds d2 y.words y.frames → CommandEnds e k s t ∧ (t.ctx e k).encNext = 0 ∧ (t.ctx e k).encRecon = none ∧
          t.cnt (Reg.C_CE_ENC_PICTURES e) = addSat (s.cnt (Reg.C_CE_ENC_PICTURES e)) 1 ∧
          t.cnt (Reg.C_CE_ENC_FILLER_BYTES e) = addSat (s.cnt (Reg.C_CE_ENC_FILLER_BYTES e)) y.filler ∧
          t.fmWord (s.segAddr e (r + 4)) = wd (wAt (rmbTake b (seg r 16) c.encFresh) 4 + 1) ∧ t.fmWord (s.segAddr e (r + 7)) = 0)))) ∧
  let off' := slot ≠ 255 ∧ c.decSlot.any (fun q => q != slot) = true
  Runs (.decCtus e ring) s (fun t => other 0x10 t ∧ (s.OnCommand e 0x10 k → (c.decDsb = none → Excepted e 10 0x4F s t) ∧
    (c.decDsb = some b → (off' → same t) ∧ (¬ off' → first ≠ 0xFFFFF → first ≠ c.decNext → Excepted e 10 0x20 s t) ∧
      (¬ off' → first = 0xFFFFF ∨ first = c.decNext → (ring = [] → c.str.units = [] → c.decSlot = none → same t) ∧
        ∀ z rc d1 d2 u, s.ringTake e b (c.str, { seq := c.str.seq, part := c.str.part }) ring = (some (z, rc), d1) →
          d1.decRunAll e b (takenCtx c z rc) (bits w0 27 12) rc.lost = (some u, d2) →
          (u.wait = true → u.done = 0 → (t.engine e).stall = .rows ∧ SameMem s t) ∧
          (u.wait = false ∨ u.done ≠ 0 → (∀ q n, d2.rowsGrown e b u.c = some (q, n) → (d2.slotPut e b q 1 (wd n)).1 = true) →
            CommandEnds e k s t ∧ (t.ctx e k).decDone = u.c.decDone ∧ (t.ctx e k).decSlot = u.c.decSlot ∧
              (t.ctx e k).decLost = u.c.decLost + u.lost ∧
              t.cnt (Reg.C_CE_DEC_NAL_DISCARD e) = addSat (s.cnt (Reg.C_CE_DEC_NAL_DISCARD e)) u.lost))))) ∧
  Runs (.decEnd e) s (fun t => other 0x11 t ∧ (s.OnCommand e 0x11 k → (c.decDsb = none → Excepted e 10 0x4F s t) ∧
    (c.decDsb ≠ none → c.decSlot = none ∨ c.decParams = none → same t) ∧
    (∀ pic, c.decDsb = some b → c.decParams = some p → c.decSlot = some pic → (s.decCloses e b p pic = false → same t) ∧
      let closed := CommandEnds e k s t ∧ (t.ctx e k).decSlot = none ∧ (t.ctx e k).decPics = c.decPics + 1 ∧ (t.ctx e k).decLost = 0 ∧
        t.cnt (Reg.C_CE_DEC_PICTURES e) = addSat (s.cnt (Reg.C_CE_DEC_PICTURES e)) 1 ∧
        t.cnt (Reg.C_CE_DEC_CONC_CTUS e) = addSat (s.cnt (Reg.C_CE_DEC_CONC_CTUS e)) (s.decLacking e p).length
      (s.decCloses e b p pic = true → s.isLeader e = false → s.decLacking e p = [] → closed ∧ SameMem s t) ∧
      (s.decCloses e b p pic = true → ∀ d1, s.concealAll e b p pic = (true, d1) → (s.isLeader e = false → closed) ∧
        (s.isLeader e = true → ∀ d3 d4 u,
          let d2 := (d1.cntAdd (Reg.C_CE_DEC_CONC_CTUS e) (s.decLacking e p).length).cntAdd (Reg.C_CE_DEC_TAINT_CTUS e)
            (c.decDone.filter (fun a => d1.ctuMark e b pic a == 2)).length
          let late := !s.decFull e p && !c.str.newPic && s.decTimeout e b
          let hash := bf b 0 26 26 == 1 && c.str.hash.any (fun h => Config.hashWrong h (fun pl u v => d1.sampleAt (d1.slotPic e b pic p) pl u v))
          d2.slotClose e b p pic = (true, d3) → d3.closeOutputs e b p pic = (true, u, d4) →
          (d4.segWrite e (s.reportAt e b) (bytesOf (d4.reportWords e b p pic (d2.markCounts e b p pic) u hash late))).1 = true →
            closed ∧ t.fmWord (s.segAddr e (s.reportAt e b)) = wd c.decPics)))))

/-- Frame memory (R331, R332, R333, R339, R341, R343, R344). A request is refused, meets a hole, or becomes a transfer of its port
whose pseudo-channels ungate; a transfer of one burst that is alone is moved, issued and answered in one ECLK; a double-bit error of
a port past the engines and walls; the hold watchdog and the return of a port; and the BAR2 window's move and accesses. Frame memory
holds no error and no armed injection but where one is named; reports are taken as making no reaction. Choices of the model: logs 3,
81, 85. -/
def Obligations.FrameMemory : Prop := ∀ (s : State) (r : MemReq) (x : Xfer) (k : Nat) (bs : Bytes) (port : Fin 512) (base : BitVec 7)
    (off : BitVec 34) (op : MemOp), Safe s →
  let p : Nat := r.port
  let a := r.addr.toNat
  let n := reqLen r
  let ev := Reg.FMC_EVENT
  let refused := p < 128 ∧ s.isoRefused r.tenant a n = true
  let more := fun (t : State) (c : Nat) => t.cnt c = addSat (s.cnt c) 1
  let stored := fun (t : State) (y : Nat) (v : Bytes) => t.fmRead y v.length = v ∧ ∀ z, z < y ∨ y + v.length ≤ z → t.fmByte z = s.fmByte z
  let answered := fun (t : State) (y k : Nat) => SameMem s t ∧ ∃ pre, t.outs = s.outs ++ pre ++ [.memData (s.fmRead y k) false]
  let cls := match r.op with
    | .write _ => 1
    | .read _ => if p < 128 ∧ s.fget Reg.FMC_CFG 5 4 ≤ r.prio then 2 else if 128 ≤ p ∧ p < 256 then 3 else 1
  let after : List Xfer := s.fmem.xfers ++ [{ id := s.fmem.nextSeq, req := r, cls := cls }]
  let queued := fun (t : State) =>
    t = { s with gated := t.gated, fmem := { s.fmem with nextSeq := s.fmem.nextSeq + 1, xfers := after } } ∧
    ∀ b, b ∈ t.gated ↔ b ∈ s.gated ∧ ∀ q : Fin 128, b = .pseudo q → reaches a n q = false
  let y := x.req.addr.toNat
  let w := reqLen x.req
  let alone := s.pending = [] ∧ (∀ e, microFetch s.toDev e = none) ∧ s.fmem.xfers = [x] ∧ s.fmem.queues = [] ∧ s.fmem.ordered = [] ∧
    s.fmem.throttled = [] ∧ s.memFenced x.req.port = false ∧ x.moved = 0 ∧ x.issued = 0 ∧ x.got = [] ∧ x.bad = false ∧ burstCount y w = 1
  let bar := addr37 (s.fget Reg.FMC_BAR2 6 0 * 2 ^ 30 + off.toNat)
  let waits := s.bget Reg.FMC_BAR2 31 || s.memFenced 256
  Runs (.memoryRequest r) s (fun t => (s.memFenced p = true ∨ 258 < p ∨ n = 0 → t = s) ∧
    (s.memFenced p = false → p ≤ 258 → 0 < n →
      (refused → SameMem s t ∧ more t Reg.C_FMC_ISO_REFUSE ∧ t.bget ev 6 = true) ∧
      (¬ refused → touchesHole a n = true → p < 258 ∨ r.op ≠ .read n → SameMem s t ∧ more t Reg.C_FMC_HOLE_ACCESS ∧ t.bget ev 5 = true) ∧
      (¬ refused → touchesHole a n = false → p < 258 ∨ r.op ≠ .read n → queued t) ∧
      (p = 258 → r.op = .read n → s.CleanMem → t = { s with cnts := t.cnts }))) ∧
  (alone → s.CleanMem → ∃ t, step s = .next t ∧ t.fmem.xfers = [] ∧ t.fmem.queues = [] ∧ (x.req.op = .read w → answered t y w) ∧
    ∀ v, x.req.op = .write v → stored t y v) ∧
  (∀ u, alone → s.Mild 29 → s.armed 29 = false → 256 ≤ (x.req.port : Nat) → x.req.op = .read w → s.burstErrs y w = [u] → u ∈ s.fmem.bad →
    ∃ t, step s = .next t ∧ SameMem s t ∧ more t Reg.C_FMC_UNCORR_CNT ∧ t.bget ev 1 = true ∧ (s.bget Reg.FMC_ERR_INFO 31 = false →
      t.rd Reg.FMC_ERR_ADDR_LO = wd (u * 32) ∧ t.rd Reg.FMC_ERR_ADDR_HI = wd (u * 32 / 2 ^ 32) ∧
      t.fget Reg.FMC_ERR_INFO 8 0 = (x.req.port : Nat) ∧ t.bget Reg.FMC_ERR_INFO 31 = true)) ∧
  (s.Mild 29 → s.Mild 30 → s.Mild 31 → Runs (.holdWatchdogBite r) s (fun t => more t Reg.C_FMC_HOLD_BITES ∧ t.bget ev 2 = true ∧ SameMem s t ∧
    t.memFenced p = true ∧ (∀ q, q ≠ p → t.memFenced q = s.memFenced q) ∧ ∀ z ∈ t.fmem.xfers, z.req.port ≠ r.port)) ∧
  Runs (.portReadmit port) s (fun t => (s.fmem.bar2Held = [] ∨ s.CleanMem → t.memFenced port = false ∧
      ∀ q, q ≠ (port : Nat) → t.memFenced q = s.memFenced q) ∧ (s.fmem.bar2Held = [] → t = { s with fmem := t.fmem } ∧ SameMem s t)) ∧
  Runs (.bar2Move base) s (fun t => OnlyRegs (fun b => b = ev ∨ b = Reg.FMC_BAR2) s t ∧
    (112 < base.toNat → t.bget ev 7 = true ∧ t.rd Reg.FMC_BAR2 = s.rd Reg.FMC_BAR2) ∧
    (base.toNat ≤ 112 → t.fget Reg.FMC_BAR2 6 0 = base.toNat ∧ t.bget Reg.FMC_BAR2 31 = true ∧ t.rd ev = s.rd ev)) ∧
  Runs .bar2MoveDone s (fun t => (s.bget Reg.FMC_BAR2 31 = false → t = s) ∧ (s.bget Reg.FMC_BAR2 31 = true →
    (s.fmem.bar2Held = [] ∨ s.CleanMem → t.bget Reg.FMC_BAR2 31 = false ∧ t.fget Reg.FMC_BAR2 6 0 = s.fget Reg.FMC_BAR2 6 0 ∧
      (s.memFenced 256 = false → t.fmem.bar2Held = [])) ∧
    (s.fmem.bar2Held = [] → OnlyRegs (fun b => b = Reg.FMC_BAR2) s t))) ∧
  Runs (.bar2Access off op) s (fun t => (waits = true → t = { s with fmem := { s.fmem with bar2Held := s.fmem.bar2Held ++ [(off.toNat, op)] } }) ∧
    (waits = false → op = .read k → 0 < k → touchesHole bar k = false → s.CleanMem → answered t bar k) ∧
    (waits = false → op = .write bs → bs ≠ [] → (s.inReserved bar bs.length = true → SameMem s t ∧ more t Reg.C_FMC_HOLE_ACCESS ∧ t.bget ev 5 = true) ∧
      (s.inReserved bar bs.length = false → touchesHole bar bs.length = false → s.CleanMem → stored t bar bs)))

/-- Upkeep of frame memory (R336, R337, R338, R340): a refresh placed with those owed, owed, or forced at a debt of 8 unless a
waiting WALL request has had its one maintenance operation; the pause that sets a pseudo-channel's age where its bank queues are
empty, and the skip that is counted; the patrol, its report taken as making no reaction; and the end of a bank's activation window.
Choices of the model: logs 82, 83, 84. -/
def Obligations.MemoryUpkeep : Prop := ∀ (s : State) (pc : Fin 128) (bank : Fin 48) (idle : Bool) (addr : BitVec 37) (came : Bool), Safe s →
  let k : Nat := pc * 48 + bank
  let owed := SMap.get (fun _ => 0) s.fmem.debt k
  let a := addr.toNat
  let placed := idle = true ∧ s.bankQ k = []
  let forced := ¬ placed ∧ 7 ≤ owed ∧ ¬ (s.wallWaits k = true ∧ k ∈ s.fmem.wallMaint)
  let paid := if s.wallWaits k = true then 1 else owed - 6
  Runs (.bankRefresh pc bank idle) s (fun t => t = { s with fmem := t.fmem, outs := t.outs } ∧
    t.fmem = { s.fmem with debt := t.fmem.debt, wallMaint := t.fmem.wallMaint } ∧
    (∀ j, j ≠ k → SMap.get (fun _ => 0) t.fmem.debt j = SMap.get (fun _ => 0) s.fmem.debt j) ∧
    (∀ j, j ∈ t.fmem.wallMaint ↔ j ∈ s.fmem.wallMaint ∨ (forced ∧ j = k ∧ s.wallWaits k = true)) ∧
    (placed → SMap.get (fun _ => 0) t.fmem.debt k = 0 ∧ t.outs = s.outs ++ List.replicate (owed + 1) (.refresh pc bank)) ∧
    (forced → SMap.get (fun _ => 0) t.fmem.debt k = owed + 1 - paid ∧ t.outs = s.outs ++ List.replicate paid (.refresh pc bank)) ∧
    (¬ placed → ¬ forced → SMap.get (fun _ => 0) t.fmem.debt k = owed + 1 ∧ t.outs = s.outs)) ∧
  let pauses := s.bget Reg.FMC_MAINT 0 = true ∧ ∀ q ∈ s.fmem.queues, q.1 / 48 = (pc : Nat) → q.2 = []
  Runs (.retrainPause pc) s (fun t => (¬ pauses → t = s) ∧ (pauses →
    t = { s with fmem := { s.fmem with age := t.fmem.age } } ∧ SMap.get (fun _ => 0) t.fmem.age pc = s.time.cclk ∧
    ∀ j, j ≠ (pc : Nat) → SMap.get (fun _ => 0) t.fmem.age j = SMap.get (fun _ => 0) s.fmem.age j)) ∧
  Runs (.retrainStale pc) s (fun t => t.cnt Reg.C_FMC_RETRAIN_SKIP = addSat (s.cnt Reg.C_FMC_RETRAIN_SKIP) 1 ∧ t.bget Reg.FMC_EVENT 4 = true ∧
    OnlyRegs (fun b => b = Reg.FMC_EVENT) { s with cnts := t.cnts } t ∧ SameCounters (fun b => b = Reg.C_FMC_RETRAIN_SKIP) s t) ∧
  Runs (.patrolScrub addr came) s (fun t => (s.memFenced 258 = true ∨ isHole a = true → t = s) ∧
    (s.memFenced 258 = false → isHole a = false → s.CleanMem → t = { s with cnts := t.cnts } ∧
      (∀ c, t.cnt c = if c = Reg.C_FMC_SCRUB_PASSES ∧ a / 32 = (15 * 2 ^ 33 + 3 * 2 ^ 31) / 32 - 1 then addSat (s.cnt c) 1 else s.cnt c)) ∧
    (s.memFenced 258 = false → isHole a = false → s.armed 29 = false → s.Mild 29 → a / 32 ∈ s.fmem.bad → SameMem s t ∧
      t.fmem.bad = s.fmem.bad ∧ t.cnt Reg.C_FMC_UNCORR_CNT = addSat (s.cnt Reg.C_FMC_UNCORR_CNT) 1 ∧ t.bget Reg.FMC_EVENT 1 = true)) ∧
  Runs (.rhWindowEnd pc bank) s (fun t => t = { s with fmem := t.fmem } ∧ SameMem s t ∧
    (∀ row, SMap.get (fun _ => 0) t.fmem.acts row = if row / 16384 = k then 0 else SMap.get (fun _ => 0) s.fmem.acts row) ∧
    (∀ x, x ∈ t.fmem.throttled ↔ x ∈ s.fmem.throttled ∧ x.1 ≠ k))

/-- The pipes of a wall output stage (R303, R319, R321): nothing on a stage that is off; the round that has reached a pipe's cell
skips its frame; the merger writes the words it holds as far as credits go, and then gives the next cell of the pipe of lowest order
key, here one of a frame under way or of a show frame, word by word; while words are held it takes no cell. Choices of the model:
logs 106, 110. -/
def Obligations.WallPipes : Prop := ∀ (s : State) (n : Fin 128) (p : Fin 4), Safe s →
  let live := fun (d : Dev) => s.wallOn n = true ∧ d.pipeLive n p = true
  let skipped := fun (d : Dev) (t : State) =>
    let x := d.pipeOf n p
    t.cnt (Reg.C_WALL_FRAMES_SKIPPED n) = addSat (s.cnt (Reg.C_WALL_FRAMES_SKIPPED n)) 1 ∧
    t.bget (Reg.WALL_EVENT n) 1 = true ∧ (x.frame + 1 ≠ d.wFrames n x.entry → (t.pipeOf n p).frame = x.frame + 1 ∧ (t.pipeOf n p).cell = 0 ∧
      (t.pipeOf n p).entry = x.entry ∧ (t.pipeOf n p).skipped = x.skipped + 1)
  let d := s.pipesSettle n
  Runs (.pipeFrameSkip n p) s (fun t => (s.wallOn n = false → t = s) ∧ (live d → d.pipeLate n p = true → skipped d t) ∧
    (live d → d.pipeLate n p = false → t.cnt (Reg.C_WALL_FRAMES_SKIPPED n) = s.cnt (Reg.C_WALL_FRAMES_SKIPPED n) ∧
      t.pipeOf n p = d.pipeOf n p)) ∧
  let g := (s.wallDrain n).pipesSettle n
  let y := g.spar n
  let x := g.pipeOf n p
  let i := x.entry
  let data := slice (if x.cell = 0 then g.wFrame n i 0 none else x.body) (256 * x.cell) 256
  let first := ∀ q < 4, g.pipeLive n q = true → g.pipeKey n p < g.pipeKey n q ∨ (g.pipeKey n p = g.pipeKey n q ∧ (p : Nat) ≤ q)
  Runs (.wallPipeCellBuild n) s (fun t => (s.wallOn n = false → t = s) ∧
    (live g → first →
      (g.pipeLate n p = true → skipped g t) ∧
      (g.pipeLate n p = false → x.cell ≠ 0 ∨ g.wType n i = 3 →
        (y.wallHold ≠ [] → (t.spar n).wall = y.wall ∧ (t.spar n).wallHold = y.wallHold ∧ t.pipeOf n p = x) ∧
        (y.wallHold = [] → ∃ c : TabCell, c.inSpar = (n : Nat) ∧ c.port = g.we n i 1 9 0 ∧ c.tag = g.wTag n i x.k ∧ c.size = data.length ∧
          (c.first = true ↔ x.cell = 0) ∧ (c.last = true ↔ x.cell + 1 = g.wFrameCells n i x.frame) ∧
          let ws := (fifoWords c.last data).map (fun w => (c, w))
          let m := min (min y.wallCr (2048 - y.wall.length)) ws.length
          (t.spar n).wall = y.wall ++ ws.take m ∧ (t.spar n).wallHold = ws.drop m ∧ (t.spar n).wallCr = y.wallCr - m))))

/-- Submission entries (R354, R355, R357, R358, R359, R361): an entry that comes up at a queue that does not move, or without a
completion slot, waits; else NOP, JOB, INJECT, POOL_ALLOC, POOL_FREE and DMA act and complete with the status that R356 gives their
case, on a queue of the PF or a VF; RXBUF waits on a receive queue; and a fetch pass serves a ring. Choices of the model: logs 23,
24, 86, 88. -/
def Obligations.HostEntries : Prop := ∀ (s : State) (q : Fin 4096) (e h : List Word) (rest : List (List Word)) (frame : Bytes) (v : RingView)
    (frames : List Bytes) (rings : List RingView), Safe s →
  let come := fun (k : Nat) => s.Comes q k e h rest
  let vf := s.sqFn q ≠ 0
  let more := fun (t : State) (c : Nat) => t.cnt c = addSat (s.cnt c) 1
  let ms := s.jobEngines h
  let badJob := ef h 4 15 0 = 0 ∨ 1216 < s.entOwner q h ∨ ms = []
  let f := s.injFields q h
  let n := s.fget Reg.HQ_CFG 22 16
  let bs := (frame ++ List.replicate (ef h 4 15 0) 0).take (ef h 4 15 0)
  let k := ef h 0 15 8
  let one := withType e 5
  (∀ p ∈ [(Instr.nopEntry q e, 0), (.job q e, 1), (.inject q e frame, 2), (.poolAlloc q e, 3), (.poolFreeEntry q e, 4), (.dmaEntry q e, 6)],
    Runs p.1 s (fun t => s.sqKind q = 1 → (s.sq q).cache = h :: rest → entType h = p.2 → (s.sqMoves q = false → t = s) ∧
      (s.sqMoves q = true → s.cqFree (s.sqCq q) = false → t = { s with cnts := t.cnts } ∧ more t Reg.C_HQ_DISPATCH_STALL))) ∧
  Runs (.nopEntry q e) s (fun t => come 0 → Ended q 0 0 h rest s t) ∧
  Runs (.job q e) s (fun t => come 1 → (badJob → Ended q 4 0 h rest s t) ∧ (¬ badJob → (s.listDenied q h = true → Ended q 5 0 h rest s t) ∧
    (s.listDenied q h = false → (ms.any (fun m => !s.engUsable m) = true → Ended q 3 0 h rest s t) ∧
      (ms.any (fun m => !s.engUsable m) = false → ms.any (fun m => (s.freeCtx? m).isNone) = true → more t Reg.C_HQ_DISPATCH_STALL) ∧
      (∀ m c, ms = [m] → s.engUsable m = true → s.freeCtx? m = some c → (s.engine m).cur = none ∨ s.bget (Reg.CE_CFG m) 3 = false →
        Dispatched q 1 rest s t ∧ more t Reg.C_HQ_JOBS ∧ t.ctx m c = s.jobCtx q h)))) ∧
  Runs (.inject q e frame) s (fun t => come 2 → (s.injBad q h = true → Ended q 4 0 h rest s t) ∧
    (s.injBad q h = false → s.poolMode = false →
      ((s.injResult n f.1 f.2.1 f.2.2).1 = none → Ended q 0 0 h rest s t ∧ more t Reg.C_HQ_INJ_FRAMES) ∧
      (∀ r, (s.injResult n f.1 f.2.1 f.2.2).1 = some r → Dispatched q 1 rest s t ∧ more t Reg.C_HQ_INJ_FRAMES ∧
        (t.spar n).inject = (s.spar n).inject ++ (cellsOf n r bs false).map (fun c => { c with tag := s.host.injTag }) ∧
        t.host.injecting = s.host.injecting ++ [(s.host.injTag, (q : Nat), entJob h)]))) ∧
  Runs (.poolAlloc q e) s (fun t => come 3 → (vf ∨ s.poolMode = false ∨ 3 < ef h 2 7 0 → Ended q 4 0 h rest s t) ∧
    (¬ vf → s.poolMode = true → ef h 2 7 0 ≤ 3 →
      (s.poolTake (ef h 2 7 0) = none → Ended q 6 0xFFFFFFFF h rest s t ∧ t.bget (Reg.BUF_EVENT 0) 5 = true) ∧
      (∀ b d, s.poolTake (ef h 2 7 0) = some (b, d) → Ended q 0 (wd b) h rest s t ∧ t.host.inUse = s.host.inUse ++ [b]))) ∧
  Runs (.poolFreeEntry q e) s (fun t => come 4 → (vf ∨ s.poolMode = false → Ended q 4 0 h rest s t) ∧
    (¬ vf → s.poolMode = true → Ended q 0 0 h rest s t ∧ t.host.inUse = s.host.inUse.erase (ew h 2).toNat)) ∧
  Runs (.dmaEntry q e) s (fun t => come 6 → (vf ∨ dmaBad h = true → Ended q 4 0 h rest s t) ∧
    (¬ vf → dmaBad h = false → ((s.dma k).active = true → Ended q 7 0 h rest s t) ∧
      ((s.dma k).active = false → Dispatched q 1 rest s t ∧ t.rd (Reg.DMA_CH_STATUS k) = wd (2 ^ 31) ∧ t.rd (Reg.DMA_CH_MOVED k) = 0 ∧
        (t.dma k).active = true ∧ (t.dma k).src = wide [ew h 2, ew h 3] ∧ (t.dma k).dst = wide [ew h 4, ew h 5] ∧
        (t.dma k).burst = (ew h 6).toNat ∧ (t.dma k).count = (ew h 7).toNat ∧ (t.dma k).moved = 0 ∧ (t.dma k).sq = q))) ∧
  Runs (.rxbuf q e) s (fun t => (come 5 → Ended q 4 0 h rest s t) ∧
    (s.sqKind q = 2 → s.sqMoves q = true → (s.sq q).cache = [] → 0 < s.sqWaiting q →
      (rxGood one = true → (t.sq q).cache = [one] ∧ t = { s with host := t.host }) ∧
      (rxGood one = false → s.cqFree (s.sqCq q) = true → Ended q 4 0 one [] s t))) ∧
  Runs (.fetchPass rings frames) s (fun t => (s.host.taking = false ∨ s.inBlack = true → t = s) ∧
    (rings = [v] → v.entries = [h] → entType h = 0 → s.sqf v.sq 2 24 24 = 0 → s.sqMoves v.sq = true → s.sqKind v.sq = 1 →
      s.cqFree (s.sqCq v.sq) = true → (s.sq v.sq).cache = [] → 0 < s.sqWaiting v.sq →
        Ended v.sq 0 0 h [] s t ∧ t.host.rrPos = (v.sq + 1 : Nat) % 4096))

/-- Doorbells, stops and resets (R356, R357, R359, R360, R361, R362, R363, R364): what a doorbell takes, discards or ignores; an
injected frame that has entered the core; a host-bound frame delivered or dropped; STOP, PAUSE and INV; the reset of a tenant, by
firmware or the host, and its timeout; and a holdoff that signals a completion queue. Choices of the model: logs 87, 88, 89. -/
def Obligations.HostControl : Prop := ∀ (s : State) (q : Fin 4096) (at' : BitVec 16) (on : Bool) (f : Fin 64) (h : Fin 66), Safe s →
  let more := fun (t : State) (c : Nat) => t.cnt c = addSat (s.cnt c) 1
  let ctrl := Reg.HQ_SQ_CTRL q
  let busy := fun (t : State) => if (f : Nat) < 32 then t.bget Reg.HQ_TEN_BUSY_LO f else t.bget Reg.HQ_TEN_BUSY_HI ((f : Nat) - 32)
  let stuck := fun (t : State) => if (f : Nat) < 32 then t.bget Reg.HQ_TEN_STUCK_LO f else t.bget Reg.HQ_TEN_STUCK_HI ((f : Nat) - 32)
  let resets := fun (t : State) => (t.fn f).resetting = true ∧ (t.fn f).audit = 2 ∧ busy t = true ∧
    ∀ x ∈ s.sqsOf f, (t.sq x).cache = [] ∧ (t.sq x).running = 0
  Runs (.sqTailDoorbell q at') s (fun t => ((s.fn (s.sqFn q)).resetting = true → t = s) ∧ ((s.fn (s.sqFn q)).resetting = false →
    (s.sqSize q ≤ at'.toNat → more t Reg.C_HQ_DB_BAD ∧ t.bget Reg.HQ_EVENT 0 = true ∧ t.rd (Reg.HQ_SQ_TAIL q) = s.rd (Reg.HQ_SQ_TAIL q)) ∧
    (at'.toNat < s.sqSize q → t.rd (Reg.HQ_SQ_TAIL q) = wd at'.toNat ∧ OnlyRegs (fun a => a = Reg.HQ_SQ_TAIL q) s t))) ∧
  Runs (.cqHeadDoorbell q at') s (fun t => ((s.fn (s.cqFn q)).resetting = true → t = s) ∧ ((s.fn (s.cqFn q)).resetting = false →
    (s.cqSize q ≤ at'.toNat → more t Reg.C_HQ_DB_BAD ∧ t.bget Reg.HQ_EVENT 0 = true ∧ t.host.cqs = s.host.cqs) ∧
    (at'.toNat < s.cqSize q → t.rd (Reg.HQ_CQ_HEAD q) = wd at'.toNat ∧ ((s.cq q).used < s.cqSize q → (t.cq q).used =
      (s.cq q).used - (at'.toNat + s.cqSize q - (s.rd (Reg.HQ_CQ_HEAD q)).toNat) % s.cqSize q)))) ∧
  Runs .injectDone s (fun t => ((∀ p ∈ s.host.injecting, ∃ x ∈ s.spars, ∃ c ∈ x.2.inject, c.tag = p.1) → t = s) ∧
    (∀ p rest, s.host.injecting = p :: rest → (∀ x ∈ s.spars, ∀ c ∈ x.2.inject, c.tag ≠ p.1) → t.host.injecting = rest ∧
      (t.sq p.2.1).running = (s.sq p.2.1).running - 1 ∧
      (s.host.taking = true → s.host.heldCqe = [] → more t Reg.C_HQ_CQE_POSTED))) ∧
  Runs (.hostFrameDeliver h) s (fun t => (s.rxTurnOf h = false → t = s) ∧
    (∀ c cs rest, s.rxTurnOf h = true → s.headFrame (hostQ h) = (c :: cs, rest) →
      (s.rxClosed h = true ∨ s.poolMode = false → SMap.get (fun _ => []) (t.spar 64).staging (hostQ h) = rest) ∧
      (s.rxClosed h = true → more t Reg.C_HQ_RX_DROP ∧ t.bget Reg.HQ_EVENT 3 = true) ∧
      (∀ e, s.rxClosed h = false → s.poolMode = false → (s.sq (s.rxSq h)).cache = [e] →
        let bs := (c :: cs).flatMap (·.data)
        (ef e 4 15 0 < bs.length → more t Reg.C_HQ_RX_DROP) ∧
        (bs.length ≤ ef e 4 15 0 → more t Reg.C_HQ_RX_FRAMES ∧ (t.sq (s.rxSq h)).cache = [] ∧ ∃ pre post,
          t.outs = s.outs ++ pre ++ .hostWrite (s.sqFn (s.rxSq h)) (wide [ew e 2, ew e 3]) bs :: post)))) ∧
  Runs (.sqStop q on) s (fun t => t.bget ctrl 0 = on ∧ t.bget ctrl 4 = (on && decide ((s.sq q).running = 0)) ∧
    (t.sq q).running = (s.sq q).running ∧ (on = true → (t.sq q).cache = []) ∧ (on = false → OnlyRegs (fun a => a = ctrl) s t)) ∧
  Runs (.sqPause q on) s (fun t => t.bget ctrl 1 = on ∧ t.bget ctrl 3 = on ∧ OnlyRegs (fun a => a = ctrl) s t) ∧
  Runs (.sqInv q) s (fun t => (t.sq q).cache = [] ∧ (t.sq q).running = (s.sq q).running ∧ (∀ x, x ≠ (q : Nat) → t.sq x = s.sq x) ∧
    t = { s with host := t.host }) ∧
  Runs (.tenantResetWrite f) s (fun t => t.fget Reg.HQ_TEN_CTRL 5 0 = f ∧
    ((f : Nat) = 0 ∨ (s.fn f).resetting = true → OnlyRegs (fun a => a = Reg.HQ_TEN_CTRL) s t) ∧
    ((f : Nat) ≠ 0 → (s.fn f).resetting = false → resets t)) ∧
  Runs (.functionLevelReset f) s (fun t => ((f : Nat) ≠ 0 → s.noImage = true → t = s) ∧ ((f : Nat) = 0 ∨ s.noImage = false →
    (t.fn f).d3 = false ∧ (t.fn f).unmasked = [] ∧ (t.fn f).vectors = [] ∧ (t.fn f).allMasked = true ∧
    ((f : Nat) ≠ 0 → (s.fn f).resetting = false → resets t) ∧ ((f : Nat) = 0 → ∀ x < 64, 0 < x → (t.fn x).resetting = true))) ∧
  Runs (.tenantResetStuck f) s (fun t => ((s.fn f).resetting = false → t = s) ∧ ((s.fn f).resetting = true → stuck t = true ∧
    t.bget Reg.HQ_EVENT 2 = true ∧ OnlyRegs (fun a => a = Reg.HQ_TEN_STUCK_LO ∨ a = Reg.HQ_TEN_STUCK_HI ∨ a = Reg.HQ_EVENT) s t)) ∧
  Runs (.cqHoldoffExpire q) s (fun t =>
    ((s.cq q).unsignalled = 0 ∨ (s.cqf q 2 13 12 ≠ 1 ∧ s.cqf q 2 13 12 ≠ 2) → t = s) ∧
    (0 < (s.cq q).unsignalled → s.cqf q 2 13 12 = 1 ∨ s.cqf q 2 13 12 = 2 → (t.cq q).unsignalled = 0 ∧ (t.cq q).used = (s.cq q).used ∧
      (s.cqf q 2 13 12 = 2 → s.cqFn q = 0 → (t.cq q).pend = true) ∧ (s.cqFn q ≠ 0 → s.cqf q 2 23 16 ∈ (t.fn (s.cqFn q)).mirror)))

/-- The PCIe link and the DMA channels (R365, R366, R367, R368, R369, R370, R386): what the link, the functions' states and masks do
to held messages and completions; PERST#; a software request; a burst of the lowest ready channel, host to host or inside frame
memory, without a wrap; its end; STOP; and a host read without a completion, its report taken as making no reaction. Choices of the
model: logs 42, 43, 86, 90. -/
def Obligations.HostLinkAndDma : Prop := ∀ (s : State) (f : Fin 64) (vec : Fin 2048) (l2 : Bool) (lines : BitVec 16) (ch : Fin 64) (data : Bytes)
    (access : HostAccess) (lq : Fin 4096) (job : Word), Safe s →
  let more := fun (t : State) (c : Nat) => t.cnt c = addSat (s.cnt c) 1
  let held := s.host.heldMsix
  let open' := fun (p : Nat × Nat) => (s.fn p.1).d3 = false ∧ (s.fn p.1).allMasked = false ∧ p.2 ∈ (s.fn p.1).unmasked
  let fnOnly := fun (t : State) => t = { s with host := { s.host with fns := t.host.fns } } ∧ ∀ g, g ≠ (f : Nat) → t.fn g = s.fn g
  let x := s.dma ch
  let k : Nat := ch
  let off := x.moved * x.burst
  let ends := fun (t : State) (status : Nat) => (t.dma k).active = false ∧ t.rd (Reg.DMA_CH_STATUS k) = 0 ∧
    (t.sq x.sq).running = (s.sq x.sq).running - 1 ∧ (status = 8 → more t Reg.C_HQ_DMA_ERRORS ∧ t.bget Reg.DMA_EVENT 2 = true) ∧
    (status ≠ 8 → t.bget Reg.DMA_EVENT 0 = true)
  let lowest := s.dmaReady k = true ∧ ∀ j < k, s.dmaReady j = false
  let last := x.count ≠ 0 ∧ x.count ≤ x.moved + 1
  let bs := (data ++ List.replicate x.burst 0).take x.burst
  let goes := fun (t : State) => more t Reg.C_HQ_DMA_BURSTS ∧ t.rd (Reg.DMA_CH_MOVED k) = wd (x.moved + 1) ∧ (last → ends t 0) ∧
    (¬ last → t.dma k = { x with moved := x.moved + 1, pend := if x.paced then x.pend - 1 else x.pend })
  let reported := fun (t : State) => (t.rd (Reg.FLT_COUNT 15)).toNat = min (2 ^ 32 - 1) ((s.rd (Reg.FLT_COUNT 15)).toNat + 1)
  let there := (f : Nat) = 0 ∨ s.noImage = false
  let waits := fun (e c : Nat) => (s.ctx e c).state ≠ 0 ∧ (s.ctx e c).sq = (lq : Nat) ∧ (s.ctx e c).job = job
  Runs .pcieLinkL0 s (fun t => t.host.link = .l0 ∧ t.host.taking = s.host.taking ∧ ((∀ p ∈ held, open' p) → t.host.heldMsix = [] ∧
    t.outs = s.outs ++ held.map (fun p => Output.msix p.1 p.2) ∧ t = { s with host := t.host, outs := t.outs })) ∧
  Runs (.pcieLinkDown l2) s (fun t => t.host.link = (if l2 then .l2 else .down) ∧ t.host.taking = false ∧ t.host.heldCqe = s.host.heldCqe ∧
    t.host.wake = (s.host.wake || (l2 && !held.isEmpty)) ∧ t = { s with host := t.host, outs := t.outs } ∧
    t.outs = s.outs ++ (if l2 && !held.isEmpty && !s.host.wake then [.wakeLine true] else [])) ∧
  Runs (.vectorUnmask f (some vec)) s (fun t => (¬ there → t = s) ∧ (there → (vec : Nat) ∈ (t.fn f).unmasked ∧ (t.fn f).allMasked = (s.fn f).allMasked ∧
    (s.host.link = .l0 → (s.fn f).d3 = false → (s.fn f).allMasked = false → (s.fn f).pba = [(vec : Nat)] →
      t.outs = s.outs ++ [.msix f vec] ∧ (t.fn f).pba = []))) ∧
  Runs (.vectorUnmask f none) s (fun t => (¬ there → t = s) ∧ (there → (t.fn f).allMasked = false ∧ (t.fn f).unmasked = (s.fn f).unmasked ∧
    (s.host.link = .l0 → (s.fn f).d3 = false → (s.fn f).pba = [(vec : Nat)] → (vec : Nat) ∈ (s.fn f).unmasked →
      t.outs = s.outs ++ [.msix f vec] ∧ (t.fn f).pba = []))) ∧
  Runs (.functionEnterD0 f) s (fun t => (¬ there → t = s) ∧ (there → (t.fn f).d3 = false ∧ ((∀ p ∈ held, p.1 ≠ f) → t.fn f = { s.fn f with d3 := false } ∧ fnOnly t) ∧
    (s.host.link = .l0 → (s.fn f).allMasked = false → (vec : Nat) ∈ (s.fn f).unmasked → held = [((f : Nat), (vec : Nat))] →
      t.outs = s.outs ++ [.msix f vec] ∧ t.host.heldMsix = []))) ∧
  Runs (.functionEnterD3hot f) s (fun t => (¬ there → t = s) ∧ (there → t.fn f = { s.fn f with d3 := true } ∧ fnOnly t)) ∧
  Runs .hostWritesResume s (fun t => t.host.taking = true ∧ t.host.heldCqe = [] ∧
    t.cnt Reg.C_HQ_CQE_POSTED = addSat (s.cnt Reg.C_HQ_CQE_POSTED) s.host.heldCqe.length ∧
    ∀ e, (t.engine e).stall = if (s.engine e).stall = .hostStore then .none else (s.engine e).stall) ∧
  Runs .perstAssert s (fun t => t = { s with host := t.host } ∧ t.host.perst = true ∧ t.host.link = .down ∧ t.host.taking = false ∧
    t.host.sqs = s.host.sqs ∧ t.host.heldCqe = s.host.heldCqe ∧
    ∀ g, t.fn g = { s.fn g with d3 := false, pme := false, unmasked := [], vectors := [], allMasked := true }) ∧
  Runs (.dmaSwreq lines) s (fun t => ((∀ p ∈ s.host.dmas, p.2.active = true → p.2.paced = true → p.2.line < 16 → lines.getLsbD p.2.line = false) → t = s) ∧
    (s.host.dmas = [(k, x)] → x.active = true → x.paced = true → x.line < 16 → lines.getLsbD x.line = true →
      (t.dma k).pend = max x.pend (min 255 (x.pend + 1)) ∧ (255 ≤ x.pend → more t Reg.C_HQ_REQ_OVF ∧ t.bget Reg.DMA_EVENT 1 = true))) ∧
  Runs (.dmaBurst ch data access) s (fun t => (s.dmaReady k = false ∨ (∃ j < k, s.dmaReady j = true) → t = s) ∧
    (lowest → x.srcMem = false → x.wrapSrc = 0 → x.wrapDst = 0 → x.dstMem = false →
      (access = .bad → ends t 8) ∧
      (access = .ok → goes t ∧ ∃ more, t.outs = s.outs ++ .hostRead x.fn (x.src + off) x.burst ::
        .hostWrite x.fn (x.dst + off) (swapBytes x.swap bs) :: more)) ∧
    (lowest → x.srcMem = true → x.dstMem = true → x.wrapSrc = 0 → x.wrapDst = 0 → s.CleanMem → 0 < x.burst →
      let a := addr37 (x.src + off)
      let b := addr37 (x.dst + off)
      touchesHole a x.burst = false → touchesHole b x.burst = false → goes t ∧
        t.fmRead b x.burst = swapBytes x.swap (s.fmRead a x.burst) ∧ ∀ y, y < b ∨ b + x.burst ≤ y → t.fmByte y = s.fmByte y)) ∧
  Runs (.dmaStop ch) s (fun t => t.fget Reg.DMA_CMD 5 0 = ch ∧ (x.active = true → ends t 1) ∧
    (x.active = false → OnlyRegs (fun a => a = Reg.DMA_CMD) s t)) ∧
  (s.Mild 43 → Runs (.pcieCompletionTimeout (.dma ch)) s (fun t => reported t ∧ (x.active = true → ends t 8)) ∧
    Runs (.pcieCompletionTimeout (.list lq job)) s (fun t => reported t ∧
      (∀ e y c, s.engines = [(e, y)] → c ∈ [1, 2, 3] → waits e c → (∀ j < c, 0 < j → ¬ waits e j) → t.ctx e c = {})))

/-- Reports (R388, R390, R393, R396, R398, R399): a report raises its class to its effective severity, at least, and at Black the
device enters Black; one that makes no reaction counts, latches and changes the collector alone. The log memory's failure is source
39, Crimson, with INVALID; a clear zeroes the log and its end clears INVALID or fails again; and an injection is armed, or refused
for a source without check bits. Choices of the model: logs 113, 114. -/
def Obligations.FaultReports : Prop := ∀ (s : State) (pll k : Fin 13) (src : BitVec 9) (b : Bool), Safe s →
  let own := fun (t : State) => SameRegs faultReg s t ∧ { t.beside with fault := {} } = { s.beside with fault := {} }
  let st := Reg.FLT_LOG_STATUS
  let log39 := fun (t : State) => t.bget st 31 = true ∧ t.classLevel 13 = (if s.classLevel 13 = 0 then 2 else 3) ∧
    (s.classLevel 13 = 0 → own t) ∧ (s.classLevel 13 ≠ 0 → t.inBlack = true)
  (∀ p ∈ [(Instr.pllLockLoss pll, 13 + (pll : Nat), 1), (.dieToDieLinkError k, (k : Nat), 0), (.activeBankParityError, 41, 14),
      (.pcieInternalError, 42, 15)],
    let c := p.2.2
    let level := s.classLevel c
    let eff := effSev level (s.progSev p.2.1)
    Runs p.1 s (fun t => max level eff ≤ t.classLevel c ∧ (eff = 3 → t.inBlack = true) ∧
      (p.2.2 = 1 → p.2.1 ∈ t.fault.causes) ∧ (eff ≤ 1 → s.armed 39 = false → own t ∧ t.classLevel c = max level eff ∧
        (t.rd (Reg.FLT_COUNT c)).toNat = min (2 ^ 32 - 1) ((s.rd (Reg.FLT_COUNT c)).toNat + 1) ∧
        (s.bget (Reg.FLT_FIRST c) 31 = false → t.fget (Reg.FLT_FIRST c) 8 0 = p.2.1 ∧ t.fget (Reg.FLT_FIRST c) 10 9 = eff ∧
          t.bget (Reg.FLT_FIRST c) 31 = true) ∧
        (s.bget (Reg.FLT_FIRST c) 31 = true → t.fget (Reg.FLT_FIRST c) 8 0 = s.fget (Reg.FLT_FIRST c) 8 0 ∧ t.bget (Reg.FLT_FIRST c) 30 = true)))) ∧
  Runs .faultLogCheckFail s (fun t => (s.bget st 31 = true → t = s) ∧ (s.bget st 31 = false → log39 t)) ∧
  Runs .logClear s (fun t => (∀ i < 256, t.rd (Reg.FLT_LOG i) = 0) ∧ t.fget st 20 0 = 0 ∧ t.bget st 31 = s.bget st 31 ∧
    t.bget Reg.FLT_LOG_CTRL 1 = true ∧ own t ∧ t.fault = { s.fault with clearing := true }) ∧
  Runs (.logClearDone b) s (fun t => (s.fault.clearing = false → t = s) ∧ (s.fault.clearing = true → t.fault.clearing = false ∧
    t.bget Reg.FLT_LOG_CTRL 1 = false ∧ (b = true → s.armed 39 = false → t.bget st 31 = false ∧ own t ∧ t.fault = { s.fault with clearing := false, heldLog := [] }) ∧
    (b = false → log39 t))) ∧
  Runs (.faultInjectArm src b) s (fun t => OnlyRegs (fun a => a = Reg.FLT_INJ) s t ∧
    (noCheckBits src.toNat = true → t.bget Reg.FLT_INJ 30 = true ∧ t.bget Reg.FLT_INJ 31 = s.bget Reg.FLT_INJ 31) ∧
    (noCheckBits src.toNat = false → t.fget Reg.FLT_INJ 8 0 = src.toNat ∧ t.bget Reg.FLT_INJ 16 = b ∧ t.bget Reg.FLT_INJ 31 = true))

/-- Clears and FAULT_BUS (R388, R391, R392, R394, R395, R396): the end of block resets of a class that fence no port, lane or slice;
the automatic clear; a clear by firmware, refused at Black, with a cause present or under a reset; the end of Black; the clear of a
first latch; and the bus seen low, high, and after the device's own pull. Choices of the model: log 113. -/
def Obligations.FaultClears : Prop := ∀ (s : State) (c : Fin 16) (v : BitVec 16) (low : Bool), Safe s →
  let own := fun (t : State) => SameRegs faultReg s t ∧ { t.beside with fault := {} } = { s.beside with fault := {} }
  let mine := s.fault.resetting.filter (fun p => p.1 == (c : Nat))
  let alone := s.fmem.bar2Held = [] ∧ ∀ p ∈ mine, 8 ≤ p.2.1 ∧ (p.2.1 ≤ 12 ∨ 21 ≤ p.2.1) ∧ p.2.1 ≠ 26 ∧ p.2.1 ≠ 28 ∧ (p.2.1 < 64 ∨ (p.2.1 - 64) % 3 ≠ 1)
  let level := s.classLevel c
  let kept := fun (x : Nat) => s.classLevel x = 3 ∨ s.causeOf x = true ∨ s.resettingOf x = true
  let fs := Reg.FLT_STATUS
  let seen := fun (t : State) => t.bget fs 1 = true ∧ ∀ n ∈ s.wallSpars, t.bget (Reg.WALL_STATUS n) 18 = true ∧ t.bget (Reg.WALL_EVENT n) 3 = true
  Runs (.blockResetDone c) s (fun t => alone → t.fault.resetting = s.fault.resetting.filter (fun p => p.1 != (c : Nat)) ∧
    t.bget (Reg.FLT_CLASS_STATE c) 3 = false ∧ t.classLevel c = level ∧
    (∀ q, t.memFenced q = (s.memFenced q && !mine.contains ((c : Nat), 30, q)))) ∧
  Runs (.classAutoClear c) s (fun t => (s.bget fs 3 = true ∨ level = 0 ∨ kept c → t = s) ∧
    (s.bget fs 3 = false → level ≠ 0 → ¬ kept c → s.armed 39 = false → own t ∧ t.classLevel c = 0 ∧
      (t.rd (Reg.FLT_RECOV c)).toNat = min (2 ^ 32 - 1) ((s.rd (Reg.FLT_RECOV c)).toNat + 1))) ∧
  Runs (.fltClassClr v) s (fun t => own t ∧ ∀ x < 16, (v.getLsbD x = false → t.classLevel x = s.classLevel x) ∧
    (v.getLsbD x = true → kept x → t.classLevel x = s.classLevel x ∧ t.bget (Reg.FLT_CLASS_STATE x) 4 = true) ∧
    (v.getLsbD x = true → ¬ kept x → t.classLevel x = 0)) ∧
  Runs .fltBlackClr s (fun t => (s.inBlack = false → t = s) ∧
    (s.inBlack = true → (∃ x < 16, s.classLevel x = 3 ∧ s.causeOf x = true) → t.bget fs 4 = true ∧ OnlyRegs (fun a => a = fs) s t ∧
      t.inBlack = true) ∧
    (s.inBlack = true → (∀ x < 16, s.classLevel x = 3 → s.causeOf x = false) → t.inBlack = false ∧ t.fault.pulling = false ∧
      ∀ x < 16, t.classLevel x = if s.classLevel x = 3 then 0 else s.classLevel x)) ∧
  Runs (.firstLatchClear c) s (fun t => OnlyRegs (fun a => a = Reg.FLT_FIRST c) s t ∧ t.bget (Reg.FLT_FIRST c) 31 = false ∧
    t.bget (Reg.FLT_FIRST c) 30 = false ∧ t.fget (Reg.FLT_FIRST c) 11 0 = s.fget (Reg.FLT_FIRST c) 11 0) ∧
  Runs .faultBusLow s (fun t => (s.fault.pulling = true ∨ s.fault.ignoring = true ∨ s.bget fs 1 = true → t = s) ∧
    (s.fault.pulling = false → s.fault.ignoring = false → s.bget fs 1 = false → seen t)) ∧
  Runs .faultBusRelease s (fun t => t.bget fs 1 = false ∧ t.bget fs 0 = s.bget fs 0 ∧ OnlyRegs (fun a => a = fs) s t) ∧
  Runs (.faultBusIgnoreEnd low) s (fun t => t.fault = { s.fault with ignoring := false } ∧
    (low = false ∨ s.fault.ignoring = false → t = { s with fault := t.fault }) ∧
    (low = true → s.fault.ignoring = true → s.fault.pulling = false → s.bget fs 1 = false → seen t))

/-- Stack messages (R245, R420, R423, R427, R430, R431). On a link that is down each is lost, but for a HELLO on a link held down;
on one that is up it is the next frame, answered with its ACK. ARM makes a member ready or not, READY and NOT_READY are held by the
stack master for its target, MISSED splits a member, BARRIER records an arrival and releases the last, TIME is answered, TIME_RESP
is counted, and HELLO shows its ID and holds down a link whose peer does not fit. Choices of the model: logs 91, 93, 94. -/
def Obligations.StackMessages : Prop := ∀ (s : State) (v : Via) (src : Fin 8) (a b : Word) (code size : BitVec 8) (gang : Fin 64) (bar m : Fin 16)
    (x y z : BitVec 64) (master : Bool), Safe s →
  let l := s.link v.link
  let own : Prop := (src : Nat) = s.fuses.stackId ∧ (v.hops : Nat) ≠ 0
  let st := Reg.STK_STATUS
  let lost := fun (t : State) => l.up = false → t = s
  let taken := fun (t : State) => l.up = true → (t.link v.link).expSeq = (l.expSeq + 1) % 256 ∧ SameMem s t ∧
    (∀ r, r ≠ st → r ≠ Reg.STK_EVENT → (∀ n, r ≠ Reg.STK_HL_STATUS n) → ¬ isPend r → t.rd r = s.rd r) ∧
    ∃ pre post f, t.outs = s.outs ++ pre ++ .halyard v.link f :: post ∧ bits (beAt f 0 8) 63 60 = 2 ∧ bits (beAt f 0 8) 51 44 = l.expSeq % 256
  let direct := l.up = true ∨ l.heldDown = true
  let ready := if s.deltaLoading || (s.targetPassed a.toNat || (!s.shadowOk || s.inBlack)) then none else some a.toNat
  Runs (.arm v a b) s (fun t => lost t ∧ taken t ∧ (l.up = true → ¬ (s.fuses.stackId = 0 ∧ (v.hops : Nat) ≠ 0) → 
    (s.fuses.master = true → t.commit = s.commit) ∧ (s.fuses.master = false → t.commit = { s.commit with readyFor := ready }))) ∧
  (∀ c ∈ [(Instr.ready v src a, true), (.notReady v src a code, false)], Runs c.1 s (fun t => lost t ∧ taken t ∧
    (l.up = true → s.fuses.stackId = 0 → ∀ g, s.commit.arm = some g → s.fuses.master = true → g.stack = true →
      (g.target = a.toNat → t.bget st (8 + src) = c.2) ∧ (g.target ≠ a.toNat → t.rd st = s.rd st)))) ∧
  Runs (.missed v src a) s (fun t => lost t ∧ taken t ∧ (l.up = true → ¬ own →
    (s.fuses.master = true → t.bget st 2 = true ∧ t.bget Reg.STK_EVENT 1 = true) ∧ (s.fuses.master = false → t.rd st = s.rd st))) ∧
  Runs (.barrier v src gang bar a m) s (fun t => lost t ∧ taken t ∧ (l.up = true → ¬ own →
    t.arrivedAt gang bar m = max a.toNat (s.arrivedAt gang bar m) ∧
    ((∀ j < s.gangSize gang, a.toNat ≤ t.arrivedAt gang bar j) → t.released gang bar = max a.toNat (s.released gang bar)))) ∧
  Runs (.time v src x) s (fun t => lost t ∧ taken t ∧ (l.up = true → s.fuses.stackId ≠ 255 → s.path? 128 src = some (v.link : Nat) →
    s.linkData v.link = true → l.store.length < 64 → (t.link v.link).nextSeq = (l.nextSeq + 1) % 256 ∧
      (t.link v.link).store.length = l.store.length + 1)) ∧
  Runs (.timeResp v src x y z) s (fun t => lost t ∧ taken t ∧ (l.up = true → s.fuses.stackId ≠ 255 → t.stack.calTimes =
    if s.stack.calRun ∧ s.stack.calTimes < 1024 then s.stack.calTimes + 1 else s.stack.calTimes)) ∧
  (Calm s → Runs (.hello v src size master a) s (fun t => (l.up = false → l.heldDown = false → t = s) ∧
    (l.up = true → ¬ own → t.bget st (16 + src) = true) ∧ ((v.hops : Nat) = 0 → direct →
      t.bget st (16 + src) = true ∧ (size.toNat ≠ s.stackSize ∨ (src : Nat) = s.fuses.stackId ∨ (master = true ∧ s.fuses.master = true) →
        (t.link v.link).up = false ∧ (t.link v.link).heldDown = true ∧ t.bget Reg.STK_EVENT 6 = true))))

/-- Halyard links (R420, R421, R423, R424, R425, R430): a frame without its CRC or out of order is answered with the last good ACK,
a cell for a port of this device enters the ingress FIFO; an ACK frees what it acknowledges, grants its credits, and replays at its
second; a timeout replays, with source 33, taken as making no reaction, after RETRY_MAX; HELLO goes out on every link; and
calibration starts on a member and ends after 64 marks. Choices of the model: logs 21, 60, 91, 92. -/
def Obligations.HalyardLinks : Prop := ∀ (s : State) (n : Fin 128) (f : Bytes) (ack : BitVec 8) (cg : BitVec 12) (cm : BitVec 6) (i : Fin 8), Safe s →
  let x := s.link n
  let body := f.take (f.length - 4)
  let h := beAt body 0 8
  let good := decide (12 ≤ f.length) && crc32c body == beAt f (f.length - 4) 4
  let acked := fun (seq : Nat) (t : State) => ∃ pre post b, t.outs = s.outs ++ pre ++ .halyard n b :: post ∧ bits (beAt b 0 8) 63 60 = 2 ∧
    bits (beAt b 0 8) 51 44 = (seq + 255) % 256
  let c := cellIn n (slice body 8 288)
  let hit := x.store.any (fun p => p.1 == ack.toNat)
  let left := if hit then (x.store.dropWhile (fun p => p.1 != ack.toNat)).drop 1 else x.store
  let replayed := fun (t : State) => t.cnt Reg.C_STK_HL_REPLAY = addSat (s.cnt Reg.C_STK_HL_REPLAY) x.store.length ∧
    ∃ post, t.outs = s.outs ++ x.store.map (fun p => Output.halyard n p.2) ++ post
  let max' := atLeast1 (s.fget Reg.STK_CFG 7 0)
  let quiet : Prop := hit = true ∨ left = [] ∨ x.lastAck ≠ ack.toNat ∨ x.dupAcks = 0
  Runs (.halyardCellFrame n f) s (fun t => (x.up = false → t = s) ∧
    (x.up = true → good = false → acked x.expSeq t ∧ (t.link n).expSeq = x.expSeq ∧ t.regs = s.regs ∧
      t.cnt Reg.C_STK_HL_CRC_ERR = addSat (s.cnt Reg.C_STK_HL_CRC_ERR) 1 ∧ t = { s with cnts := t.cnts, stack := t.stack, outs := t.outs }) ∧
    (x.up = true → good = true → bits h 63 60 = 0 → bits h 43 40 = 0 → body.length = 296 →
      (bits h 59 52 ≠ x.expSeq → acked x.expSeq t ∧ t = { s with stack := t.stack, outs := t.outs } ∧ (t.link n).expSeq = x.expSeq) ∧
      (bits h 59 52 = x.expSeq → acked ((x.expSeq + 1) % 256) t ∧ (t.link n).expSeq = (x.expSeq + 1) % 256 ∧
        (c.mc = false → c.res.dest / 2 ^ 17 = 5 → c.res.dest / 1024 % 8 = s.fuses.stackId → s.named (c.res.dest % 1024) = true →
          ∃ d, (t.spar n).inFifo = (s.spar n).inFifo ++ [d] ∧ d.data = c.data ∧ d.queue = portQ (c.res.dest % 1024) c.cls) ∧
        (c.mc = false → c.res.dest / 2 ^ 17 = 5 → c.res.dest / 1024 % 8 ≠ s.fuses.stackId → s.path? n (c.res.dest / 1024 % 8) = none →
          (t.spar n).inFifo = (s.spar n).inFifo ∧ t.cnt Reg.C_STK_PATH_DROP = addSat (s.cnt Reg.C_STK_PATH_DROP) 1)))) ∧
  Runs (.halyardAckFrame n ack cg cm) s (fun t => (x.up = false → t = s) ∧ (x.up = true → quiet ∨ x.replays + 1 < max' →
    (t.link n).store = left ∧ (t.link n).credGen = x.credGen + cg.toNat ∧ (t.link n).credMgmt = x.credMgmt + cm.toNat ∧
    t.fget (Reg.STK_HL_STATUS n) 6 0 = left.length % 128 ∧ (t.link n).lastAck = ack.toNat ∧
    (quiet → OnlyRegs (fun a => a = Reg.STK_HL_STATUS n) s { t with stack := s.stack } ∧ t.outs = s.outs) ∧ (¬ quiet → replayed t))) ∧
  Runs (.replayTimeout n) s (fun t => (x.up = false ∨ x.store = [] → t = s) ∧ (x.up = true → x.store ≠ [] → x.replays + 1 < max' →
      replayed t ∧ (t.link n).replays = x.replays + 1 ∧ (t.link n).store = x.store ∧ t = { s with cnts := t.cnts, stack := t.stack, outs := t.outs }) ∧
    (x.up = true → x.store ≠ [] → max' ≤ x.replays + 1 → s.Mild 33 → replayed t ∧ (t.link n).replays = 0 ∧ t.bget Reg.STK_EVENT 3 = true ∧
      SameRegs (fun a => a = Reg.STK_EVENT ∨ faultReg a) s t ∧ ∀ k, fltClass? 33 = some k →
        (t.rd (Reg.FLT_COUNT k)).toNat = min (2 ^ 32 - 1) ((s.rd (Reg.FLT_COUNT k)).toNat + 1))) ∧
  Runs .helloSend s (fun t => SameRegs (fun a => ∃ k, a = Reg.STK_HL_STATUS k) s t ∧
    { t.beside with stack := {} } = { s.beside with stack := {} } ∧
    (x.up = true ∧ s.linkData n = true ∧ x.store.length < 64 → ∃ pre post b, t.outs = s.outs ++ pre ++ .halyard n b :: post ∧
      bits (beAt b 0 8) 63 60 = 1 ∧ slice b 8 32 = s.helloMsg.bytes)) ∧
  Runs (.helloReachExpire i) s (fun t => OnlyRegs (fun a => a = Reg.STK_STATUS) s t ∧ t.bget Reg.STK_STATUS (16 + i) = false ∧
    ∀ k, k ≠ 16 + (i : Nat) → t.bget Reg.STK_STATUS k = s.bget Reg.STK_STATUS k) ∧
  Runs .stkCalStart s (fun t => (s.fuses.master = true → t = s) ∧ (s.fuses.master = false → t.bget Reg.STK_CAL_CTRL 1 = true ∧
    t.bget Reg.STK_STATUS 1 = false ∧ t.stack.calRun = true ∧ t.stack.calTimes = 0 ∧ t.stack.calMarks = 0 ∧
    SameRegs (fun a => a = Reg.STK_CAL_CTRL ∨ a = Reg.STK_STATUS ∨ ∃ k, a = Reg.STK_HL_STATUS k) s t)) ∧
  Runs .calibrationDone s (fun t => (s.stack.calRun = false ∨ s.stack.calMarks < 64 → t = s) ∧ (s.stack.calRun = true → 64 ≤ s.stack.calMarks →
    t.rd Reg.STK_BIN_DELAY = wd (unsgn 32 (s.stack.calSum / 64)) ∧ t.bget Reg.STK_CAL_CTRL 1 = false ∧ t.bget Reg.STK_STATUS 1 = true ∧
    t.stack = { s.stack with calRun := false } ∧
    OnlyRegs (fun a => a = Reg.STK_BIN_DELAY ∨ a = Reg.STK_CAL_CTRL ∨ a = Reg.STK_STATUS) s { t with stack := s.stack }))

/-- Power states and resets (R402, R403, R404, R417, R441): COLD at power-on and PORN, the rails raised in their order and dropped
in reverse, one at a time, the failures that take the device to FURLED with everything outside the island at reset, the automatic
restart, and warm reset, which keeps the rails and runs the wake sequence again. Choices of the model: logs 71, 73, 74. -/
def Obligations.PowerStates : Prop := ∀ (s : State) (g : Fin 4) (junction us : Nat), Safe s →
  let pm := Reg.MHI_PMIC_STATUS
  let cause := Reg.MHI_WAKE_CAUSE
  let p := s.island.power
  let down := railOrder.reverse.filter (fun k => s.bget pm k)
  let falls := fun (group : Nat) (t : State) => DomainsReset s t ∧ IslandKept s t ∧ t.bget cause 19 = true ∧ t.fget pm 11 8 = group ∧
    (s.island.wakeHeld = false → t.island.power = .furled ∧ t.island.autoWait = s.bget Reg.MHI_PMIC_CFG 16) ∧
    (∀ k ks, down = k :: ks → t.island.dropping = ks ∧ (s.island.wakeHeld = false → t.bget pm k = false ∧ t.outs = s.outs ++ [.rail k false]))
  let cleared := fun (st : Power) (t : State) => t.toDev = { Dev.reset with
    fuses := s.fuses, island := { power := st, snaps := s.island.snaps }, outs := s.outs, freeCtr := s.freeCtr }
  let warmed := fun (t : State) => DomainsReset s t ∧ IslandKept s t ∧ t.bget cause 17 = true ∧ t.rd pm = s.rd pm ∧ t.outs = s.outs ∧
    t.island.power = .waking ∧ t.island.lanesDone = false ∧ t.island.hbmDone = false ∧ t.island.imageDone = false
  let warm := decide (s.fget pm 7 0 = 255) && decide (s.island.dropping = [])
  let timed := decide (p = .waking) && s.bget pm g && !s.bget pm (4 + g)
  Runs .powerOnReset s (cleared .cold) ∧ Runs .pornAssert s (cleared .off) ∧
  Runs .coldCrystalReady s (fun t => (p ≠ .cold → t = s) ∧ (p = .cold → WakeStarted s t ∧ ∀ a, a ≠ pm → t.rd a = s.rd a)) ∧
  Runs .autoRestart s (fun t => (p ≠ .furled ∨ s.island.autoWait = false ∨ s.island.dropping ≠ [] → t = s) ∧
    (p = .furled → s.island.autoWait = true → s.island.dropping = [] → WakeStarted s t ∧ ∀ a, a ≠ pm → t.rd a = s.rd a)) ∧
  Runs (.pwrGoodRise g) s (fun t => t.bget pm (4 + g) = true ∧ (∀ a, a ≠ pm → t.rd a = s.rd a) ∧ t = { s with regs := t.regs, outs := t.outs } ∧
    (timed = false → t.outs = s.outs) ∧
    (timed = true → ∀ k, railOrder.find? (fun j => !s.bget pm j) = some k → t.bget pm k = true ∧ t.outs = s.outs ++ [.rail k true])) ∧
  Runs (.pwrGoodTimeout g) s (fun t => (timed = false → t = s) ∧ (timed = true → DomainsReset s t ∧ IslandKept s t ∧
    t.bget cause 18 = true ∧ t.fget pm 11 8 = g ∧ (s.island.wakeHeld = false → t.island.power = .furled) ∧
    ∀ k ks, down = k :: ks → t.island.dropping = ks ∧ (s.island.wakeHeld = false → t.bget pm k = false ∧ t.outs = s.outs ++ [.rail k false]))) ∧
  Runs (.brownout g) s (fun t => t.bget pm (4 + g) = false ∧
    (p ≠ .run → (∀ a, a ≠ pm → t.rd a = s.rd a) ∧ t = { s with regs := t.regs }) ∧ (p = .run → falls g t)) ∧
  Runs (.thermalTrip junction us) s (fun t => (junction < 115 ∨ us < 100 ∨ s.fget pm 3 0 = 0 → t = s) ∧
    (115 ≤ junction → 100 ≤ us → s.fget pm 3 0 ≠ 0 → falls 15 t)) ∧
  Runs .railDownStep s (fun t => (s.island.dropping = [] → t = s) ∧ (∀ a, a ≠ pm → t.rd a = s.rd a) ∧
    t = { s with regs := t.regs, island := t.island, outs := t.outs } ∧ ∀ k ks, s.island.dropping = k :: ks → k < 4 → RailDropped k ks s t) ∧
  Runs .wrstnAssert s (fun t => (warm = false → t = s) ∧ (warm = true → warmed t)) ∧
  Runs .warmReset s (fun t => (p ≠ .run ∨ warm = false → t = s) ∧ (p = .run → warm = true → warmed t))

/-- Wake and sleep (R383, R405, R406, R407, R408, R409, R410, R411): the wake sources; the PLLs' lock, which takes the newest
snapshot and starts the image's read; READY once image, lanes and frame memory are done; the sleep request with its refusals, its
cancel, the snapshot's write, with one more slot after a failed one, and the background erase. Choices of the model: logs 11, 72,
74, 75. -/
def Obligations.WakeAndSleep : Prop := ∀ (s : State) (k : Fin 4) (high : Bool) (edges : Nat) (addr : BitVec 7) (good : Bool),
    Safe s →
  let p := s.island.power
  let snap := Reg.MHI_SNAP_STATUS
  let sl := Reg.GLB_SLEEP_STATUS
  let told := fun (o : List Output) => ({ s with outs := s.outs ++ o } : State)
  let pinned := fun (x : State) (v : Bool) => ∃ ps : BitVec 4, x = { s with island := { s.island with pins := ps } } ∧
    ∀ j < 4, ps.getLsbD j = if j = (k : Nat) then v else s.island.pins.getLsbD j
  let level := high = s.bget Reg.MHI_WAKE_CFG k
  let steady := (if s.bget Reg.MHI_WAKE_CFG (4 + k) then 4 else 1) ≤ edges
  let written := fun (slot : Nat) (x : Snapshot) =>
    let b := deal (snapBytes x)
    [Output.flashWrite 0 (0x00800000 + slot * 0x8000) b.1, Output.flashWrite 1 (0x00800000 + slot * 0x8000) b.2]
  let alarm := s.bget Reg.MHI_RTC_CTRL 16 && decide (s.rd Reg.MHI_RTC_SEC = s.rd Reg.MHI_RTC_ALARM)
  let locks := decide (p = .waking) && decide (s.fget Reg.MHI_PMIC_STATUS 7 0 = 255) && s.loader.job.isNone && !s.island.imageDone
  let slot := (s.fget snap 5 0 + 1 + s.island.writeTry) % 64
  let next := (s.fget snap 5 0 + 1) % 64
  let erases := decide (p = .run) && !s.bget snap 8
  Runs (.wakePin k high edges) s (fun t => (¬ level → pinned t false) ∧ (level → ¬ steady → t = s) ∧
    (level → steady → ∃ x, pinned x true ∧ WakePulse k 29 x t)) ∧
  Runs .stackWakeRelay s (WakePulse 7 30 (told [.smbusAck 0, .smbusAck 0x5A])) ∧
  Runs (.smbusAddressMatch addr) s (fun t => (s.fget Reg.MHI_SMB_ADDR 6 0 ≠ addr.toNat → t = s) ∧
    (s.fget Reg.MHI_SMB_ADDR 6 0 = addr.toNat → WakePulse 6 28 (told [.smbusAck addr.toNat]) t)) ∧
  Runs .rtcAlarm s (fun t => (alarm = false → t = s) ∧ (alarm = true → WakePulse 4 26 s t)) ∧
  Runs .perstRise s (fun t => WakeEvent 8 { s with host := { s.host with perst := false, wake := false }, outs := s.outs ++
    (if s.host.wake then [.wakeLine false] else []) } t) ∧
  Runs .pllLockDone s (fun t => (locks = false → t = s) ∧ (locks = true → t.bget Reg.GLB_IMG_STATUS 4 = true ∧
    t.loader = { s.loader with job := some { flash := true }, reading := true } ∧ t.time.ticks = ((s.rtcTime * timeUnit : Nat) : Int) ∧
    (s.newestSnap = none → t.rd Reg.PTP_FREQ = s.rd Reg.PTP_FREQ ∧ t.island = s.island) ∧
    ∀ j x, s.newestSnap = some (j, x) → t.island.slotUsed = some x ∧ t.fget snap 5 0 = j % 64 ∧ t.fget snap 31 16 = x.seq % 65536 ∧
      (-32768000 ≤ sgn 32 x.freq.toNat → sgn 32 x.freq.toNat ≤ 32768000 → t.rd Reg.PTP_FREQ = x.freq))) ∧
  Runs .hbmTrainingDone s (fun t => (p ≠ .waking → t = s) ∧ (p = .waking → t.island.hbmDone = true ∧
    ((s.island.imageDone && s.island.lanesDone) = false → t = { s with island := { s.island with hbmDone := true } }) ∧
    ((s.island.imageDone && s.island.lanesDone) = true → t.island.power = .run ∧ t.bget sl 4 = true ∧
      OnlyRegs (fun a => a = sl) s { t with island := s.island }))) ∧
  Runs .sleepRequest s (fun t => (p ≠ .run → t = s) ∧ (p = .run → (s.sleepCause ≠ 0 → t.bget sl 5 = true ∧ t.fget sl 11 8 = s.sleepCause ∧
      OnlyRegs (fun a => a = sl) s t) ∧
    ((∃ x ∈ s.host.dmas, x.2.active = true) ∨ s.bget Reg.GLB_IMG_STATUS 4 = true → s.sleepCause ≠ 0) ∧
    (s.sleepCause = 0 → t.island = { s.island with power := .entering, entryArmed := true } ∧ t.commit.arm = none ∧
      t.bget Reg.GLB_COMMIT_STATUS 1 = true ∧ t.bget Reg.GLB_SLEEP_CTRL 0 = true))) ∧
  Runs .sleepCancel s (fun t => (s.island.entryArmed = false ∨ s.island.entryOpen = true → t = s) ∧
    (s.island.entryArmed = true → s.island.entryOpen = false → t.island = { s.island with power := .run, entryArmed := false } ∧
      t.bget Reg.GLB_SLEEP_CTRL 0 = false ∧ t = { s with regs := t.regs, island := t.island })) ∧
  Runs (.snapshotWriteDone good) s (fun t => (s.island.snapNew = none → t = s) ∧ (∀ x, s.island.snapNew = some x →
    (good = true → DomainsReset s t ∧ SMap.get? t.island.snaps slot = some x ∧ t.fget snap 5 0 = slot ∧ t.fget snap 31 16 = x.seq % 65536 ∧
      ∃ post, t.outs = s.outs ++ written slot x ++ post) ∧
    (good = false → SMap.get? t.island.snaps slot = none ∧ (s.island.writeTry = 0 → t.island.writeTry = 1 ∧ t.island.snapNew = some x ∧
      t = { s with regs := t.regs, island := t.island, outs := s.outs ++ written slot x }) ∧
      (s.island.writeTry ≠ 0 → DomainsReset s t ∧ t.bget Reg.MHI_WAKE_CAUSE 20 = true)))) ∧
  Runs .snapshotEraseSector s (fun t => (erases = false → t = s) ∧ (erases = true → SMap.get? t.island.snaps next = none ∧
    (∀ j, j ≠ next → SMap.get? t.island.snaps j = SMap.get? s.island.snaps j) ∧ t = { s with regs := t.regs, island := t.island } ∧
    (s.island.eraseAt ≠ 15 → t.island.eraseAt = s.island.eraseAt + 1 ∧ t.regs = s.regs) ∧
    (s.island.eraseAt = 15 → t.island.eraseAt = 0 ∧ t.bget snap 8 = true)))

/-- The console and the RTC (R412, R413, R414, R415, R418): a received character wakes in FURLED, joins or ends the monitor's line,
joins the RX FIFO, or overruns it; the data register pops and queues; a character is sent and FCLK stops; the monitor reads, writes,
reports and refuses; and the RTC ticks, is set and is read. MHI_ registers are the host's in RUN alone (R401). Choices of the model:
logs 35, 76. -/
def Obligations.Console : Prop := ∀ (s : State) (c : Byte) (samples : BitVec 10) (a v : Word), Safe s →
  let p := s.island.power
  let ch : Byte := samples.extractLsb' 1 8
  let good := samples.getLsbD 9
  let wakes := p = .furled ∧ good = true ∧ ch.toNat = s.fget Reg.MHI_UART_CFG 23 16
  let mon := s.bget Reg.MHI_UART_CFG 8
  let st := Reg.MHI_UART_STATUS
  let on := { s.island with fclk := true }
  let said := fun (cs : List Byte) => s.outs ++ cs.map Output.uart
  let lined := { s.island with line := [] }
  let line := s.island.line
  let joined := { on with line := if ch = 10 ∨ 32 < line.length then line else line ++ [ch] }
  let plain := s.deadAt a.toNat = false ∧ pairAt? a.toNat = none ∧ readOp? a.toNat = none
  let word := (if a.toNat < 0x04000000 then s.regVal a.toNat else 0).toNat
  let status := if p = .furled then [0x34] else hexOf 1 p.code ++ hexOf 1 (s.fget Reg.GLB_IMG_STATUS 3 0) ++
    (upto 16).flatMap (fun k => hexOf 1 (s.classLevel k))
  let heard := mon && decide (p ≠ .furled) && decide (p ≠ .off)
  let clock := fun (sec : Word) (t : State) => t.rd Reg.MHI_RTC_SEC = sec ∧ t.rd Reg.MHI_RTC_SUB = 0 ∧
    OnlyRegs (fun r => r = Reg.MHI_RTC_SEC ∨ r = Reg.MHI_RTC_SUB) s t
  Runs (.uartCharacterReceive samples) s (fun t => (p = .off → t = s) ∧
    (p ≠ .off → mon = false →
      (wakes → WakeEvent 5 { s with island := on } t) ∧ (p = .furled → ¬ wakes → t = { s with island := on }) ∧
      (p ≠ .furled → s.island.rx.length < 16 → OnlyRegs (fun _ => False) s { t with island := s.island } ∧
        t.island = { on with rx := s.island.rx ++ [ch.toNat + (if good then 0 else 256) + (if samples = 0 then 512 else 0)] }) ∧
      (p ≠ .furled → 16 ≤ s.island.rx.length → t.island = on ∧ t.bget st 16 = true ∧
        OnlyRegs (fun r => r = st) s { t with island := s.island })) ∧
    (p ≠ .off → mon = true → ch ≠ 13 →
      (wakes → WakeEvent 5 { s with island := joined } t) ∧ (¬ wakes → t = { s with island := joined })) ∧
    (p ≠ .off → mon = true → ch = 13 → ¬ wakes →
      let replies := fun (cs : List Byte) => t = { s with island := { on with line := [] }, outs := said cs }
      (32 < line.length ∨ (p = .furled ∧ line ≠ [0x73]) → replies []) ∧ (line = [0x73] → replies status) ∧
      (p ≠ .furled → line.length ≤ 32 → line ≠ [0x73] → line.take 2 ≠ [0x72, 0x20] → line.take 2 ≠ [0x77, 0x20] → replies [0x65, 0x72, 0x72]) ∧
      (p ≠ .furled → line = [0x72, 0x20] ++ hexOf 8 a.toNat → plain → replies (hexOf 8 word)))) ∧
  Runs .uartCharacterSent s (fun t => (s.island.tx = [] → t = s) ∧ ∀ x xs, s.island.tx = x :: xs →
    t = { s with island := { s.island with tx := xs }, outs := said [x] }) ∧
  Runs .fclkStop s (fun t => t = if s.island.tx = [] then { s with island := { s.island with fclk := false } } else s) ∧
  Runs .uartDataRead s (fun t => (p ≠ .run → t = s) ∧ (p = .run →
    (s.island.rx = [] → t = { s with outs := s.outs ++ [.readData Reg.MHI_UART_DATA 0] }) ∧
    ∀ x xs, s.island.rx = x :: xs → t = { s with island := { s.island with rx := xs }, outs := s.outs ++ [.readData Reg.MHI_UART_DATA (wd (2 ^ 31 + x))] })) ∧
  Runs (.uartDataWrite c) s (fun t => (p ≠ .run ∨ 16 ≤ s.island.tx.length → t = s) ∧
    (p = .run → s.island.tx.length < 16 → t = { s with island := { on with tx := s.island.tx ++ [c] } })) ∧
  Runs (.monitorRead a) s (fun t => (heard = false → t = s) ∧ (heard = true → plain → t = { s with island := lined, outs := said (hexOf 8 word) })) ∧
  (∀ r ∈ [Reg.GLB_COMMIT_TARGET, Reg.GLB_IMG_ADDR, Reg.GLB_IMG_LEN], Runs (.monitorWrite (wd r) v) s (fun t => (heard = false → t = s) ∧
    (heard = true → t.rd r = v ∧ (∀ x, x ≠ r → t.rd x = s.rd x) ∧ t = { s with regs := t.regs, island := lined, outs := said [0x6F, 0x6B] }))) ∧
  Runs .monitorStatus s (fun t => (mon = false ∨ p = .off → t = s) ∧ (mon = true → p ≠ .off → t = { s with island := lined, outs := said status })) ∧
  Runs .monitorErr s (fun t => t = if heard then { s with island := lined, outs := said [0x65, 0x72, 0x72] } else s) ∧
  Runs (.rtcSet v) s (fun t => (p ≠ .run → t = s) ∧ (p = .run → clock v t)) ∧
  Runs .rtcSecondTick s (clock (s.rd Reg.MHI_RTC_SEC + 1)) ∧
  Runs .rtcSubRead s (fun t => (p ≠ .run → t = s) ∧ (p = .run → ∃ ticks < 32768, t = { s with
    freeCtr := s.freeCtr + 1, island := { s.island with secLatch := s.rd Reg.MHI_RTC_SEC }, outs := s.outs ++ [.readData Reg.MHI_RTC_SUB (wd ticks)] }))

/-- Supplies and temperature (R336, R439, R440, R447): a reading shows the hottest junction and stack, and crosses the thresholds of
sources 35 and 36 with 5 °C of hysteresis; a rail out of its range is source 37 until the last one is back; a droop begins an
episode of source 38, counted, reported unless one was within 1 ms. Choices of the model: log 78. -/
def Obligations.Environment : Prop := ∀ (s : State) (js : List Nat) (hbm mv us core sram cycles : Nat) (r : Fin 8) (since : Option Nat), Safe s →
  let es := Reg.GLB_ENV_STATUS
  let ev := Reg.GLB_ENV_EVENT
  let hot := (js.take 16).foldl max 0
  let warn := s.fget Reg.GLB_THERM_CFG 7 0
  let own := fun (t : State) => SameRegs (fun a => a = es ∨ a = ev ∨ a = Reg.GLB_ENV_STRETCH ∨ faultReg a) s t ∧
    { t.beside with fault := {}, time := {} } = { s.beside with fault := {}, time := {} }
  let shown := fun (t : State) => t.fget es 7 0 = min 255 hot ∧ t.fget es 23 16 = min 255 hbm ∧ t.fget es 31 24 = s.fget es 31 24 ∧
    (s.fget es 23 16 ≤ 85 → 85 < hbm → t.bget ev 4 = true)
  let inRange := (railRange r).1 ≤ mv ∧ mv ≤ (railRange r).2
  let low := core < 735 ∨ sram < 784
  let recent := ∃ x, since = some x ∧ x < 1000
  let calm35 := hot < warn ∨ 35 ∈ s.fault.causes
  let calm36 := hot < 110 ∨ 36 ∈ s.fault.causes
  let reported := fun (src : Nat) (t : State) => ∀ c, fltClass? src = some c →
    (t.rd (Reg.FLT_COUNT c)).toNat = min (2 ^ 32 - 1) ((s.rd (Reg.FLT_COUNT c)).toNat + 1)
  Runs (.sensorRead js hbm) s (fun t => shown t ∧ (warn ≤ hot → 35 ∈ t.fault.causes ∧ (35 ∉ s.fault.causes → t.bget ev 0 = true)) ∧
    (110 ≤ hot → 36 ∈ t.fault.causes ∧ (36 ∉ s.fault.causes → t.bget ev 1 = true)) ∧
    (calm35 → calm36 → own t ∧ t.bget ev 0 = s.bget ev 0 ∧ t.bget ev 1 = s.bget ev 1 ∧
      (hot + 5 < warn → 35 ∉ t.fault.causes) ∧ (hot + 5 < 110 → 36 ∉ t.fault.causes) ∧
      (warn ≤ hot + 5 → (35 ∈ t.fault.causes ↔ 35 ∈ s.fault.causes)) ∧ (110 ≤ hot + 5 → (36 ∈ t.fault.causes ↔ 36 ∈ s.fault.causes))) ∧
    (¬ calm35 → calm36 → s.Mild 35 → own t ∧ reported 35 t) ∧ (calm35 → ¬ calm36 → s.Mild 36 → own t ∧ reported 36 t)) ∧
  Runs (.supplyOutOfRange r mv us) s (fun t => (s.bget es (24 + r) = true ∨ inRange ∨ us ≤ 10 → t = s) ∧ (s.bget es (24 + r) = false → ¬ inRange → 10 < us →
    t.bget es (24 + r) = true ∧ 37 ∈ t.fault.causes ∧ t.bget ev 2 = true ∧ (s.Mild 37 → own t ∧ reported 37 t) ∧
    (effSev (s.classLevel 12) (s.progSev 37) = 3 → t.inBlack = true))) ∧
  Runs (.supplyBackInRange r mv) s (fun t => (¬ inRange → t = s) ∧ (inRange → (∀ a, a ≠ es → t.rd a = s.rd a) ∧ t.bget es (24 + r) = false ∧
    (∀ i, i ≠ 24 + (r : Nat) → t.bget es i = s.bget es i) ∧ t = { s with regs := t.regs, fault := { s.fault with causes := t.fault.causes } } ∧
    (t.fget es 31 24 = 0 → 37 ∉ t.fault.causes) ∧ (t.fget es 31 24 ≠ 0 → t.fault = s.fault))) ∧
  Runs (.droopDetect core sram since) s (fun t => (s.time.stretch = true ∨ ¬ low → t = s) ∧ (s.time.stretch = false → low → t.time = { s.time with stretch := true } ∧
    (t.rd Reg.GLB_ENV_STRETCH).toNat = min (2 ^ 32 - 1) ((s.rd Reg.GLB_ENV_STRETCH).toNat + 1) ∧
    (recent → t = { s with regs := t.regs, time := t.time } ∧ ∀ a, a ≠ Reg.GLB_ENV_STRETCH → t.rd a = s.rd a) ∧
    (¬ recent → t.bget ev 3 = true ∧ (s.Mild 38 → own t ∧ reported 38 t)))) ∧
  Runs (.stretchEnd core sram cycles) s (fun t => (low ∨ cycles < 64 → t = s) ∧
    (¬ low → 64 ≤ cycles → t = { s with time := { s.time with stretch := false } })) ∧
  Runs .envStretchRead s (fun t => t.rd Reg.GLB_ENV_STRETCH = 0 ∧ (∀ a, a ≠ Reg.GLB_ENV_STRETCH → t.rd a = s.rd a) ∧
    t = { s with regs := t.regs, outs := s.outs ++ [.readData Reg.GLB_ENV_STRETCH (s.rd Reg.GLB_ENV_STRETCH)] })

/-- Table access windows (R45, R450, R451, R452, R453): a READ takes the whole entry into the data words, the words past it zero; a
WRITE waits its turn; each is refused by its ERR, with the entry and the data words unchanged; the end of a WRITE puts the entry
whole into the shadow bank, unless a commit window is open (a WRITE that comes while a full image is expanded is discarded), and
INDEX advances where AUTOINC says so, wrapping at the table's size. Choices of the model: logs 48, 49. -/
def Obligations.TableWindows : Prop := ∀ (s : State) (w : Fin 8), Safe s →
  let ctl := Reg.GLB_TW_CTRL w
  let sel := Reg.GLB_TW_SEL w
  let inx := Reg.GLB_TW_INDEX w
  let i := s.fget inx 19 0
  let d? := tab? (s.fget sel 31 16)
  let err := fun (code : Nat) (t : State) => t.fget ctl 7 4 = code ∧ t.bget ctl 2 = s.bget ctl 2 ∧ t.bget ctl 8 = s.bget ctl 8 ∧
    (∀ a, a ≠ ctl → t.rd a = s.rd a) ∧ t = { s with regs := t.regs }
  let key := fun (d : TabDef) => tkey d.id (if d.perSpar then s.fget sel 6 0 else 0) i
  let entry := fun (d : TabDef) => SMap.get tabDefault (if d.cls = .B ∧ s.bget Reg.GLB_COMMIT_CTRL 4 then s.shTabs else s.tabs) (key d)
  let refused := fun (write : Bool) (t : State) => (s.bget ctl 2 = true → err 5 t) ∧ (s.bget ctl 2 = false →
    (d? = none → err 1 t) ∧ ∀ d, d? = some d → (d.entries ≤ i → err 2 t) ∧
      (i < d.entries → write = true → (d.cls = .ro → err 3 t) ∧ (d.cls = .L → s.noImage = false → err 4 t)))
  let idle := fun (d : TabDef) (t : State) => t.bget ctl 2 = false ∧ t.fget inx 19 0 =
    if s.bget ctl 8 ∧ (s.fget ctl 7 4 = 0 ∨ s.fget ctl 7 4 = 5) then (i + 1) % d.entries else i
  Runs (.tableWindowRead w) s (fun t => refused false t ∧ (s.bget ctl 2 = false → ∀ d, d? = some d → i < d.entries →
    t.fget ctl 7 4 = 0 ∧ t.bget ctl 2 = true ∧ t = { s with regs := t.regs, tabs := t.tabs } ∧ (d.id ≠ 0x0810 → t.tabs = s.tabs) ∧
    (d.id ≠ 0x0301 → (entry d).length ≤ 2048 → (∀ k < 2048, t.rd (Reg.GLB_TW_DATA w k) = (entry d).getD k 0) ∧
      ∀ a, a ≠ ctl → a < Reg.GLB_TW_DATA w 0 ∨ Reg.GLB_TW_DATA w 2048 ≤ a → t.rd a = s.rd a))) ∧
  Runs (.tableWindowWrite w) s (fun t => refused true t ∧ (s.bget ctl 2 = false → ∀ d, d? = some d → i < d.entries →
    (d.cls = .B → s.fullExpanding = true → t.fget ctl 7 4 = 0 ∧ t.bget ctl 2 = true ∧ (∀ a, a ≠ ctl → t.rd a = s.rd a) ∧
      t = { s with regs := t.regs }) ∧
    ((d.cls = .B ∧ s.fullExpanding = false) ∨ (d.cls = .L ∧ s.noImage = true) → t.fget ctl 7 4 = 0 ∧ t.bget ctl 2 = true ∧ t.winPend = s.winPend ++ [(w : Nat)] ∧
      (∀ a, a ≠ ctl → t.rd a = s.rd a) ∧ t = { s with regs := t.regs, winPend := t.winPend }))) ∧
  Runs (.tableWindowDone w) s (fun t => (s.bget ctl 2 = false → t = s) ∧
    ((w : Nat) ∈ s.winPend → s.commit.window = true → t = s) ∧
    (s.bget ctl 2 = true → ∀ d, d? = some d →
      ((w : Nat) ∉ s.winPend → idle d t ∧ (∀ a, a ≠ ctl → a ≠ inx → t.rd a = s.rd a) ∧ t = { s with regs := t.regs }) ∧
      (s.winPend = [(w : Nat)] → s.commit.window = false → d.cls = .B → s.fullExpanding = false → s.commit.readyFor = none →
        idle d t ∧ t.winPend = [] ∧ t.tabs = s.tabs ∧ (∀ a, a ≠ ctl → a ≠ inx → t.rd a = s.rd a) ∧ ∀ k, SMap.get tabDefault t.shTabs k =
          if k = key d then (upto d.words).map (fun j => s.rd (Reg.GLB_TW_DATA w j)) else SMap.get tabDefault s.shTabs k) ∧
      (s.winPend = [(w : Nat)] → s.commit.window = false → d.cls = .L → s.noImage = true →
        idle d t ∧ t.winPend = [] ∧ t.shTabs = s.shTabs ∧ ∀ k, SMap.get tabDefault t.tabs k =
          if k = key d then (upto d.words).map (fun j => s.rd (Reg.GLB_TW_DATA w j)) else SMap.get tabDefault s.tabs k)))
end

