-- ==== Sys2Proof/Laws/Fields.lean ====
section
/-!
SUPPORT. The laws of bit fields: a field reads back what was written into it, and every other bit reads as before.
-/
namespace Sys2Proof.Machine

/-- A bit of a field. -/
theorem testBit_bits (x hi lo j : Nat) : (bits x hi lo).testBit j = (decide (j < hi + 1 - lo) && x.testBit (lo + j)) := by
  simp [bits, Nat.testBit_mod_two_pow, Nat.testBit_shiftRight]

/-- A number with a field replaced, by its three parts. -/
theorem putBits_eq (x hi lo v : Nat) (h : lo ≤ hi) :
    putBits x hi lo v = x % 2 ^ lo + 2 ^ lo * (v % 2 ^ (hi + 1 - lo) + 2 ^ (hi + 1 - lo) * (x / 2 ^ (hi + 1))) := by
  have e : 2 ^ (hi + 1) = 2 ^ lo * 2 ^ (hi + 1 - lo) := by rw [← pow_add]; congr 1; omega
  have h1 : x = x % 2 ^ lo + 2 ^ lo * (x / 2 ^ lo) := (Nat.mod_add_div x (2 ^ lo)).symm
  have h2 : x / 2 ^ lo = x / 2 ^ lo % 2 ^ (hi + 1 - lo) + 2 ^ (hi + 1 - lo) * (x / 2 ^ lo / 2 ^ (hi + 1 - lo)) :=
    (Nat.mod_add_div _ _).symm
  have h3 : x / 2 ^ (hi + 1) = x / 2 ^ lo / 2 ^ (hi + 1 - lo) := by rw [e, Nat.div_div_eq_div_mul]
  have h4 : bits x hi lo = x / 2 ^ lo % 2 ^ (hi + 1 - lo) := by simp [bits, Nat.shiftRight_eq_div_pow]
  rw [putBits, h4, h3]
  generalize x / 2 ^ lo = q at *
  generalize x % 2 ^ lo = r at *
  generalize q % 2 ^ (hi + 1 - lo) = m at *
  generalize q / 2 ^ (hi + 1 - lo) = u at *
  generalize v % 2 ^ (hi + 1 - lo) = w at *
  rw [h1, h2]
  generalize 2 ^ lo = A
  generalize 2 ^ (hi + 1 - lo) = B
  have : r + A * (m + B * u) - m * A = r + A * (B * u) := by
    have : r + A * (m + B * u) = r + A * (B * u) + m * A := by ring
    omega
  rw [this]; ring

/-- A bit of a number with a field replaced. -/
theorem testBit_putBits (x hi lo v j : Nat) (h : lo ≤ hi) :
    (putBits x hi lo v).testBit j = if lo ≤ j ∧ j ≤ hi then v.testBit (j - lo) else x.testBit j := by
  rw [putBits_eq x hi lo v h]
  by_cases h1 : j < lo
  · have : ¬ (lo ≤ j ∧ j ≤ hi) := by omega
    rw [if_neg this, Nat.add_comm, Nat.testBit_two_pow_mul_add _ (Nat.mod_lt _ (Nat.two_pow_pos lo)), if_pos h1,
      Nat.testBit_mod_two_pow]
    simp [h1]
  · rw [Nat.add_comm, Nat.testBit_two_pow_mul_add _ (Nat.mod_lt _ (Nat.two_pow_pos lo)), if_neg h1,
      Nat.add_comm, Nat.testBit_two_pow_mul_add _ (Nat.mod_lt _ (Nat.two_pow_pos _))]
    by_cases h2 : j ≤ hi
    · have h3 : j - lo < hi + 1 - lo := by omega
      have h4 : lo ≤ j ∧ j ≤ hi := by omega
      rw [if_pos h3, if_pos h4, Nat.testBit_mod_two_pow]
      simp [h3]
    · have h3 : ¬ j - lo < hi + 1 - lo := by omega
      have h4 : ¬ (lo ≤ j ∧ j ≤ hi) := by omega
      rw [if_neg h3, if_neg h4, Nat.testBit_div_two_pow]
      congr 1
      omega

/-- A bit of a word with a field replaced. -/
theorem wbit_setFld (w : Word) (hi lo v j : Nat) (h : lo ≤ hi) (hj : j < 32) :
    wbit (setFld w hi lo v) j = if lo ≤ j ∧ j ≤ hi then v.testBit (j - lo) else wbit w j := by
  rw [wbit, setFld, BitVec.getLsbD_ofNat, testBit_putBits _ _ _ _ _ h, decide_eq_true hj, Bool.true_and]
  rfl

/-- A field is its bits. -/
theorem testBit_fld (w : Word) (hi lo j : Nat) : (fld w hi lo).testBit j = (decide (j < hi + 1 - lo) && wbit w (lo + j)) := by
  rw [fld, testBit_bits]; rfl

/-- A field reads what was written into it, cut to its width. -/
theorem fld_setFld (w : Word) (hi lo v : Nat) (h : lo ≤ hi) (hh : hi < 32) :
    fld (setFld w hi lo v) hi lo = v % 2 ^ (hi + 1 - lo) := by
  apply Nat.eq_of_testBit_eq
  intro j
  rw [testBit_fld, Nat.testBit_mod_two_pow]
  by_cases hj : j < hi + 1 - lo
  · rw [wbit_setFld w hi lo v (lo + j) h (by omega), if_pos (by omega)]
    simp [hj]
  · simp [hj]

/-- A field reads as before when another one was written. -/
theorem fld_setFld_ne (w : Word) (hi lo v a b : Nat) (h : lo ≤ hi) (ha : a < 32) (hd : a < lo ∨ hi < b) :
    fld (setFld w hi lo v) a b = fld w a b := by
  apply Nat.eq_of_testBit_eq
  intro j
  rw [testBit_fld, testBit_fld]
  by_cases hj : j < a + 1 - b
  · rw [wbit_setFld w hi lo v (b + j) h (by omega), if_neg (by omega)]
  · simp [hj]

/-- A bit of a word with a bit replaced. -/
theorem wbit_setBit (w : Word) (i j : Nat) (b : Bool) (hi : i < 32) :
    wbit (setBit w i b) j = if j = i then b else wbit w j := by
  by_cases hj : j < 32
  · rw [setBit, wbit_setFld w i i (b2n b) j (le_refl i) hj]
    by_cases h : j = i
    · subst h; cases b <;> simp [b2n]
    · have : ¬ (i ≤ j ∧ j ≤ i) := by omega
      simp [h, this]
  · have h1 : ¬ j = i := by omega
    have h2 : 32 ≤ j := by omega
    simp [wbit, h1, BitVec.getLsbD_of_ge _ _ h2]

/-- A field of a word with a bit outside it replaced. -/
theorem fld_setBit_ne (w : Word) (i a b : Nat) (v : Bool) (ha : a < 32) (hd : a < i ∨ i < b) :
    fld (setBit w i v) a b = fld w a b := fld_setFld_ne w i i (b2n v) a b (le_refl i) ha hd

/-- A bit outside a field that was written. -/
theorem wbit_setFld_ne (w : Word) (hi lo v j : Nat) (h : lo ≤ hi) (hj : j < 32) (hd : j < lo ∨ hi < j) :
    wbit (setFld w hi lo v) j = wbit w j := by
  rw [wbit_setFld w hi lo v j h hj, if_neg (by omega)]

/-- A word is its bits. -/
theorem word_ext {v w : Word} (h : ∀ j, j < 32 → wbit v j = wbit w j) : v = w := by
  apply BitVec.eq_of_getLsbD_eq
  intro i hi
  exact h i hi

end Sys2Proof.Machine
end

