-- ==== Sys2Proof/Laws/SMap.lean ====
section
/-!
SUPPORT. The laws of sparse maps: a read after a write, the canonical form kept by every write, and equal maps from equal reads.
-/
namespace Sys2Proof.Machine.SMap

variable {α : Type}

/-- Every key of a rising map above `lo` is above `lo`. -/
theorem rising_gt {lo : Nat} : ∀ {m : SMap α}, rising (some lo) m = true → ∀ p ∈ m, lo < p.1
  | [], _, p, hp => by cases hp
  | (k, v) :: m, h, p, hp => by
    simp only [rising, Bool.and_eq_true, decide_eq_true_eq] at h
    rcases List.mem_cons.mp hp with rfl | hp
    · exact h.1
    · exact lt_trans h.1 (rising_gt h.2 p hp)

/-- A map that rises above a bound rises above a smaller one. -/
theorem rising_mono {lo lo' : Nat} (hl : lo' ≤ lo) : ∀ {m : SMap α}, rising (some lo) m = true → rising (some lo') m = true
  | [], _ => rfl
  | (k, v) :: m, h => by
    simp only [rising, Bool.and_eq_true, decide_eq_true_eq] at h ⊢
    exact ⟨lt_of_le_of_lt hl h.1, h.2⟩

/-- A map that rises above a bound rises. -/
theorem rising_none {lo : Nat} : ∀ {m : SMap α}, rising (some lo) m = true → rising none m = true
  | [], _ => rfl
  | (k, v) :: m, h => by
    simp only [rising, Bool.and_eq_true] at h ⊢
    exact h.2

@[simp] theorem get_nil (d : Nat → α) (k : Nat) : get d [] k = d k := rfl

/-- A listed value is read at its key, and every other key reads as before: no order of the keys is needed. -/
theorem get_put (d : Nat → α) (v : α) (k a : Nat) : ∀ m : SMap α, get d (put m k v) a = if a = k then v else get d m a
  | [] => by
    by_cases h : a = k
    · simp [put, get, h]
    · simp [put, get, h, Ne.symm h]
  | (j, u) :: m => by
    have ih := get_put d v k a m
    by_cases h1 : j = k
    · by_cases h : a = k
      · simp [put, get, h, h1]
      · simp [put, get, h, h1, Ne.symm h]
    · by_cases h2 : k < j
      · by_cases h : a = k
        · simp [put, h1, h2, get, h]
        · simp [put, h1, h2, get, h, Ne.symm h]
      · by_cases h3 : j = a
        · subst h3
          simp [put, h1, h2, get]
        · simp only [put, h1, h2, if_false, get, h3, ih]

/-- An erased key reads its default, and every other key reads as before. -/
theorem get_erase (d : Nat → α) (k a : Nat) : ∀ m : SMap α, get d (erase m k) a = if a = k then d k else get d m a
  | [] => by by_cases h : a = k <;> simp [erase, get, h]
  | (j, u) :: m => by
    have ih := get_erase d k a m
    by_cases h1 : j = k
    · by_cases h : a = k
      · simpa [erase, h1, h] using (by simpa [h] using ih)
      · simp [erase, h1, get, h, Ne.symm h, ih]
    · by_cases h3 : j = a
      · subst h3
        simp [erase, h1, get]
      · simp [erase, h1, get, h3, ih]

/-- Listing a key keeps a rising map rising. -/
theorem rising_put (v : α) (k : Nat) : ∀ {o : Option Nat} {m : SMap α}, (∀ lo, o = some lo → lo < k) →
    rising o m = true → rising o (put m k v) = true
  | none, [], _, _ => rfl
  | some lo, [], ho, _ => by simp [put, rising, ho lo rfl]
  | o, (j, u) :: m, ho, hr => by
    have hr' : rising (some j) m = true := by cases o <;> simp_all [rising]
    by_cases h1 : j = k
    · subst h1
      cases o <;> simp_all [put, rising]
    · by_cases h2 : k < j
      · cases o with
        | none => simp [put, h1, h2, rising, hr']
        | some lo => simp [put, h1, h2, rising, hr', ho lo rfl]
      · have hjk : j < k := by omega
        have ih := rising_put v k (o := some j) (m := m) (fun lo e => by cases e; exact hjk) hr'
        cases o with
        | none => simp [put, h1, h2, rising, ih]
        | some lo =>
          have : lo < j := by simp only [rising, Bool.and_eq_true, decide_eq_true_eq] at hr; exact hr.1
          simp [put, h1, h2, rising, ih, this]

/-- Erasing a key keeps a rising map rising. -/
theorem rising_erase (k : Nat) : ∀ {o : Option Nat} {m : SMap α}, rising o m = true → rising o (erase m k) = true
  | none, [], _ => rfl
  | some lo, [], _ => rfl
  | o, (j, u) :: m, hr => by
    have hr' : rising (some j) m = true := by cases o <;> simp_all [rising]
    have ih := rising_erase k (o := some j) (m := m) hr'
    by_cases h1 : j = k
    · simp only [erase, h1, if_true]
      rw [h1] at ih
      cases o with
      | none => exact rising_none ih
      | some lo =>
        have : lo < j := by simp only [rising, Bool.and_eq_true, decide_eq_true_eq] at hr; exact hr.1
        exact rising_mono (by omega) ih
    · cases o with
      | none => simp [erase, h1, rising, ih]
      | some lo =>
        have : lo < j := by simp only [rising, Bool.and_eq_true, decide_eq_true_eq] at hr; exact hr.1
        simp [erase, h1, rising, ih, this]

/-- A listed pair stays or is the new one. -/
theorem mem_put (v : α) (k : Nat) (p : Nat × α) : ∀ {m : SMap α}, p ∈ put m k v → p = (k, v) ∨ p ∈ m
  | [], h => by simpa [put] using h
  | (j, u) :: m, h => by
    by_cases h1 : j = k
    · simp only [put, h1, if_true, List.mem_cons] at h ⊢
      rcases h with h | h
      · exact .inl h
      · exact .inr (.inr h)
    · by_cases h2 : k < j
      · simp only [put, h1, h2, if_true, if_false, List.mem_cons] at h ⊢
        exact h
      · simp only [put, h1, h2, if_false, List.mem_cons] at h ⊢
        rcases h with h | h
        · exact .inr (.inl h)
        · rcases mem_put v k p h with h | h
          · exact .inl h
          · exact .inr (.inr h)

/-- What is left after an erasure was there. -/
theorem mem_erase (k : Nat) (p : Nat × α) : ∀ {m : SMap α}, p ∈ erase m k → p ∈ m
  | [], h => by cases h
  | (j, u) :: m, h => by
    by_cases h1 : j = k
    · simp only [erase, h1, if_true] at h
      exact List.mem_cons_of_mem _ (mem_erase k p h)
    · simp only [erase, h1, if_false, List.mem_cons] at h ⊢
      rcases h with h | h
      · exact .inl h
      · exact .inr (mem_erase k p h)

variable [DecidableEq α]

/-- The empty map is in canonical form. -/
@[simp] theorem wf_nil (d : Nat → α) : wf d ([] : SMap α) = true := rfl

/-- The canonical form, as a proposition. -/
theorem wf_iff (d : Nat → α) (m : SMap α) : wf d m = true ↔ rising none m = true ∧ ∀ p ∈ m, p.2 ≠ d p.1 := by
  simp [wf, List.all_eq_true]

/-- A write keeps the canonical form. -/
theorem wf_set (d : Nat → α) {m : SMap α} (k : Nat) (v : α) (h : wf d m = true) : wf d (set d m k v) = true := by
  rw [wf_iff] at h ⊢
  unfold set
  split
  · exact ⟨rising_erase k h.1, fun p hp => h.2 p (mem_erase k p hp)⟩
  · refine ⟨rising_put v k (fun lo e => by cases e) h.1, fun p hp => ?_⟩
    rcases mem_put v k p hp with rfl | hp
    · assumption
    · exact h.2 p hp

/-- A read after a write. -/
theorem get_set (d : Nat → α) (m : SMap α) (k a : Nat) (v : α) : get d (set d m k v) a = if a = k then v else get d m a := by
  unfold set
  split
  · next e => rw [get_erase d k a, e]
  · exact get_put d v k a m

/-- A listed value in a rising map is what its key reads. -/
theorem get_of_mem (d : Nat → α) : ∀ {o : Option Nat} {m : SMap α}, rising o m = true → ∀ p ∈ m, get d m p.1 = p.2
  | _, [], _, p, hp => by cases hp
  | o, (j, u) :: m, hr, p, hp => by
    have hr' : rising (some j) m = true := by cases o <;> simp_all [rising]
    rcases List.mem_cons.mp hp with rfl | hp
    · simp [get]
    · have : j ≠ p.1 := Nat.ne_of_lt (rising_gt hr' p hp)
      simp [get, this, get_of_mem d hr' p hp]

/-- Listing a key with the value that is listed changes nothing. -/
theorem put_of_mem : ∀ {o : Option Nat} {m : SMap α}, rising o m = true → ∀ p ∈ m, put m p.1 p.2 = m
  | _, [], _, p, hp => by cases hp
  | o, (j, u) :: m, hr, p, hp => by
    have hr' : rising (some j) m = true := by cases o <;> simp_all [rising]
    rcases List.mem_cons.mp hp with rfl | hp
    · simp [put]
    · have hlt := rising_gt hr' p hp
      simp [put, Nat.ne_of_lt hlt, Nat.not_lt.mpr (Nat.le_of_lt hlt), put_of_mem hr' p hp]

/-- A listed value written again changes nothing. -/
theorem set_of_mem (d : Nat → α) {m : SMap α} (h : wf d m = true) {p : Nat × α} (hp : p ∈ m) : set d m p.1 p.2 = m := by
  rw [wf_iff] at h
  rw [set, if_neg (h.2 p hp), put_of_mem h.1 p hp]

/-- What a map lists after a write: the new value, or what it listed. -/
theorem mem_set (d : Nat → α) {m : SMap α} {k : Nat} {v : α} {p : Nat × α} (h : p ∈ set d m k v) : p = (k, v) ∧ v ≠ d k ∨ p ∈ m := by
  unfold set at h
  split at h
  · exact .inr (mem_erase k p h)
  · next hv => rcases mem_put v k p h with h | h
               · exact .inl ⟨h, hv⟩
               · exact .inr h

/-- A value read that is not the default is listed. -/
theorem mem_of_get (d : Nat → α) (k : Nat) : ∀ {m : SMap α}, get d m k ≠ d k → (k, get d m k) ∈ m
  | [], h => absurd rfl h
  | (j, u) :: m, h => by
    by_cases hj : j = k
    · simp [get, hj]
    · simp only [get, hj, if_false] at h ⊢
      exact List.mem_cons_of_mem _ (mem_of_get d k h)

/-- A write keeps the keys rising. -/
theorem rising_set (d : Nat → α) {m : SMap α} (k : Nat) (v : α) (h : rising none m = true) :
    rising none (set d m k v) = true := by
  unfold set
  split
  · exact rising_erase k h
  · exact rising_put v k (fun lo e => by cases e) h

end Sys2Proof.Machine.SMap
end

