-- ==== Sys2Proof/Laws/State.lean ====
section
/-!
SUPPORT. What each update of the device leaves alone: one lemma per field per update, true by the update's definition.
-/
namespace Sys2Proof.Machine.Dev

variable (d : Dev)

/-! wr -/
@[simp] theorem wr_shadow (a : Nat) (v : Word) : (d.wr a v).shadow = d.shadow := rfl
@[simp] theorem wr_cnts (a : Nat) (v : Word) : (d.wr a v).cnts = d.cnts := rfl
@[simp] theorem wr_latch (a : Nat) (v : Word) : (d.wr a v).latch = d.latch := rfl
@[simp] theorem wr_tabs (a : Nat) (v : Word) : (d.wr a v).tabs = d.tabs := rfl
@[simp] theorem wr_shTabs (a : Nat) (v : Word) : (d.wr a v).shTabs = d.shTabs := rfl
@[simp] theorem wr_fmem (a : Nat) (v : Word) : (d.wr a v).fmem = d.fmem := rfl
@[simp] theorem wr_commit (a : Nat) (v : Word) : (d.wr a v).commit = d.commit := rfl
@[simp] theorem wr_loader (a : Nat) (v : Word) : (d.wr a v).loader = d.loader := rfl
@[simp] theorem wr_fuses (a : Nat) (v : Word) : (d.wr a v).fuses = d.fuses := rfl
@[simp] theorem wr_time (a : Nat) (v : Word) : (d.wr a v).time = d.time := rfl
@[simp] theorem wr_lanes (a : Nat) (v : Word) : (d.wr a v).lanes = d.lanes := rfl
@[simp] theorem wr_ports (a : Nat) (v : Word) : (d.wr a v).ports = d.ports := rfl
@[simp] theorem wr_spars (a : Nat) (v : Word) : (d.wr a v).spars = d.spars := rfl
@[simp] theorem wr_slices (a : Nat) (v : Word) : (d.wr a v).slices = d.slices := rfl
@[simp] theorem wr_engines (a : Nat) (v : Word) : (d.wr a v).engines = d.engines := rfl
@[simp] theorem wr_host (a : Nat) (v : Word) : (d.wr a v).host = d.host := rfl
@[simp] theorem wr_irq (a : Nat) (v : Word) : (d.wr a v).irq = d.irq := rfl
@[simp] theorem wr_fault (a : Nat) (v : Word) : (d.wr a v).fault = d.fault := rfl
@[simp] theorem wr_island (a : Nat) (v : Word) : (d.wr a v).island = d.island := rfl
@[simp] theorem wr_stack (a : Nat) (v : Word) : (d.wr a v).stack = d.stack := rfl
@[simp] theorem wr_gated (a : Nat) (v : Word) : (d.wr a v).gated = d.gated := rfl
@[simp] theorem wr_outs (a : Nat) (v : Word) : (d.wr a v).outs = d.outs := rfl
@[simp] theorem wr_freeCtr (a : Nat) (v : Word) : (d.wr a v).freeCtr = d.freeCtr := rfl
@[simp] theorem wr_audit (a : Nat) (v : Word) : (d.wr a v).audit = d.audit := rfl
@[simp] theorem wr_auditOf (a : Nat) (v : Word) : (d.wr a v).auditOf = d.auditOf := rfl
@[simp] theorem wr_wallHeld (a : Nat) (v : Word) : (d.wr a v).wallHeld = d.wallHeld := rfl
@[simp] theorem wr_stores (a : Nat) (v : Word) : (d.wr a v).stores = d.stores := rfl
@[simp] theorem wr_winPend (a : Nat) (v : Word) : (d.wr a v).winPend = d.winPend := rfl
/-! wrSh -/
@[simp] theorem wrSh_regs (a : Nat) (v : Word) : (d.wrSh a v).regs = d.regs := rfl
@[simp] theorem wrSh_cnts (a : Nat) (v : Word) : (d.wrSh a v).cnts = d.cnts := rfl
@[simp] theorem wrSh_latch (a : Nat) (v : Word) : (d.wrSh a v).latch = d.latch := rfl
@[simp] theorem wrSh_tabs (a : Nat) (v : Word) : (d.wrSh a v).tabs = d.tabs := rfl
@[simp] theorem wrSh_shTabs (a : Nat) (v : Word) : (d.wrSh a v).shTabs = d.shTabs := rfl
@[simp] theorem wrSh_fmem (a : Nat) (v : Word) : (d.wrSh a v).fmem = d.fmem := rfl
@[simp] theorem wrSh_commit (a : Nat) (v : Word) : (d.wrSh a v).commit = d.commit := rfl
@[simp] theorem wrSh_loader (a : Nat) (v : Word) : (d.wrSh a v).loader = d.loader := rfl
@[simp] theorem wrSh_fuses (a : Nat) (v : Word) : (d.wrSh a v).fuses = d.fuses := rfl
@[simp] theorem wrSh_time (a : Nat) (v : Word) : (d.wrSh a v).time = d.time := rfl
@[simp] theorem wrSh_lanes (a : Nat) (v : Word) : (d.wrSh a v).lanes = d.lanes := rfl
@[simp] theorem wrSh_ports (a : Nat) (v : Word) : (d.wrSh a v).ports = d.ports := rfl
@[simp] theorem wrSh_spars (a : Nat) (v : Word) : (d.wrSh a v).spars = d.spars := rfl
@[simp] theorem wrSh_slices (a : Nat) (v : Word) : (d.wrSh a v).slices = d.slices := rfl
@[simp] theorem wrSh_engines (a : Nat) (v : Word) : (d.wrSh a v).engines = d.engines := rfl
@[simp] theorem wrSh_host (a : Nat) (v : Word) : (d.wrSh a v).host = d.host := rfl
@[simp] theorem wrSh_irq (a : Nat) (v : Word) : (d.wrSh a v).irq = d.irq := rfl
@[simp] theorem wrSh_fault (a : Nat) (v : Word) : (d.wrSh a v).fault = d.fault := rfl
@[simp] theorem wrSh_island (a : Nat) (v : Word) : (d.wrSh a v).island = d.island := rfl
@[simp] theorem wrSh_stack (a : Nat) (v : Word) : (d.wrSh a v).stack = d.stack := rfl
@[simp] theorem wrSh_gated (a : Nat) (v : Word) : (d.wrSh a v).gated = d.gated := rfl
@[simp] theorem wrSh_outs (a : Nat) (v : Word) : (d.wrSh a v).outs = d.outs := rfl
@[simp] theorem wrSh_freeCtr (a : Nat) (v : Word) : (d.wrSh a v).freeCtr = d.freeCtr := rfl
@[simp] theorem wrSh_audit (a : Nat) (v : Word) : (d.wrSh a v).audit = d.audit := rfl
@[simp] theorem wrSh_auditOf (a : Nat) (v : Word) : (d.wrSh a v).auditOf = d.auditOf := rfl
@[simp] theorem wrSh_wallHeld (a : Nat) (v : Word) : (d.wrSh a v).wallHeld = d.wallHeld := rfl
@[simp] theorem wrSh_stores (a : Nat) (v : Word) : (d.wrSh a v).stores = d.stores := rfl
@[simp] theorem wrSh_winPend (a : Nat) (v : Word) : (d.wrSh a v).winPend = d.winPend := rfl
/-! cntSet -/
@[simp] theorem cntSet_regs (a : Nat) (v : BitVec 64) : (d.cntSet a v).regs = d.regs := rfl
@[simp] theorem cntSet_shadow (a : Nat) (v : BitVec 64) : (d.cntSet a v).shadow = d.shadow := rfl
@[simp] theorem cntSet_latch (a : Nat) (v : BitVec 64) : (d.cntSet a v).latch = d.latch := rfl
@[simp] theorem cntSet_tabs (a : Nat) (v : BitVec 64) : (d.cntSet a v).tabs = d.tabs := rfl
@[simp] theorem cntSet_shTabs (a : Nat) (v : BitVec 64) : (d.cntSet a v).shTabs = d.shTabs := rfl
@[simp] theorem cntSet_fmem (a : Nat) (v : BitVec 64) : (d.cntSet a v).fmem = d.fmem := rfl
@[simp] theorem cntSet_commit (a : Nat) (v : BitVec 64) : (d.cntSet a v).commit = d.commit := rfl
@[simp] theorem cntSet_loader (a : Nat) (v : BitVec 64) : (d.cntSet a v).loader = d.loader := rfl
@[simp] theorem cntSet_fuses (a : Nat) (v : BitVec 64) : (d.cntSet a v).fuses = d.fuses := rfl
@[simp] theorem cntSet_time (a : Nat) (v : BitVec 64) : (d.cntSet a v).time = d.time := rfl
@[simp] theorem cntSet_lanes (a : Nat) (v : BitVec 64) : (d.cntSet a v).lanes = d.lanes := rfl
@[simp] theorem cntSet_ports (a : Nat) (v : BitVec 64) : (d.cntSet a v).ports = d.ports := rfl
@[simp] theorem cntSet_spars (a : Nat) (v : BitVec 64) : (d.cntSet a v).spars = d.spars := rfl
@[simp] theorem cntSet_slices (a : Nat) (v : BitVec 64) : (d.cntSet a v).slices = d.slices := rfl
@[simp] theorem cntSet_engines (a : Nat) (v : BitVec 64) : (d.cntSet a v).engines = d.engines := rfl
@[simp] theorem cntSet_host (a : Nat) (v : BitVec 64) : (d.cntSet a v).host = d.host := rfl
@[simp] theorem cntSet_irq (a : Nat) (v : BitVec 64) : (d.cntSet a v).irq = d.irq := rfl
@[simp] theorem cntSet_fault (a : Nat) (v : BitVec 64) : (d.cntSet a v).fault = d.fault := rfl
@[simp] theorem cntSet_island (a : Nat) (v : BitVec 64) : (d.cntSet a v).island = d.island := rfl
@[simp] theorem cntSet_stack (a : Nat) (v : BitVec 64) : (d.cntSet a v).stack = d.stack := rfl
@[simp] theorem cntSet_gated (a : Nat) (v : BitVec 64) : (d.cntSet a v).gated = d.gated := rfl
@[simp] theorem cntSet_outs (a : Nat) (v : BitVec 64) : (d.cntSet a v).outs = d.outs := rfl
@[simp] theorem cntSet_freeCtr (a : Nat) (v : BitVec 64) : (d.cntSet a v).freeCtr = d.freeCtr := rfl
@[simp] theorem cntSet_audit (a : Nat) (v : BitVec 64) : (d.cntSet a v).audit = d.audit := rfl
@[simp] theorem cntSet_auditOf (a : Nat) (v : BitVec 64) : (d.cntSet a v).auditOf = d.auditOf := rfl
@[simp] theorem cntSet_wallHeld (a : Nat) (v : BitVec 64) : (d.cntSet a v).wallHeld = d.wallHeld := rfl
@[simp] theorem cntSet_stores (a : Nat) (v : BitVec 64) : (d.cntSet a v).stores = d.stores := rfl
@[simp] theorem cntSet_winPend (a : Nat) (v : BitVec 64) : (d.cntSet a v).winPend = d.winPend := rfl
/-! cntClr -/
@[simp] theorem cntClr_regs (a n : Nat) : (d.cntClr a n).regs = d.regs := rfl
@[simp] theorem cntClr_shadow (a n : Nat) : (d.cntClr a n).shadow = d.shadow := rfl
@[simp] theorem cntClr_latch (a n : Nat) : (d.cntClr a n).latch = d.latch := rfl
@[simp] theorem cntClr_tabs (a n : Nat) : (d.cntClr a n).tabs = d.tabs := rfl
@[simp] theorem cntClr_shTabs (a n : Nat) : (d.cntClr a n).shTabs = d.shTabs := rfl
@[simp] theorem cntClr_fmem (a n : Nat) : (d.cntClr a n).fmem = d.fmem := rfl
@[simp] theorem cntClr_commit (a n : Nat) : (d.cntClr a n).commit = d.commit := rfl
@[simp] theorem cntClr_loader (a n : Nat) : (d.cntClr a n).loader = d.loader := rfl
@[simp] theorem cntClr_fuses (a n : Nat) : (d.cntClr a n).fuses = d.fuses := rfl
@[simp] theorem cntClr_time (a n : Nat) : (d.cntClr a n).time = d.time := rfl
@[simp] theorem cntClr_lanes (a n : Nat) : (d.cntClr a n).lanes = d.lanes := rfl
@[simp] theorem cntClr_ports (a n : Nat) : (d.cntClr a n).ports = d.ports := rfl
@[simp] theorem cntClr_spars (a n : Nat) : (d.cntClr a n).spars = d.spars := rfl
@[simp] theorem cntClr_slices (a n : Nat) : (d.cntClr a n).slices = d.slices := rfl
@[simp] theorem cntClr_engines (a n : Nat) : (d.cntClr a n).engines = d.engines := rfl
@[simp] theorem cntClr_host (a n : Nat) : (d.cntClr a n).host = d.host := rfl
@[simp] theorem cntClr_irq (a n : Nat) : (d.cntClr a n).irq = d.irq := rfl
@[simp] theorem cntClr_fault (a n : Nat) : (d.cntClr a n).fault = d.fault := rfl
@[simp] theorem cntClr_island (a n : Nat) : (d.cntClr a n).island = d.island := rfl
@[simp] theorem cntClr_stack (a n : Nat) : (d.cntClr a n).stack = d.stack := rfl
@[simp] theorem cntClr_gated (a n : Nat) : (d.cntClr a n).gated = d.gated := rfl
@[simp] theorem cntClr_outs (a n : Nat) : (d.cntClr a n).outs = d.outs := rfl
@[simp] theorem cntClr_freeCtr (a n : Nat) : (d.cntClr a n).freeCtr = d.freeCtr := rfl
@[simp] theorem cntClr_audit (a n : Nat) : (d.cntClr a n).audit = d.audit := rfl
@[simp] theorem cntClr_auditOf (a n : Nat) : (d.cntClr a n).auditOf = d.auditOf := rfl
@[simp] theorem cntClr_wallHeld (a n : Nat) : (d.cntClr a n).wallHeld = d.wallHeld := rfl
@[simp] theorem cntClr_stores (a n : Nat) : (d.cntClr a n).stores = d.stores := rfl
@[simp] theorem cntClr_winPend (a n : Nat) : (d.cntClr a n).winPend = d.winPend := rfl
/-! latchSet -/
@[simp] theorem latchSet_regs (a : Nat) (v : Word) : (d.latchSet a v).regs = d.regs := rfl
@[simp] theorem latchSet_shadow (a : Nat) (v : Word) : (d.latchSet a v).shadow = d.shadow := rfl
@[simp] theorem latchSet_cnts (a : Nat) (v : Word) : (d.latchSet a v).cnts = d.cnts := rfl
@[simp] theorem latchSet_tabs (a : Nat) (v : Word) : (d.latchSet a v).tabs = d.tabs := rfl
@[simp] theorem latchSet_shTabs (a : Nat) (v : Word) : (d.latchSet a v).shTabs = d.shTabs := rfl
@[simp] theorem latchSet_fmem (a : Nat) (v : Word) : (d.latchSet a v).fmem = d.fmem := rfl
@[simp] theorem latchSet_commit (a : Nat) (v : Word) : (d.latchSet a v).commit = d.commit := rfl
@[simp] theorem latchSet_loader (a : Nat) (v : Word) : (d.latchSet a v).loader = d.loader := rfl
@[simp] theorem latchSet_fuses (a : Nat) (v : Word) : (d.latchSet a v).fuses = d.fuses := rfl
@[simp] theorem latchSet_time (a : Nat) (v : Word) : (d.latchSet a v).time = d.time := rfl
@[simp] theorem latchSet_lanes (a : Nat) (v : Word) : (d.latchSet a v).lanes = d.lanes := rfl
@[simp] theorem latchSet_ports (a : Nat) (v : Word) : (d.latchSet a v).ports = d.ports := rfl
@[simp] theorem latchSet_spars (a : Nat) (v : Word) : (d.latchSet a v).spars = d.spars := rfl
@[simp] theorem latchSet_slices (a : Nat) (v : Word) : (d.latchSet a v).slices = d.slices := rfl
@[simp] theorem latchSet_engines (a : Nat) (v : Word) : (d.latchSet a v).engines = d.engines := rfl
@[simp] theorem latchSet_host (a : Nat) (v : Word) : (d.latchSet a v).host = d.host := rfl
@[simp] theorem latchSet_irq (a : Nat) (v : Word) : (d.latchSet a v).irq = d.irq := rfl
@[simp] theorem latchSet_fault (a : Nat) (v : Word) : (d.latchSet a v).fault = d.fault := rfl
@[simp] theorem latchSet_island (a : Nat) (v : Word) : (d.latchSet a v).island = d.island := rfl
@[simp] theorem latchSet_stack (a : Nat) (v : Word) : (d.latchSet a v).stack = d.stack := rfl
@[simp] theorem latchSet_gated (a : Nat) (v : Word) : (d.latchSet a v).gated = d.gated := rfl
@[simp] theorem latchSet_outs (a : Nat) (v : Word) : (d.latchSet a v).outs = d.outs := rfl
@[simp] theorem latchSet_freeCtr (a : Nat) (v : Word) : (d.latchSet a v).freeCtr = d.freeCtr := rfl
@[simp] theorem latchSet_audit (a : Nat) (v : Word) : (d.latchSet a v).audit = d.audit := rfl
@[simp] theorem latchSet_auditOf (a : Nat) (v : Word) : (d.latchSet a v).auditOf = d.auditOf := rfl
@[simp] theorem latchSet_wallHeld (a : Nat) (v : Word) : (d.latchSet a v).wallHeld = d.wallHeld := rfl
@[simp] theorem latchSet_stores (a : Nat) (v : Word) : (d.latchSet a v).stores = d.stores := rfl
@[simp] theorem latchSet_winPend (a : Nat) (v : Word) : (d.latchSet a v).winPend = d.winPend := rfl
/-! tabSet -/
@[simp] theorem tabSet_regs (id n k : Nat) (ws : List Word) : (d.tabSet id n k ws).regs = d.regs := rfl
@[simp] theorem tabSet_shadow (id n k : Nat) (ws : List Word) : (d.tabSet id n k ws).shadow = d.shadow := rfl
@[simp] theorem tabSet_cnts (id n k : Nat) (ws : List Word) : (d.tabSet id n k ws).cnts = d.cnts := rfl
@[simp] theorem tabSet_latch (id n k : Nat) (ws : List Word) : (d.tabSet id n k ws).latch = d.latch := rfl
@[simp] theorem tabSet_shTabs (id n k : Nat) (ws : List Word) : (d.tabSet id n k ws).shTabs = d.shTabs := rfl
@[simp] theorem tabSet_fmem (id n k : Nat) (ws : List Word) : (d.tabSet id n k ws).fmem = d.fmem := rfl
@[simp] theorem tabSet_commit (id n k : Nat) (ws : List Word) : (d.tabSet id n k ws).commit = d.commit := rfl
@[simp] theorem tabSet_loader (id n k : Nat) (ws : List Word) : (d.tabSet id n k ws).loader = d.loader := rfl
@[simp] theorem tabSet_fuses (id n k : Nat) (ws : List Word) : (d.tabSet id n k ws).fuses = d.fuses := rfl
@[simp] theorem tabSet_time (id n k : Nat) (ws : List Word) : (d.tabSet id n k ws).time = d.time := rfl
@[simp] theorem tabSet_lanes (id n k : Nat) (ws : List Word) : (d.tabSet id n k ws).lanes = d.lanes := rfl
@[simp] theorem tabSet_ports (id n k : Nat) (ws : List Word) : (d.tabSet id n k ws).ports = d.ports := rfl
@[simp] theorem tabSet_spars (id n k : Nat) (ws : List Word) : (d.tabSet id n k ws).spars = d.spars := rfl
@[simp] theorem tabSet_slices (id n k : Nat) (ws : List Word) : (d.tabSet id n k ws).slices = d.slices := rfl
@[simp] theorem tabSet_engines (id n k : Nat) (ws : List Word) : (d.tabSet id n k ws).engines = d.engines := rfl
@[simp] theorem tabSet_host (id n k : Nat) (ws : List Word) : (d.tabSet id n k ws).host = d.host := rfl
@[simp] theorem tabSet_irq (id n k : Nat) (ws : List Word) : (d.tabSet id n k ws).irq = d.irq := rfl
@[simp] theorem tabSet_fault (id n k : Nat) (ws : List Word) : (d.tabSet id n k ws).fault = d.fault := rfl
@[simp] theorem tabSet_island (id n k : Nat) (ws : List Word) : (d.tabSet id n k ws).island = d.island := rfl
@[simp] theorem tabSet_stack (id n k : Nat) (ws : List Word) : (d.tabSet id n k ws).stack = d.stack := rfl
@[simp] theorem tabSet_gated (id n k : Nat) (ws : List Word) : (d.tabSet id n k ws).gated = d.gated := rfl
@[simp] theorem tabSet_outs (id n k : Nat) (ws : List Word) : (d.tabSet id n k ws).outs = d.outs := rfl
@[simp] theorem tabSet_freeCtr (id n k : Nat) (ws : List Word) : (d.tabSet id n k ws).freeCtr = d.freeCtr := rfl
@[simp] theorem tabSet_audit (id n k : Nat) (ws : List Word) : (d.tabSet id n k ws).audit = d.audit := rfl
@[simp] theorem tabSet_auditOf (id n k : Nat) (ws : List Word) : (d.tabSet id n k ws).auditOf = d.auditOf := rfl
@[simp] theorem tabSet_wallHeld (id n k : Nat) (ws : List Word) : (d.tabSet id n k ws).wallHeld = d.wallHeld := rfl
@[simp] theorem tabSet_stores (id n k : Nat) (ws : List Word) : (d.tabSet id n k ws).stores = d.stores := rfl
@[simp] theorem tabSet_winPend (id n k : Nat) (ws : List Word) : (d.tabSet id n k ws).winPend = d.winPend := rfl
/-! shTabPut -/
@[simp] theorem shTabPut_regs (k : Nat) (ws : List Word) : (d.shTabPut k ws).regs = d.regs := rfl
@[simp] theorem shTabPut_shadow (k : Nat) (ws : List Word) : (d.shTabPut k ws).shadow = d.shadow := rfl
@[simp] theorem shTabPut_cnts (k : Nat) (ws : List Word) : (d.shTabPut k ws).cnts = d.cnts := rfl
@[simp] theorem shTabPut_latch (k : Nat) (ws : List Word) : (d.shTabPut k ws).latch = d.latch := rfl
@[simp] theorem shTabPut_tabs (k : Nat) (ws : List Word) : (d.shTabPut k ws).tabs = d.tabs := rfl
@[simp] theorem shTabPut_fmem (k : Nat) (ws : List Word) : (d.shTabPut k ws).fmem = d.fmem := rfl
@[simp] theorem shTabPut_commit (k : Nat) (ws : List Word) : (d.shTabPut k ws).commit = d.commit := rfl
@[simp] theorem shTabPut_loader (k : Nat) (ws : List Word) : (d.shTabPut k ws).loader = d.loader := rfl
@[simp] theorem shTabPut_fuses (k : Nat) (ws : List Word) : (d.shTabPut k ws).fuses = d.fuses := rfl
@[simp] theorem shTabPut_time (k : Nat) (ws : List Word) : (d.shTabPut k ws).time = d.time := rfl
@[simp] theorem shTabPut_lanes (k : Nat) (ws : List Word) : (d.shTabPut k ws).lanes = d.lanes := rfl
@[simp] theorem shTabPut_ports (k : Nat) (ws : List Word) : (d.shTabPut k ws).ports = d.ports := rfl
@[simp] theorem shTabPut_spars (k : Nat) (ws : List Word) : (d.shTabPut k ws).spars = d.spars := rfl
@[simp] theorem shTabPut_slices (k : Nat) (ws : List Word) : (d.shTabPut k ws).slices = d.slices := rfl
@[simp] theorem shTabPut_engines (k : Nat) (ws : List Word) : (d.shTabPut k ws).engines = d.engines := rfl
@[simp] theorem shTabPut_host (k : Nat) (ws : List Word) : (d.shTabPut k ws).host = d.host := rfl
@[simp] theorem shTabPut_irq (k : Nat) (ws : List Word) : (d.shTabPut k ws).irq = d.irq := rfl
@[simp] theorem shTabPut_fault (k : Nat) (ws : List Word) : (d.shTabPut k ws).fault = d.fault := rfl
@[simp] theorem shTabPut_island (k : Nat) (ws : List Word) : (d.shTabPut k ws).island = d.island := rfl
@[simp] theorem shTabPut_stack (k : Nat) (ws : List Word) : (d.shTabPut k ws).stack = d.stack := rfl
@[simp] theorem shTabPut_gated (k : Nat) (ws : List Word) : (d.shTabPut k ws).gated = d.gated := rfl
@[simp] theorem shTabPut_outs (k : Nat) (ws : List Word) : (d.shTabPut k ws).outs = d.outs := rfl
@[simp] theorem shTabPut_freeCtr (k : Nat) (ws : List Word) : (d.shTabPut k ws).freeCtr = d.freeCtr := rfl
@[simp] theorem shTabPut_audit (k : Nat) (ws : List Word) : (d.shTabPut k ws).audit = d.audit := rfl
@[simp] theorem shTabPut_auditOf (k : Nat) (ws : List Word) : (d.shTabPut k ws).auditOf = d.auditOf := rfl
@[simp] theorem shTabPut_wallHeld (k : Nat) (ws : List Word) : (d.shTabPut k ws).wallHeld = d.wallHeld := rfl
@[simp] theorem shTabPut_stores (k : Nat) (ws : List Word) : (d.shTabPut k ws).stores = d.stores := rfl
@[simp] theorem shTabPut_winPend (k : Nat) (ws : List Word) : (d.shTabPut k ws).winPend = d.winPend := rfl
/-! updLane -/
@[simp] theorem updLane_regs (l : Nat) (f : Lane → Lane) : (d.updLane l f).regs = d.regs := rfl
@[simp] theorem updLane_shadow (l : Nat) (f : Lane → Lane) : (d.updLane l f).shadow = d.shadow := rfl
@[simp] theorem updLane_cnts (l : Nat) (f : Lane → Lane) : (d.updLane l f).cnts = d.cnts := rfl
@[simp] theorem updLane_latch (l : Nat) (f : Lane → Lane) : (d.updLane l f).latch = d.latch := rfl
@[simp] theorem updLane_tabs (l : Nat) (f : Lane → Lane) : (d.updLane l f).tabs = d.tabs := rfl
@[simp] theorem updLane_shTabs (l : Nat) (f : Lane → Lane) : (d.updLane l f).shTabs = d.shTabs := rfl
@[simp] theorem updLane_fmem (l : Nat) (f : Lane → Lane) : (d.updLane l f).fmem = d.fmem := rfl
@[simp] theorem updLane_commit (l : Nat) (f : Lane → Lane) : (d.updLane l f).commit = d.commit := rfl
@[simp] theorem updLane_loader (l : Nat) (f : Lane → Lane) : (d.updLane l f).loader = d.loader := rfl
@[simp] theorem updLane_fuses (l : Nat) (f : Lane → Lane) : (d.updLane l f).fuses = d.fuses := rfl
@[simp] theorem updLane_time (l : Nat) (f : Lane → Lane) : (d.updLane l f).time = d.time := rfl
@[simp] theorem updLane_ports (l : Nat) (f : Lane → Lane) : (d.updLane l f).ports = d.ports := rfl
@[simp] theorem updLane_spars (l : Nat) (f : Lane → Lane) : (d.updLane l f).spars = d.spars := rfl
@[simp] theorem updLane_slices (l : Nat) (f : Lane → Lane) : (d.updLane l f).slices = d.slices := rfl
@[simp] theorem updLane_engines (l : Nat) (f : Lane → Lane) : (d.updLane l f).engines = d.engines := rfl
@[simp] theorem updLane_host (l : Nat) (f : Lane → Lane) : (d.updLane l f).host = d.host := rfl
@[simp] theorem updLane_irq (l : Nat) (f : Lane → Lane) : (d.updLane l f).irq = d.irq := rfl
@[simp] theorem updLane_fault (l : Nat) (f : Lane → Lane) : (d.updLane l f).fault = d.fault := rfl
@[simp] theorem updLane_island (l : Nat) (f : Lane → Lane) : (d.updLane l f).island = d.island := rfl
@[simp] theorem updLane_stack (l : Nat) (f : Lane → Lane) : (d.updLane l f).stack = d.stack := rfl
@[simp] theorem updLane_gated (l : Nat) (f : Lane → Lane) : (d.updLane l f).gated = d.gated := rfl
@[simp] theorem updLane_outs (l : Nat) (f : Lane → Lane) : (d.updLane l f).outs = d.outs := rfl
@[simp] theorem updLane_freeCtr (l : Nat) (f : Lane → Lane) : (d.updLane l f).freeCtr = d.freeCtr := rfl
@[simp] theorem updLane_audit (l : Nat) (f : Lane → Lane) : (d.updLane l f).audit = d.audit := rfl
@[simp] theorem updLane_auditOf (l : Nat) (f : Lane → Lane) : (d.updLane l f).auditOf = d.auditOf := rfl
@[simp] theorem updLane_wallHeld (l : Nat) (f : Lane → Lane) : (d.updLane l f).wallHeld = d.wallHeld := rfl
@[simp] theorem updLane_stores (l : Nat) (f : Lane → Lane) : (d.updLane l f).stores = d.stores := rfl
@[simp] theorem updLane_winPend (l : Nat) (f : Lane → Lane) : (d.updLane l f).winPend = d.winPend := rfl
/-! updPort -/
@[simp] theorem updPort_regs (p : Nat) (f : Port → Port) : (d.updPort p f).regs = d.regs := rfl
@[simp] theorem updPort_shadow (p : Nat) (f : Port → Port) : (d.updPort p f).shadow = d.shadow := rfl
@[simp] theorem updPort_cnts (p : Nat) (f : Port → Port) : (d.updPort p f).cnts = d.cnts := rfl
@[simp] theorem updPort_latch (p : Nat) (f : Port → Port) : (d.updPort p f).latch = d.latch := rfl
@[simp] theorem updPort_tabs (p : Nat) (f : Port → Port) : (d.updPort p f).tabs = d.tabs := rfl
@[simp] theorem updPort_shTabs (p : Nat) (f : Port → Port) : (d.updPort p f).shTabs = d.shTabs := rfl
@[simp] theorem updPort_fmem (p : Nat) (f : Port → Port) : (d.updPort p f).fmem = d.fmem := rfl
@[simp] theorem updPort_commit (p : Nat) (f : Port → Port) : (d.updPort p f).commit = d.commit := rfl
@[simp] theorem updPort_loader (p : Nat) (f : Port → Port) : (d.updPort p f).loader = d.loader := rfl
@[simp] theorem updPort_fuses (p : Nat) (f : Port → Port) : (d.updPort p f).fuses = d.fuses := rfl
@[simp] theorem updPort_time (p : Nat) (f : Port → Port) : (d.updPort p f).time = d.time := rfl
@[simp] theorem updPort_lanes (p : Nat) (f : Port → Port) : (d.updPort p f).lanes = d.lanes := rfl
@[simp] theorem updPort_spars (p : Nat) (f : Port → Port) : (d.updPort p f).spars = d.spars := rfl
@[simp] theorem updPort_slices (p : Nat) (f : Port → Port) : (d.updPort p f).slices = d.slices := rfl
@[simp] theorem updPort_engines (p : Nat) (f : Port → Port) : (d.updPort p f).engines = d.engines := rfl
@[simp] theorem updPort_host (p : Nat) (f : Port → Port) : (d.updPort p f).host = d.host := rfl
@[simp] theorem updPort_irq (p : Nat) (f : Port → Port) : (d.updPort p f).irq = d.irq := rfl
@[simp] theorem updPort_fault (p : Nat) (f : Port → Port) : (d.updPort p f).fault = d.fault := rfl
@[simp] theorem updPort_island (p : Nat) (f : Port → Port) : (d.updPort p f).island = d.island := rfl
@[simp] theorem updPort_stack (p : Nat) (f : Port → Port) : (d.updPort p f).stack = d.stack := rfl
@[simp] theorem updPort_gated (p : Nat) (f : Port → Port) : (d.updPort p f).gated = d.gated := rfl
@[simp] theorem updPort_outs (p : Nat) (f : Port → Port) : (d.updPort p f).outs = d.outs := rfl
@[simp] theorem updPort_freeCtr (p : Nat) (f : Port → Port) : (d.updPort p f).freeCtr = d.freeCtr := rfl
@[simp] theorem updPort_audit (p : Nat) (f : Port → Port) : (d.updPort p f).audit = d.audit := rfl
@[simp] theorem updPort_auditOf (p : Nat) (f : Port → Port) : (d.updPort p f).auditOf = d.auditOf := rfl
@[simp] theorem updPort_wallHeld (p : Nat) (f : Port → Port) : (d.updPort p f).wallHeld = d.wallHeld := rfl
@[simp] theorem updPort_stores (p : Nat) (f : Port → Port) : (d.updPort p f).stores = d.stores := rfl
@[simp] theorem updPort_winPend (p : Nat) (f : Port → Port) : (d.updPort p f).winPend = d.winPend := rfl
/-! updSpar -/
@[simp] theorem updSpar_regs (n : Nat) (f : Spar → Spar) : (d.updSpar n f).regs = d.regs := rfl
@[simp] theorem updSpar_shadow (n : Nat) (f : Spar → Spar) : (d.updSpar n f).shadow = d.shadow := rfl
@[simp] theorem updSpar_cnts (n : Nat) (f : Spar → Spar) : (d.updSpar n f).cnts = d.cnts := rfl
@[simp] theorem updSpar_latch (n : Nat) (f : Spar → Spar) : (d.updSpar n f).latch = d.latch := rfl
@[simp] theorem updSpar_tabs (n : Nat) (f : Spar → Spar) : (d.updSpar n f).tabs = d.tabs := rfl
@[simp] theorem updSpar_shTabs (n : Nat) (f : Spar → Spar) : (d.updSpar n f).shTabs = d.shTabs := rfl
@[simp] theorem updSpar_fmem (n : Nat) (f : Spar → Spar) : (d.updSpar n f).fmem = d.fmem := rfl
@[simp] theorem updSpar_commit (n : Nat) (f : Spar → Spar) : (d.updSpar n f).commit = d.commit := rfl
@[simp] theorem updSpar_loader (n : Nat) (f : Spar → Spar) : (d.updSpar n f).loader = d.loader := rfl
@[simp] theorem updSpar_fuses (n : Nat) (f : Spar → Spar) : (d.updSpar n f).fuses = d.fuses := rfl
@[simp] theorem updSpar_time (n : Nat) (f : Spar → Spar) : (d.updSpar n f).time = d.time := rfl
@[simp] theorem updSpar_lanes (n : Nat) (f : Spar → Spar) : (d.updSpar n f).lanes = d.lanes := rfl
@[simp] theorem updSpar_ports (n : Nat) (f : Spar → Spar) : (d.updSpar n f).ports = d.ports := rfl
@[simp] theorem updSpar_slices (n : Nat) (f : Spar → Spar) : (d.updSpar n f).slices = d.slices := rfl
@[simp] theorem updSpar_engines (n : Nat) (f : Spar → Spar) : (d.updSpar n f).engines = d.engines := rfl
@[simp] theorem updSpar_host (n : Nat) (f : Spar → Spar) : (d.updSpar n f).host = d.host := rfl
@[simp] theorem updSpar_irq (n : Nat) (f : Spar → Spar) : (d.updSpar n f).irq = d.irq := rfl
@[simp] theorem updSpar_fault (n : Nat) (f : Spar → Spar) : (d.updSpar n f).fault = d.fault := rfl
@[simp] theorem updSpar_island (n : Nat) (f : Spar → Spar) : (d.updSpar n f).island = d.island := rfl
@[simp] theorem updSpar_stack (n : Nat) (f : Spar → Spar) : (d.updSpar n f).stack = d.stack := rfl
@[simp] theorem updSpar_gated (n : Nat) (f : Spar → Spar) : (d.updSpar n f).gated = d.gated := rfl
@[simp] theorem updSpar_outs (n : Nat) (f : Spar → Spar) : (d.updSpar n f).outs = d.outs := rfl
@[simp] theorem updSpar_freeCtr (n : Nat) (f : Spar → Spar) : (d.updSpar n f).freeCtr = d.freeCtr := rfl
@[simp] theorem updSpar_audit (n : Nat) (f : Spar → Spar) : (d.updSpar n f).audit = d.audit := rfl
@[simp] theorem updSpar_auditOf (n : Nat) (f : Spar → Spar) : (d.updSpar n f).auditOf = d.auditOf := rfl
@[simp] theorem updSpar_wallHeld (n : Nat) (f : Spar → Spar) : (d.updSpar n f).wallHeld = d.wallHeld := rfl
@[simp] theorem updSpar_stores (n : Nat) (f : Spar → Spar) : (d.updSpar n f).stores = d.stores := rfl
@[simp] theorem updSpar_winPend (n : Nat) (f : Spar → Spar) : (d.updSpar n f).winPend = d.winPend := rfl
/-! updSlice -/
@[simp] theorem updSlice_regs (m : Nat) (f : Slice → Slice) : (d.updSlice m f).regs = d.regs := rfl
@[simp] theorem updSlice_shadow (m : Nat) (f : Slice → Slice) : (d.updSlice m f).shadow = d.shadow := rfl
@[simp] theorem updSlice_cnts (m : Nat) (f : Slice → Slice) : (d.updSlice m f).cnts = d.cnts := rfl
@[simp] theorem updSlice_latch (m : Nat) (f : Slice → Slice) : (d.updSlice m f).latch = d.latch := rfl
@[simp] theorem updSlice_tabs (m : Nat) (f : Slice → Slice) : (d.updSlice m f).tabs = d.tabs := rfl
@[simp] theorem updSlice_shTabs (m : Nat) (f : Slice → Slice) : (d.updSlice m f).shTabs = d.shTabs := rfl
@[simp] theorem updSlice_fmem (m : Nat) (f : Slice → Slice) : (d.updSlice m f).fmem = d.fmem := rfl
@[simp] theorem updSlice_commit (m : Nat) (f : Slice → Slice) : (d.updSlice m f).commit = d.commit := rfl
@[simp] theorem updSlice_loader (m : Nat) (f : Slice → Slice) : (d.updSlice m f).loader = d.loader := rfl
@[simp] theorem updSlice_fuses (m : Nat) (f : Slice → Slice) : (d.updSlice m f).fuses = d.fuses := rfl
@[simp] theorem updSlice_time (m : Nat) (f : Slice → Slice) : (d.updSlice m f).time = d.time := rfl
@[simp] theorem updSlice_lanes (m : Nat) (f : Slice → Slice) : (d.updSlice m f).lanes = d.lanes := rfl
@[simp] theorem updSlice_ports (m : Nat) (f : Slice → Slice) : (d.updSlice m f).ports = d.ports := rfl
@[simp] theorem updSlice_spars (m : Nat) (f : Slice → Slice) : (d.updSlice m f).spars = d.spars := rfl
@[simp] theorem updSlice_engines (m : Nat) (f : Slice → Slice) : (d.updSlice m f).engines = d.engines := rfl
@[simp] theorem updSlice_host (m : Nat) (f : Slice → Slice) : (d.updSlice m f).host = d.host := rfl
@[simp] theorem updSlice_irq (m : Nat) (f : Slice → Slice) : (d.updSlice m f).irq = d.irq := rfl
@[simp] theorem updSlice_fault (m : Nat) (f : Slice → Slice) : (d.updSlice m f).fault = d.fault := rfl
@[simp] theorem updSlice_island (m : Nat) (f : Slice → Slice) : (d.updSlice m f).island = d.island := rfl
@[simp] theorem updSlice_stack (m : Nat) (f : Slice → Slice) : (d.updSlice m f).stack = d.stack := rfl
@[simp] theorem updSlice_gated (m : Nat) (f : Slice → Slice) : (d.updSlice m f).gated = d.gated := rfl
@[simp] theorem updSlice_outs (m : Nat) (f : Slice → Slice) : (d.updSlice m f).outs = d.outs := rfl
@[simp] theorem updSlice_freeCtr (m : Nat) (f : Slice → Slice) : (d.updSlice m f).freeCtr = d.freeCtr := rfl
@[simp] theorem updSlice_audit (m : Nat) (f : Slice → Slice) : (d.updSlice m f).audit = d.audit := rfl
@[simp] theorem updSlice_auditOf (m : Nat) (f : Slice → Slice) : (d.updSlice m f).auditOf = d.auditOf := rfl
@[simp] theorem updSlice_wallHeld (m : Nat) (f : Slice → Slice) : (d.updSlice m f).wallHeld = d.wallHeld := rfl
@[simp] theorem updSlice_stores (m : Nat) (f : Slice → Slice) : (d.updSlice m f).stores = d.stores := rfl
@[simp] theorem updSlice_winPend (m : Nat) (f : Slice → Slice) : (d.updSlice m f).winPend = d.winPend := rfl
/-! updEngine -/
@[simp] theorem updEngine_regs (e : Nat) (f : Engine → Engine) : (d.updEngine e f).regs = d.regs := rfl
@[simp] theorem updEngine_shadow (e : Nat) (f : Engine → Engine) : (d.updEngine e f).shadow = d.shadow := rfl
@[simp] theorem updEngine_cnts (e : Nat) (f : Engine → Engine) : (d.updEngine e f).cnts = d.cnts := rfl
@[simp] theorem updEngine_latch (e : Nat) (f : Engine → Engine) : (d.updEngine e f).latch = d.latch := rfl
@[simp] theorem updEngine_tabs (e : Nat) (f : Engine → Engine) : (d.updEngine e f).tabs = d.tabs := rfl
@[simp] theorem updEngine_shTabs (e : Nat) (f : Engine → Engine) : (d.updEngine e f).shTabs = d.shTabs := rfl
@[simp] theorem updEngine_fmem (e : Nat) (f : Engine → Engine) : (d.updEngine e f).fmem = d.fmem := rfl
@[simp] theorem updEngine_commit (e : Nat) (f : Engine → Engine) : (d.updEngine e f).commit = d.commit := rfl
@[simp] theorem updEngine_loader (e : Nat) (f : Engine → Engine) : (d.updEngine e f).loader = d.loader := rfl
@[simp] theorem updEngine_fuses (e : Nat) (f : Engine → Engine) : (d.updEngine e f).fuses = d.fuses := rfl
@[simp] theorem updEngine_time (e : Nat) (f : Engine → Engine) : (d.updEngine e f).time = d.time := rfl
@[simp] theorem updEngine_lanes (e : Nat) (f : Engine → Engine) : (d.updEngine e f).lanes = d.lanes := rfl
@[simp] theorem updEngine_ports (e : Nat) (f : Engine → Engine) : (d.updEngine e f).ports = d.ports := rfl
@[simp] theorem updEngine_spars (e : Nat) (f : Engine → Engine) : (d.updEngine e f).spars = d.spars := rfl
@[simp] theorem updEngine_slices (e : Nat) (f : Engine → Engine) : (d.updEngine e f).slices = d.slices := rfl
@[simp] theorem updEngine_host (e : Nat) (f : Engine → Engine) : (d.updEngine e f).host = d.host := rfl
@[simp] theorem updEngine_irq (e : Nat) (f : Engine → Engine) : (d.updEngine e f).irq = d.irq := rfl
@[simp] theorem updEngine_fault (e : Nat) (f : Engine → Engine) : (d.updEngine e f).fault = d.fault := rfl
@[simp] theorem updEngine_island (e : Nat) (f : Engine → Engine) : (d.updEngine e f).island = d.island := rfl
@[simp] theorem updEngine_stack (e : Nat) (f : Engine → Engine) : (d.updEngine e f).stack = d.stack := rfl
@[simp] theorem updEngine_gated (e : Nat) (f : Engine → Engine) : (d.updEngine e f).gated = d.gated := rfl
@[simp] theorem updEngine_outs (e : Nat) (f : Engine → Engine) : (d.updEngine e f).outs = d.outs := rfl
@[simp] theorem updEngine_freeCtr (e : Nat) (f : Engine → Engine) : (d.updEngine e f).freeCtr = d.freeCtr := rfl
@[simp] theorem updEngine_audit (e : Nat) (f : Engine → Engine) : (d.updEngine e f).audit = d.audit := rfl
@[simp] theorem updEngine_auditOf (e : Nat) (f : Engine → Engine) : (d.updEngine e f).auditOf = d.auditOf := rfl
@[simp] theorem updEngine_wallHeld (e : Nat) (f : Engine → Engine) : (d.updEngine e f).wallHeld = d.wallHeld := rfl
@[simp] theorem updEngine_stores (e : Nat) (f : Engine → Engine) : (d.updEngine e f).stores = d.stores := rfl
@[simp] theorem updEngine_winPend (e : Nat) (f : Engine → Engine) : (d.updEngine e f).winPend = d.winPend := rfl
/-! updHost -/
@[simp] theorem updHost_regs (f : HostQ → HostQ) : (d.updHost f).regs = d.regs := rfl
@[simp] theorem updHost_shadow (f : HostQ → HostQ) : (d.updHost f).shadow = d.shadow := rfl
@[simp] theorem updHost_cnts (f : HostQ → HostQ) : (d.updHost f).cnts = d.cnts := rfl
@[simp] theorem updHost_latch (f : HostQ → HostQ) : (d.updHost f).latch = d.latch := rfl
@[simp] theorem updHost_tabs (f : HostQ → HostQ) : (d.updHost f).tabs = d.tabs := rfl
@[simp] theorem updHost_shTabs (f : HostQ → HostQ) : (d.updHost f).shTabs = d.shTabs := rfl
@[simp] theorem updHost_fmem (f : HostQ → HostQ) : (d.updHost f).fmem = d.fmem := rfl
@[simp] theorem updHost_commit (f : HostQ → HostQ) : (d.updHost f).commit = d.commit := rfl
@[simp] theorem updHost_loader (f : HostQ → HostQ) : (d.updHost f).loader = d.loader := rfl
@[simp] theorem updHost_fuses (f : HostQ → HostQ) : (d.updHost f).fuses = d.fuses := rfl
@[simp] theorem updHost_time (f : HostQ → HostQ) : (d.updHost f).time = d.time := rfl
@[simp] theorem updHost_lanes (f : HostQ → HostQ) : (d.updHost f).lanes = d.lanes := rfl
@[simp] theorem updHost_ports (f : HostQ → HostQ) : (d.updHost f).ports = d.ports := rfl
@[simp] theorem updHost_spars (f : HostQ → HostQ) : (d.updHost f).spars = d.spars := rfl
@[simp] theorem updHost_slices (f : HostQ → HostQ) : (d.updHost f).slices = d.slices := rfl
@[simp] theorem updHost_engines (f : HostQ → HostQ) : (d.updHost f).engines = d.engines := rfl
@[simp] theorem updHost_irq (f : HostQ → HostQ) : (d.updHost f).irq = d.irq := rfl
@[simp] theorem updHost_fault (f : HostQ → HostQ) : (d.updHost f).fault = d.fault := rfl
@[simp] theorem updHost_island (f : HostQ → HostQ) : (d.updHost f).island = d.island := rfl
@[simp] theorem updHost_stack (f : HostQ → HostQ) : (d.updHost f).stack = d.stack := rfl
@[simp] theorem updHost_gated (f : HostQ → HostQ) : (d.updHost f).gated = d.gated := rfl
@[simp] theorem updHost_outs (f : HostQ → HostQ) : (d.updHost f).outs = d.outs := rfl
@[simp] theorem updHost_freeCtr (f : HostQ → HostQ) : (d.updHost f).freeCtr = d.freeCtr := rfl
@[simp] theorem updHost_audit (f : HostQ → HostQ) : (d.updHost f).audit = d.audit := rfl
@[simp] theorem updHost_auditOf (f : HostQ → HostQ) : (d.updHost f).auditOf = d.auditOf := rfl
@[simp] theorem updHost_wallHeld (f : HostQ → HostQ) : (d.updHost f).wallHeld = d.wallHeld := rfl
@[simp] theorem updHost_stores (f : HostQ → HostQ) : (d.updHost f).stores = d.stores := rfl
@[simp] theorem updHost_winPend (f : HostQ → HostQ) : (d.updHost f).winPend = d.winPend := rfl
/-! updLink -/
@[simp] theorem updLink_regs (n : Nat) (f : Link → Link) : (d.updLink n f).regs = d.regs := rfl
@[simp] theorem updLink_shadow (n : Nat) (f : Link → Link) : (d.updLink n f).shadow = d.shadow := rfl
@[simp] theorem updLink_cnts (n : Nat) (f : Link → Link) : (d.updLink n f).cnts = d.cnts := rfl
@[simp] theorem updLink_latch (n : Nat) (f : Link → Link) : (d.updLink n f).latch = d.latch := rfl
@[simp] theorem updLink_tabs (n : Nat) (f : Link → Link) : (d.updLink n f).tabs = d.tabs := rfl
@[simp] theorem updLink_shTabs (n : Nat) (f : Link → Link) : (d.updLink n f).shTabs = d.shTabs := rfl
@[simp] theorem updLink_fmem (n : Nat) (f : Link → Link) : (d.updLink n f).fmem = d.fmem := rfl
@[simp] theorem updLink_commit (n : Nat) (f : Link → Link) : (d.updLink n f).commit = d.commit := rfl
@[simp] theorem updLink_loader (n : Nat) (f : Link → Link) : (d.updLink n f).loader = d.loader := rfl
@[simp] theorem updLink_fuses (n : Nat) (f : Link → Link) : (d.updLink n f).fuses = d.fuses := rfl
@[simp] theorem updLink_time (n : Nat) (f : Link → Link) : (d.updLink n f).time = d.time := rfl
@[simp] theorem updLink_lanes (n : Nat) (f : Link → Link) : (d.updLink n f).lanes = d.lanes := rfl
@[simp] theorem updLink_ports (n : Nat) (f : Link → Link) : (d.updLink n f).ports = d.ports := rfl
@[simp] theorem updLink_spars (n : Nat) (f : Link → Link) : (d.updLink n f).spars = d.spars := rfl
@[simp] theorem updLink_slices (n : Nat) (f : Link → Link) : (d.updLink n f).slices = d.slices := rfl
@[simp] theorem updLink_engines (n : Nat) (f : Link → Link) : (d.updLink n f).engines = d.engines := rfl
@[simp] theorem updLink_host (n : Nat) (f : Link → Link) : (d.updLink n f).host = d.host := rfl
@[simp] theorem updLink_irq (n : Nat) (f : Link → Link) : (d.updLink n f).irq = d.irq := rfl
@[simp] theorem updLink_fault (n : Nat) (f : Link → Link) : (d.updLink n f).fault = d.fault := rfl
@[simp] theorem updLink_island (n : Nat) (f : Link → Link) : (d.updLink n f).island = d.island := rfl
@[simp] theorem updLink_gated (n : Nat) (f : Link → Link) : (d.updLink n f).gated = d.gated := rfl
@[simp] theorem updLink_outs (n : Nat) (f : Link → Link) : (d.updLink n f).outs = d.outs := rfl
@[simp] theorem updLink_freeCtr (n : Nat) (f : Link → Link) : (d.updLink n f).freeCtr = d.freeCtr := rfl
@[simp] theorem updLink_audit (n : Nat) (f : Link → Link) : (d.updLink n f).audit = d.audit := rfl
@[simp] theorem updLink_auditOf (n : Nat) (f : Link → Link) : (d.updLink n f).auditOf = d.auditOf := rfl
@[simp] theorem updLink_wallHeld (n : Nat) (f : Link → Link) : (d.updLink n f).wallHeld = d.wallHeld := rfl
@[simp] theorem updLink_stores (n : Nat) (f : Link → Link) : (d.updLink n f).stores = d.stores := rfl
@[simp] theorem updLink_winPend (n : Nat) (f : Link → Link) : (d.updLink n f).winPend = d.winPend := rfl
/-! emit -/
@[simp] theorem emit_regs (o : Output) : (d.emit o).regs = d.regs := rfl
@[simp] theorem emit_shadow (o : Output) : (d.emit o).shadow = d.shadow := rfl
@[simp] theorem emit_cnts (o : Output) : (d.emit o).cnts = d.cnts := rfl
@[simp] theorem emit_latch (o : Output) : (d.emit o).latch = d.latch := rfl
@[simp] theorem emit_tabs (o : Output) : (d.emit o).tabs = d.tabs := rfl
@[simp] theorem emit_shTabs (o : Output) : (d.emit o).shTabs = d.shTabs := rfl
@[simp] theorem emit_fmem (o : Output) : (d.emit o).fmem = d.fmem := rfl
@[simp] theorem emit_commit (o : Output) : (d.emit o).commit = d.commit := rfl
@[simp] theorem emit_loader (o : Output) : (d.emit o).loader = d.loader := rfl
@[simp] theorem emit_fuses (o : Output) : (d.emit o).fuses = d.fuses := rfl
@[simp] theorem emit_time (o : Output) : (d.emit o).time = d.time := rfl
@[simp] theorem emit_lanes (o : Output) : (d.emit o).lanes = d.lanes := rfl
@[simp] theorem emit_ports (o : Output) : (d.emit o).ports = d.ports := rfl
@[simp] theorem emit_spars (o : Output) : (d.emit o).spars = d.spars := rfl
@[simp] theorem emit_slices (o : Output) : (d.emit o).slices = d.slices := rfl
@[simp] theorem emit_engines (o : Output) : (d.emit o).engines = d.engines := rfl
@[simp] theorem emit_host (o : Output) : (d.emit o).host = d.host := rfl
@[simp] theorem emit_irq (o : Output) : (d.emit o).irq = d.irq := rfl
@[simp] theorem emit_fault (o : Output) : (d.emit o).fault = d.fault := rfl
@[simp] theorem emit_island (o : Output) : (d.emit o).island = d.island := rfl
@[simp] theorem emit_stack (o : Output) : (d.emit o).stack = d.stack := rfl
@[simp] theorem emit_gated (o : Output) : (d.emit o).gated = d.gated := rfl
@[simp] theorem emit_freeCtr (o : Output) : (d.emit o).freeCtr = d.freeCtr := rfl
@[simp] theorem emit_audit (o : Output) : (d.emit o).audit = d.audit := rfl
@[simp] theorem emit_auditOf (o : Output) : (d.emit o).auditOf = d.auditOf := rfl
@[simp] theorem emit_wallHeld (o : Output) : (d.emit o).wallHeld = d.wallHeld := rfl
@[simp] theorem emit_stores (o : Output) : (d.emit o).stores = d.stores := rfl
@[simp] theorem emit_winPend (o : Output) : (d.emit o).winPend = d.winPend := rfl
/-! updTarget -/
@[simp] theorem updTarget_regs (t : Nat) (f : Target → Target) : (d.updTarget t f).regs = d.regs := rfl
@[simp] theorem updTarget_shadow (t : Nat) (f : Target → Target) : (d.updTarget t f).shadow = d.shadow := rfl
@[simp] theorem updTarget_cnts (t : Nat) (f : Target → Target) : (d.updTarget t f).cnts = d.cnts := rfl
@[simp] theorem updTarget_latch (t : Nat) (f : Target → Target) : (d.updTarget t f).latch = d.latch := rfl
@[simp] theorem updTarget_tabs (t : Nat) (f : Target → Target) : (d.updTarget t f).tabs = d.tabs := rfl
@[simp] theorem updTarget_shTabs (t : Nat) (f : Target → Target) : (d.updTarget t f).shTabs = d.shTabs := rfl
@[simp] theorem updTarget_fmem (t : Nat) (f : Target → Target) : (d.updTarget t f).fmem = d.fmem := rfl
@[simp] theorem updTarget_commit (t : Nat) (f : Target → Target) : (d.updTarget t f).commit = d.commit := rfl
@[simp] theorem updTarget_loader (t : Nat) (f : Target → Target) : (d.updTarget t f).loader = d.loader := rfl
@[simp] theorem updTarget_fuses (t : Nat) (f : Target → Target) : (d.updTarget t f).fuses = d.fuses := rfl
@[simp] theorem updTarget_time (t : Nat) (f : Target → Target) : (d.updTarget t f).time = d.time := rfl
@[simp] theorem updTarget_lanes (t : Nat) (f : Target → Target) : (d.updTarget t f).lanes = d.lanes := rfl
@[simp] theorem updTarget_ports (t : Nat) (f : Target → Target) : (d.updTarget t f).ports = d.ports := rfl
@[simp] theorem updTarget_spars (t : Nat) (f : Target → Target) : (d.updTarget t f).spars = d.spars := rfl
@[simp] theorem updTarget_slices (t : Nat) (f : Target → Target) : (d.updTarget t f).slices = d.slices := rfl
@[simp] theorem updTarget_engines (t : Nat) (f : Target → Target) : (d.updTarget t f).engines = d.engines := rfl
@[simp] theorem updTarget_host (t : Nat) (f : Target → Target) : (d.updTarget t f).host = d.host := rfl
@[simp] theorem updTarget_fault (t : Nat) (f : Target → Target) : (d.updTarget t f).fault = d.fault := rfl
@[simp] theorem updTarget_island (t : Nat) (f : Target → Target) : (d.updTarget t f).island = d.island := rfl
@[simp] theorem updTarget_stack (t : Nat) (f : Target → Target) : (d.updTarget t f).stack = d.stack := rfl
@[simp] theorem updTarget_gated (t : Nat) (f : Target → Target) : (d.updTarget t f).gated = d.gated := rfl
@[simp] theorem updTarget_outs (t : Nat) (f : Target → Target) : (d.updTarget t f).outs = d.outs := rfl
@[simp] theorem updTarget_freeCtr (t : Nat) (f : Target → Target) : (d.updTarget t f).freeCtr = d.freeCtr := rfl
@[simp] theorem updTarget_audit (t : Nat) (f : Target → Target) : (d.updTarget t f).audit = d.audit := rfl
@[simp] theorem updTarget_auditOf (t : Nat) (f : Target → Target) : (d.updTarget t f).auditOf = d.auditOf := rfl
@[simp] theorem updTarget_wallHeld (t : Nat) (f : Target → Target) : (d.updTarget t f).wallHeld = d.wallHeld := rfl
@[simp] theorem updTarget_stores (t : Nat) (f : Target → Target) : (d.updTarget t f).stores = d.stores := rfl
@[simp] theorem updTarget_winPend (t : Nat) (f : Target → Target) : (d.updTarget t f).winPend = d.winPend := rfl
/-! flag -/
@[simp] theorem flag_regs (x y : Nat) (i g : Bool) (z : Nat) : (d.flag x y i g z).regs = d.regs := rfl
@[simp] theorem flag_shadow (x y : Nat) (i g : Bool) (z : Nat) : (d.flag x y i g z).shadow = d.shadow := rfl
@[simp] theorem flag_cnts (x y : Nat) (i g : Bool) (z : Nat) : (d.flag x y i g z).cnts = d.cnts := rfl
@[simp] theorem flag_latch (x y : Nat) (i g : Bool) (z : Nat) : (d.flag x y i g z).latch = d.latch := rfl
@[simp] theorem flag_tabs (x y : Nat) (i g : Bool) (z : Nat) : (d.flag x y i g z).tabs = d.tabs := rfl
@[simp] theorem flag_shTabs (x y : Nat) (i g : Bool) (z : Nat) : (d.flag x y i g z).shTabs = d.shTabs := rfl
@[simp] theorem flag_fmem (x y : Nat) (i g : Bool) (z : Nat) : (d.flag x y i g z).fmem = d.fmem := rfl
@[simp] theorem flag_commit (x y : Nat) (i g : Bool) (z : Nat) : (d.flag x y i g z).commit = d.commit := rfl
@[simp] theorem flag_loader (x y : Nat) (i g : Bool) (z : Nat) : (d.flag x y i g z).loader = d.loader := rfl
@[simp] theorem flag_fuses (x y : Nat) (i g : Bool) (z : Nat) : (d.flag x y i g z).fuses = d.fuses := rfl
@[simp] theorem flag_time (x y : Nat) (i g : Bool) (z : Nat) : (d.flag x y i g z).time = d.time := rfl
@[simp] theorem flag_lanes (x y : Nat) (i g : Bool) (z : Nat) : (d.flag x y i g z).lanes = d.lanes := rfl
@[simp] theorem flag_ports (x y : Nat) (i g : Bool) (z : Nat) : (d.flag x y i g z).ports = d.ports := rfl
@[simp] theorem flag_spars (x y : Nat) (i g : Bool) (z : Nat) : (d.flag x y i g z).spars = d.spars := rfl
@[simp] theorem flag_slices (x y : Nat) (i g : Bool) (z : Nat) : (d.flag x y i g z).slices = d.slices := rfl
@[simp] theorem flag_engines (x y : Nat) (i g : Bool) (z : Nat) : (d.flag x y i g z).engines = d.engines := rfl
@[simp] theorem flag_host (x y : Nat) (i g : Bool) (z : Nat) : (d.flag x y i g z).host = d.host := rfl
@[simp] theorem flag_irq (x y : Nat) (i g : Bool) (z : Nat) : (d.flag x y i g z).irq = d.irq := rfl
@[simp] theorem flag_island (x y : Nat) (i g : Bool) (z : Nat) : (d.flag x y i g z).island = d.island := rfl
@[simp] theorem flag_stack (x y : Nat) (i g : Bool) (z : Nat) : (d.flag x y i g z).stack = d.stack := rfl
@[simp] theorem flag_gated (x y : Nat) (i g : Bool) (z : Nat) : (d.flag x y i g z).gated = d.gated := rfl
@[simp] theorem flag_outs (x y : Nat) (i g : Bool) (z : Nat) : (d.flag x y i g z).outs = d.outs := rfl
@[simp] theorem flag_freeCtr (x y : Nat) (i g : Bool) (z : Nat) : (d.flag x y i g z).freeCtr = d.freeCtr := rfl
@[simp] theorem flag_audit (x y : Nat) (i g : Bool) (z : Nat) : (d.flag x y i g z).audit = d.audit := rfl
@[simp] theorem flag_auditOf (x y : Nat) (i g : Bool) (z : Nat) : (d.flag x y i g z).auditOf = d.auditOf := rfl
@[simp] theorem flag_wallHeld (x y : Nat) (i g : Bool) (z : Nat) : (d.flag x y i g z).wallHeld = d.wallHeld := rfl
@[simp] theorem flag_stores (x y : Nat) (i g : Bool) (z : Nat) : (d.flag x y i g z).stores = d.stores := rfl
@[simp] theorem flag_winPend (x y : Nat) (i g : Bool) (z : Nat) : (d.flag x y i g z).winPend = d.winPend := rfl
/-! updFault -/
@[simp] theorem updFault_regs (f : Faults → Faults) : (d.updFault f).regs = d.regs := rfl
@[simp] theorem updFault_shadow (f : Faults → Faults) : (d.updFault f).shadow = d.shadow := rfl
@[simp] theorem updFault_cnts (f : Faults → Faults) : (d.updFault f).cnts = d.cnts := rfl
@[simp] theorem updFault_latch (f : Faults → Faults) : (d.updFault f).latch = d.latch := rfl
@[simp] theorem updFault_tabs (f : Faults → Faults) : (d.updFault f).tabs = d.tabs := rfl
@[simp] theorem updFault_shTabs (f : Faults → Faults) : (d.updFault f).shTabs = d.shTabs := rfl
@[simp] theorem updFault_fmem (f : Faults → Faults) : (d.updFault f).fmem = d.fmem := rfl
@[simp] theorem updFault_commit (f : Faults → Faults) : (d.updFault f).commit = d.commit := rfl
@[simp] theorem updFault_loader (f : Faults → Faults) : (d.updFault f).loader = d.loader := rfl
@[simp] theorem updFault_fuses (f : Faults → Faults) : (d.updFault f).fuses = d.fuses := rfl
@[simp] theorem updFault_time (f : Faults → Faults) : (d.updFault f).time = d.time := rfl
@[simp] theorem updFault_lanes (f : Faults → Faults) : (d.updFault f).lanes = d.lanes := rfl
@[simp] theorem updFault_ports (f : Faults → Faults) : (d.updFault f).ports = d.ports := rfl
@[simp] theorem updFault_spars (f : Faults → Faults) : (d.updFault f).spars = d.spars := rfl
@[simp] theorem updFault_slices (f : Faults → Faults) : (d.updFault f).slices = d.slices := rfl
@[simp] theorem updFault_engines (f : Faults → Faults) : (d.updFault f).engines = d.engines := rfl
@[simp] theorem updFault_host (f : Faults → Faults) : (d.updFault f).host = d.host := rfl
@[simp] theorem updFault_irq (f : Faults → Faults) : (d.updFault f).irq = d.irq := rfl
@[simp] theorem updFault_island (f : Faults → Faults) : (d.updFault f).island = d.island := rfl
@[simp] theorem updFault_stack (f : Faults → Faults) : (d.updFault f).stack = d.stack := rfl
@[simp] theorem updFault_gated (f : Faults → Faults) : (d.updFault f).gated = d.gated := rfl
@[simp] theorem updFault_outs (f : Faults → Faults) : (d.updFault f).outs = d.outs := rfl
@[simp] theorem updFault_freeCtr (f : Faults → Faults) : (d.updFault f).freeCtr = d.freeCtr := rfl
@[simp] theorem updFault_audit (f : Faults → Faults) : (d.updFault f).audit = d.audit := rfl
@[simp] theorem updFault_auditOf (f : Faults → Faults) : (d.updFault f).auditOf = d.auditOf := rfl
@[simp] theorem updFault_wallHeld (f : Faults → Faults) : (d.updFault f).wallHeld = d.wallHeld := rfl
@[simp] theorem updFault_stores (f : Faults → Faults) : (d.updFault f).stores = d.stores := rfl
@[simp] theorem updFault_winPend (f : Faults → Faults) : (d.updFault f).winPend = d.winPend := rfl
/-! updTime -/
@[simp] theorem updTime_regs (f : TimeBase → TimeBase) : (d.updTime f).regs = d.regs := rfl
@[simp] theorem updTime_shadow (f : TimeBase → TimeBase) : (d.updTime f).shadow = d.shadow := rfl
@[simp] theorem updTime_cnts (f : TimeBase → TimeBase) : (d.updTime f).cnts = d.cnts := rfl
@[simp] theorem updTime_latch (f : TimeBase → TimeBase) : (d.updTime f).latch = d.latch := rfl
@[simp] theorem updTime_tabs (f : TimeBase → TimeBase) : (d.updTime f).tabs = d.tabs := rfl
@[simp] theorem updTime_shTabs (f : TimeBase → TimeBase) : (d.updTime f).shTabs = d.shTabs := rfl
@[simp] theorem updTime_fmem (f : TimeBase → TimeBase) : (d.updTime f).fmem = d.fmem := rfl
@[simp] theorem updTime_commit (f : TimeBase → TimeBase) : (d.updTime f).commit = d.commit := rfl
@[simp] theorem updTime_loader (f : TimeBase → TimeBase) : (d.updTime f).loader = d.loader := rfl
@[simp] theorem updTime_fuses (f : TimeBase → TimeBase) : (d.updTime f).fuses = d.fuses := rfl
@[simp] theorem updTime_lanes (f : TimeBase → TimeBase) : (d.updTime f).lanes = d.lanes := rfl
@[simp] theorem updTime_ports (f : TimeBase → TimeBase) : (d.updTime f).ports = d.ports := rfl
@[simp] theorem updTime_spars (f : TimeBase → TimeBase) : (d.updTime f).spars = d.spars := rfl
@[simp] theorem updTime_slices (f : TimeBase → TimeBase) : (d.updTime f).slices = d.slices := rfl
@[simp] theorem updTime_engines (f : TimeBase → TimeBase) : (d.updTime f).engines = d.engines := rfl
@[simp] theorem updTime_host (f : TimeBase → TimeBase) : (d.updTime f).host = d.host := rfl
@[simp] theorem updTime_irq (f : TimeBase → TimeBase) : (d.updTime f).irq = d.irq := rfl
@[simp] theorem updTime_fault (f : TimeBase → TimeBase) : (d.updTime f).fault = d.fault := rfl
@[simp] theorem updTime_island (f : TimeBase → TimeBase) : (d.updTime f).island = d.island := rfl
@[simp] theorem updTime_stack (f : TimeBase → TimeBase) : (d.updTime f).stack = d.stack := rfl
@[simp] theorem updTime_gated (f : TimeBase → TimeBase) : (d.updTime f).gated = d.gated := rfl
@[simp] theorem updTime_outs (f : TimeBase → TimeBase) : (d.updTime f).outs = d.outs := rfl
@[simp] theorem updTime_freeCtr (f : TimeBase → TimeBase) : (d.updTime f).freeCtr = d.freeCtr := rfl
@[simp] theorem updTime_audit (f : TimeBase → TimeBase) : (d.updTime f).audit = d.audit := rfl
@[simp] theorem updTime_auditOf (f : TimeBase → TimeBase) : (d.updTime f).auditOf = d.auditOf := rfl
@[simp] theorem updTime_wallHeld (f : TimeBase → TimeBase) : (d.updTime f).wallHeld = d.wallHeld := rfl
@[simp] theorem updTime_stores (f : TimeBase → TimeBase) : (d.updTime f).stores = d.stores := rfl
@[simp] theorem updTime_winPend (f : TimeBase → TimeBase) : (d.updTime f).winPend = d.winPend := rfl
/-! updCommit -/
@[simp] theorem updCommit_regs (f : Commit → Commit) : (d.updCommit f).regs = d.regs := rfl
@[simp] theorem updCommit_shadow (f : Commit → Commit) : (d.updCommit f).shadow = d.shadow := rfl
@[simp] theorem updCommit_cnts (f : Commit → Commit) : (d.updCommit f).cnts = d.cnts := rfl
@[simp] theorem updCommit_latch (f : Commit → Commit) : (d.updCommit f).latch = d.latch := rfl
@[simp] theorem updCommit_tabs (f : Commit → Commit) : (d.updCommit f).tabs = d.tabs := rfl
@[simp] theorem updCommit_shTabs (f : Commit → Commit) : (d.updCommit f).shTabs = d.shTabs := rfl
@[simp] theorem updCommit_fmem (f : Commit → Commit) : (d.updCommit f).fmem = d.fmem := rfl
@[simp] theorem updCommit_loader (f : Commit → Commit) : (d.updCommit f).loader = d.loader := rfl
@[simp] theorem updCommit_fuses (f : Commit → Commit) : (d.updCommit f).fuses = d.fuses := rfl
@[simp] theorem updCommit_time (f : Commit → Commit) : (d.updCommit f).time = d.time := rfl
@[simp] theorem updCommit_lanes (f : Commit → Commit) : (d.updCommit f).lanes = d.lanes := rfl
@[simp] theorem updCommit_ports (f : Commit → Commit) : (d.updCommit f).ports = d.ports := rfl
@[simp] theorem updCommit_spars (f : Commit → Commit) : (d.updCommit f).spars = d.spars := rfl
@[simp] theorem updCommit_slices (f : Commit → Commit) : (d.updCommit f).slices = d.slices := rfl
@[simp] theorem updCommit_engines (f : Commit → Commit) : (d.updCommit f).engines = d.engines := rfl
@[simp] theorem updCommit_host (f : Commit → Commit) : (d.updCommit f).host = d.host := rfl
@[simp] theorem updCommit_irq (f : Commit → Commit) : (d.updCommit f).irq = d.irq := rfl
@[simp] theorem updCommit_fault (f : Commit → Commit) : (d.updCommit f).fault = d.fault := rfl
@[simp] theorem updCommit_island (f : Commit → Commit) : (d.updCommit f).island = d.island := rfl
@[simp] theorem updCommit_stack (f : Commit → Commit) : (d.updCommit f).stack = d.stack := rfl
@[simp] theorem updCommit_gated (f : Commit → Commit) : (d.updCommit f).gated = d.gated := rfl
@[simp] theorem updCommit_outs (f : Commit → Commit) : (d.updCommit f).outs = d.outs := rfl
@[simp] theorem updCommit_freeCtr (f : Commit → Commit) : (d.updCommit f).freeCtr = d.freeCtr := rfl
@[simp] theorem updCommit_audit (f : Commit → Commit) : (d.updCommit f).audit = d.audit := rfl
@[simp] theorem updCommit_auditOf (f : Commit → Commit) : (d.updCommit f).auditOf = d.auditOf := rfl
@[simp] theorem updCommit_wallHeld (f : Commit → Commit) : (d.updCommit f).wallHeld = d.wallHeld := rfl
@[simp] theorem updCommit_stores (f : Commit → Commit) : (d.updCommit f).stores = d.stores := rfl
@[simp] theorem updCommit_winPend (f : Commit → Commit) : (d.updCommit f).winPend = d.winPend := rfl
/-! updLoader -/
@[simp] theorem updLoader_regs (f : Loader → Loader) : (d.updLoader f).regs = d.regs := rfl
@[simp] theorem updLoader_shadow (f : Loader → Loader) : (d.updLoader f).shadow = d.shadow := rfl
@[simp] theorem updLoader_cnts (f : Loader → Loader) : (d.updLoader f).cnts = d.cnts := rfl
@[simp] theorem updLoader_latch (f : Loader → Loader) : (d.updLoader f).latch = d.latch := rfl
@[simp] theorem updLoader_tabs (f : Loader → Loader) : (d.updLoader f).tabs = d.tabs := rfl
@[simp] theorem updLoader_shTabs (f : Loader → Loader) : (d.updLoader f).shTabs = d.shTabs := rfl
@[simp] theorem updLoader_fmem (f : Loader → Loader) : (d.updLoader f).fmem = d.fmem := rfl
@[simp] theorem updLoader_commit (f : Loader → Loader) : (d.updLoader f).commit = d.commit := rfl
@[simp] theorem updLoader_fuses (f : Loader → Loader) : (d.updLoader f).fuses = d.fuses := rfl
@[simp] theorem updLoader_time (f : Loader → Loader) : (d.updLoader f).time = d.time := rfl
@[simp] theorem updLoader_lanes (f : Loader → Loader) : (d.updLoader f).lanes = d.lanes := rfl
@[simp] theorem updLoader_ports (f : Loader → Loader) : (d.updLoader f).ports = d.ports := rfl
@[simp] theorem updLoader_spars (f : Loader → Loader) : (d.updLoader f).spars = d.spars := rfl
@[simp] theorem updLoader_slices (f : Loader → Loader) : (d.updLoader f).slices = d.slices := rfl
@[simp] theorem updLoader_engines (f : Loader → Loader) : (d.updLoader f).engines = d.engines := rfl
@[simp] theorem updLoader_host (f : Loader → Loader) : (d.updLoader f).host = d.host := rfl
@[simp] theorem updLoader_irq (f : Loader → Loader) : (d.updLoader f).irq = d.irq := rfl
@[simp] theorem updLoader_fault (f : Loader → Loader) : (d.updLoader f).fault = d.fault := rfl
@[simp] theorem updLoader_island (f : Loader → Loader) : (d.updLoader f).island = d.island := rfl
@[simp] theorem updLoader_stack (f : Loader → Loader) : (d.updLoader f).stack = d.stack := rfl
@[simp] theorem updLoader_gated (f : Loader → Loader) : (d.updLoader f).gated = d.gated := rfl
@[simp] theorem updLoader_outs (f : Loader → Loader) : (d.updLoader f).outs = d.outs := rfl
@[simp] theorem updLoader_freeCtr (f : Loader → Loader) : (d.updLoader f).freeCtr = d.freeCtr := rfl
@[simp] theorem updLoader_audit (f : Loader → Loader) : (d.updLoader f).audit = d.audit := rfl
@[simp] theorem updLoader_auditOf (f : Loader → Loader) : (d.updLoader f).auditOf = d.auditOf := rfl
@[simp] theorem updLoader_wallHeld (f : Loader → Loader) : (d.updLoader f).wallHeld = d.wallHeld := rfl
@[simp] theorem updLoader_stores (f : Loader → Loader) : (d.updLoader f).stores = d.stores := rfl
@[simp] theorem updLoader_winPend (f : Loader → Loader) : (d.updLoader f).winPend = d.winPend := rfl
/-! updIsland -/
@[simp] theorem updIsland_regs (f : Island → Island) : (d.updIsland f).regs = d.regs := rfl
@[simp] theorem updIsland_shadow (f : Island → Island) : (d.updIsland f).shadow = d.shadow := rfl
@[simp] theorem updIsland_cnts (f : Island → Island) : (d.updIsland f).cnts = d.cnts := rfl
@[simp] theorem updIsland_latch (f : Island → Island) : (d.updIsland f).latch = d.latch := rfl
@[simp] theorem updIsland_tabs (f : Island → Island) : (d.updIsland f).tabs = d.tabs := rfl
@[simp] theorem updIsland_shTabs (f : Island → Island) : (d.updIsland f).shTabs = d.shTabs := rfl
@[simp] theorem updIsland_fmem (f : Island → Island) : (d.updIsland f).fmem = d.fmem := rfl
@[simp] theorem updIsland_commit (f : Island → Island) : (d.updIsland f).commit = d.commit := rfl
@[simp] theorem updIsland_loader (f : Island → Island) : (d.updIsland f).loader = d.loader := rfl
@[simp] theorem updIsland_fuses (f : Island → Island) : (d.updIsland f).fuses = d.fuses := rfl
@[simp] theorem updIsland_time (f : Island → Island) : (d.updIsland f).time = d.time := rfl
@[simp] theorem updIsland_lanes (f : Island → Island) : (d.updIsland f).lanes = d.lanes := rfl
@[simp] theorem updIsland_ports (f : Island → Island) : (d.updIsland f).ports = d.ports := rfl
@[simp] theorem updIsland_spars (f : Island → Island) : (d.updIsland f).spars = d.spars := rfl
@[simp] theorem updIsland_slices (f : Island → Island) : (d.updIsland f).slices = d.slices := rfl
@[simp] theorem updIsland_engines (f : Island → Island) : (d.updIsland f).engines = d.engines := rfl
@[simp] theorem updIsland_host (f : Island → Island) : (d.updIsland f).host = d.host := rfl
@[simp] theorem updIsland_irq (f : Island → Island) : (d.updIsland f).irq = d.irq := rfl
@[simp] theorem updIsland_fault (f : Island → Island) : (d.updIsland f).fault = d.fault := rfl
@[simp] theorem updIsland_stack (f : Island → Island) : (d.updIsland f).stack = d.stack := rfl
@[simp] theorem updIsland_gated (f : Island → Island) : (d.updIsland f).gated = d.gated := rfl
@[simp] theorem updIsland_outs (f : Island → Island) : (d.updIsland f).outs = d.outs := rfl
@[simp] theorem updIsland_freeCtr (f : Island → Island) : (d.updIsland f).freeCtr = d.freeCtr := rfl
@[simp] theorem updIsland_audit (f : Island → Island) : (d.updIsland f).audit = d.audit := rfl
@[simp] theorem updIsland_auditOf (f : Island → Island) : (d.updIsland f).auditOf = d.auditOf := rfl
@[simp] theorem updIsland_wallHeld (f : Island → Island) : (d.updIsland f).wallHeld = d.wallHeld := rfl
@[simp] theorem updIsland_stores (f : Island → Island) : (d.updIsland f).stores = d.stores := rfl
@[simp] theorem updIsland_winPend (f : Island → Island) : (d.updIsland f).winPend = d.winPend := rfl
/-! updStack -/
@[simp] theorem updStack_regs (f : Stacking → Stacking) : (d.updStack f).regs = d.regs := rfl
@[simp] theorem updStack_shadow (f : Stacking → Stacking) : (d.updStack f).shadow = d.shadow := rfl
@[simp] theorem updStack_cnts (f : Stacking → Stacking) : (d.updStack f).cnts = d.cnts := rfl
@[simp] theorem updStack_latch (f : Stacking → Stacking) : (d.updStack f).latch = d.latch := rfl
@[simp] theorem updStack_tabs (f : Stacking → Stacking) : (d.updStack f).tabs = d.tabs := rfl
@[simp] theorem updStack_shTabs (f : Stacking → Stacking) : (d.updStack f).shTabs = d.shTabs := rfl
@[simp] theorem updStack_fmem (f : Stacking → Stacking) : (d.updStack f).fmem = d.fmem := rfl
@[simp] theorem updStack_commit (f : Stacking → Stacking) : (d.updStack f).commit = d.commit := rfl
@[simp] theorem updStack_loader (f : Stacking → Stacking) : (d.updStack f).loader = d.loader := rfl
@[simp] theorem updStack_fuses (f : Stacking → Stacking) : (d.updStack f).fuses = d.fuses := rfl
@[simp] theorem updStack_time (f : Stacking → Stacking) : (d.updStack f).time = d.time := rfl
@[simp] theorem updStack_lanes (f : Stacking → Stacking) : (d.updStack f).lanes = d.lanes := rfl
@[simp] theorem updStack_ports (f : Stacking → Stacking) : (d.updStack f).ports = d.ports := rfl
@[simp] theorem updStack_spars (f : Stacking → Stacking) : (d.updStack f).spars = d.spars := rfl
@[simp] theorem updStack_slices (f : Stacking → Stacking) : (d.updStack f).slices = d.slices := rfl
@[simp] theorem updStack_engines (f : Stacking → Stacking) : (d.updStack f).engines = d.engines := rfl
@[simp] theorem updStack_host (f : Stacking → Stacking) : (d.updStack f).host = d.host := rfl
@[simp] theorem updStack_irq (f : Stacking → Stacking) : (d.updStack f).irq = d.irq := rfl
@[simp] theorem updStack_fault (f : Stacking → Stacking) : (d.updStack f).fault = d.fault := rfl
@[simp] theorem updStack_island (f : Stacking → Stacking) : (d.updStack f).island = d.island := rfl
@[simp] theorem updStack_gated (f : Stacking → Stacking) : (d.updStack f).gated = d.gated := rfl
@[simp] theorem updStack_outs (f : Stacking → Stacking) : (d.updStack f).outs = d.outs := rfl
@[simp] theorem updStack_freeCtr (f : Stacking → Stacking) : (d.updStack f).freeCtr = d.freeCtr := rfl
@[simp] theorem updStack_audit (f : Stacking → Stacking) : (d.updStack f).audit = d.audit := rfl
@[simp] theorem updStack_auditOf (f : Stacking → Stacking) : (d.updStack f).auditOf = d.auditOf := rfl
@[simp] theorem updStack_wallHeld (f : Stacking → Stacking) : (d.updStack f).wallHeld = d.wallHeld := rfl
@[simp] theorem updStack_stores (f : Stacking → Stacking) : (d.updStack f).stores = d.stores := rfl
@[simp] theorem updStack_winPend (f : Stacking → Stacking) : (d.updStack f).winPend = d.winPend := rfl

/-! The fields that a settled command sets. -/
@[simp] theorem settle_stores (d0 : Dev) : (settle d0 d).stores = [] := rfl
@[simp] theorem settle_fuses (d0 : Dev) : (settle d0 d).fuses = d0.fuses := rfl
@[simp] theorem settle_regs (d0 : Dev) : (settle d0 d).regs = d.regs := rfl
@[simp] theorem settle_shadow (d0 : Dev) : (settle d0 d).shadow = d.shadow := rfl
@[simp] theorem settle_cnts (d0 : Dev) : (settle d0 d).cnts = d.cnts := rfl
@[simp] theorem settle_latch (d0 : Dev) : (settle d0 d).latch = d.latch := rfl
@[simp] theorem settle_tabs (d0 : Dev) : (settle d0 d).tabs = d.tabs := rfl
@[simp] theorem settle_shTabs (d0 : Dev) : (settle d0 d).shTabs = d.shTabs := rfl
@[simp] theorem settle_commit (d0 : Dev) : (settle d0 d).commit = d.commit := rfl
@[simp] theorem settle_loader (d0 : Dev) : (settle d0 d).loader = d.loader := rfl
@[simp] theorem settle_time (d0 : Dev) : (settle d0 d).time = d.time := rfl
@[simp] theorem settle_lanes (d0 : Dev) : (settle d0 d).lanes = d.lanes := rfl
@[simp] theorem settle_ports (d0 : Dev) : (settle d0 d).ports = d.ports := rfl
@[simp] theorem settle_spars (d0 : Dev) : (settle d0 d).spars = d.spars := rfl
@[simp] theorem settle_slices (d0 : Dev) : (settle d0 d).slices = d.slices := rfl
@[simp] theorem settle_engines (d0 : Dev) : (settle d0 d).engines = d.engines := rfl
@[simp] theorem settle_host (d0 : Dev) : (settle d0 d).host = d.host := rfl
@[simp] theorem settle_irq (d0 : Dev) : (settle d0 d).irq = d.irq := rfl
@[simp] theorem settle_fault (d0 : Dev) : (settle d0 d).fault = d.fault := rfl
@[simp] theorem settle_island (d0 : Dev) : (settle d0 d).island = d.island := rfl
@[simp] theorem settle_stack (d0 : Dev) : (settle d0 d).stack = d.stack := rfl
@[simp] theorem settle_gated (d0 : Dev) : (settle d0 d).gated = d.gated := rfl
@[simp] theorem settle_outs (d0 : Dev) : (settle d0 d).outs = d.outs := rfl
@[simp] theorem settle_freeCtr (d0 : Dev) : (settle d0 d).freeCtr = d.freeCtr := rfl
@[simp] theorem settle_audit (d0 : Dev) : (settle d0 d).audit = d.audit := rfl
@[simp] theorem settle_auditOf (d0 : Dev) : (settle d0 d).auditOf = d.auditOf := rfl
@[simp] theorem settle_wallHeld (d0 : Dev) : (settle d0 d).wallHeld = d.wallHeld := rfl
@[simp] theorem settle_winPend (d0 : Dev) : (settle d0 d).winPend = d.winPend := rfl

end Sys2Proof.Machine.Dev
end

