-- ==== Sys2Proof/Laws/Ops.lean ====
section
/-!
SUPPORT. The laws of the shared operations: what a read gives after a write, for registers and their fields, counters, tables,
the units and frame memory.
-/
namespace Sys2Proof.Machine.Dev

variable (d : Dev)

/-! Views of the device after an update of something else. -/

@[simp] theorem cnt_wr (x : Nat) (v : Word) (b : Nat) : (d.wr x v).cnt b = d.cnt b := rfl
@[simp] theorem lane_wr (x : Nat) (v : Word) (k : Nat) : (d.wr x v).lane k = d.lane k := rfl
@[simp] theorem port_wr (x : Nat) (v : Word) (k : Nat) : (d.wr x v).port k = d.port k := rfl
@[simp] theorem spar_wr (x : Nat) (v : Word) (k : Nat) : (d.wr x v).spar k = d.spar k := rfl
@[simp] theorem sliceOf_wr (x : Nat) (v : Word) (k : Nat) : (d.wr x v).sliceOf k = d.sliceOf k := rfl
@[simp] theorem engine_wr (x : Nat) (v : Word) (k : Nat) : (d.wr x v).engine k = d.engine k := rfl
@[simp] theorem sq_wr (x : Nat) (v : Word) (k : Nat) : (d.wr x v).sq k = d.sq k := rfl
@[simp] theorem cq_wr (x : Nat) (v : Word) (k : Nat) : (d.wr x v).cq k = d.cq k := rfl
@[simp] theorem fn_wr (x : Nat) (v : Word) (k : Nat) : (d.wr x v).fn k = d.fn k := rfl
@[simp] theorem dma_wr (x : Nat) (v : Word) (k : Nat) : (d.wr x v).dma k = d.dma k := rfl
@[simp] theorem tab_wr (x : Nat) (v : Word) (i j k : Nat) : (d.wr x v).tab i j k = d.tab i j k := rfl
@[simp] theorem rd_wrSh (x : Nat) (v : Word) (b : Nat) : (d.wrSh x v).rd b = d.rd b := rfl
@[simp] theorem cnt_wrSh (x : Nat) (v : Word) (b : Nat) : (d.wrSh x v).cnt b = d.cnt b := rfl
@[simp] theorem lane_wrSh (x : Nat) (v : Word) (k : Nat) : (d.wrSh x v).lane k = d.lane k := rfl
@[simp] theorem port_wrSh (x : Nat) (v : Word) (k : Nat) : (d.wrSh x v).port k = d.port k := rfl
@[simp] theorem spar_wrSh (x : Nat) (v : Word) (k : Nat) : (d.wrSh x v).spar k = d.spar k := rfl
@[simp] theorem sliceOf_wrSh (x : Nat) (v : Word) (k : Nat) : (d.wrSh x v).sliceOf k = d.sliceOf k := rfl
@[simp] theorem engine_wrSh (x : Nat) (v : Word) (k : Nat) : (d.wrSh x v).engine k = d.engine k := rfl
@[simp] theorem sq_wrSh (x : Nat) (v : Word) (k : Nat) : (d.wrSh x v).sq k = d.sq k := rfl
@[simp] theorem cq_wrSh (x : Nat) (v : Word) (k : Nat) : (d.wrSh x v).cq k = d.cq k := rfl
@[simp] theorem fn_wrSh (x : Nat) (v : Word) (k : Nat) : (d.wrSh x v).fn k = d.fn k := rfl
@[simp] theorem dma_wrSh (x : Nat) (v : Word) (k : Nat) : (d.wrSh x v).dma k = d.dma k := rfl
@[simp] theorem tab_wrSh (x : Nat) (v : Word) (i j k : Nat) : (d.wrSh x v).tab i j k = d.tab i j k := rfl
@[simp] theorem rd_cntSet (x : Nat) (v : BitVec 64) (b : Nat) : (d.cntSet x v).rd b = d.rd b := rfl
@[simp] theorem lane_cntSet (x : Nat) (v : BitVec 64) (k : Nat) : (d.cntSet x v).lane k = d.lane k := rfl
@[simp] theorem port_cntSet (x : Nat) (v : BitVec 64) (k : Nat) : (d.cntSet x v).port k = d.port k := rfl
@[simp] theorem spar_cntSet (x : Nat) (v : BitVec 64) (k : Nat) : (d.cntSet x v).spar k = d.spar k := rfl
@[simp] theorem sliceOf_cntSet (x : Nat) (v : BitVec 64) (k : Nat) : (d.cntSet x v).sliceOf k = d.sliceOf k := rfl
@[simp] theorem engine_cntSet (x : Nat) (v : BitVec 64) (k : Nat) : (d.cntSet x v).engine k = d.engine k := rfl
@[simp] theorem sq_cntSet (x : Nat) (v : BitVec 64) (k : Nat) : (d.cntSet x v).sq k = d.sq k := rfl
@[simp] theorem cq_cntSet (x : Nat) (v : BitVec 64) (k : Nat) : (d.cntSet x v).cq k = d.cq k := rfl
@[simp] theorem fn_cntSet (x : Nat) (v : BitVec 64) (k : Nat) : (d.cntSet x v).fn k = d.fn k := rfl
@[simp] theorem dma_cntSet (x : Nat) (v : BitVec 64) (k : Nat) : (d.cntSet x v).dma k = d.dma k := rfl
@[simp] theorem tab_cntSet (x : Nat) (v : BitVec 64) (i j k : Nat) : (d.cntSet x v).tab i j k = d.tab i j k := rfl
@[simp] theorem rd_cntClr (x y : Nat) (b : Nat) : (d.cntClr x y).rd b = d.rd b := rfl
@[simp] theorem lane_cntClr (x y : Nat) (k : Nat) : (d.cntClr x y).lane k = d.lane k := rfl
@[simp] theorem port_cntClr (x y : Nat) (k : Nat) : (d.cntClr x y).port k = d.port k := rfl
@[simp] theorem spar_cntClr (x y : Nat) (k : Nat) : (d.cntClr x y).spar k = d.spar k := rfl
@[simp] theorem sliceOf_cntClr (x y : Nat) (k : Nat) : (d.cntClr x y).sliceOf k = d.sliceOf k := rfl
@[simp] theorem engine_cntClr (x y : Nat) (k : Nat) : (d.cntClr x y).engine k = d.engine k := rfl
@[simp] theorem sq_cntClr (x y : Nat) (k : Nat) : (d.cntClr x y).sq k = d.sq k := rfl
@[simp] theorem cq_cntClr (x y : Nat) (k : Nat) : (d.cntClr x y).cq k = d.cq k := rfl
@[simp] theorem fn_cntClr (x y : Nat) (k : Nat) : (d.cntClr x y).fn k = d.fn k := rfl
@[simp] theorem dma_cntClr (x y : Nat) (k : Nat) : (d.cntClr x y).dma k = d.dma k := rfl
@[simp] theorem tab_cntClr (x y : Nat) (i j k : Nat) : (d.cntClr x y).tab i j k = d.tab i j k := rfl
@[simp] theorem rd_latchSet (x : Nat) (v : Word) (b : Nat) : (d.latchSet x v).rd b = d.rd b := rfl
@[simp] theorem cnt_latchSet (x : Nat) (v : Word) (b : Nat) : (d.latchSet x v).cnt b = d.cnt b := rfl
@[simp] theorem lane_latchSet (x : Nat) (v : Word) (k : Nat) : (d.latchSet x v).lane k = d.lane k := rfl
@[simp] theorem port_latchSet (x : Nat) (v : Word) (k : Nat) : (d.latchSet x v).port k = d.port k := rfl
@[simp] theorem spar_latchSet (x : Nat) (v : Word) (k : Nat) : (d.latchSet x v).spar k = d.spar k := rfl
@[simp] theorem sliceOf_latchSet (x : Nat) (v : Word) (k : Nat) : (d.latchSet x v).sliceOf k = d.sliceOf k := rfl
@[simp] theorem engine_latchSet (x : Nat) (v : Word) (k : Nat) : (d.latchSet x v).engine k = d.engine k := rfl
@[simp] theorem sq_latchSet (x : Nat) (v : Word) (k : Nat) : (d.latchSet x v).sq k = d.sq k := rfl
@[simp] theorem cq_latchSet (x : Nat) (v : Word) (k : Nat) : (d.latchSet x v).cq k = d.cq k := rfl
@[simp] theorem fn_latchSet (x : Nat) (v : Word) (k : Nat) : (d.latchSet x v).fn k = d.fn k := rfl
@[simp] theorem dma_latchSet (x : Nat) (v : Word) (k : Nat) : (d.latchSet x v).dma k = d.dma k := rfl
@[simp] theorem tab_latchSet (x : Nat) (v : Word) (i j k : Nat) : (d.latchSet x v).tab i j k = d.tab i j k := rfl
@[simp] theorem rd_tabSet (x y z : Nat) (ws : List Word) (b : Nat) : (d.tabSet x y z ws).rd b = d.rd b := rfl
@[simp] theorem cnt_tabSet (x y z : Nat) (ws : List Word) (b : Nat) : (d.tabSet x y z ws).cnt b = d.cnt b := rfl
@[simp] theorem lane_tabSet (x y z : Nat) (ws : List Word) (k : Nat) : (d.tabSet x y z ws).lane k = d.lane k := rfl
@[simp] theorem port_tabSet (x y z : Nat) (ws : List Word) (k : Nat) : (d.tabSet x y z ws).port k = d.port k := rfl
@[simp] theorem spar_tabSet (x y z : Nat) (ws : List Word) (k : Nat) : (d.tabSet x y z ws).spar k = d.spar k := rfl
@[simp] theorem sliceOf_tabSet (x y z : Nat) (ws : List Word) (k : Nat) : (d.tabSet x y z ws).sliceOf k = d.sliceOf k := rfl
@[simp] theorem engine_tabSet (x y z : Nat) (ws : List Word) (k : Nat) : (d.tabSet x y z ws).engine k = d.engine k := rfl
@[simp] theorem sq_tabSet (x y z : Nat) (ws : List Word) (k : Nat) : (d.tabSet x y z ws).sq k = d.sq k := rfl
@[simp] theorem cq_tabSet (x y z : Nat) (ws : List Word) (k : Nat) : (d.tabSet x y z ws).cq k = d.cq k := rfl
@[simp] theorem fn_tabSet (x y z : Nat) (ws : List Word) (k : Nat) : (d.tabSet x y z ws).fn k = d.fn k := rfl
@[simp] theorem dma_tabSet (x y z : Nat) (ws : List Word) (k : Nat) : (d.tabSet x y z ws).dma k = d.dma k := rfl
@[simp] theorem rd_shTabPut (x : Nat) (ws : List Word) (b : Nat) : (d.shTabPut x ws).rd b = d.rd b := rfl
@[simp] theorem cnt_shTabPut (x : Nat) (ws : List Word) (b : Nat) : (d.shTabPut x ws).cnt b = d.cnt b := rfl
@[simp] theorem lane_shTabPut (x : Nat) (ws : List Word) (k : Nat) : (d.shTabPut x ws).lane k = d.lane k := rfl
@[simp] theorem port_shTabPut (x : Nat) (ws : List Word) (k : Nat) : (d.shTabPut x ws).port k = d.port k := rfl
@[simp] theorem spar_shTabPut (x : Nat) (ws : List Word) (k : Nat) : (d.shTabPut x ws).spar k = d.spar k := rfl
@[simp] theorem sliceOf_shTabPut (x : Nat) (ws : List Word) (k : Nat) : (d.shTabPut x ws).sliceOf k = d.sliceOf k := rfl
@[simp] theorem engine_shTabPut (x : Nat) (ws : List Word) (k : Nat) : (d.shTabPut x ws).engine k = d.engine k := rfl
@[simp] theorem sq_shTabPut (x : Nat) (ws : List Word) (k : Nat) : (d.shTabPut x ws).sq k = d.sq k := rfl
@[simp] theorem cq_shTabPut (x : Nat) (ws : List Word) (k : Nat) : (d.shTabPut x ws).cq k = d.cq k := rfl
@[simp] theorem fn_shTabPut (x : Nat) (ws : List Word) (k : Nat) : (d.shTabPut x ws).fn k = d.fn k := rfl
@[simp] theorem dma_shTabPut (x : Nat) (ws : List Word) (k : Nat) : (d.shTabPut x ws).dma k = d.dma k := rfl
@[simp] theorem tab_shTabPut (x : Nat) (ws : List Word) (i j k : Nat) : (d.shTabPut x ws).tab i j k = d.tab i j k := rfl
@[simp] theorem rd_updLane (x : Nat) (f : Lane → Lane) (b : Nat) : (d.updLane x f).rd b = d.rd b := rfl
@[simp] theorem cnt_updLane (x : Nat) (f : Lane → Lane) (b : Nat) : (d.updLane x f).cnt b = d.cnt b := rfl
@[simp] theorem port_updLane (x : Nat) (f : Lane → Lane) (k : Nat) : (d.updLane x f).port k = d.port k := rfl
@[simp] theorem spar_updLane (x : Nat) (f : Lane → Lane) (k : Nat) : (d.updLane x f).spar k = d.spar k := rfl
@[simp] theorem sliceOf_updLane (x : Nat) (f : Lane → Lane) (k : Nat) : (d.updLane x f).sliceOf k = d.sliceOf k := rfl
@[simp] theorem engine_updLane (x : Nat) (f : Lane → Lane) (k : Nat) : (d.updLane x f).engine k = d.engine k := rfl
@[simp] theorem sq_updLane (x : Nat) (f : Lane → Lane) (k : Nat) : (d.updLane x f).sq k = d.sq k := rfl
@[simp] theorem cq_updLane (x : Nat) (f : Lane → Lane) (k : Nat) : (d.updLane x f).cq k = d.cq k := rfl
@[simp] theorem fn_updLane (x : Nat) (f : Lane → Lane) (k : Nat) : (d.updLane x f).fn k = d.fn k := rfl
@[simp] theorem dma_updLane (x : Nat) (f : Lane → Lane) (k : Nat) : (d.updLane x f).dma k = d.dma k := rfl
@[simp] theorem tab_updLane (x : Nat) (f : Lane → Lane) (i j k : Nat) : (d.updLane x f).tab i j k = d.tab i j k := rfl
@[simp] theorem rd_updPort (x : Nat) (f : Port → Port) (b : Nat) : (d.updPort x f).rd b = d.rd b := rfl
@[simp] theorem cnt_updPort (x : Nat) (f : Port → Port) (b : Nat) : (d.updPort x f).cnt b = d.cnt b := rfl
@[simp] theorem lane_updPort (x : Nat) (f : Port → Port) (k : Nat) : (d.updPort x f).lane k = d.lane k := rfl
@[simp] theorem spar_updPort (x : Nat) (f : Port → Port) (k : Nat) : (d.updPort x f).spar k = d.spar k := rfl
@[simp] theorem sliceOf_updPort (x : Nat) (f : Port → Port) (k : Nat) : (d.updPort x f).sliceOf k = d.sliceOf k := rfl
@[simp] theorem engine_updPort (x : Nat) (f : Port → Port) (k : Nat) : (d.updPort x f).engine k = d.engine k := rfl
@[simp] theorem sq_updPort (x : Nat) (f : Port → Port) (k : Nat) : (d.updPort x f).sq k = d.sq k := rfl
@[simp] theorem cq_updPort (x : Nat) (f : Port → Port) (k : Nat) : (d.updPort x f).cq k = d.cq k := rfl
@[simp] theorem fn_updPort (x : Nat) (f : Port → Port) (k : Nat) : (d.updPort x f).fn k = d.fn k := rfl
@[simp] theorem dma_updPort (x : Nat) (f : Port → Port) (k : Nat) : (d.updPort x f).dma k = d.dma k := rfl
@[simp] theorem tab_updPort (x : Nat) (f : Port → Port) (i j k : Nat) : (d.updPort x f).tab i j k = d.tab i j k := rfl
@[simp] theorem rd_updSpar (x : Nat) (f : Spar → Spar) (b : Nat) : (d.updSpar x f).rd b = d.rd b := rfl
@[simp] theorem cnt_updSpar (x : Nat) (f : Spar → Spar) (b : Nat) : (d.updSpar x f).cnt b = d.cnt b := rfl
@[simp] theorem lane_updSpar (x : Nat) (f : Spar → Spar) (k : Nat) : (d.updSpar x f).lane k = d.lane k := rfl
@[simp] theorem port_updSpar (x : Nat) (f : Spar → Spar) (k : Nat) : (d.updSpar x f).port k = d.port k := rfl
@[simp] theorem sliceOf_updSpar (x : Nat) (f : Spar → Spar) (k : Nat) : (d.updSpar x f).sliceOf k = d.sliceOf k := rfl
@[simp] theorem engine_updSpar (x : Nat) (f : Spar → Spar) (k : Nat) : (d.updSpar x f).engine k = d.engine k := rfl
@[simp] theorem sq_updSpar (x : Nat) (f : Spar → Spar) (k : Nat) : (d.updSpar x f).sq k = d.sq k := rfl
@[simp] theorem cq_updSpar (x : Nat) (f : Spar → Spar) (k : Nat) : (d.updSpar x f).cq k = d.cq k := rfl
@[simp] theorem fn_updSpar (x : Nat) (f : Spar → Spar) (k : Nat) : (d.updSpar x f).fn k = d.fn k := rfl
@[simp] theorem dma_updSpar (x : Nat) (f : Spar → Spar) (k : Nat) : (d.updSpar x f).dma k = d.dma k := rfl
@[simp] theorem tab_updSpar (x : Nat) (f : Spar → Spar) (i j k : Nat) : (d.updSpar x f).tab i j k = d.tab i j k := rfl
@[simp] theorem rd_updSlice (x : Nat) (f : Slice → Slice) (b : Nat) : (d.updSlice x f).rd b = d.rd b := rfl
@[simp] theorem cnt_updSlice (x : Nat) (f : Slice → Slice) (b : Nat) : (d.updSlice x f).cnt b = d.cnt b := rfl
@[simp] theorem lane_updSlice (x : Nat) (f : Slice → Slice) (k : Nat) : (d.updSlice x f).lane k = d.lane k := rfl
@[simp] theorem port_updSlice (x : Nat) (f : Slice → Slice) (k : Nat) : (d.updSlice x f).port k = d.port k := rfl
@[simp] theorem spar_updSlice (x : Nat) (f : Slice → Slice) (k : Nat) : (d.updSlice x f).spar k = d.spar k := rfl
@[simp] theorem engine_updSlice (x : Nat) (f : Slice → Slice) (k : Nat) : (d.updSlice x f).engine k = d.engine k := rfl
@[simp] theorem sq_updSlice (x : Nat) (f : Slice → Slice) (k : Nat) : (d.updSlice x f).sq k = d.sq k := rfl
@[simp] theorem cq_updSlice (x : Nat) (f : Slice → Slice) (k : Nat) : (d.updSlice x f).cq k = d.cq k := rfl
@[simp] theorem fn_updSlice (x : Nat) (f : Slice → Slice) (k : Nat) : (d.updSlice x f).fn k = d.fn k := rfl
@[simp] theorem dma_updSlice (x : Nat) (f : Slice → Slice) (k : Nat) : (d.updSlice x f).dma k = d.dma k := rfl
@[simp] theorem tab_updSlice (x : Nat) (f : Slice → Slice) (i j k : Nat) : (d.updSlice x f).tab i j k = d.tab i j k := rfl
@[simp] theorem rd_updEngine (x : Nat) (f : Engine → Engine) (b : Nat) : (d.updEngine x f).rd b = d.rd b := rfl
@[simp] theorem cnt_updEngine (x : Nat) (f : Engine → Engine) (b : Nat) : (d.updEngine x f).cnt b = d.cnt b := rfl
@[simp] theorem lane_updEngine (x : Nat) (f : Engine → Engine) (k : Nat) : (d.updEngine x f).lane k = d.lane k := rfl
@[simp] theorem port_updEngine (x : Nat) (f : Engine → Engine) (k : Nat) : (d.updEngine x f).port k = d.port k := rfl
@[simp] theorem spar_updEngine (x : Nat) (f : Engine → Engine) (k : Nat) : (d.updEngine x f).spar k = d.spar k := rfl
@[simp] theorem sliceOf_updEngine (x : Nat) (f : Engine → Engine) (k : Nat) : (d.updEngine x f).sliceOf k = d.sliceOf k := rfl
@[simp] theorem sq_updEngine (x : Nat) (f : Engine → Engine) (k : Nat) : (d.updEngine x f).sq k = d.sq k := rfl
@[simp] theorem cq_updEngine (x : Nat) (f : Engine → Engine) (k : Nat) : (d.updEngine x f).cq k = d.cq k := rfl
@[simp] theorem fn_updEngine (x : Nat) (f : Engine → Engine) (k : Nat) : (d.updEngine x f).fn k = d.fn k := rfl
@[simp] theorem dma_updEngine (x : Nat) (f : Engine → Engine) (k : Nat) : (d.updEngine x f).dma k = d.dma k := rfl
@[simp] theorem tab_updEngine (x : Nat) (f : Engine → Engine) (i j k : Nat) : (d.updEngine x f).tab i j k = d.tab i j k := rfl
@[simp] theorem rd_updHost (f : HostQ → HostQ) (b : Nat) : (d.updHost f).rd b = d.rd b := rfl
@[simp] theorem cnt_updHost (f : HostQ → HostQ) (b : Nat) : (d.updHost f).cnt b = d.cnt b := rfl
@[simp] theorem lane_updHost (f : HostQ → HostQ) (k : Nat) : (d.updHost f).lane k = d.lane k := rfl
@[simp] theorem port_updHost (f : HostQ → HostQ) (k : Nat) : (d.updHost f).port k = d.port k := rfl
@[simp] theorem spar_updHost (f : HostQ → HostQ) (k : Nat) : (d.updHost f).spar k = d.spar k := rfl
@[simp] theorem sliceOf_updHost (f : HostQ → HostQ) (k : Nat) : (d.updHost f).sliceOf k = d.sliceOf k := rfl
@[simp] theorem engine_updHost (f : HostQ → HostQ) (k : Nat) : (d.updHost f).engine k = d.engine k := rfl
@[simp] theorem tab_updHost (f : HostQ → HostQ) (i j k : Nat) : (d.updHost f).tab i j k = d.tab i j k := rfl
@[simp] theorem rd_updLink (x : Nat) (f : Link → Link) (b : Nat) : (d.updLink x f).rd b = d.rd b := rfl
@[simp] theorem cnt_updLink (x : Nat) (f : Link → Link) (b : Nat) : (d.updLink x f).cnt b = d.cnt b := rfl
@[simp] theorem lane_updLink (x : Nat) (f : Link → Link) (k : Nat) : (d.updLink x f).lane k = d.lane k := rfl
@[simp] theorem port_updLink (x : Nat) (f : Link → Link) (k : Nat) : (d.updLink x f).port k = d.port k := rfl
@[simp] theorem spar_updLink (x : Nat) (f : Link → Link) (k : Nat) : (d.updLink x f).spar k = d.spar k := rfl
@[simp] theorem sliceOf_updLink (x : Nat) (f : Link → Link) (k : Nat) : (d.updLink x f).sliceOf k = d.sliceOf k := rfl
@[simp] theorem engine_updLink (x : Nat) (f : Link → Link) (k : Nat) : (d.updLink x f).engine k = d.engine k := rfl
@[simp] theorem sq_updLink (x : Nat) (f : Link → Link) (k : Nat) : (d.updLink x f).sq k = d.sq k := rfl
@[simp] theorem cq_updLink (x : Nat) (f : Link → Link) (k : Nat) : (d.updLink x f).cq k = d.cq k := rfl
@[simp] theorem fn_updLink (x : Nat) (f : Link → Link) (k : Nat) : (d.updLink x f).fn k = d.fn k := rfl
@[simp] theorem dma_updLink (x : Nat) (f : Link → Link) (k : Nat) : (d.updLink x f).dma k = d.dma k := rfl
@[simp] theorem tab_updLink (x : Nat) (f : Link → Link) (i j k : Nat) : (d.updLink x f).tab i j k = d.tab i j k := rfl
@[simp] theorem rd_emit (o : Output) (b : Nat) : (d.emit o).rd b = d.rd b := rfl
@[simp] theorem cnt_emit (o : Output) (b : Nat) : (d.emit o).cnt b = d.cnt b := rfl
@[simp] theorem lane_emit (o : Output) (k : Nat) : (d.emit o).lane k = d.lane k := rfl
@[simp] theorem port_emit (o : Output) (k : Nat) : (d.emit o).port k = d.port k := rfl
@[simp] theorem spar_emit (o : Output) (k : Nat) : (d.emit o).spar k = d.spar k := rfl
@[simp] theorem sliceOf_emit (o : Output) (k : Nat) : (d.emit o).sliceOf k = d.sliceOf k := rfl
@[simp] theorem engine_emit (o : Output) (k : Nat) : (d.emit o).engine k = d.engine k := rfl
@[simp] theorem sq_emit (o : Output) (k : Nat) : (d.emit o).sq k = d.sq k := rfl
@[simp] theorem cq_emit (o : Output) (k : Nat) : (d.emit o).cq k = d.cq k := rfl
@[simp] theorem fn_emit (o : Output) (k : Nat) : (d.emit o).fn k = d.fn k := rfl
@[simp] theorem dma_emit (o : Output) (k : Nat) : (d.emit o).dma k = d.dma k := rfl
@[simp] theorem tab_emit (o : Output) (i j k : Nat) : (d.emit o).tab i j k = d.tab i j k := rfl
@[simp] theorem rd_updTarget (x : Nat) (f : Target → Target) (b : Nat) : (d.updTarget x f).rd b = d.rd b := rfl
@[simp] theorem cnt_updTarget (x : Nat) (f : Target → Target) (b : Nat) : (d.updTarget x f).cnt b = d.cnt b := rfl
@[simp] theorem lane_updTarget (x : Nat) (f : Target → Target) (k : Nat) : (d.updTarget x f).lane k = d.lane k := rfl
@[simp] theorem port_updTarget (x : Nat) (f : Target → Target) (k : Nat) : (d.updTarget x f).port k = d.port k := rfl
@[simp] theorem spar_updTarget (x : Nat) (f : Target → Target) (k : Nat) : (d.updTarget x f).spar k = d.spar k := rfl
@[simp] theorem sliceOf_updTarget (x : Nat) (f : Target → Target) (k : Nat) : (d.updTarget x f).sliceOf k = d.sliceOf k := rfl
@[simp] theorem engine_updTarget (x : Nat) (f : Target → Target) (k : Nat) : (d.updTarget x f).engine k = d.engine k := rfl
@[simp] theorem sq_updTarget (x : Nat) (f : Target → Target) (k : Nat) : (d.updTarget x f).sq k = d.sq k := rfl
@[simp] theorem cq_updTarget (x : Nat) (f : Target → Target) (k : Nat) : (d.updTarget x f).cq k = d.cq k := rfl
@[simp] theorem fn_updTarget (x : Nat) (f : Target → Target) (k : Nat) : (d.updTarget x f).fn k = d.fn k := rfl
@[simp] theorem dma_updTarget (x : Nat) (f : Target → Target) (k : Nat) : (d.updTarget x f).dma k = d.dma k := rfl
@[simp] theorem tab_updTarget (x : Nat) (f : Target → Target) (i j k : Nat) : (d.updTarget x f).tab i j k = d.tab i j k := rfl
@[simp] theorem rd_flag (x y : Nat) (i g : Bool) (z : Nat) (b : Nat) : (d.flag x y i g z).rd b = d.rd b := rfl
@[simp] theorem cnt_flag (x y : Nat) (i g : Bool) (z : Nat) (b : Nat) : (d.flag x y i g z).cnt b = d.cnt b := rfl
@[simp] theorem lane_flag (x y : Nat) (i g : Bool) (z : Nat) (k : Nat) : (d.flag x y i g z).lane k = d.lane k := rfl
@[simp] theorem port_flag (x y : Nat) (i g : Bool) (z : Nat) (k : Nat) : (d.flag x y i g z).port k = d.port k := rfl
@[simp] theorem spar_flag (x y : Nat) (i g : Bool) (z : Nat) (k : Nat) : (d.flag x y i g z).spar k = d.spar k := rfl
@[simp] theorem sliceOf_flag (x y : Nat) (i g : Bool) (z : Nat) (k : Nat) : (d.flag x y i g z).sliceOf k = d.sliceOf k := rfl
@[simp] theorem engine_flag (x y : Nat) (i g : Bool) (z : Nat) (k : Nat) : (d.flag x y i g z).engine k = d.engine k := rfl
@[simp] theorem sq_flag (x y : Nat) (i g : Bool) (z : Nat) (k : Nat) : (d.flag x y i g z).sq k = d.sq k := rfl
@[simp] theorem cq_flag (x y : Nat) (i g : Bool) (z : Nat) (k : Nat) : (d.flag x y i g z).cq k = d.cq k := rfl
@[simp] theorem fn_flag (x y : Nat) (i g : Bool) (z : Nat) (k : Nat) : (d.flag x y i g z).fn k = d.fn k := rfl
@[simp] theorem dma_flag (x y : Nat) (i g : Bool) (z : Nat) (k : Nat) : (d.flag x y i g z).dma k = d.dma k := rfl
@[simp] theorem tab_flag (x y : Nat) (i g : Bool) (z : Nat) (i1 j1 k1 : Nat) : (d.flag x y i g z).tab i1 j1 k1 = d.tab i1 j1 k1 := rfl
@[simp] theorem rd_updFault (f : Faults → Faults) (b : Nat) : (d.updFault f).rd b = d.rd b := rfl
@[simp] theorem cnt_updFault (f : Faults → Faults) (b : Nat) : (d.updFault f).cnt b = d.cnt b := rfl
@[simp] theorem lane_updFault (f : Faults → Faults) (k : Nat) : (d.updFault f).lane k = d.lane k := rfl
@[simp] theorem port_updFault (f : Faults → Faults) (k : Nat) : (d.updFault f).port k = d.port k := rfl
@[simp] theorem spar_updFault (f : Faults → Faults) (k : Nat) : (d.updFault f).spar k = d.spar k := rfl
@[simp] theorem sliceOf_updFault (f : Faults → Faults) (k : Nat) : (d.updFault f).sliceOf k = d.sliceOf k := rfl
@[simp] theorem engine_updFault (f : Faults → Faults) (k : Nat) : (d.updFault f).engine k = d.engine k := rfl
@[simp] theorem sq_updFault (f : Faults → Faults) (k : Nat) : (d.updFault f).sq k = d.sq k := rfl
@[simp] theorem cq_updFault (f : Faults → Faults) (k : Nat) : (d.updFault f).cq k = d.cq k := rfl
@[simp] theorem fn_updFault (f : Faults → Faults) (k : Nat) : (d.updFault f).fn k = d.fn k := rfl
@[simp] theorem dma_updFault (f : Faults → Faults) (k : Nat) : (d.updFault f).dma k = d.dma k := rfl
@[simp] theorem tab_updFault (f : Faults → Faults) (i j k : Nat) : (d.updFault f).tab i j k = d.tab i j k := rfl
@[simp] theorem rd_updTime (f : TimeBase → TimeBase) (b : Nat) : (d.updTime f).rd b = d.rd b := rfl
@[simp] theorem cnt_updTime (f : TimeBase → TimeBase) (b : Nat) : (d.updTime f).cnt b = d.cnt b := rfl
@[simp] theorem lane_updTime (f : TimeBase → TimeBase) (k : Nat) : (d.updTime f).lane k = d.lane k := rfl
@[simp] theorem port_updTime (f : TimeBase → TimeBase) (k : Nat) : (d.updTime f).port k = d.port k := rfl
@[simp] theorem spar_updTime (f : TimeBase → TimeBase) (k : Nat) : (d.updTime f).spar k = d.spar k := rfl
@[simp] theorem sliceOf_updTime (f : TimeBase → TimeBase) (k : Nat) : (d.updTime f).sliceOf k = d.sliceOf k := rfl
@[simp] theorem engine_updTime (f : TimeBase → TimeBase) (k : Nat) : (d.updTime f).engine k = d.engine k := rfl
@[simp] theorem sq_updTime (f : TimeBase → TimeBase) (k : Nat) : (d.updTime f).sq k = d.sq k := rfl
@[simp] theorem cq_updTime (f : TimeBase → TimeBase) (k : Nat) : (d.updTime f).cq k = d.cq k := rfl
@[simp] theorem fn_updTime (f : TimeBase → TimeBase) (k : Nat) : (d.updTime f).fn k = d.fn k := rfl
@[simp] theorem dma_updTime (f : TimeBase → TimeBase) (k : Nat) : (d.updTime f).dma k = d.dma k := rfl
@[simp] theorem tab_updTime (f : TimeBase → TimeBase) (i j k : Nat) : (d.updTime f).tab i j k = d.tab i j k := rfl
@[simp] theorem rd_updCommit (f : Commit → Commit) (b : Nat) : (d.updCommit f).rd b = d.rd b := rfl
@[simp] theorem cnt_updCommit (f : Commit → Commit) (b : Nat) : (d.updCommit f).cnt b = d.cnt b := rfl
@[simp] theorem lane_updCommit (f : Commit → Commit) (k : Nat) : (d.updCommit f).lane k = d.lane k := rfl
@[simp] theorem port_updCommit (f : Commit → Commit) (k : Nat) : (d.updCommit f).port k = d.port k := rfl
@[simp] theorem spar_updCommit (f : Commit → Commit) (k : Nat) : (d.updCommit f).spar k = d.spar k := rfl
@[simp] theorem sliceOf_updCommit (f : Commit → Commit) (k : Nat) : (d.updCommit f).sliceOf k = d.sliceOf k := rfl
@[simp] theorem engine_updCommit (f : Commit → Commit) (k : Nat) : (d.updCommit f).engine k = d.engine k := rfl
@[simp] theorem sq_updCommit (f : Commit → Commit) (k : Nat) : (d.updCommit f).sq k = d.sq k := rfl
@[simp] theorem cq_updCommit (f : Commit → Commit) (k : Nat) : (d.updCommit f).cq k = d.cq k := rfl
@[simp] theorem fn_updCommit (f : Commit → Commit) (k : Nat) : (d.updCommit f).fn k = d.fn k := rfl
@[simp] theorem dma_updCommit (f : Commit → Commit) (k : Nat) : (d.updCommit f).dma k = d.dma k := rfl
@[simp] theorem tab_updCommit (f : Commit → Commit) (i j k : Nat) : (d.updCommit f).tab i j k = d.tab i j k := rfl
@[simp] theorem rd_updLoader (f : Loader → Loader) (b : Nat) : (d.updLoader f).rd b = d.rd b := rfl
@[simp] theorem cnt_updLoader (f : Loader → Loader) (b : Nat) : (d.updLoader f).cnt b = d.cnt b := rfl
@[simp] theorem lane_updLoader (f : Loader → Loader) (k : Nat) : (d.updLoader f).lane k = d.lane k := rfl
@[simp] theorem port_updLoader (f : Loader → Loader) (k : Nat) : (d.updLoader f).port k = d.port k := rfl
@[simp] theorem spar_updLoader (f : Loader → Loader) (k : Nat) : (d.updLoader f).spar k = d.spar k := rfl
@[simp] theorem sliceOf_updLoader (f : Loader → Loader) (k : Nat) : (d.updLoader f).sliceOf k = d.sliceOf k := rfl
@[simp] theorem engine_updLoader (f : Loader → Loader) (k : Nat) : (d.updLoader f).engine k = d.engine k := rfl
@[simp] theorem sq_updLoader (f : Loader → Loader) (k : Nat) : (d.updLoader f).sq k = d.sq k := rfl
@[simp] theorem cq_updLoader (f : Loader → Loader) (k : Nat) : (d.updLoader f).cq k = d.cq k := rfl
@[simp] theorem fn_updLoader (f : Loader → Loader) (k : Nat) : (d.updLoader f).fn k = d.fn k := rfl
@[simp] theorem dma_updLoader (f : Loader → Loader) (k : Nat) : (d.updLoader f).dma k = d.dma k := rfl
@[simp] theorem tab_updLoader (f : Loader → Loader) (i j k : Nat) : (d.updLoader f).tab i j k = d.tab i j k := rfl
@[simp] theorem rd_updIsland (f : Island → Island) (b : Nat) : (d.updIsland f).rd b = d.rd b := rfl
@[simp] theorem cnt_updIsland (f : Island → Island) (b : Nat) : (d.updIsland f).cnt b = d.cnt b := rfl
@[simp] theorem lane_updIsland (f : Island → Island) (k : Nat) : (d.updIsland f).lane k = d.lane k := rfl
@[simp] theorem port_updIsland (f : Island → Island) (k : Nat) : (d.updIsland f).port k = d.port k := rfl
@[simp] theorem spar_updIsland (f : Island → Island) (k : Nat) : (d.updIsland f).spar k = d.spar k := rfl
@[simp] theorem sliceOf_updIsland (f : Island → Island) (k : Nat) : (d.updIsland f).sliceOf k = d.sliceOf k := rfl
@[simp] theorem engine_updIsland (f : Island → Island) (k : Nat) : (d.updIsland f).engine k = d.engine k := rfl
@[simp] theorem sq_updIsland (f : Island → Island) (k : Nat) : (d.updIsland f).sq k = d.sq k := rfl
@[simp] theorem cq_updIsland (f : Island → Island) (k : Nat) : (d.updIsland f).cq k = d.cq k := rfl
@[simp] theorem fn_updIsland (f : Island → Island) (k : Nat) : (d.updIsland f).fn k = d.fn k := rfl
@[simp] theorem dma_updIsland (f : Island → Island) (k : Nat) : (d.updIsland f).dma k = d.dma k := rfl
@[simp] theorem tab_updIsland (f : Island → Island) (i j k : Nat) : (d.updIsland f).tab i j k = d.tab i j k := rfl
@[simp] theorem rd_updStack (f : Stacking → Stacking) (b : Nat) : (d.updStack f).rd b = d.rd b := rfl
@[simp] theorem cnt_updStack (f : Stacking → Stacking) (b : Nat) : (d.updStack f).cnt b = d.cnt b := rfl
@[simp] theorem lane_updStack (f : Stacking → Stacking) (k : Nat) : (d.updStack f).lane k = d.lane k := rfl
@[simp] theorem port_updStack (f : Stacking → Stacking) (k : Nat) : (d.updStack f).port k = d.port k := rfl
@[simp] theorem spar_updStack (f : Stacking → Stacking) (k : Nat) : (d.updStack f).spar k = d.spar k := rfl
@[simp] theorem sliceOf_updStack (f : Stacking → Stacking) (k : Nat) : (d.updStack f).sliceOf k = d.sliceOf k := rfl
@[simp] theorem engine_updStack (f : Stacking → Stacking) (k : Nat) : (d.updStack f).engine k = d.engine k := rfl
@[simp] theorem sq_updStack (f : Stacking → Stacking) (k : Nat) : (d.updStack f).sq k = d.sq k := rfl
@[simp] theorem cq_updStack (f : Stacking → Stacking) (k : Nat) : (d.updStack f).cq k = d.cq k := rfl
@[simp] theorem fn_updStack (f : Stacking → Stacking) (k : Nat) : (d.updStack f).fn k = d.fn k := rfl
@[simp] theorem dma_updStack (f : Stacking → Stacking) (k : Nat) : (d.updStack f).dma k = d.dma k := rfl
@[simp] theorem tab_updStack (f : Stacking → Stacking) (i j k : Nat) : (d.updStack f).tab i j k = d.tab i j k := rfl

/-! Registers. -/

/-- A register reads the value written to it, every other as before. -/
theorem rd_wr (a b : Nat) (v : Word) : (d.wr a v).rd b = if b = a then v else d.rd b := SMap.get_set _ _ _ _ _
@[simp] theorem rd_wr_same (a : Nat) (v : Word) : (d.wr a v).rd a = v := by simp [rd_wr]
theorem rd_wr_ne {a b : Nat} (v : Word) (h : b ≠ a) : (d.wr a v).rd b = d.rd b := by simp [rd_wr, h]
/-- The shadow of a register reads the value written to it, every other as before. -/
theorem rdSh_wrSh (a b : Nat) (v : Word) : (d.wrSh a v).rdSh b = if b = a then v else d.rdSh b := SMap.get_set _ _ _ _ _
theorem rd_fset_ne {a b : Nat} (hi lo v : Nat) (h : b ≠ a) : (d.fset a hi lo v).rd b = d.rd b := rd_wr_ne d _ h
theorem rd_bset_ne {a b : Nat} (i : Nat) (v : Bool) (h : b ≠ a) : (d.bset a i v).rd b = d.rd b := rd_wr_ne d _ h
theorem fget_wr_ne {a b : Nat} (hi lo : Nat) (v : Word) (h : b ≠ a) : (d.wr a v).fget b hi lo = d.fget b hi lo := by
  rw [fget, fget, rd_wr_ne d v h]
theorem fget_fset_ne {a b : Nat} (hi lo v x y : Nat) (h : b ≠ a) : (d.fset a hi lo v).fget b x y = d.fget b x y := by
  rw [fget, fget, rd_fset_ne d _ _ _ h]
theorem fget_bset_ne {a b : Nat} (i : Nat) (v : Bool) (x y : Nat) (h : b ≠ a) : (d.bset a i v).fget b x y = d.fget b x y := by
  rw [fget, fget, rd_bset_ne d _ _ h]
theorem bget_wr_ne {a b : Nat} (i : Nat) (v : Word) (h : b ≠ a) : (d.wr a v).bget b i = d.bget b i := by
  rw [bget, bget, rd_wr_ne d v h]
theorem bget_fset_ne {a b : Nat} (hi lo v i : Nat) (h : b ≠ a) : (d.fset a hi lo v).bget b i = d.bget b i := by
  rw [bget, bget, rd_fset_ne d _ _ _ h]
theorem bget_bset_ne {a b : Nat} (i j : Nat) (v : Bool) (h : b ≠ a) : (d.bset a i v).bget b j = d.bget b j := by
  rw [bget, bget, rd_bset_ne d _ _ h]
/-- A field of a register reads what was written into it, cut to its width. -/
theorem fget_fset (a hi lo v : Nat) (h : lo ≤ hi) (hh : hi < 32) : (d.fset a hi lo v).fget a hi lo = v % 2 ^ (hi + 1 - lo) := by
  rw [fget, fset, rd_wr_same, fld_setFld _ _ _ _ h hh]
/-- Another field of the register reads as before. -/
theorem fget_fset_other (a hi lo v x y : Nat) (h : lo ≤ hi) (hx : x < 32) (hd : x < lo ∨ hi < y) :
    (d.fset a hi lo v).fget a x y = d.fget a x y := by
  rw [fget, fset, rd_wr_same, fld_setFld_ne _ _ _ _ _ _ h hx hd, fget]
/-- A bit reads what was written into it, every other bit of the register as before. -/
theorem bget_bset (a i j : Nat) (v : Bool) (hi : i < 32) : (d.bset a i v).bget a j = if j = i then v else d.bget a j := by
  rw [bget, bset, fset, rd_wr_same]
  exact wbit_setBit _ _ _ _ hi
theorem bget_bset_same (a i : Nat) (v : Bool) (hi : i < 32) : (d.bset a i v).bget a i = v := by simp [bget_bset d a i i v hi]
/-- A field outside a bit that was written reads as before. -/
theorem fget_bset_other (a i x y : Nat) (v : Bool) (hx : x < 32) (hd : x < i ∨ i < y) :
    (d.bset a i v).fget a x y = d.fget a x y := fget_fset_other d a i i (b2n v) x y (le_refl i) hx hd
/-- A bit outside a field that was written reads as before. -/
theorem bget_fset_other (a hi lo v i : Nat) (h : lo ≤ hi) (hi' : i < 32) (hd : i < lo ∨ hi < i) :
    (d.fset a hi lo v).bget a i = d.bget a i := by
  rw [bget, fset, rd_wr_same, wbit_setFld_ne _ _ _ _ _ h hi' hd, bget]

/-! Counters. -/

theorem cnt_cntSet (a b : Nat) (v : BitVec 64) : (d.cntSet a v).cnt b = if b = a then v else d.cnt b := SMap.get_set _ _ _ _ _
/-- A counter advanced stops at all ones (R9), every other counter reads as before. -/
theorem cnt_cntAdd (a n b : Nat) : (d.cntAdd a n).cnt b =
    if b = a then BitVec.ofNat 64 (min (2 ^ 64 - 1) ((d.cnt a).toNat + n)) else d.cnt b := cnt_cntSet d _ _ _
/-- A cleared span reads 0, every counter outside it as before. -/
theorem cnt_cntClr (base n b : Nat) : (d.cntClr base n).cnt b = if base ≤ b ∧ b < base + 8 * n then 0 else d.cnt b := by
  show SMap.get _ (d.cnts.filter _) b = if _ then 0 else SMap.get _ d.cnts b
  induction d.cnts with
  | nil => simp [SMap.get]
  | cons p m ih =>
    obtain ⟨j, v⟩ := p
    by_cases hj : base ≤ j ∧ j < base + 8 * n
    · have : (!(decide (base ≤ j) && decide (j < base + 8 * n))) = false := by simp [hj.1, hj.2]
      rw [List.filter_cons_of_neg (by simpa using this), ih, SMap.get]
      by_cases hb : base ≤ b ∧ b < base + 8 * n
      · simp [hb]
      · have : ¬ j = b := fun e => hb (e ▸ hj)
        simp [hb, this]
    · have : (!(decide (base ≤ j) && decide (j < base + 8 * n))) = true := by
        simp only [Bool.not_eq_true', Bool.and_eq_false_iff, decide_eq_false_iff_not]
        by_contra hc
        push Not at hc
        exact hj hc
      rw [List.filter_cons_of_pos (by simpa using this), SMap.get, SMap.get, ih]
      by_cases hb : j = b
      · subst hb; simp [hj]
      · simp [hb]

/-! Tables. -/

theorem tab_tabSet (id n k id' n' k' : Nat) (ws : List Word) :
    (d.tabSet id n k ws).tab id' n' k' = if tkey id' n' k' = tkey id n k then ws else d.tab id' n' k' := SMap.get_set _ _ _ _ _

/-! The units. -/

theorem lane_updLane (l k : Nat) (f : Lane → Lane) : (d.updLane l f).lane k = if k = l then f (d.lane l) else d.lane k :=
  SMap.get_set _ _ _ _ _
theorem port_updPort (p k : Nat) (f : Port → Port) : (d.updPort p f).port k = if k = p then f (d.port p) else d.port k :=
  SMap.get_set _ _ _ _ _
theorem spar_updSpar (n k : Nat) (f : Spar → Spar) : (d.updSpar n f).spar k = if k = n then f (d.spar n) else d.spar k :=
  SMap.get_set _ _ _ _ _
theorem sliceOf_updSlice (m k : Nat) (f : Slice → Slice) :
    (d.updSlice m f).sliceOf k = if k = m then f (d.sliceOf m) else d.sliceOf k := SMap.get_set _ _ _ _ _
theorem engine_updEngine (e k : Nat) (f : Engine → Engine) :
    (d.updEngine e f).engine k = if k = e then f (d.engine e) else d.engine k := SMap.get_set _ _ _ _ _
theorem ctx_updCtx (e c e' c' : Nat) (f : Ctx → Ctx) :
    (d.updCtx e c f).ctx e' c' = if e' = e ∧ c' = c then f (d.ctx e c) else d.ctx e' c' := by
  unfold updCtx ctx
  rw [engine_updEngine]
  by_cases h : e' = e
  · subst h
    rw [if_pos rfl]
    by_cases h2 : c' = c
    · rw [if_pos ⟨rfl, h2⟩]; exact (SMap.get_set _ _ _ _ _).trans (if_pos h2)
    · rw [if_neg (fun x => h2 x.2)]; exact (SMap.get_set _ _ _ _ _).trans (if_neg h2)
  · rw [if_neg h, if_neg (fun x => h x.1)]
theorem link_updLink (n k : Nat) (f : Link → Link) : (d.updLink n f).link k = if k = n then f (d.link n) else d.link k :=
  SMap.get_set _ _ _ _ _
theorem sq_updSq (q k : Nat) (f : Sq → Sq) : (d.updSq q f).sq k = if k = q then f (d.sq q) else d.sq k := SMap.get_set _ _ _ _ _
theorem cq_updCq (q k : Nat) (f : Cq → Cq) : (d.updCq q f).cq k = if k = q then f (d.cq q) else d.cq k := SMap.get_set _ _ _ _ _
theorem fn_updFn (q k : Nat) (f : Fn → Fn) : (d.updFn q f).fn k = if k = q then f (d.fn q) else d.fn k := SMap.get_set _ _ _ _ _
theorem dma_updDma (q k : Nat) (f : Dma → Dma) : (d.updDma q f).dma k = if k = q then f (d.dma q) else d.dma k :=
  SMap.get_set _ _ _ _ _
theorem target_updTarget (t k : Nat) (f : Target → Target) :
    (d.updTarget t f).target k = if k = t then f (d.target t) else d.target k := SMap.get_set _ _ _ _ _

/-! Frame memory. -/

/-- A byte of a run is read where it was put, every other byte as before. -/
theorem get_cellsPut (a : Nat) : ∀ (bs : Bytes) (m : List Host.Cell) (b : Nat),
    SMap.get (fun _ => (0 : Byte)) (cellsPut m b bs) a =
      if b ≤ a ∧ a < b + bs.length then bs.getD (a - b) 0 else SMap.get (fun _ => 0) m a
  | [], m, b => by
    have : ¬ (b ≤ a ∧ a < b + ([] : Bytes).length) := by simp
    rw [if_neg this]; rfl
  | x :: bs, m, b => by
    rw [cellsPut, get_cellsPut a bs, SMap.get_set]
    by_cases h : a = b
    · subst h; simp
    · by_cases h2 : b ≤ a ∧ a < b + (x :: bs).length
      · have h3 : b + 1 ≤ a ∧ a < b + 1 + bs.length := by
          simp only [List.length_cons] at h2; omega
        rw [if_pos h3, if_pos h2]
        have : a - b = (a - (b + 1)) + 1 := by omega
        rw [this]; rfl
      · have h3 : ¬ (b + 1 ≤ a ∧ a < b + 1 + bs.length) := by
          simp only [List.length_cons] at h2; omega
        rw [if_neg h3, if_neg h2, if_neg h]

/-- Applying stores leaves the bytes that reads through the stores showed. -/
theorem get_cellsStore (m : List Host.Cell) (a : Nat) : ∀ ss : List Store,
    SMap.get (fun _ => (0 : Byte)) (cellsStore m ss) a = storeByte m ss a
  | [] => rfl
  | .lose :: ss => rfl
  | .put b bs :: ss => by
    rw [cellsStore, get_cellsPut, storeByte, get_cellsStore m a ss]

/-- A run stored keeps the canonical form. -/
theorem wf_cellsPut : ∀ (bs : Bytes) (m : List Host.Cell) (b : Nat), Memory.wf m = true → Memory.wf (cellsPut m b bs) = true
  | [], _, _, h => h
  | x :: bs, m, b, h => wf_cellsPut bs _ _ (SMap.wf_set _ _ _ h)

/-- Applying stores keeps the canonical form. -/
theorem wf_cellsStore (m : List Host.Cell) (h : Memory.wf m = true) : ∀ ss : List Store, Memory.wf (cellsStore m ss) = true
  | [] => h
  | .lose :: _ => rfl
  | .put a bs :: ss => wf_cellsPut bs _ a (wf_cellsStore m h ss)

/-- What a settled command leaves in frame memory: the bytes that its own reads showed, over the bytes it began with. -/
theorem fmByte_settle (d0 : Dev) (a : Nat) : (settle d0 d).fmByte a = storeByte d0.fmem.bytes d.stores a := get_cellsStore _ _ _

/-- A run stored is read back, every other byte as before. -/
theorem fmByte_fmWrite (a b : Nat) (bs : Bytes) :
    (d.fmWrite b bs).fmByte a = if b ≤ a ∧ a < b + bs.length then bs.getD (a - b) 0 else d.fmByte a := rfl

end Sys2Proof.Machine.Dev
end

