-- ==== Sys2Proof/Laws/Irq.lean ====
section
/-!
SUPPORT. What the interrupt controller's operations can change: pending bits, moderation, messages and outputs, and nothing else.
Every event bit of the device goes through them, so this is the frame of every event.
-/
namespace Sys2Proof.Machine.Dev

/-- `e` differs from `d` only in pending bits, moderation, the functions' message state and outputs. -/
structure IrqFrame (d e : Dev) : Prop where
  beside : e.beside = d.beside
  rd : ∀ a, ¬ isPend a → e.rd a = d.rd a
  outs : ∃ os, e.outs = d.outs ++ os

namespace IrqFrame

theorem refl (d : Dev) : IrqFrame d d := ⟨rfl, fun _ _ => rfl, [], by simp⟩
theorem trans {d e f : Dev} (h : IrqFrame d e) (g : IrqFrame e f) : IrqFrame d f := by
  obtain ⟨o1, h1⟩ := h.outs
  obtain ⟨o2, h2⟩ := g.outs
  exact ⟨g.beside.trans h.beside, fun a ha => (g.rd a ha).trans (h.rd a ha), o1 ++ o2, by rw [h2, h1, List.append_assoc]⟩

variable {d e : Dev} (h : IrqFrame d e)
include h

theorem shadow : e.shadow = d.shadow := (congrArg Dev.shadow h.beside :)
theorem cnts : e.cnts = d.cnts := (congrArg Dev.cnts h.beside :)
theorem latch : e.latch = d.latch := (congrArg Dev.latch h.beside :)
theorem tabs : e.tabs = d.tabs := (congrArg Dev.tabs h.beside :)
theorem shTabs : e.shTabs = d.shTabs := (congrArg Dev.shTabs h.beside :)
theorem fmem : e.fmem = d.fmem := (congrArg Dev.fmem h.beside :)
theorem commit : e.commit = d.commit := (congrArg Dev.commit h.beside :)
theorem loader : e.loader = d.loader := (congrArg Dev.loader h.beside :)
theorem fuses : e.fuses = d.fuses := (congrArg Dev.fuses h.beside :)
theorem time : e.time = d.time := (congrArg Dev.time h.beside :)
theorem lanes : e.lanes = d.lanes := (congrArg Dev.lanes h.beside :)
theorem ports : e.ports = d.ports := (congrArg Dev.ports h.beside :)
theorem spars : e.spars = d.spars := (congrArg Dev.spars h.beside :)
theorem slices : e.slices = d.slices := (congrArg Dev.slices h.beside :)
theorem engines : e.engines = d.engines := (congrArg Dev.engines h.beside :)
theorem fault : e.fault = d.fault := (congrArg Dev.fault h.beside :)
theorem island : e.island = d.island := (congrArg Dev.island h.beside :)
theorem stack : e.stack = d.stack := (congrArg Dev.stack h.beside :)
theorem gated : e.gated = d.gated := (congrArg Dev.gated h.beside :)
theorem freeCtr : e.freeCtr = d.freeCtr := (congrArg Dev.freeCtr h.beside :)
theorem audit : e.audit = d.audit := (congrArg Dev.audit h.beside :)
theorem wallHeld : e.wallHeld = d.wallHeld := (congrArg Dev.wallHeld h.beside :)
theorem stores : e.stores = d.stores := (congrArg Dev.stores h.beside :)
theorem winPend : e.winPend = d.winPend := (congrArg Dev.winPend h.beside :)
theorem sqs : e.host.sqs = d.host.sqs := (congrArg (fun x : Dev => x.host.sqs) h.beside :)
theorem cqs : e.host.cqs = d.host.cqs := (congrArg (fun x : Dev => x.host.cqs) h.beside :)
theorem dmas : e.host.dmas = d.host.dmas := (congrArg (fun x : Dev => x.host.dmas) h.beside :)
theorem link : e.host.link = d.host.link := (congrArg (fun x : Dev => x.host.link) h.beside :)
theorem taking : e.host.taking = d.host.taking := (congrArg (fun x : Dev => x.host.taking) h.beside :)
theorem perst : e.host.perst = d.host.perst := (congrArg (fun x : Dev => x.host.perst) h.beside :)
theorem heldCqe : e.host.heldCqe = d.host.heldCqe := (congrArg (fun x : Dev => x.host.heldCqe) h.beside :)
theorem rrPos : e.host.rrPos = d.host.rrPos := (congrArg (fun x : Dev => x.host.rrPos) h.beside :)
theorem rxTurn : e.host.rxTurn = d.host.rxTurn := (congrArg (fun x : Dev => x.host.rxTurn) h.beside :)
theorem injecting : e.host.injecting = d.host.injecting := (congrArg (fun x : Dev => x.host.injecting) h.beside :)
theorem injTag : e.host.injTag = d.host.injTag := (congrArg (fun x : Dev => x.host.injTag) h.beside :)
theorem poolDepth : e.host.poolDepth = d.host.poolDepth := (congrArg (fun x : Dev => x.host.poolDepth) h.beside :)
theorem inUse : e.host.inUse = d.host.inUse := (congrArg (fun x : Dev => x.host.inUse) h.beside :)
theorem claimedBy : e.irq.claimedBy = d.irq.claimedBy := (congrArg (fun x : Dev => x.irq.claimedBy) h.beside :)
theorem fget (a hi lo : Nat) (ha : ¬ isPend a) : e.fget a hi lo = d.fget a hi lo := by
  rw [Dev.fget, Dev.fget, h.rd a ha]
theorem bget (a i : Nat) (ha : ¬ isPend a) : e.bget a i = d.bget a i := by
  rw [Dev.bget, Dev.bget, h.rd a ha]
theorem cnt (a : Nat) : e.cnt a = d.cnt a := by rw [Dev.cnt, Dev.cnt, h.cnts]
theorem tab (id n k : Nat) : e.tab id n k = d.tab id n k := by rw [Dev.tab, Dev.tab, h.tabs]
theorem lane (l : Nat) : e.lane l = d.lane l := by rw [Dev.lane, Dev.lane, h.lanes]
theorem port (p : Nat) : e.port p = d.port p := by rw [Dev.port, Dev.port, h.ports]
theorem spar (n : Nat) : e.spar n = d.spar n := by rw [Dev.spar, Dev.spar, h.spars]
theorem sliceOf (m : Nat) : e.sliceOf m = d.sliceOf m := by rw [Dev.sliceOf, Dev.sliceOf, h.slices]
theorem engine (k : Nat) : e.engine k = d.engine k := by rw [Dev.engine, Dev.engine, h.engines]
theorem ctx (k c : Nat) : e.ctx k c = d.ctx k c := by rw [Dev.ctx, Dev.ctx, h.engine]
theorem link' (n : Nat) : e.link n = d.link n := by rw [Dev.link, Dev.link, h.stack]
theorem sq (q : Nat) : e.sq q = d.sq q := by rw [Dev.sq, Dev.sq, h.sqs]
theorem cq (q : Nat) : e.cq q = d.cq q := by rw [Dev.cq, Dev.cq, h.cqs]
theorem dma (k : Nat) : e.dma k = d.dma k := by rw [Dev.dma, Dev.dma, h.dmas]
theorem fmByte (a : Nat) : e.fmByte a = d.fmByte a := by rw [Dev.fmByte, Dev.fmByte, h.fmem, h.stores]

end IrqFrame

variable (d : Dev)

/-! The operations, one lemma each. -/

theorem updTarget_frame (t : Nat) (f : Target → Target) : IrqFrame d (d.updTarget t f) := ⟨rfl, fun _ _ => rfl, [], by simp⟩
theorem emit_frame (o : Output) : IrqFrame d (d.emit o) := ⟨rfl, fun _ _ => rfl, [o], rfl⟩
theorem pendBit_frame (w i : Nat) (b : Bool) (hw : w < 36) : IrqFrame d (d.bset (Reg.IRQ_PEND w) i b) :=
  ⟨rfl, fun _ ha => rd_bset_ne d i b (fun e => ha ⟨w, hw, e⟩), [], by simp [bset, fset]⟩

/-- A change of the functions' message state. -/
theorem msgHost_frame (g : HostQ → HostQ) (hg : ∀ h, { g h with fns := [], heldMsix := [], wake := false } =
    { h with fns := [], heldMsix := [], wake := false }) : IrqFrame d (d.updHost g) := by
  refine ⟨?_, fun _ _ => rfl, [], by simp⟩
  simp only [beside, updHost, hg]

/-- A message by host state (R365): sent, held, or left in a pending bit. -/
theorem msix_frame (f v : Nat) : IrqFrame d (d.msix f v) := by
  have hfn : ∀ (x : Dev) g, IrqFrame x (x.updFn f g) := fun x g => msgHost_frame x _ (fun _ => rfl)
  unfold msix
  dsimp only
  have hheld := msgHost_frame d (fun h => { h with heldMsix := if h.heldMsix.contains (f, v) then h.heldMsix
    else h.heldMsix ++ [(f, v)] }) (fun _ => rfl)
  generalize d.updHost (fun h => { h with heldMsix := if h.heldMsix.contains (f, v) then h.heldMsix
    else h.heldMsix ++ [(f, v)] }) = held at hheld ⊢
  by_cases h1 : ((d.fn f).allMasked || !(d.fn f).unmasked.contains v) = true
  · rw [if_pos h1]
    exact hfn d _
  · rw [if_neg h1]
    cases hl : d.host.link <;> dsimp only
    · split
      · exact (hheld.trans (hfn _ _)).trans (emit_frame _ _)
      · exact emit_frame d _
    · split
      · exact (hheld.trans (hfn _ _)).trans (emit_frame _ _)
      · exact hheld
    · split
      · exact hheld
      · exact (hheld.trans (msgHost_frame _ (fun h => { h with wake := true }) (fun _ => rfl))).trans (emit_frame _ _)
    · exact hheld

theorem requestOut_frame (t : Nat) (was : Bool) : IrqFrame d (d.requestOut t was) := by
  unfold requestOut
  dsimp only
  split
  · exact .refl d
  · split
    · exact emit_frame d _
    · split
      · exact msix_frame d _ _
      · exact .refl d

theorem moderate_frame (t : Nat) : IrqFrame d (d.moderate t) := by
  unfold moderate
  dsimp only
  refine IrqFrame.trans ?_ (requestOut_frame _ _ _)
  repeat' split
  all_goals first | exact .refl d | exact updTarget_frame d _ _

theorem cameToQualify_frame (s : Nat) : IrqFrame d (d.cameToQualify s) := by
  unfold cameToQualify
  dsimp only
  refine IrqFrame.trans ?_ (moderate_frame _ _)
  split
  · exact .refl d
  · exact updTarget_frame d _ _

/-- Setting a pending bit changes nothing outside the interrupt controller. -/
theorem pendSet_frame (s : Nat) : IrqFrame d (d.pendSet s) := by
  unfold pendSet
  dsimp only
  split
  · exact .refl d
  · next h =>
    have hs : srcWord s < 36 := by
      simp only [Bool.or_eq_true, decide_eq_true_eq, not_or, not_le] at h
      simp only [srcWord]; omega
    split
    · exact (pendBit_frame d _ _ _ hs).trans (cameToQualify_frame _ _)
    · exact pendBit_frame d _ _ _ hs

theorem pendClear_frame (s : Nat) : IrqFrame d (d.pendClear s) := by
  unfold pendClear
  dsimp only
  by_cases hs : 1152 ≤ s
  · rw [if_pos hs]; exact .refl d
  · rw [if_neg hs]
    have h := (pendBit_frame d (srcWord s) (s % 32) false (by simp only [srcWord]; omega)).trans (moderate_frame _ (d.targetOf s))
    split
    · exact h.trans (pendSet_frame _ _)
    · exact h

theorem irqSync_frame (s : Nat) : IrqFrame d (d.irqSync s) := by
  unfold irqSync
  split
  · exact pendSet_frame d s
  · exact .refl d
theorem irqEdge_frame (s : Nat) : IrqFrame d (d.irqEdge s) := pendSet_frame d s
theorem irqPulse_frame (s : Nat) : IrqFrame d (d.irqPulse s) := by
  unfold irqPulse
  split
  · exact .refl d
  · exact pendSet_frame d s

/-- A run of operations, each of which keeps the frame, keeps it. -/
theorem foldl_frame {α : Type} (f : Dev → α → Dev) (hf : ∀ d a, IrqFrame d (f d a)) : ∀ (l : List α) (d : Dev), IrqFrame d (l.foldl f d)
  | [], d => .refl d
  | a :: l, d => (hf d a).trans (foldl_frame f hf l (f d a))
theorem irqSyncL_frame (ss : List Nat) : IrqFrame d (d.irqSyncL ss) := foldl_frame irqSync irqSync_frame ss d
theorem irqSyncAll_frame : IrqFrame d d.irqSyncAll :=
  (irqSyncL_frame d _).trans (foldl_frame moderate moderate_frame _ _)
theorem swi_frame (v : Nat) : IrqFrame d (d.swi v) := foldl_frame _ (fun x j => irqEdge_frame x (120 + j)) _ d
theorem pendSetWord_frame (w : Nat) (v : Word) : IrqFrame d (d.pendSetWord w v) := foldl_frame pendSet pendSet_frame _ d
theorem pendClearWord_frame (w : Nat) (v : Word) : IrqFrame d (d.pendClearWord w v) := foldl_frame pendClear pendClear_frame _ d
theorem holdoffRise_frame (t : Nat) : IrqFrame d (d.holdoffRise t) := by
  unfold holdoffRise
  split
  · exact (updTarget_frame d _ _).trans (requestOut_frame _ _ _)
  · exact .refl d

/-- An event: its bit is set, and beside that only the interrupt controller changes. -/
theorem event_frame (ev i src : Nat) : IrqFrame (d.bset ev i true) (d.event ev i src) := irqSync_frame _ _

/-- Every register but the event's and the pending words reads as before an event. -/
theorem rd_event_ne {a : Nat} (ev i src : Nat) (h : a ≠ ev) (ha : ¬ isPend a) : (d.event ev i src).rd a = d.rd a := by
  rw [(event_frame d ev i src).rd a ha, rd_bset_ne d _ _ h]
/-- The event's bit is set, the register's other bits read as before. -/
theorem bget_event (ev i j src : Nat) (hi : i < 32) (ha : ¬ isPend ev) :
    (d.event ev i src).bget ev j = if j = i then true else d.bget ev j := by
  rw [(event_frame d ev i src).bget ev j ha, bget_bset d ev i j true hi]

end Sys2Proof.Machine.Dev
end

