-- ==== Sys2Proof/Laws/Finish.lean ====
section
/-!
SUPPORT. How a command ends: with no report of a checker the device is as its meaning left it; with reports the collector handles
them all; and every command ends so.
-/
namespace Sys2Proof.Machine

namespace Dev

variable (d : Dev)

/-- Without a report the collector does nothing. -/
theorem raiseDue_none (h : d.fault.due = []) : d.raiseDue = d := by simp [raiseDue, h]

/-- A run of bit changes keeps the collector's own state. -/
theorem foldl_fault {α : Type} (f : Dev → α → Dev) (hf : ∀ d a, (f d a).fault = d.fault) :
    ∀ (l : List α) (d : Dev), (l.foldl f d).fault = d.fault
  | [], _ => rfl
  | a :: l, d => (foldl_fault f hf l (f d a)).trans (hf d a)

theorem classSync_fault : d.classSync.fault = d.fault := by
  unfold classSync
  apply foldl_fault
  intro x c
  rfl

/-- No report is left after the rounds. -/
theorem raiseRounds_due : ∀ (k : Nat) (d : Dev), (d.raiseRounds k).fault.due = []
  | 0, _ => rfl
  | k + 1, d => by
    unfold raiseRounds
    split
    · next h => simpa using h
    · exact raiseRounds_due k _

/-- No report is left when a command is done. -/
theorem raiseDue_due : d.raiseDue.fault.due = [] := by
  unfold raiseDue
  split
  · next h => simpa using h
  · rw [classSync_fault]; exact raiseRounds_due 3 d

end Dev

/-- A command that leaves no report ends in the device as its meaning left it, its stores in frame memory. -/
theorem finish_none (s : State) (d : Dev) (h : d.fault.due = []) :
    finish s d = .next { toDev := Dev.settle s.toDev d, pending := s.pending } := by
  rw [finish, done, Dev.raiseDue_none d h]

/-- A command always ends in a next state. -/
theorem finish_next (s : State) (d : Dev) : finish s d = .next { toDev := Dev.settle s.toDev d.raiseDue, pending := s.pending } := rfl

/-- Every command's meaning ends by handling its reports and settling its stores. -/
theorem exec_shape (i : Instr) (s : State) : ∃ d, exec i s = finish s d := by
  cases i <;> exact ⟨_, rfl⟩

end Sys2Proof.Machine
end

