-- ==== Sys2Proof/Laws/Ports.lean ====
section
/-!
SUPPORT. What a port or a Halyard link that goes up or down with its lanes can change, where no multicast cell waits in a slice:
the registers of port and link status, counters, ports, spars, slices and links, and nothing else.
-/
namespace Sys2Proof.Machine.Dev

/-- `e` differs from `d` by what the rise or fall of ports and links does. -/
structure PortFrame (d e : Dev) : Prop where
  rd : ∀ a, ¬ portReg a → ¬ isPend a → e.rd a = d.rd a
  around : e.around = d.around
  calm : Quiet d → Quiet e

/-- The registers of a buffer slice are neither port or link registers nor pending words. -/
theorem bufReg_kept (m : Nat) {o : Nat} (ho : o < 0x18) : ¬ portReg (Reg.spar m + 0x18000 + o) ∧ ¬ isPend (Reg.spar m + 0x18000 + o) := by
  simp only [Reg.spar]
  constructor
  · rintro (⟨p, h | h | ⟨c, hc, h⟩⟩ | ⟨n, hn, h⟩ | h)
    · simp only [Reg.MAC_STATUS, Reg.mac, Reg.spar] at h; omega
    · simp only [Reg.MAC_EVENT, Reg.mac, Reg.spar] at h; omega
    · simp only [Reg.MAC_FLUSH_CNT, Reg.mac, Reg.spar] at h; omega
    · simp only [Reg.STK_HL_STATUS] at h; omega
    · simp only [Reg.STK_EVENT] at h; omega
  · rintro ⟨w, hw, h⟩
    simp only [Reg.IRQ_PEND] at h; omega

/-- A slice at rest stays so where the registers of its buffer read as before. -/
theorem AtRest.of_rd {d e : Dev} {m : Nat} {x : Slice} (h : AtRest d m x)
    (hr : ∀ o < 0x18, e.rd (Reg.spar m + 0x18000 + o) = d.rd (Reg.spar m + 0x18000 + o)) : AtRest e m x := by
  have h0 : e.rd (Reg.BUF_REEF_THR m) = d.rd (Reg.BUF_REEF_THR m) := hr 0 (by decide)
  have h4 : e.rd (Reg.BUF_REEF_HYST m) = d.rd (Reg.BUF_REEF_HYST m) := hr 4 (by decide)
  have h14 : e.rd (Reg.BUF_OCC_PEAK m) = d.rd (Reg.BUF_OCC_PEAK m) := hr 0x14 (by decide)
  obtain ⟨h1, h2, h3, h5⟩ := h
  refine ⟨h1, h2, ?_, ?_⟩
  · have hf : ∀ hi lo, e.fget (Reg.BUF_REEF_THR m) hi lo = d.fget (Reg.BUF_REEF_THR m) hi lo := fun hi lo => by rw [fget, fget, h0]
    have hh : e.fget (Reg.BUF_REEF_HYST m) 12 0 = d.fget (Reg.BUF_REEF_HYST m) 12 0 := by rw [fget, fget, h4]
    have ht : ∀ k, e.reefThr m k = d.reefThr m k := fun k => by unfold reefThr; simp only [hf]
    have : e.reefLevel m x.occ x.level = d.reefLevel m x.occ x.level := by unfold reefLevel; simp only [hh, ht]
    rw [this, h3]
  · simpa only [fget, h14] using h5

/-- A quiet device stays so where slices and cells on their way are as they were, and the registers of the buffers read as before. -/
theorem Quiet.of_same {d e : Dev} (h : Quiet d) (hs : e.slices = d.slices) (ha : ∀ n, (e.spar n).arriving = (d.spar n).arriving)
    (hr : ∀ m, ∀ o < 0x18, e.rd (Reg.spar m + 0x18000 + o) = d.rd (Reg.spar m + 0x18000 + o)) : Quiet e := by
  refine ⟨by rw [hs]; exact h.1, fun p hp => (h.2.1 p (hs ▸ hp)).of_rd (hr p.1), fun n => ?_⟩
  rw [ha n]
  exact h.2.2 n

namespace PortFrame

theorem refl (d : Dev) : PortFrame d d := ⟨fun _ _ _ => rfl, rfl, id⟩
theorem trans {d e f : Dev} (h : PortFrame d e) (g : PortFrame e f) : PortFrame d f :=
  ⟨fun a h1 h2 => (g.rd a h1 h2).trans (h.rd a h1 h2), g.around.trans h.around, g.calm ∘ h.calm⟩

theorem of_irq {d e : Dev} (h : IrqFrame d e) : PortFrame d e :=
  ⟨fun a _ h2 => h.rd a h2, by simp only [Dev.around, h.beside], fun hc => hc.of_same (congrArg Dev.slices h.beside :)
    (fun n => by rw [h.spar]) (fun m o ho => h.rd _ (bufReg_kept m ho).2)⟩

theorem foldl {α : Type} (f : Dev → α → Dev) (hf : ∀ d a, PortFrame d (f d a)) : ∀ (l : List α) (d : Dev), PortFrame d (l.foldl f d)
  | [], d => refl d
  | a :: l, d => (hf d a).trans (foldl f hf l (f d a))

/-- A run of operations that keep the frame where no multicast cell waits. -/
theorem foldl_calm {α : Type} (f : Dev → α → Dev) (hf : ∀ d a, Quiet d → PortFrame d (f d a)) :
    ∀ (l : List α) (d : Dev), Quiet d → PortFrame d (l.foldl f d)
  | [], d, _ => refl d
  | a :: l, d, hc => (hf d a hc).trans (foldl_calm f hf l (f d a) ((hf d a hc).calm hc))

end PortFrame

variable (d : Dev)

theorem portReg_wr (a : Nat) (v : Word) (h : portReg a) : PortFrame d (d.wr a v) :=
  ⟨fun b hb _ => rd_wr_ne d v (fun e => hb (e ▸ h)), rfl,
    fun hc => hc.of_same rfl (fun _ => rfl) (fun m _ ho => rd_wr_ne d v (fun e => (bufReg_kept m ho).1 (e ▸ h)))⟩
theorem cntSet_port (a : Nat) (v : BitVec 64) : PortFrame d (d.cntSet a v) := ⟨fun _ _ _ => rfl, rfl, id⟩
theorem cntAdd_port (a n : Nat) : PortFrame d (d.cntAdd a n) := cntSet_port d _ _
theorem updPort_port (p : Nat) (f : Port → Port) : PortFrame d (d.updPort p f) := ⟨fun _ _ _ => rfl, rfl, id⟩
/-- A spar changed, with no cell more on its way. -/
theorem updSpar_port (n : Nat) (f : Spar → Spar) (hf : ∀ x, ∀ c ∈ (f x).arriving, c ∈ x.arriving) : PortFrame d (d.updSpar n f) := by
  refine ⟨fun _ _ _ => rfl, rfl, fun hc => ⟨hc.1, hc.2.1, fun k c h => ?_⟩⟩
  rw [spar_updSpar] at h
  split at h
  · exact hc.2.2 n c (hf _ c h)
  · exact hc.2.2 k c h
theorem updLink_port (n : Nat) (f : Link → Link) : PortFrame d (d.updLink n f) := ⟨fun _ _ _ => rfl, rfl, id⟩
/-- A slice changed in what its rest does not ask. -/
theorem updSlice_port (m : Nat) (f : Slice → Slice) (h0 : d.sliceOf m = {} → f {} = {})
    (hf : ∀ x, x.mcLists = [] → (f x).mcLists = [] ∧ (f x).freed = x.freed ∧ (f x).occ = x.occ ∧ (f x).level = x.level) :
    PortFrame d (d.updSlice m f) := by
  refine ⟨fun _ _ _ => rfl, rfl, fun hc => ⟨SMap.wf_set _ _ _ hc.1, fun p hp => ?_, hc.2.2⟩⟩
  rcases SMap.mem_set (fun _ => {}) (k := m) (v := f (d.sliceOf m)) hp with ⟨rfl, hv⟩ | hp
  · have hx : d.sliceOf m ≠ {} := fun e => hv (by rw [e, h0 e])
    obtain ⟨h1, h2, h3, h4⟩ : AtRest d m (d.sliceOf m) := hc.2.1 _ (SMap.mem_of_get (fun _ => ({} : Slice)) m hx)
    obtain ⟨g1, g2, g3, g4⟩ := hf _ h1
    exact ⟨g1, g2.trans h2, (congrArg₂ (d.reefLevel m) g3 g4).trans (h3.trans g4.symm), g3.trans_le h4⟩
  · exact hc.2.1 p hp
theorem emit_port (o : Output) : PortFrame d (d.emit o) := .of_irq (emit_frame d o)

theorem macStatus_port (p : Nat) : portReg (Reg.MAC_STATUS p) := .inl ⟨p, .inl rfl⟩
theorem macEvent_port (p i : Nat) : PortFrame d (d.macEvent p i) :=
  (portReg_wr d _ _ (.inl ⟨p, .inr (.inl rfl)⟩)).trans (.of_irq (event_frame d _ _ _))
theorem stkEvent_port (i : Nat) : PortFrame d (d.stkEvent i) :=
  (portReg_wr d _ _ (.inr (.inr rfl))).trans (.of_irq (event_frame d _ _ _))

theorem pfcSend_port (p c t : Nat) : PortFrame d (d.pfcSend p c t) := by
  unfold pfcSend
  split
  · exact updPort_port d _ _
  · exact (cntAdd_port d _ _).trans (emit_port _ _)

/-- Pauses that are announced are counted and sent. -/
theorem pauseSync_port (p : Nat) : PortFrame d (d.pauseSync p) := by
  unfold pauseSync
  dsimp only
  repeat' split
  all_goals first
    | exact .refl d
    | refine (updPort_port d p _).trans (PortFrame.foldl _ (fun x c => ?_) _ _)
      repeat' split
      all_goals first | exact .refl x | exact pfcSend_port x _ _ _

/-- An owner's pause follows its count. -/
theorem ownerSync_port (o : Nat) : PortFrame d (d.ownerSync o) := by
  unfold ownerSync
  dsimp only
  repeat' split
  all_goals first | exact .refl d | exact (updPort_port d o _).trans (pauseSync_port _ o)

theorem countFlush_port (q : Nat) : PortFrame d (d.countFlush q) := by
  unfold countFlush
  repeat' split
  · exact portReg_wr d _ _ (.inl ⟨_, .inr (.inr ⟨_, Nat.mod_lt _ (by decide), rfl⟩)⟩)
  · exact cntAdd_port d _ _
  · exact .refl d
theorem countFlushN_port (q : Nat) : ∀ (n : Nat) (d : Dev), PortFrame d (d.countFlushN q n)
  | 0, d => .refl d
  | n + 1, d => (countFlush_port d q).trans (countFlushN_port q n _)

/-- A queue unlinked in a slice at rest. -/
theorem unlinkQ_port (m q : Nat) (hc : Quiet d) : PortFrame d (d.unlinkQ m q) := by
  have hm : (d.sliceOf m).mcLists = [] := by
    by_cases h : d.sliceOf m = {}
    · rw [h]
    · exact (hc.2.1 _ (SMap.mem_of_get (fun _ => ({} : Slice)) m h)).1
  unfold unlinkQ
  dsimp only
  rw [hm]
  simp only [List.flatMap_nil, List.foldl_nil]
  have h1 := updSlice_port d m (fun y => { y with
    voq := SMap.erase y.voq q, unlinked := y.unlinked ++ vcells (SMap.get (fun _ => []) (d.sliceOf m).voq q)
    holes := y.holes - vholes (SMap.get (fun _ => []) (d.sliceOf m).voq q) }) (fun e => by rw [e]; rfl) (fun x hx => ⟨hx, rfl, rfl, rfl⟩)
  exact (h1.trans (countFlushN_port q _ _)).trans (updSlice_port _ m _ (fun _ => rfl) (fun x hx => ⟨by simp [hx], rfl, rfl, rfl⟩))
theorem mcPrune_port (m : Nat) : PortFrame d (d.mcPrune m) :=
  updSlice_port d m _ (fun _ => rfl) (fun x hx => ⟨by simp [hx], rfl, rfl, rfl⟩)
theorem setExp_port (i q v : Nat) : PortFrame d (d.setExp i q v) := updSpar_port d _ _ (fun _ _ h => h)

/-- Nothing is left to do at the end of a CCLK for a quiet device. -/
theorem slotEnd_quiet (hc : Quiet d) : d.slotEnd [] = d := by
  have hs : ∀ m, (∃ x, (m, x) ∈ d.slices) → d.sliceSettle m = d := by
    rintro m ⟨x, hx⟩
    obtain ⟨-, (h2 : x.freed = []), (h3 : d.reefLevel m x.occ x.level = x.level), (h4 : x.occ ≤ d.fget (Reg.BUF_OCC_PEAK m) 12 0)⟩ := hc.2.1 _ hx
    have hg : d.sliceOf m = x := SMap.get_of_mem _ ((SMap.wf_iff _ _).1 hc.1).1 _ hx
    have hy : x.settled = x := by cases x; simp only at h2; subst h2; rfl
    have hu : d.updSlice m (fun _ => { x with level := d.reefLevel m x.occ x.level }) = d := by
      have : SMap.set (fun _ => {}) d.slices m x = d.slices := SMap.set_of_mem _ hc.1 hx
      rw [h3]
      unfold updSlice SMap.upd
      rw [this]
    unfold sliceSettle
    simp only [hg, hy, hu]
    rw [if_neg (by omega)]
  have hf : (d.slices.map (·.1)).foldl sliceSettle d = d := by
    have : ∀ l : List Nat, (∀ m ∈ l, ∃ x, (m, x) ∈ d.slices) → l.foldl sliceSettle d = d := by
      intro l
      induction l with
      | nil => exact fun _ => rfl
      | cons m l ih =>
        intro h
        rw [List.foldl_cons, hs m (h m (by simp)), ih (fun k hk => h k (by simp [hk]))]
    exact this _ (fun m hm => by simpa using hm)
  have hgone : d.slices.flatMap (fun p => p.2.freed.filterMap (fun i => (SMap.get? p.2.cells i).map (·.owner))) = [] := by
    rw [List.flatMap_eq_nil_iff]
    intro p hp
    rw [(hc.2.1 p hp).2.1]
    rfl
  unfold slotEnd
  simp only [hf, hgone]
  rfl
/-- The copies on their way are dropped: there is none in a quiet device. -/
theorem flushCopies_port (o q : Nat) (hc : Quiet d) : PortFrame d (d.flushCopies o q) := by
  have hm : ∀ c ∈ (d.spar o).arriving, c.mc = false := hc.2.2 o
  have h : (d.spar o).arriving.filter (fun c => c.mc && c.left.contains q) = [] := by
    rw [List.filter_eq_nil_iff]
    intro c hm'
    simp [hm c hm']
  unfold flushCopies
  rw [h]
  refine ⟨fun _ _ _ => rfl, rfl, fun _ => ⟨hc.1, hc.2.1, fun k c hk => ?_⟩⟩
  simp only [List.foldl_nil] at hk
  rw [spar_updSpar] at hk
  split at hk
  · simp only [List.mem_filter, List.mem_map] at hk
    obtain ⟨⟨x, hx, rfl⟩, -⟩ := hk
    simp [hm x hx]
  · exact hc.2.2 k c hk

/-- The flush of a queue (R111, R151, R196). -/
theorem flushOutput_port (q : Nat) (hc : Quiet d) : PortFrame d (d.flushOutput q) := by
  unfold flushOutput
  dsimp only
  have h1 := updSpar_port d (outSpar q) (fun y => { y with
    staging := SMap.erase y.staging q
    reorder := y.reorder.filter (fun c => !(!c.mc && c.queue == q))
    arriving := y.arriving.filter (fun c => !(!c.mc && c.queue == q))
    checked := y.checked.filter (fun c => c.queue != q) }) (fun _ _ h => (List.mem_filter.1 h).1)
  have h2 := h1.trans (flushCopies_port _ (outSpar q) q (h1.calm hc))
  have h3 := fun n => h2.trans (countFlushN_port q n _)
  have h4 := fun n l => (h3 n).trans (PortFrame.foldl_calm (fun z m => (z.unlinkQ m q).mcPrune m)
    (fun z m hz => (unlinkQ_port z m q hz).trans (mcPrune_port _ m)) l _ ((h3 n).calm hc))
  have h5 := fun n l => (h4 n l).trans (PortFrame.foldl (fun z i => if z.seqExp i q = z.seqNext i q then z else z.setExp i q (z.seqNext i q))
    (fun z i => by
      split
      · exact .refl z
      · exact setExp_port z _ _ _) (upto 128) _)
  rw [slotEnd_quiet _ ((h5 _ _).calm hc)]
  exact h5 _ _

theorem dropTabled_port (p : Nat) : PortFrame d (d.dropTabled p) := (cntAdd_port d _ _).trans (updSpar_port _ _ _ (fun _ c h => h))
theorem downFlush_port (p lo hi : Nat) (hc : Quiet d) : PortFrame d (d.downFlush p lo hi) :=
  (PortFrame.foldl_calm _ (fun z _ hz => flushOutput_port z _ hz) _ d hc).trans (updPort_port _ _ _)

/-- A port goes down (R111). -/
theorem portDown_port (p : Nat) (hc : Quiet d) : PortFrame d (d.portDown p) := by
  have h1 := (((portReg_wr d _ (setBit (d.rd (Reg.MAC_STATUS p)) 0 false) (macStatus_port p)).trans
    (portReg_wr _ _ (setFld ((d.bset (Reg.MAC_STATUS p) 0 false).rd (Reg.MAC_STATUS p)) 15 8 0) (macStatus_port p))).trans
      (updPort_port _ p (fun x => { x with pfcDue := [] }))).trans (macEvent_port _ p 0)
  unfold portDown
  dsimp only
  exact (h1.trans (downFlush_port _ p 0 8 (h1.calm hc))).trans (dropTabled_port _ _)
/-- A port comes up (R99). -/
theorem portUp_port (p : Nat) : PortFrame d (d.portUp p) :=
  ((((portReg_wr d _ _ (macStatus_port p)).trans (updPort_port _ _ _)).trans (macEvent_port _ _ _)).trans (ownerSync_port _ _)).trans
    (pauseSync_port _ _)
theorem portEval_port (p : Nat) (hc : Quiet d) : PortFrame d (d.portEval p) := by
  unfold portEval
  repeat' split
  · exact portUp_port d p
  · exact portDown_port d p hc
  · exact .refl d

theorem linkDown_port (n : Nat) (hn : n < 128) (hc : Quiet d) : PortFrame d (d.linkDown n) := by
  unfold linkDown
  dsimp only
  split
  · exact .refl d
  · have h1 := ((updLink_port d n (fun _ => { heldDown := (d.link n).heldDown })).trans
      (portReg_wr _ (Reg.STK_HL_STATUS n) 0 (.inr (.inl ⟨n, hn, rfl⟩)))).trans
        ((cntAdd_port _ Reg.C_STK_HL_LOST ((d.link n).store.foldl (fun a f => a + if f.2.length < 260 then 0 else (f.2.length - 12) / 288) 0)).trans
          (stkEvent_port _ 2))
    exact h1.trans (flushOutput_port _ _ (h1.calm hc))
theorem linkUpH_port (n : Nat) (hn : n < 128) : PortFrame d (d.linkUpH n) := by
  unfold linkUpH linkResend
  dsimp only
  repeat' split
  · exact PortFrame.foldl _ (fun x f => emit_port x _) _ d
  · exact .refl d
  · exact (updLink_port d _ _).trans (portReg_wr _ _ _ (.inr (.inl ⟨n, hn, rfl⟩)))

/-- The port or link of a lane's group follows its lanes. -/
theorem groupEval_port (l : Nat) (hl : l < 1024) (hc : Quiet d) : PortFrame d (d.groupEval l) := by
  unfold groupEval
  dsimp only
  repeat' split
  · exact linkUpH_port d _ (by omega)
  · exact linkDown_port d _ (by omega) hc
  · exact .refl d
  · exact portEval_port d _ hc
  · exact .refl d

/-- The port or link of a lane whose LOS or LOL ended. -/
theorem groupClear_port (l : Nat) (hl : l < 1024) (hc : Quiet d) : PortFrame d (d.groupClear l) := by
  unfold groupClear
  dsimp only
  repeat' split
  · exact linkUpH_port d _ (by omega)
  · exact .refl d
  · exact portEval_port d _ hc
  · exact .refl d

end Sys2Proof.Machine.Dev
end

