-- ==== Sys2Proof/Laws/Runs.lean ====
section
/-!
SUPPORT. How a statement about a command is reached from its meaning: a meaning that touches neither frame memory nor the fault
collector ends in the device it leaves.
-/
namespace Sys2Proof

open Machine

/-- Settling changes nothing where no store waits. -/
theorem settle_quiet (d0 d : Dev) (hs : d.stores = []) (hm : d.fmem = d0.fmem) (hf : d.fuses = d0.fuses) : Dev.settle d0 d = d := by
  cases d
  cases d0
  simp only at hs hm hf
  subst hs hm hf
  rfl

/-- A command whose meaning leaves memory, fuses and reports alone. -/
theorem runs_quiet {c : Instr} {s : State} {d : Dev} {post : State → Prop} (he : exec c s = finish s d) (hs : Safe s)
    (hf : d.fault = s.fault) (hm : d.fmem = s.fmem) (ht : d.stores = s.stores) (hu : d.fuses = s.fuses)
    (hp : post { toDev := d, pending := s.pending }) : Runs c s post := by
  refine ⟨{ toDev := d, pending := s.pending }, ?_, rfl, hp⟩
  rw [he, finish_none s d (by rw [hf]; exact hs.2.2), settle_quiet _ _ (ht.trans hs.2.1) hm hu]

/-- A command whose meaning leaves everything outside registers, outputs and interrupt state alone. -/
theorem runs_beside {c : Instr} {s : State} {d : Dev} {post : State → Prop} (he : exec c s = finish s d) (hs : Safe s)
    (hb : d.beside = s.beside) (hp : post { toDev := d, pending := s.pending }) : Runs c s post :=
  runs_quiet he hs (congrArg Dev.fault hb :) (congrArg Dev.fmem hb :) (congrArg Dev.stores hb :) (congrArg Dev.fuses hb :) hp

end Sys2Proof
end

