-- ==== Sys2Proof/Laws/Lanes.lean ====
section
/-!
SUPPORT. What a step of a lane's walk can change, one lemma for each step, and the state code that it leaves.
-/
namespace Sys2Proof.Machine.Dev

/-- Lane registers are neither port or link registers nor pending words. -/
theorem ofLane_kept {l a : Nat} (hl : l < 1024) (ha : ofLane l a) : ¬ portReg a ∧ ¬ isPend a := by
  obtain ⟨h1, h2⟩ := ha
  simp only [Reg.lane, Reg.spar] at h1 h2
  constructor
  · rintro (⟨p, h | h | ⟨c, hc, h⟩⟩ | ⟨n, hn, h⟩ | h)
    · simp only [Reg.MAC_STATUS, Reg.mac, Reg.spar] at h; omega
    · simp only [Reg.MAC_EVENT, Reg.mac, Reg.spar] at h; omega
    · simp only [Reg.MAC_FLUSH_CNT, Reg.mac, Reg.spar] at h; omega
    · simp only [Reg.STK_HL_STATUS] at h; omega
    · simp only [Reg.STK_EVENT] at h; omega
  · rintro ⟨w, hw, h⟩
    simp only [Reg.IRQ_PEND] at h; omega

/-- What a step of lane `l` leaves alone. -/
structure LaneStep (l : Nat) (d e : Dev) : Prop where
  rd : ∀ a, ¬ ofLane l a → ¬ portReg a → ¬ isPend a → e.rd a = d.rd a
  lane : ∀ k, k ≠ l → e.lane k = d.lane k
  around : { e.around with lanes := [], freeCtr := 0 } = { d.around with lanes := [], freeCtr := 0 }
  calm : Quiet d → Quiet e

namespace LaneStep

theorem refl (l : Nat) (d : Dev) : LaneStep l d d := ⟨fun _ _ _ _ => rfl, fun _ _ => rfl, rfl, id⟩
theorem trans {l : Nat} {d e f : Dev} (h : LaneStep l d e) (g : LaneStep l e f) : LaneStep l d f :=
  ⟨fun a h1 h2 h3 => (g.rd a h1 h2 h3).trans (h.rd a h1 h2 h3), fun k hk => (g.lane k hk).trans (h.lane k hk),
    g.around.trans h.around, g.calm ∘ h.calm⟩
theorem of_port {l : Nat} {d e : Dev} (h : PortFrame d e) : LaneStep l d e :=
  ⟨fun a _ h2 h3 => h.rd a h2 h3, fun k _ => by
    have : e.lanes = d.lanes := (congrArg Dev.lanes h.around :)
    unfold Dev.lane; rw [this], by rw [h.around], h.calm⟩
theorem of_irq {l : Nat} {d e : Dev} (h : IrqFrame d e) : LaneStep l d e := of_port (.of_irq h)

variable {l : Nat} {d e : Dev} (h : LaneStep l d e)
include h
theorem fault : e.fault = d.fault := (congrArg Dev.fault h.around :)
theorem fmem : e.fmem = d.fmem := (congrArg Dev.fmem h.around :)
theorem stores : e.stores = d.stores := (congrArg Dev.stores h.around :)
theorem fuses : e.fuses = d.fuses := (congrArg Dev.fuses h.around :)

end LaneStep

variable (d : Dev)

/-- No lane register is a buffer slice's. -/
theorem bufReg_lane {l m o : Nat} (ho : o < 0x18) : ¬ ofLane l (Reg.spar m + 0x18000 + o) := by
  rintro ⟨h1, h2⟩
  simp only [Reg.lane, Reg.spar] at h1 h2
  omega
theorem laneReg_step (l a : Nat) (v : Word) (ha : ofLane l a) : LaneStep l d (d.wr a v) :=
  ⟨fun b hb _ _ => rd_wr_ne d v (fun e => hb (e ▸ ha)), fun _ _ => rfl, rfl,
    fun hc => hc.of_same rfl (fun _ => rfl) (fun _ _ ho => rd_wr_ne d v (fun e => bufReg_lane ho (e ▸ ha)))⟩
theorem laneBit_step (l a i : Nat) (b : Bool) (ha : ofLane l a) : LaneStep l d (d.bset a i b) := laneReg_step d l a _ ha
theorem laneFld_step (l a hi lo v : Nat) (ha : ofLane l a) : LaneStep l d (d.fset a hi lo v) := laneReg_step d l a _ ha
theorem updLane_step (l : Nat) (f : Lane → Lane) : LaneStep l d (d.updLane l f) :=
  ⟨fun _ _ _ _ => rfl, fun k hk => by rw [lane_updLane, if_neg hk], rfl, id⟩
theorem laneEvent_step (l i : Nat) : LaneStep l d (d.laneEvent l i) :=
  (laneBit_step d l _ i true ⟨by simp [Reg.LANE_EVENT], by simp [Reg.LANE_EVENT]⟩).trans (.of_irq (event_frame d _ _ _))

theorem groupEval_step (l : Nat) (hl : l < 1024) (hc : Quiet d) : LaneStep l d (d.groupEval l) :=
  .of_port (groupEval_port d l hl hc)

theorem groupClear_step (l : Nat) (hl : l < 1024) (hc : Quiet d) : LaneStep l d (d.groupClear l) :=
  .of_port (groupClear_port d l hl hc)
theorem rd_groupClear {l a k : Nat} (hl : l < 1024) (hc : Quiet d) (hk : k < 1024) (ha : ofLane k a) :
    (d.groupClear l).rd a = d.rd a :=
  (groupClear_port d l hl hc).rd a (ofLane_kept hk ha).1 (ofLane_kept hk ha).2

/-- The registers of a lane read as before when its group's port or link follows. -/
theorem rd_groupEval {l a k : Nat} (hl : l < 1024) (hc : Quiet d) (hk : k < 1024) (ha : ofLane k a) :
    (d.groupEval l).rd a = d.rd a :=
  (groupEval_port d l hl hc).rd a (ofLane_kept hk ha).1 (ofLane_kept hk ha).2

/-- An event of a lane leaves the lane's other registers. -/
theorem rd_laneEvent {l a i : Nat} (hl : l < 1024) (ha : ofLane l a) (hne : a ≠ Reg.LANE_EVENT l) :
    (d.laneEvent l i).rd a = d.rd a := rd_event_ne d _ _ _ hne (ofLane_kept hl ha).2

theorem laneState_of_rd {d e : Dev} {l : Nat} (h : e.rd (Reg.LANE_STATE l) = d.rd (Reg.LANE_STATE l)) : e.laneState l = d.laneState l := by
  rw [laneState, laneState, fget, fget, h]

theorem laneStateReg (l : Nat) : ofLane l (Reg.LANE_STATE l) := ⟨by simp [Reg.LANE_STATE], by simp [Reg.LANE_STATE]⟩

/-- A lane set to a state. -/
theorem laneTo_step (l st : Nat) (hl : l < 1024) (hc : Quiet d) : LaneStep l d (d.laneTo l st) :=
  let h := laneFld_step d l _ 3 0 st (laneStateReg l)
  h.trans (groupEval_step _ l hl (h.calm hc))
theorem rd_laneTo {l a st : Nat} (hl : l < 1024) (hc : Quiet d) (ha : ofLane l a) (hne : a ≠ Reg.LANE_STATE l) :
    (d.laneTo l st).rd a = d.rd a := by
  unfold laneTo
  rw [rd_groupEval (d.fset (Reg.LANE_STATE l) 3 0 st) hl ((laneFld_step d l _ 3 0 st (laneStateReg l)).calm hc) hl ha, rd_fset_ne d _ _ _ hne]
theorem laneState_laneTo {l st : Nat} (hl : l < 1024) (hc : Quiet d) (hst : st < 16) : (d.laneTo l st).laneState l = st := by
  unfold laneTo
  rw [laneState_of_rd (rd_groupEval (d.fset (Reg.LANE_STATE l) 3 0 st) hl ((laneFld_step d l _ 3 0 st (laneStateReg l)).calm hc) hl
    (laneStateReg l)), laneState,
    fget_fset _ _ _ _ _ (by omega) (by omega)]
  omega

/-- TRAIN entered. -/
theorem laneTrain_step (l : Nat) (hl : l < 1024) (hc : Quiet d) : LaneStep l d (d.laneTrain l) := by
  have h1 := updLane_step d l (fun x => { x with timer := true, asked := false, lowSnr := false, sent := if x.timer then x.sent else 0 })
  exact h1.trans (laneTo_step _ l lsTrain hl (h1.calm hc))
theorem rd_laneTrain {l a : Nat} (hl : l < 1024) (hc : Quiet d) (ha : ofLane l a) (hne : a ≠ Reg.LANE_STATE l) :
    (d.laneTrain l).rd a = d.rd a :=
  rd_laneTo (d.updLane l _) (st := lsTrain) hl ((updLane_step d l _).calm hc) ha hne
theorem laneState_laneTrain {l : Nat} (hl : l < 1024) (hc : Quiet d) : (d.laneTrain l).laneState l = lsTrain :=
  laneState_laneTo (d.updLane l _) (st := lsTrain) hl ((updLane_step d l _).calm hc) (by decide)

/-- Where a lane goes when it leaves WAIT_SIGNAL (R77, R78). -/
def wayOut (d : Dev) (l : Nat) : Nat := if d.bget (Reg.LANE_TRAIN_CTRL l) 24 && (d.lane l).held then lsResume else lsTrain

/-- WAIT_SIGNAL left where its condition holds. -/
theorem leaveWait_step (l : Nat) (hl : l < 1024) (hc : Quiet d) : LaneStep l d (d.leaveWait l) := by
  unfold leaveWait
  repeat' split
  · exact laneTo_step d l _ hl hc
  · exact laneTrain_step d l hl hc
  · exact .refl l d
theorem rd_leaveWait {l a : Nat} (hl : l < 1024) (hc : Quiet d) (ha : ofLane l a) (hne : a ≠ Reg.LANE_STATE l) :
    (d.leaveWait l).rd a = d.rd a := by
  unfold leaveWait
  repeat' split
  · exact rd_laneTo d hl hc ha hne
  · exact rd_laneTrain d hl hc ha hne
  · rfl
theorem laneState_leaveWait {l : Nat} (hl : l < 1024) (hc : Quiet d) : (d.leaveWait l).laneState l =
    if d.laneState l = lsWait ∧ d.maySignal l = true then d.wayOut l else d.laneState l := by
  unfold leaveWait wayOut
  split
  · split
    · exact laneState_laneTo d hl hc (by decide)
    · exact laneState_laneTrain d hl hc
  · rfl

/-- WAIT_SIGNAL entered, and left at once where its condition holds. -/
theorem laneWait_step (l : Nat) (hl : l < 1024) (hc : Quiet d) : LaneStep l d (d.laneWait l) :=
  (laneTo_step d l lsWait hl hc).trans (leaveWait_step _ l hl ((laneTo_step d l lsWait hl hc).calm hc))
theorem rd_laneWait {l a : Nat} (hl : l < 1024) (hc : Quiet d) (ha : ofLane l a) (hne : a ≠ Reg.LANE_STATE l) :
    (d.laneWait l).rd a = d.rd a := by
  unfold laneWait
  rw [rd_leaveWait _ hl ((laneTo_step d l lsWait hl hc).calm hc) ha hne, rd_laneTo d hl hc ha hne]

/-- DATA entered: TRAIN_DONE, lock, held coefficients. -/
theorem laneData_step (l : Nat) (hl : l < 1024) (hc : Quiet d) : LaneStep l d (d.laneData l) := by
  have h1 := (updLane_step d l (fun x => { x with held := true, timer := false })).trans
    (laneBit_step _ l (Reg.LANE_RX_STATUS l) 2 true ⟨by simp [Reg.LANE_RX_STATUS], by simp [Reg.LANE_RX_STATUS]⟩)
  exact (h1.trans (laneTo_step _ l lsData hl (h1.calm hc))).trans (laneEvent_step _ l 2)
theorem laneState_laneData {l : Nat} (hl : l < 1024) (hc : Quiet d) : (d.laneData l).laneState l = lsData := by
  have h1 := (updLane_step d l (fun x => { x with held := true, timer := false })).trans
    (laneBit_step _ l (Reg.LANE_RX_STATUS l) 2 true ⟨by simp [Reg.LANE_RX_STATUS], by simp [Reg.LANE_RX_STATUS]⟩)
  unfold laneData
  rw [laneState_of_rd (rd_laneEvent _ hl (laneStateReg l) (by simp [Reg.LANE_STATE, Reg.LANE_EVENT]))]
  exact laneState_laneTo _ hl (h1.calm hc) (by decide)

/-- FAIL entered with its cause: TRAIN_FAIL. -/
theorem laneFail_step (l c : Nat) (hl : l < 1024) (hc : Quiet d) : LaneStep l d (d.laneFail l c) := by
  have h1 := (laneFld_step d l (Reg.LANE_TRAIN_STATUS l) 11 8 c ⟨by simp [Reg.LANE_TRAIN_STATUS], by simp [Reg.LANE_TRAIN_STATUS]⟩).trans
    (updLane_step _ l (fun x => { x with held := false, timer := false }))
  exact (h1.trans (laneTo_step _ l lsFail hl (h1.calm hc))).trans (laneEvent_step _ l 3)
theorem laneState_laneFail {l c : Nat} (hl : l < 1024) (hc : Quiet d) : (d.laneFail l c).laneState l = lsFail := by
  have h1 := (laneFld_step d l (Reg.LANE_TRAIN_STATUS l) 11 8 c ⟨by simp [Reg.LANE_TRAIN_STATUS], by simp [Reg.LANE_TRAIN_STATUS]⟩).trans
    (updLane_step _ l (fun x => { x with held := false, timer := false }))
  unfold laneFail
  rw [laneState_of_rd (rd_laneEvent _ hl (laneStateReg l) (by simp [Reg.LANE_STATE, Reg.LANE_EVENT]))]
  exact laneState_laneTo _ hl (h1.calm hc) (by decide)

/-- The frame of a lane's command, as the statements say it. -/
theorem LaneStep.frame {l : Nat} {s t : State} (h : LaneStep l s.toDev t.toDev) : LaneFrame l s t := ⟨h.rd, h.lane, h.around⟩

/-- A lane's command that its meaning ends without a report. -/
theorem runs_lane {c : Instr} {s : State} {d : Dev} {l : Nat} {post : State → Prop} (he : exec c s = finish s d) (hs : Calm s)
    (h : LaneStep l s.toDev d) (hp : LaneFrame l s { toDev := d, pending := s.pending } → post { toDev := d, pending := s.pending }) :
    Runs c s post :=
  runs_quiet he hs.1 h.fault h.fmem h.stores h.fuses (hp (LaneStep.frame (t := { toDev := d, pending := s.pending }) h))

end Sys2Proof.Machine.Dev
end

