-- ==== Sys2Proof/WellFormed.lean ====
section
/-!
DEFINITION. Which commands can arrive at all: the ranges of operands that their types leave open. The device's meaning of a command is
total; a command that is not well-formed stands for nothing that happens on the hardware.
-/
namespace Sys2Proof
namespace Instr

/-- An address of register space: the 64 MiB of the PF's BAR0 (R352), or the register page of a VF as the model places it (log 40). -/
def busAddr (a : Nat) : Bool := decide (a < 0x04400000)
/-- The bytes of an access (R4). -/
def accessSize (n : Nat) : Bool := n == 1 || n == 2 || n == 4 || n == 8
/-- A half of a flash is 4 MiB (R38). -/
def isFlash (x : Flash) : Bool := decide (x.low.length ≤ 0x400000) && decide (x.high.length ≤ 0x400000)
/-- Queue numbers of the core: nine per logical port, the engines' inlets, the host's queues, the Halyard links (R181, R200). -/
def queueCount : Nat := 9538
/-- A frame memory operation moves at least one byte (R331). -/
def memOp : MemOp → Bool
  | .read n => decide (0 < n)
  | .write bs => !bs.isEmpty
/-- A frame memory request: a requester port of R331's list. -/
def memReq (r : MemReq) : Bool := memOp r.op
/-- A submission entry is 64 bytes (R355). -/
def isEntry (e : List Word) : Bool := decide (e.length = 16)
/-- A ring as a fetch pass sees it: whole entries, and a 16-bit shadow tail (R357, R358). -/
def ringView (v : RingView) : Bool := v.entries.all isEntry && decide (v.shadow < 2 ^ 32)

/-- Is a command well-formed? -/
def wf : Instr → Bool
  | .registerWrite addr size _ => busAddr addr && accessSize size
  | .heldWriteEnterShadow => true
  | .counterLowRead addr size => busAddr addr && accessSize size
  | .imgGo _ => true
  | .hostImageReadDone => true
  | .imageExpansionDone => true
  | .flashCopyReadDone x0 x1 => isFlash x0 && isFlash x1
  | .commitArm _ _ _ _ => true
  | .commitDisarm _ _ _ => true
  | .viewShadow _ _ _ => true
  | .commitWindowOpen => true
  | .boundary => true
  | .stackCommitDecide => true
  | .boundaryMarkSend => true
  | .boundaryMarkReceive edge _ => decide (edge < 2 ^ 64)
  | .boundaryInTimeout => true
  | .ptpFreqWrite _ => true
  | .ptpOffsetWrite _ => true
  | .offsetSlewDone => true
  | .ptpStep _ => true
  | .ptpLock => true
  | .ptpUnlock => true
  | .lockWatchdogExpire => true
  | .ppsInEdge => true
  | .ppsOutRise => true
  | .ppsOutFall => true
  | .clockGate _ => true
  | .clockUngate _ => true
  | .losAssert _ _ _ => true
  | .losDeassert _ _ _ => true
  | .lolAssert _ _ _ => true
  | .lolDeassert _ _ _ => true
  | .alignLockLoss _ => true
  | .resumeLock _ _ => true
  | .resumeTimeout _ => true
  | .trainLocalDone _ _ _ _ _ => true
  | .partnerReady _ => true
  | .trainTimeout _ _ _ => true
  | .failRetry _ => true
  | .trainingRequest _ _ => true
  | .adaptationUpdate _ ffe dfe =>
    decide (ffe.length = 24) && ffe.all (fun x => decide (-128 ≤ x) && decide (x < 128)) && decide (-32 ≤ dfe) && decide (dfe < 32)
  | .burstDetect _ => true
  | .burstFreezeEnd _ => true
  | .laneLpEnter _ => true
  | .laneLpExit _ => true
  | .laneLpExitDone _ => true
  | .checkerLock _ _ => true
  | .checkerUnlock _ _ => true
  | .prbsInject _ _ => true
  | .prbsClr _ => true
  | .laneRestartDone => true
  | .frameReceive _ frame _ _ _ => !frame.isEmpty
  | .fecWindowEnd _ _ => true
  | .pfcReceive _ frame => !frame.isEmpty
  | .pfcPauseExpire _ _ => true
  | .pfcRepeat _ => true
  | .portFence _ _ => true
  | .anRestart _ => true
  | .anPageReceive _ _ => true
  | .anRetry _ => true
  | .macCntClr _ => true
  | .ptpTsPop _ => true
  | .frameParse _ _ => true
  | .parseReloadDone _ => true
  | .prsCntClr _ => true
  | .firstCellOffer _ => true
  | .coreSlot => true
  | .reorderTimeout _ _ queue => decide (queue < queueCount)
  | .flushWalkerFree _ => true
  | .coreCntClr _ => true
  | .auditPassEnd => true
  | .auditQuery _ => true
  | .poolGet _ => true
  | .poolFree _ => true
  | .occPeakRead _ => true
  | .bufCntClr _ => true
  | .creditReturn _ _ => true
  | .sliceScrubRead _ _ _ => true
  | .portSelect _ => true
  | .telemetrySample _ => true
  | .engineInletServe _ => true
  | .eqCntClr _ => true
  | .telCntClr _ => true
  | .histClr _ => true
  | .routineStart _ => true
  | .setctx _ _ => true
  | .ingest _ => true
  | .fetch _ _ count => decide (count < 2 ^ 32)
  | .decCtus _ ring => ring.all (fun x => decide (0 < x.words) && decide (x.words ≤ 2 ^ 12))
  | .decEnd _ => true
  | .encCtus _ => true
  | .encEnd _ => true
  | .scale _ _ _ _ => true
  | .colour _ _ _ _ => true
  | .emit _ _ count dest cls => decide (count < 2 ^ 32) && decide (dest < 2 ^ 20) && decide (cls < 16)
  | .complete _ status _ => decide (status < 256)
  | .mark _ _ _ => true
  | .gsync _ _ => true
  | .uNop _ => true
  | .uAdd _ _ => true
  | .uSub _ _ => true
  | .uAnd _ _ => true
  | .uOr _ _ => true
  | .uXor _ _ => true
  | .uShl _ _ => true
  | .uShr _ _ => true
  | .uSar _ _ => true
  | .uNeg _ _ => true
  | .uMul _ _ => true
  | .uMulh _ _ => true
  | .uDiv _ _ => true
  | .uRem _ _ => true
  | .uMin _ _ => true
  | .uMax _ _ => true
  | .uAbs _ _ => true
  | .uLdi _ _ _ _ => true
  | .uLd _ _ _ _ _ => true
  | .uSt _ _ _ _ _ => true
  | .uBr _ _ _ => true
  | .uCall _ _ => true
  | .uRet _ => true
  | .uUnit _ _ _ => true
  | .unitDone _ _ _ writes changes => decide (writes.length ≤ 4096) && decide (changes.length ≤ 4096)
  | .uWait _ _ => true
  | .stallEnd _ => true
  | .uIn _ _ => true
  | .uOut _ _ _ => true
  | .uCommit _ => true
  | .uEnd _ => true
  | .raiseException _ _ => true
  | .raiseNotice _ _ => true
  | .reservedOpcode _ => true
  | .routineWatchdogExpire _ => true
  | .machineCheck _ _ => true
  | .engineReloadDone _ _ => true
  | .engineForceReload _ => true
  | .inletResume _ => true
  | .inletSkip _ => true
  | .engineFence _ _ => true
  | .ceCntClr _ => true
  | .outletRelease _ => true
  | .pipeFrameSkip _ _ => true
  | .wallCntClr _ => true
  | .memoryRequest r => memReq r
  | .bankRefresh _ _ _ => true
  | .retrainPause _ => true
  | .retrainStale _ => true
  | .patrolScrub _ _ => true
  | .holdWatchdogBite r => memReq r
  | .portReadmit _ => true
  | .bar2Move _ => true
  | .bar2MoveDone => true
  | .bar2Access _ op => memOp op
  | .fmcCntClr => true
  | .sqTailDoorbell _ _ => true
  | .cqHeadDoorbell _ _ => true
  | .fetchPass rings frames => rings.all ringView && frames.all (fun f => decide (f.length ≤ 16352))
  | .nopEntry _ entry => isEntry entry
  | .job _ entry => isEntry entry
  | .inject _ entry frame => isEntry entry && decide (frame.length ≤ 16352)
  | .injectDone => true
  | .poolAlloc _ entry => isEntry entry
  | .poolFreeEntry _ entry => isEntry entry
  | .rxbuf _ entry => isEntry entry
  | .dmaEntry _ entry => isEntry entry
  | .hostFrameDeliver _ => true
  | .sqStop _ _ => true
  | .sqPause _ _ => true
  | .sqInv _ => true
  | .tenantResetWrite _ => true
  | .functionLevelReset _ => true
  | .tenantResetStuck _ => true
  | .cqHoldoffExpire _ => true
  | .pcieLinkL0 => true
  | .vectorUnmask f vec => match vec with | some v => decide (f = 0) || decide (v.val < 64) | none => true
  | .functionEnterD0 _ => true
  | .hostWritesResume => true
  | .perstAssert => true
  | .dmaSwreq _ => true
  | .dmaBurst _ data _ => decide (data.length ≤ 2 ^ 20)
  | .dmaStop _ => true
  | .hqCntClr => true
  | .irqClaim _ => true
  | .irqComplete _ _ => true
  | .irqPendSet _ _ => true
  | .irqPendClear _ _ => true
  | .irqMaskWrite _ _ _ => true
  | .irqSwi _ => true
  | .targetHoldoffExpire _ => true
  | .pllLockLoss _ => true
  | .blockResetDone _ => true
  | .classAutoClear _ => true
  | .fltClassClr _ => true
  | .fltBlackClr => true
  | .firstLatchClear _ => true
  | .faultBusLow => true
  | .faultBusRelease => true
  | .faultBusIgnoreEnd _ => true
  | .faultInjectArm _ _ => true
  | .logClear => true
  | .logClearDone _ => true
  | .fltCntClr => true
  | .powerOnReset => true
  | .coldCrystalReady => true
  | .wakePin _ _ _ => true
  | .rtcAlarm => true
  | .rtcSecondTick => true
  | .smbusAddressMatch _ => true
  | .stackWakeRelay => true
  | .perstRise => true
  | .pwrGoodRise _ => true
  | .pwrGoodTimeout _ => true
  | .brownout _ => true
  | .autoRestart => true
  | .railDownStep => true
  | .pllLockDone => true
  | .hbmTrainingDone => true
  | .sleepRequest => true
  | .sleepCancel => true
  | .snapshotWriteDone _ => true
  | .snapshotEraseSector => true
  | .wrstnAssert => true
  | .warmReset => true
  | .uartCharacterReceive _ => true
  | .monitorRead _ => true
  | .monitorWrite _ _ => true
  | .monitorStatus => true
  | .monitorErr => true
  | .fclkStop => true
  | .uartDataRead => true
  | .uartDataWrite _ => true
  | .rtcSet _ => true
  | .rtcSubRead => true
  | .helloSend => true
  | .hello _ _ _ _ _ => true
  | .arm _ _ _ => true
  | .ready _ _ _ => true
  | .notReady _ _ _ _ => true
  | .missed _ _ _ => true
  | .barrier _ _ _ _ _ _ => true
  | .time _ _ _ => true
  | .timeResp _ _ _ _ _ => true
  | .halyardCellFrame _ frame => !frame.isEmpty
  | .halyardAckFrame _ _ _ _ => true
  | .replayTimeout _ => true
  | .stkCalStart => true
  | .calibrationDone => true
  | .stkCntClr => true
  | .sensorRead junction hbm => decide (junction.length = 16) && junction.all (fun x => decide (x < 256)) && decide (hbm < 256)
  | .supplyOutOfRange _ _ _ => true
  | .thermalTrip _ _ => true
  | .droopDetect _ _ _ => true
  | .stretchEnd _ _ _ => true
  | .envStretchRead => true
  | .tableWindowRead _ => true
  | .tableWindowWrite _ => true
  | .tableWindowDone _ => true
  | .alignLockGain _ => true
  | .parseScrubRead _ _ _ => true
  | .dieToDieLinkError _ => true
  | .activeBankParityError => true
  | .pcieInternalError => true
  | .pcieCompletionTimeout _ => true
  | .faultLogCheckFail => true
  | .supplyBackInRange _ _ => true
  | .pornAssert => true
  | .pcieLinkDown _ => true
  | .functionEnterD3hot _ => true
  | .wallPipeCellBuild _ => true
  | .rhWindowEnd _ _ => true
  | .helloReachExpire _ => true
  | .uartCharacterSent => true

end Instr
end Sys2Proof
end

