-- ==== Sys2Proof/Tests/Slice0.lean ====
section
/-!
SUPPORT. Tests: an ill-formed command for each check, one or two single steps of every command with results taken from the rules of
the spec, and for every statement states and operands that meet its hypotheses.
-/
set_option maxRecDepth 1000000
set_option exponentiation.threshold 512
set_option Elab.async false

namespace Sys2Proof.Tests

open Machine Machine.Dev

/-- The state after reset of the stack's master, with no fuse blown and STACK_ID 0. -/
def base : State := { State.reset with fuses := {} }
/-- That state with some registers set. -/
def st (rs : List (Nat × Word)) : State := { base with regs := rs.foldl (fun m x => SMap.set Reg.resetVal m x.1 x.2) [] }
/-- Command `c` answers a next state of which `p` holds. -/
def ok (c : Instr) (s : State) (p : State → Bool) : Bool := match exec c s with | .next t => p t | _ => false
/-- A run of `n` zero bytes. -/
def zs (n : Nat) : Bytes := List.replicate n 0

theorem safe_of (s : State) (h1 : s.fmem.bytes = []) (h2 : s.stores = []) (h3 : s.fault.due = []) : Safe s :=
  ⟨by rw [h1]; rfl, h2, h3⟩
theorem safe_st (rs : List (Nat × Word)) : Safe (st rs) := safe_of _ rfl rfl rfl
theorem calm_of (s : State) (h1 : s.fmem.bytes = []) (h2 : s.stores = []) (h3 : s.fault.due = []) (h4 : s.slices = []) (h5 : s.spars = []) : Calm s :=
  ⟨safe_of s h1 h2 h3, by rw [h4]; rfl, by simp [h4], fun n c hc => by simp [spar, h5, SMap.get] at hc⟩
theorem calm_st (rs : List (Nat × Word)) : Calm (st rs) := calm_of _ rfl rfl rfl rfl rfl

/-- Premises that the routine of a standard command in context `k` of engine 20 needs. -/
def onCmd (s : State) (op k : Nat) : Bool :=
  s.fetches 20 && !(s.engine 20).committed && !s.memFenced 20 && fld ((s.engine 20).cmd.getD 1 0) 31 24 == op && (s.engine 20).cur == some k &&
    (s.engine 20).changes == [] && (k == 0 || ((s.ctx 20 k).ended == none && decide ((s.ctx 20 k).cmdIdx + 1 < s.ctxCount 20 k)))
theorem onCmd_runs (s : State) (op k : Nat) (h : onCmd s op k = true) : s.OnCommand 20 op k := by
  simp [onCmd] at h
  exact ⟨⟨h.1.1.1.1.1.1, h.1.1.1.1.1.2⟩, h.1.1.1.1.2, h.1.1.1.2, h.1.1.2, h.1.2, by simpa using h.2⟩
/-- An access of the running context that reaches its bytes. -/
def reach (s : State) (i n : Nat) : Bool := !s.isoRefused (s.segTenant 20) (s.segAddr 20 i) n && !touchesHole (s.segAddr 20 i) n
/-- A store of the running command that lands. -/
def lands (s : State) (i n : Nat) : Bool := reach s i n && s.inWin 20 i && s.inWin 20 (i + ceilDiv n 4 - 1)

/-! Steps on small states. -/

theorem test_empty_queue_idles : (match step base with | .next t => t == base | _ => false) = true := by decide
theorem test_word_spells_no_command : decodeTableWord 32 0 = none ∧ base.withFetchWord 32 5 = base := by decide
theorem test_reset_values : State.reset.rd 0x0 = 0x91280100 ∧ State.reset.rd 0x4 = 0x10 ∧ State.reset.rd 0x200 = 60 ∧
    State.reset.island.power = .cold := by decide

/-! Lanes. Spar 0 carries one port of eight lanes, enabled (R95). -/

/-- MAC_SPAR_MODE 0 of spar 0 and EN of port 0. -/
def oct : List (Nat × Word) := [(Reg.MAC_SPAR_MODE 0, 1), (Reg.MAC_CFG 0, 1)]
theorem test_los_in_data : ok (.losAssert 3 59999 1500) (st ((Reg.LANE_STATE 3, 6) :: (Reg.LANE_RX_STATUS 3, 0) :: oct)) (fun t =>
    t.rd (Reg.LANE_RX_STATUS 3) == 1 && t.rd (Reg.LANE_EVENT 3) == 1 && t.laneState 3 == 2) = true := by decide
theorem test_los_in_resume : ok (.losAssert 3 59999 1500) (st ((Reg.LANE_STATE 3, 3) :: oct)) (fun t => t.laneState 3 == 3) = true := by decide
theorem test_los_ends : ok (.losDeassert 3 90001 15000) (st ((Reg.LANE_STATE 3, 2) :: (Reg.LANE_RX_STATUS 3, 1) :: oct)) (fun t =>
    t.rd (Reg.LANE_RX_STATUS 3) == 0 && t.laneState 3 == 4) = true := by decide
theorem test_los_ends_with_held_coefficients : ok (.losDeassert 3 90001 15000) { st ((Reg.LANE_STATE 3, 2) :: (Reg.LANE_RX_STATUS 3, 1) ::
    (Reg.LANE_TRAIN_CTRL 3, 0x01000000) :: oct) with lanes := [(3, { held := true })] } (fun t => t.laneState 3 == 3) = true := by decide
theorem test_lol_clears_lock : ok (.lolAssert 0 3001 0) (st ((Reg.LANE_STATE 0, 4) :: (Reg.LANE_RX_STATUS 0, 4) :: oct)) (fun t =>
    t.rd (Reg.LANE_RX_STATUS 0) == 0x0BB90002 && t.rd (Reg.LANE_EVENT 0) == 2 && t.laneState 0 == 4) = true := by decide
theorem test_lol_ends : ok (.lolDeassert 0 3000 4096) (st [(Reg.LANE_RX_STATUS 0, 2)]) (fun t => t.rd (Reg.LANE_RX_STATUS 0) == 0x0BB80004) = true := by decide
theorem test_lol_exactly_at_the_limit : ok (.lolAssert 0 3000 255) (st [(Reg.LANE_RX_STATUS 0, 4)]) (fun t => t.rd (Reg.LANE_RX_STATUS 0) == 0x0BB80004) = true := by decide
theorem test_los_dip_too_short : ok (.losAssert 3 0 1499) (st ((Reg.LANE_STATE 3, 6) :: (Reg.LANE_RX_STATUS 3, 0) :: oct)) (fun t =>
    t.rd (Reg.LANE_RX_STATUS 3) == 0) = true := by decide
theorem test_align_loss : ok (.alignLockLoss 0) (st ((Reg.MAC_STATUS 0, 3) :: oct)) (fun t =>
    t.rd (Reg.MAC_STATUS 0) == 0 && t.rd (Reg.MAC_EVENT 0) == 1) = true := by decide
theorem test_align_gain_waits_for_lanes : ok (.alignLockGain 0) (st oct) (fun t => t.rd (Reg.MAC_STATUS 0) == 2) = true := by decide
theorem test_align_gain_brings_port_up : ok (.alignLockGain 8) (st [(Reg.MAC_SPAR_MODE 1, 5), (Reg.MAC_CFG 8, 1), (Reg.LANE_STATE 8, 6), (Reg.LANE_RX_STATUS 8, 4)])
    (fun t => t.rd (Reg.MAC_STATUS 8) == 3 && t.rd (Reg.MAC_EVENT 8) == 1) = true := by decide
theorem test_resume_lock : ok (.resumeLock 3 0x60) (st ((Reg.LANE_STATE 3, 3) :: oct)) (fun t =>
    t.fget (Reg.LANE_RX_STATUS 3) 15 8 == 0x60 && t.laneState 3 == if 0x60 < t.fget (Reg.LANE_TRAIN_CTRL 3) 15 8 then 3 else 6) = true := by decide
theorem test_resume_lock_weak : ok (.resumeLock 3 7) (st ((Reg.LANE_STATE 3, 3) :: (Reg.LANE_TRAIN_CTRL 3, 0x0800) :: oct)) (fun t =>
    t.laneState 3 == 3) = true := by decide
theorem test_resume_timeout : ok (.resumeTimeout 3) (st ((Reg.LANE_STATE 3, 3) :: oct)) (fun t => t.laneState 3 == 4) = true := by decide
theorem test_train_done_reversed : ok (.trainLocalDone 1 7 6 true []) (st ((Reg.LANE_STATE 1, 4) :: (Reg.LANE_TRAIN_CTRL 1, 0x8000) :: oct)) (fun t =>
    t.fget (Reg.LANE_TRAIN_STATUS 1) 7 3 == 27 && t.laneState 1 == 4 && t.fget (Reg.LANE_RX_STATUS 1) 15 8 == 7) = true := by decide
theorem test_train_done_no_mapping : ok (.trainLocalDone 1 255 3 false []) (st ((Reg.LANE_STATE 1, 4) :: oct)) (fun t =>
    t.fget (Reg.LANE_TRAIN_STATUS 1) 11 8 == 3 && t.laneState 1 == 7 && t.rd (Reg.LANE_EVENT 1) == 8) = true := by decide
theorem test_partner_ready : ok (.partnerReady 1) (st ((Reg.LANE_STATE 1, 5) :: oct)) (fun t =>
    t.laneState 1 == 6 && t.rd (Reg.LANE_EVENT 1) == 4) = true := by decide
theorem test_train_timeout : ok (.trainTimeout 1 3000 false) (st ((Reg.LANE_STATE 1, 4) :: oct)) (fun t =>
    t.laneState 1 == 7 && t.fget (Reg.LANE_TRAIN_STATUS 1) 11 8 == 1 && t.rd (Reg.LANE_EVENT 1) == 8) = true := by decide
theorem test_fail_retry : ok (.failRetry 1) (st ((Reg.LANE_STATE 1, 7) :: (Reg.LANE_RX_STATUS 1, 1) :: oct)) (fun t =>
    t.laneState 1 == 2) = true := by decide
theorem test_preset_2 : ok (.trainingRequest 5 (.preset 1)) base (fun t =>
    tapsOf (t.rd (Reg.LANE_TX_TAPS 5)) == [0, 2, -10, 48, -4] && t.outs == [.answer 5 0]) = true := by decide
theorem test_main_above_64 : ok (.trainingRequest 5 (.inc 3)) (st [(Reg.LANE_TX_TAPS 5, tapsWord [0, 0, 0, 64, 0])]) (fun t =>
    t.outs == [.answer 5 1] && t.rd (Reg.LANE_TX_TAPS 5) == 0x200000) = true := by decide
theorem test_adaptation_moves_by_one : ok (.adaptationUpdate 2 (List.replicate 24 9) (-9)) (st [(Reg.LANE_STATE 2, 6), (Reg.LANE_RX_STATUS 2, 0), (Reg.LANE_TRAIN_CTRL 2, 0x02000000)])
    (fun t => (t.lane 2).ffe == List.replicate 24 1 && t.fget (Reg.LANE_RX_EQ 2) 13 8 == 63) = true := by decide
theorem test_burst : ok (.burstDetect 2) base (fun t => t.bget (Reg.LANE_RX_STATUS 2) 3 && t.rd (Reg.LANE_EVENT 2) == 0x100) = true := by decide
theorem test_burst_ends : ok (.burstFreezeEnd 2) (st [(Reg.LANE_RX_STATUS 2, 8)]) (fun t => t.rd (Reg.LANE_RX_STATUS 2) == 0) = true := by decide
theorem test_lp_enter : ok (.laneLpEnter 2) base (fun t => t.rd (Reg.LANE_LP_CTRL 2) == 3 && t.laneState 2 == 1) = true := by decide
theorem test_lp_exit : ok (.laneLpExit 2) (st [(Reg.LANE_LP_CTRL 2, 3)]) (fun t => t.rd (Reg.LANE_LP_CTRL 2) == 6) = true := by decide
theorem test_lp_exit_done : ok (.laneLpExitDone 2) (st ((Reg.LANE_LP_CTRL 2, 6) :: (Reg.LANE_STATE 2, 1) :: (Reg.LANE_RX_STATUS 2, 1) :: oct)) (fun t =>
    t.rd (Reg.LANE_LP_CTRL 2) == 0 && t.laneState 2 == 2 && t.rd (Reg.LANE_EVENT 2) == 0x40) = true := by decide
/-- Levels of PRBS7 from seven ones on: the bits 1111111 0000001 0000011 00…, in pairs through the Gray code (R69). -/
def prbs7 : Nat → Nat → List (Fin 4)
  | 0, _ => []
  | n + 1, h => let p := patternPair 1 h; Fin.ofNat 4 (p ^^^ p / 2) :: prbs7 n (4 * h + p)
theorem test_prbs7_bits : (prbs7 7 127).map (fun x => grayBits x) = [0, 0, 0, 2, 0, 0, 3] := by decide
theorem test_gray : (upto 4).map grayBits = [0, 1, 3, 2] := by decide
theorem test_checker_locks_at_64 : ok (.checkerLock 2 (prbs7 4 127)) { st [(Reg.LANE_TEST_CTRL 2, 0x10)] with
    lanes := [(2, { chk := { hist := 127, run := 60 } })] } (fun t => t.bget (Reg.LANE_RX_STATUS 2) 4) = true := by decide
theorem test_checker_not_before : ok (.checkerLock 2 (prbs7 3 127)) { st [(Reg.LANE_TEST_CTRL 2, 0x10)] with
    lanes := [(2, { chk := { hist := 127, run := 60 } })] } (fun t => !t.bget (Reg.LANE_RX_STATUS 2) 4) = true := by decide
theorem test_checker_off : ok (.checkerLock 2 [0]) (st [(Reg.LANE_TEST_CTRL 2, 0x80)]) (fun t => !t.bget (Reg.LANE_RX_STATUS 2) 4) = true := by decide
theorem test_checker_unlock : ok (.checkerUnlock 2 [3]) { st [(Reg.LANE_TEST_CTRL 2, 0x10), (Reg.LANE_RX_STATUS 2, 0x10)] with
    lanes := [(2, { chk := { hist := 127, missed := List.replicate 15 true } })] } (fun t =>
    t.rd (Reg.LANE_RX_STATUS 2) == 0 && t.rd (Reg.LANE_EVENT 2) == 0x30) = true := by decide
theorem test_inject_one_symbol : ok (.prbsInject 2 false) (st [(Reg.LANE_STATE 2, 8), (Reg.LANE_TEST_CTRL 2, 8)]) (fun t => t.outs == [.injectedSymbol 2]) = true := by decide
theorem test_steps_of_training : ok (.trainLocalDone 1 130 1 false [⟨2, false, 140⟩, ⟨2, false, 139⟩])
    (st ((Reg.LANE_STATE 1, 4) :: oct)) (fun t => t.laneState 1 == 4 && t.fget (Reg.LANE_TRAIN_STATUS 1) 31 16 == 4 &&
      t.outs == [.request 1 1, .requestStep 1 2 false, .requestStep 1 2 false, .requestStep 1 2 true]) = true := by decide
theorem test_prbs_clear : ok (.prbsClr 2) { base with cnts := [(Reg.C_LANE_PRBS_ERR 2, 7), (Reg.C_LANE_PRBS_BITS 2, 9)] } (fun t =>
    t.cnts == []) = true := by decide
theorem test_lane_starts_without_signal : (((st ((Reg.LANE_RX_STATUS 7, 1) :: oct)).laneStart 7).laneState 7 = 2) := by decide

/-! Ports. -/

/-- Spar 1 as eight 100GbE ports, ports 8 and 9 enabled and up, MAX_FRAME 1518. -/
def ports1 : List (Nat × Word) := [(Reg.MAC_SPAR_MODE 1, 5), (Reg.MAC_CFG 8, 0x05EE0001), (Reg.MAC_CFG 9, 0x05EE0001), (Reg.MAC_STATUS 8, 3),
  (Reg.MAC_STATUS 9, 3), (Reg.LANE_STATE 8, 6), (Reg.LANE_STATE 9, 6)]
/-- A frame of 64 bytes with a good FCS. -/
def good64 : Bytes := (zs 12 ++ [8, 0] ++ zs 46) ++ fcsBytes (zs 12 ++ [8, 0] ++ zs 46)
/-- A PFC frame for class 3 with a quanta count of 5, and for class 4 with 0 (R110). -/
def pfc3 : Bytes :=
  let b := zs 12 ++ [0x88, 0x08, 1, 1, 0, 0x18] ++ zs 6 ++ [0, 5] ++ zs 34
  b ++ fcsBytes b

theorem test_fcs_of_check_string : fcsBytes [0x31, 0x32, 0x33, 0x34, 0x35, 0x36, 0x37, 0x38, 0x39] = [0x26, 0x39, 0xF4, 0xCB] := by decide
theorem test_frame_received : ok (.frameReceive 8 good64 false [⟨1, true⟩, ⟨2, true⟩] false) (st ports1) (fun t =>
    t.cnt (Reg.C_MAC_RX_FRAMES_OK 8) == 1 && t.cnt (Reg.C_MAC_RX_BYTES_OK 8) == 64 && t.cnt (Reg.C_MAC_FEC_CORR_SYM 8) == 3 &&
    (t.spar 1).rx.length == 1) = true := by decide
theorem test_los_held_the_port : ok (.losDeassert 8 90001 15000) (st [(Reg.MAC_SPAR_MODE 1, 5), (Reg.MAC_CFG 8, 1), (Reg.LANE_STATE 8, 6), (Reg.MAC_STATUS 8, 2)])
    (fun t => t.rd (Reg.MAC_STATUS 8) == 3 && t.laneState 8 == 6) = true := by decide
theorem test_runt : ok (.frameReceive 8 (zs 63) false [] false) (st ports1) (fun t => t.cnt (Reg.C_MAC_RX_RUNT 8) == 1 && t.spars == []) = true := by decide
theorem test_fec_window : ok (.fecWindowEnd 8 []) { st ports1 with ports := [(8, { fecCount := 3, fecFired := true })] } (fun t => t.ports == []) = true := by decide
theorem test_pfc_pauses_one_class : ok (.pfcReceive 8 pfc3) (st ((Reg.MAC_PFC_CFG 8, 0xFF000000) :: ports1)) (fun t =>
    t.fget (Reg.MAC_STATUS 8) 15 8 == 8 && t.cnt (Reg.C_MAC_RX_PFC 8) == 1 && t.spars == []) = true := by decide
theorem test_pfc_masked : ok (.pfcReceive 8 pfc3) (st ((Reg.MAC_PFC_CFG 8, 0xF7000000) :: ports1)) (fun t =>
    t.fget (Reg.MAC_STATUS 8) 15 8 == 0) = true := by decide
theorem test_pause_expires : ok (.pfcPauseExpire 8 3) (st [(Reg.MAC_STATUS 8, 0x1803)]) (fun t => t.rd (Reg.MAC_STATUS 8) == 0x1003) = true := by decide
theorem test_pfc_repeat : ok (.pfcRepeat 8) { st ports1 with ports := [(8, { txPause := 0x40 })] } (fun t =>
    t.outs.length == 1 && t.cnt (Reg.C_MAC_TX_PFC 8) == 1) = true := by decide
theorem test_fence_counts_drops : ok (.frameReceive 8 good64 false [] false) (st ((Reg.MAC_STATUS 8, 0x13) :: (Reg.MAC_CMD 8, 1) :: ports1.drop 4 ++ ports1.take 3))
    (fun t => t.cnt (Reg.C_MAC_RX_FENCE_DROP 8) == 1 && t.spars == []) = true := by decide
theorem test_fence_written : ok (.portFence 9 true) (st ports1) (fun t => t.bget (Reg.MAC_STATUS 9) 4 && t.bget (Reg.MAC_CMD 9) 0) = true := by decide
theorem test_fence_lifted : ok (.portFence 9 false) (st ((Reg.MAC_CMD 9, 1) :: (Reg.MAC_STATUS 9, 0x13) :: ports1.take 2)) (fun t =>
    !t.bget (Reg.MAC_STATUS 9) 4 && !t.bget (Reg.MAC_CMD 9) 0) = true := by decide
theorem test_an_restart : ok (.anRestart 8) (st [(Reg.MAC_SPAR_MODE 1, 5), (Reg.MAC_CFG 8, 5), (Reg.MAC_STATUS 8, 7), (Reg.LANE_STATE 8, 6)]) (fun t =>
    t.fget (Reg.MAC_STATUS 8) 3 2 == 0 && t.laneState 8 == 2 && !t.bget (Reg.MAC_STATUS 8) 0) = true := by decide
theorem test_an_no_common_ability : ok (.anPageReceive 8 []) (st [(Reg.MAC_SPAR_MODE 1, 5), (Reg.MAC_CFG 8, 5)]) (fun t =>
    t.rd (Reg.MAC_STATUS 8) == 8 && t.rd (Reg.MAC_EVENT 8) == 2) = true := by decide
theorem test_an_resolves : ok (.anPageReceive 8 [100]) (st [(Reg.MAC_SPAR_MODE 1, 5), (Reg.MAC_CFG 8, 5), (Reg.LANE_STATE 8, 2), (Reg.LANE_RX_STATUS 8, 0)])
    (fun t => t.rd (Reg.MAC_STATUS 8) == 4 && t.laneState 8 == 4) = true := by decide
theorem test_an_retry : ok (.anRetry 8) (st [(Reg.MAC_SPAR_MODE 1, 5), (Reg.MAC_CFG 8, 5), (Reg.MAC_STATUS 8, 8)]) (fun t =>
    t.rd (Reg.MAC_STATUS 8) == 0) = true := by decide
theorem test_mac_clear : ok (.macCntClr 8) { st ((Reg.MAC_FLUSH_CNT 8 2, 9) :: ports1) with cnts := [(Reg.C_MAC_RX_FRAMES_OK 8, 4), (Reg.C_MAC_PTP_TS_OVF 8, 4),
    (Reg.C_MAC_RX_FRAMES_OK 9, 4)] } (fun t => t.cnts == [(Reg.C_MAC_RX_FRAMES_OK 9, 4)] && t.rd (Reg.MAC_FLUSH_CNT 8 2) == 0) = true := by decide
theorem test_stamp_popped : ok (.ptpTsPop 8) { st ports1 with ports := [(8, { tsFifo := [(0x500000007, 9), (1, 2)] })] } (fun t =>
    t.rd (Reg.MAC_PTP_TX_TS_LO 8) == 7 && t.rd (Reg.MAC_PTP_TX_TS_HI 8) == 5 && t.outs == [.readData (Reg.MAC_PTP_TX_SEQ 8) 0x80000009] &&
    (t.port 8).tsFifo == [(1, 2)]) = true := by decide
theorem test_no_stamp : ok (.ptpTsPop 8) (st ports1) (fun t => t.outs == [.readData (Reg.MAC_PTP_TX_SEQ 8) 0]) = true := by decide

/-! Registers, images and the commit. -/

/-- A delta image of IMAGE_ID 7 over BASE_ID 6 that sets GLB_RATE_N to 50 (R31, R32). -/
def delta50 : Bytes :=
  [0x4F, 0x56, 0x51, 0x42, 1, 0, 0, 0, 52, 0, 0, 0, 1, 0, 1, 0, 1, 0xFF, 0, 0, 7, 0, 0, 0, 6, 0, 0, 0, 0xCC, 0xAE, 0x6B, 0x93] ++
  [1, 0, 0, 0, 8, 0, 0, 0, 0, 0, 0, 0, 0, 2, 0, 0, 50, 0, 0, 0]

theorem test_crc32c_check_value : crc32c [0x31, 0x32, 0x33, 0x34, 0x35, 0x36, 0x37, 0x38, 0x39] = 0xE3069283 := by decide
theorem test_crc8_check_value : crc8 0x313233343536373839 72 0 = 0xF4 := by decide
theorem test_class_b_write_enters_shadow : ok (.registerWrite 0x200 4 50) base (fun t => t.rd 0x200 == 60 && t.rdSh 0x200 == 50) = true := by decide
theorem test_class_b_write_held_in_window : ok (.registerWrite 0x200 4 50) { base with commit := { window := true } } (fun t =>
    t.rdSh 0x200 == 60 && t.commit.hold == [(0x200, 50)]) = true := by decide
theorem test_held_write_enters : ok .heldWriteEnterShadow { base with commit := { hold := [(0x200, 50), (0x200, 51)] } } (fun t =>
    t.rdSh 0x200 == 50 && t.commit.hold == [(0x200, 51)]) = true := by decide
theorem test_counter_low_read : ok (.counterLowRead (Reg.C_MAC_TX_BYTES 8) 4) { st [(Reg.MAC_SPAR_MODE 1, 5)] with cnts := [(Reg.C_MAC_TX_BYTES 8, 0x300000004)] }
    (fun t => t.outs == [.readData (Reg.C_MAC_TX_BYTES 8) 4] && t.latch == [(Reg.C_MAC_TX_BYTES 8, 3)]) = true := by decide
theorem test_counter_high_read : ok (.counterLowRead (Reg.C_MAC_TX_BYTES 8 + 4) 4) { st [(Reg.MAC_SPAR_MODE 1, 5)] with
    cnts := [(Reg.C_MAC_TX_BYTES 8, 0x500000004)], latch := [(Reg.C_MAC_TX_BYTES 8, 3)] } (fun t =>
    t.outs == [.readData (Reg.C_MAC_TX_BYTES 8 + 4) 3]) = true := by decide
theorem test_unassigned_reads_zero : ok (.counterLowRead 0x900000 4) base (fun t => t.outs == [.readData 0x900000 0]) = true := by decide
theorem test_image_go_delta : ok (.imgGo true) base (fun t => t.bget 0x40C 4 && t.bget 0x408 1 && t.loader.reading) = true := by decide
theorem test_image_go_busy : ok (.imgGo false) (st [(0x40C, 0x10)]) (fun t => t.rd 0x40C == 0x1B) = true := by decide
theorem test_host_image_bad_magic : ok .hostImageReadDone { st [(0x40C, 0x10), (0x404, 52)] with loader := { job := some { delta := true }, reading := true } }
    (fun t => t.rd 0x40C == 1 && t.loader.job == none && t.loader.hostDone) = true := by decide
theorem test_flash_copy_bad_magic : ok (.flashCopyReadDone { low := zs 32 } { low := zs 32 }) { st [(0x40C, 0x10)] with loader := { job := some { flash := true }, reading := true } }
    (fun t => t.fget 0x40C 3 0 == 1 && t.loader.fallback && t.loader.reading) = true := by decide
theorem test_no_image : ok (.flashCopyReadDone { low := zs 32 } { low := zs 32 }) { st [(0x40C, 0x10)] with
    loader := { job := some { flash := true }, reading := true, fallback := true, firstCode := 4 } }
    (fun t => t.rd 0x40C == 0x81 && t.outs.length == 7) = true := by decide
theorem test_delta_expanded : ok .imageExpansionDone { st [(0x40C, 0x10), (0x414, 6), (0x410, 6)] with loader := { job := some { image := delta50, delta := true, expanding := true } } }
    (fun t => t.rd 0x414 == 7 && t.rd 0x410 == 6 && t.rdSh 0x200 == 50 && t.rd 0x200 == 60 && t.rd 0x40C == 0) = true := by decide
theorem test_delta_image_passes_its_checks : headCode delta50 = 0 ∧ crcOk delta50 = true ∧ (imgSects delta50).isSome = true := by decide
theorem test_arm_next_boundary : ok (.commitArm false false false false) (st [(0x210, 7)]) (fun t =>
    t.bget 0x300 0 && (t.commit.arm.map (·.stack)) == some false) = true := by decide
theorem test_arm_under_black_is_late : ok (.commitArm false false false false) (st [(Reg.FLT_STATUS, 1)]) (fun t =>
    t.rd 0x308 == 1 && t.commit.arm == none) = true := by decide
theorem test_disarm : ok (.commitDisarm false false false) { st [(0x300, 1)] with commit := { arm := some { target := 9, stack := false } } } (fun t =>
    t.rd 0x300 == 0 && t.commit.arm == none) = true := by decide
theorem test_view_shadow : ok (.viewShadow true false true) base (fun t => t.rd 0x300 == 0x14) = true := by decide
theorem test_window_decides_swap : ok .commitWindowOpen { st [(0x300, 1)] with commit := { arm := some { target := 1, stack := false } } } (fun t =>
    t.commit.window && t.commit.swap && t.commit.arm == none) = true := by decide
theorem test_boundary_counts : ok .boundary { base with commit := { window := true } } (fun t =>
    t.rd 0x210 == 1 && t.rd 0x214 == 66666666 && !t.commit.window && t.pendOf 20) = true := by decide
theorem test_boundary_swaps : ok .boundary { base with shadow := [(0x200, 50)], commit := { window := true, swap := true } } (fun t =>
    t.rd 0x200 == 50 && t.rd 0x308 == 8 && !t.commit.swap) = true := by decide
theorem test_stack_decides_without_reports : ok .stackCommitDecide { st [(Reg.STK_STATUS, 0x02000000), (0x300, 1)] with
    commit := { arm := some { target := 1, stack := true } } } (fun t => t.rd 0x308 == 2 && t.commit.arm == some { target := 2, stack := true }) = true := by decide
theorem test_mark_sent : ok .boundaryMarkSend (st [(Reg.STK_CFG, 0x02580000)]) (fun t => match t.outs with
    | [.boundaryMark e w] => e == 66666666 - 2400 && w / 2 ^ 96 == 1 && w / 2 ^ 32 % 2 ^ 64 == 133333333 && crc8 (w / 256) 120 0 == w % 256
    | _ => false) = true := by decide
theorem test_mark_received : ok (.boundaryMarkReceive 66666600 0x5000000000001e24080000068) { st [(Reg.GLB_PERIOD_CTRL, 1), (Reg.STK_BIN_DELAY, 600)] with
    fuses := { master := false, stackId := 1 }, time := { next := { num := 1, den := 60 } } } (fun t =>
    t.commit.swap && t.time.markNext == some 123456 && t.bget Reg.GLB_PERIOD_STATUS 0) = true := by decide
theorem test_mark_with_bad_crc_is_missed : ok (.boundaryMarkReceive 66666600 0x5000000000001e24080000069) { st [(Reg.GLB_PERIOD_CTRL, 1)] with
    fuses := { master := false, stackId := 1 }, time := { next := { num := 1, den := 60 } } } (fun t =>
    t.bget Reg.GLB_PERIOD_STATUS 1 && t.cnt Reg.C_STK_MARK_MISSED == 1 && t.bget Reg.STK_EVENT 0) = true := by decide
theorem test_mark_timeout : ok .boundaryInTimeout { st [(Reg.GLB_PERIOD_CTRL, 1)] with fuses := { master := false, stackId := 1 } } (fun t =>
    t.fget Reg.GLB_PERIOD_STATUS 4 0 == 0x16) = true := by decide

/-! The time base. -/

theorem test_freq_in_range : ok (.ptpFreqWrite 32768000) base (fun t => t.rd Reg.PTP_FREQ == 32768000 && t.rd Reg.PTP_EVENT == 0) = true := by decide
theorem test_freq_clamped : ok (.ptpFreqWrite 0x80000000) base (fun t => t.rd Reg.PTP_FREQ == 0xFE0C0000 && t.rd Reg.PTP_EVENT == 4) = true := by decide
theorem test_offset_slews : ok (.ptpOffsetWrite 0xFFFFFFFF) { base with time := { base.time with offLo := 0xFFFFFFFC } } (fun t =>
    t.time.slew == -4 * (3 * 65536 * 1000000) && t.bget Reg.PTP_STATUS 1) = true := by decide
theorem test_offset_done : ok .offsetSlewDone { st [(Reg.PTP_STATUS, 2)] with time := { slew := 7, ticks := 5 } } (fun t =>
    t.time.ticks == 12 && t.time.slew == 0 && t.rd Reg.PTP_STATUS == 0) = true := by decide
theorem test_step_refused : ok (.ptpStep 1) (st [(Reg.PTP_STATUS, 1)]) (fun t => t.rd Reg.PTP_EVENT == 2 && t.time.ticks == 0) = true := by decide
theorem test_step_taken : ok (.ptpStep 1) (st [(Reg.PTP_STATUS, 4)]) (fun t => t.time.ticks == 2 ^ 32 * (3 * 65536 * 1000000)) = true := by decide
theorem test_ptp_lock : ok .ptpLock (st [(Reg.GLB_PERIOD_CTRL, 0), (Reg.PTP_STATUS, 4), (Reg.GLB_PERIOD_STATUS, 2)]) (fun t =>
    t.rd Reg.PTP_STATUS == 1 && t.rd Reg.GLB_PERIOD_STATUS == 0x11) = true := by decide
theorem test_ptp_unlock : ok .ptpUnlock (st [(Reg.GLB_PERIOD_CTRL, 0), (Reg.PTP_STATUS, 1), (Reg.GLB_PERIOD_STATUS, 1)]) (fun t =>
    t.rd Reg.PTP_STATUS == 0 && t.rd Reg.GLB_PERIOD_STATUS == 0x12) = true := by decide
theorem test_lock_watchdog : ok .lockWatchdogExpire (st [(Reg.GLB_PERIOD_CTRL, 0), (Reg.PTP_STATUS, 1), (Reg.GLB_PERIOD_STATUS, 1)]) (fun t =>
    t.rd Reg.PTP_STATUS == 0 && t.rd Reg.PTP_EVENT == 1) = true := by decide
theorem test_pps_in : ok .ppsInEdge { base with time := { ticks := 9 * (3 * 65536 * 1000000) } } (fun t =>
    t.rd Reg.PTP_PPS_IN_TS_LO == 9 && t.rd Reg.PTP_EVENT == 8) = true := by decide
theorem test_pps_out : ok .ppsOutRise (st [(Reg.PTP_CFG, 0x80000000)]) (fun t => t.outs == [.pps true]) = true := by decide
theorem test_pps_out_disabled : ok .ppsOutRise (st [(Reg.PTP_CFG, 0)]) (fun t => t.outs == []) = true := by decide
theorem test_pps_out_falls : ok .ppsOutFall { base with time := { ppsOut := true } } (fun t => t.outs == [.pps false]) = true := by decide
theorem test_clock_gate : ok (.clockGate (.parse 3)) base (fun t => t.gated == [.parse 3]) = true := by decide
theorem test_clock_ungate : ok (.clockUngate (.parse 3)) { base with gated := [.parse 3, .egress 3] } (fun t => t.gated == [.egress 3]) = true := by decide

/-! Parsing and classification. -/

/-- A parse microword (R119) as two words: operation, next address, condition set, branch mask, LMODE, length, extraction set with its enable,
mark, flags. -/
def pmw (op next cset bmask lmode len xset xen mark flags : Nat) : List Word :=
  let v := op * 2 ^ 46 + next * 2 ^ 38 + cset * 2 ^ 34 + bmask * 2 ^ 30 + lmode * 2 ^ 29 + len * 2 ^ 22 + xset * 2 ^ 18 + xen * 2 ^ 17 + mark * 2 ^ 13 + flags * 2 ^ 6
  [wd v, wd (v >>> 32)]
/-- A condition (R121) as two words: bit offset, width, operation, mask, value. -/
def pcond (off wid op mask val : Nat) : List Word :=
  [wd (val * 2 ^ 16), wd (off * 2 ^ 22 + (wid - 1) * 2 ^ 18 + op * 2 ^ 16 + mask)]
/-- A condition that is always 0. -/
def poff : List Word := pcond 0 1 3 0 0
/-- A length word (R121): bit offset, width, shift. -/
def plen (off wid sh : Nat) : List Word := [wd (off * 2 ^ 22 + (wid - 1) * 2 ^ 19 + sh * 2 ^ 17)]
/-- A copy (R122): constant, source, width, lowest key bit. -/
def pcopy (const src wid dst : Nat) : Word := wd (const * 2 ^ 31 + src * 2 ^ 21 + (wid - 1) * 2 ^ 16 + dst * 2 ^ 7 + 64)

/-- The parse program of the worked dispatch of chapter 5: the stage, the address, the microword, its conditions and its copies. -/
def tarnStages : List (Nat × Nat × List Word × List Word × List Word) :=
  [(0, 0x00, pmw 0 0x10 0 1 0 14 0 0 0 0, pcond 96 16 0 0xFFFF 0x8100 ++ poff ++ poff ++ poff ++ plen 0 1 0, []),
   (1, 0x11, pmw 0 0x10 0 2 0 4 0 0 0 1, poff ++ pcond 16 16 0 0xFFFF 0x0800 ++ poff ++ poff ++ plen 0 1 0, []),
   (2, 0x12, pmw 0 0x40 0 5 1 0 0 1 1 0, pcond 72 8 0 0xFF 17 ++ poff ++ pcond 50 14 1 0x3FFF 0 ++ poff ++ plen 4 4 2, [pcopy 0 128 32 184]),
   (3, 0x41, pmw 0 0x60 0 1 0 8 0 1 2 0, pcond 16 16 0 0xFFFF 5004 ++ poff ++ poff ++ poff ++ plen 0 1 0, [pcopy 0 16 16 216]),
   (4, 0x61, pmw 0 0x70 0 1 1 12 0 1 7 4, pcond 3 1 0 1 1 ++ poff ++ poff ++ poff ++ plen 4 4 2, [pcopy 0 64 32 152, pcopy 1 7 16 280]),
   (5, 0x70, pmw 0 0x80 0 1 0 2 0 1 0 0, pcond 1 6 0 0x3F 49 ++ poff ++ poff ++ poff ++ plen 0 1 0, [pcopy 0 1 6 0]),
   (6, 0x81, pmw 1 0 0 0 0 1 0 1 0 0, poff ++ poff ++ poff ++ poff ++ plen 0 1 0, [pcopy 0 0 8 8])]
/-- Tables from a list of entries. -/
def tabsOf (es : List (Nat × List Word)) : SMap (List Word) := es.foldl (fun m e => SMap.put m e.1 e.2) []
/-- The entries of that program for spar 2. -/
def tarnTabs : List (Nat × List Word) := tarnStages.flatMap (fun (s, a, w, c, x) =>
  [(tkey tidParse 2 (256 * s + a), w), (tkey 0x0501 2 (16 * s), c), (tkey 0x0502 2 (16 * s), x)])
/-- The frame of that dispatch: Ethernet, a tag, IPv4, UDP to port 5004, RTP, the payload header of type 49 and the FU header. -/
def tarnFrame : Bytes :=
  zs 12 ++ [0x81, 0x00, 0x00, 0x05, 0x08, 0x00] ++ [0x45, 0, 0, 47, 0, 0, 0, 0, 64, 17, 0, 0, 10, 0, 0, 1, 239, 1, 2, 3] ++
  [0x30, 0x39, 0x13, 0x8C, 0, 27, 0, 0] ++ [0x80, 96, 0, 1, 0, 0, 0, 0, 0xDE, 0xAD, 0xBE, 0xEF] ++ [0x62, 0x01] ++ [0x93] ++ zs 7
/-- The exact-match key of that frame: domain 7, destination address, port and SSRC. -/
def tarnKey : Nat := 7 * 2 ^ 128 + (0x138C * 2 ^ 64 + 0xEF010203 * 2 ^ 32 + 0xDEADBEEF)
/-- A rule of spar 2 on port 16 and flag 2, its action with DEST_SEL 0 and CLASS 5, and the exact-match entry for engine 7. -/
def tarnRule : List (Nat × List Word) :=
  [(tkey 0x0510 2 12, List.replicate 9 0 ++ [wd (16 * 2 ^ 22 + 2 ^ 16)] ++ List.replicate 9 0 ++ [wd (0x3FF * 2 ^ 22 + 2 ^ 16)] ++ [1]),
   (tkey 0x0511 2 12, [0, wd (5 * 2 ^ 6)]),
   (tkey 0x0520 0 (crc32c (beBytes 18 tarnKey ++ [0]) % 2 ^ 18), [wd tarnKey, wd (tarnKey >>> 32), wd (tarnKey >>> 64), wd (tarnKey >>> 96), 7, 0x80060007])]
/-- Port 16 of spar 2 as in that dispatch. -/
def tarn : State := { st [(Reg.MAC_SPAR_MODE 2, 1), (Reg.PRS_PORT_CFG 2 0, 0x00014010)] with tabs := tabsOf (tarnTabs ++ tarnRule) }
/-- A frame of port 16 waiting for its parse. -/
def rx16 (b : Bytes) (s : State) : State :=
  { s with spars := [(2, { rx := [{ bytes := b, port := 16, stamp := 5, bad := false, res := {} }] })] }

theorem test_tarn_dispatch_walk : (let (w, e) := tarn.parseFrom 2 16 256 tarnFrame 16 0 0 0 {}
    e = .done ∧ w.stages = 7 ∧ w.flags = 5 ∧ w.marks = [255, 18, 38, 255, 255, 255, 255, 46, 255] ∧ bits w.key 295 152 = tarnKey ∧
      bits w.key 5 0 = 49 ∧ bits w.key 15 8 = 0x93) := by decide
theorem test_tarn_dispatch_result : ok (.frameParse 2 none) (rx16 tarnFrame tarn) (fun t => match (t.spar 2).parsed with
    | [f] => f.res.dest == 0x60007 && f.res.cls == 5 && f.res.colour == 0 && f.res.queue == engineQ 7 && f.res.owner == 16 && f.res.rule == 12
    | _ => false) = true := by decide
theorem test_tarn_unknown_ssrc_is_punted : ok (.frameParse 2 none) (rx16 (tarnFrame.set 57 0) tarn) (fun t =>
    t.cnt (Reg.C_PRS_EM_MISS 16) == 1 && t.cnt (Reg.C_PRS_PUNT_OK 16) == 1 && (t.spar 2).parsed.map (·.res.reason) == [1]) = true := by decide
theorem test_depth_at_its_edge : (tarn.parseFrom 2 16 61 tarnFrame 16 0 0 0 {}).2 = .done ∧ (tarn.parseFrom 2 16 60 tarnFrame 16 0 0 0 {}).2 = .depth ∧
    (tarn.parseFrom 2 6 61 tarnFrame 16 0 0 0 {}).2 = .depth := by decide
theorem test_truncated : (tarn.parseFrom 2 16 256 (tarnFrame.take 60) 16 0 0 0 {}).2 = .fail 14 := by decide
theorem test_header_of_128_bytes : (let t := fun (b : BitVec 8) => { base with tabs := tabsOf [
        (tkey tidParse 2 0, pmw 1 0 0 0 1 8 0 0 0 0), (tkey 0x0501 2 0, poff ++ poff ++ poff ++ poff ++ plen 0 8 3)] }.parseFrom 2 16 256 [b] 16 0 0 0 {}
    (t 15).2 = .done ∧ (t 16).2 = .fail 15) := by decide
theorem test_policer_at_its_edge : (let s := { base with tabs := tabsOf [(tkey 0x0512 2 1, [1000, 2000, 64, 200, 0])] }
    (s.police 2 1 64 0).1 = 0 ∧ (s.police 2 1 65 0).1 = 1 ∧ (s.police 2 1 201 0).1 = 2 ∧
      (let x := ((s.police 2 1 64 0).2.spar 2).policers; x.map (fun p => (p.2.committed, p.2.peak)) = [(0, 136 * 12000)])) := by decide
theorem test_no_rule_is_punted : ok (.frameParse 2 none) (rx16 (zs 64) { tarn with tabs := tabsOf tarnTabs }) (fun t =>
    t.cnt (Reg.C_PRS_NO_MATCH 16) == 1 && t.rd (Reg.PRS_EVENT 2) == 4 && (t.spar 2).parsed.map (·.res.owner) == [1216]) = true := by decide
theorem test_black_keeps_a_frame_out : ok (.frameParse 2 none) (rx16 tarnFrame { tarn with regs := SMap.set Reg.resetVal tarn.regs Reg.FLT_STATUS 1 })
    (fun t => t.cnt (Reg.C_MAC_RX_FENCE_DROP 16) == 1 && (t.spar 2).parsed == []) = true := by decide
theorem test_store_error_drops : ok (.frameParse 2 (some (.store, .single))) (rx16 tarnFrame tarn) (fun t =>
    t.cnt (Reg.C_PRS_MEM_ERR_DROP 16) == 1 && t.bget (Reg.PRS_EVENT 2) 4 && (t.spar 2).parsed == []) = true := by decide
theorem test_stores_reloaded : ok (.parseReloadDone 2) { st [(Reg.PRS_STATUS 2, 1)] with spars := [(2, { reloading := true })] } (fun t =>
    t.rd (Reg.PRS_STATUS 2) == 0 && t.spars == []) = true := by decide
theorem test_prs_clear : ok (.prsCntClr 2) { base with cnts := [(Reg.C_PRS_PARSE_FAIL 16, 3), (Reg.C_PRS_PUNT_OK 23, 4), (Reg.C_PRS_PUNT_OK 24, 4)] }
    (fun t => t.cnts == [(Reg.C_PRS_PUNT_OK 24, 4)]) = true := by decide
theorem test_parse_scrub_double : ok (.parseScrubRead 2 (.rule 9) .double) base (fun t =>
    (t.spar 2).badEntries == [(tkey 0x0510 2 9, false)] && t.rd (Reg.FLT_COUNT 3) == 1) = true := by decide
/-- A parsed frame of 64 bytes of class `c` for port 17 at spar 2, beside `n` cells in the FIFO. -/
def parsed2 (c n : Nat) : State := { st [(Reg.MAC_CFG 16, 0x3FE00001)] with
  spars := [(2, { parsed := [{ bytes := zs 64, port := 16, stamp := 5, bad := false, res := { dest := 0x20011, cls := c, owner := 16 } }],
                  inFifo := List.replicate n {} })] }
theorem test_admission_at_448_cells : ok (.firstCellOffer 2) (parsed2 8 448) (fun t => (t.spar 2).inFifo.length == 449) = true := by decide
theorem test_no_room_at_449_cells : ok (.firstCellOffer 2) (parsed2 8 449) (fun t =>
    (t.spar 2).inFifo.length == 449 && t.cnt (Reg.C_CORE_IN_DROP 2) == 1) = true := by decide

/-! Cells, slices and the core. -/

/-- The first and only cell of a frame for port 17 class 2 that came in at spar 1, numbered `k`. -/
def cell17 (k : Nat) : Cell := { first := true, last := true, inSpar := 1, queue := portQ 17 2, cls := 2, owner := 8, seq := k, data := zs 64 }
/-- Ports 8 and 17, of 100GbE, up. -/
def up17 : List (Nat × Word) := [(Reg.MAC_SPAR_MODE 2, 5), (Reg.MAC_CFG 17, 0x24000001), (Reg.MAC_STATUS 17, 3)]

theorem test_tarn_street_slot : tabSlot 40 41 = 126 ∧ 40 ^^^ 126 = 86 ∧ stageTwoOut 86 0 = 41 ∧ lmul 0x7E = 0x7F := by decide
theorem test_cell_crosses_stage_one : ok .coreSlot { st up17 with spars := [(1, { inFifo := [cell17 0] })], time := { cclk := 5 } } (fun t =>
    (t.sliceOf 4).arriving.isSome && t.cnt (Reg.C_CORE_UNTAB_CELLS 1) == 1 && (t.spar 1).inFifo == [] && t.seqNext 1 (portQ 17 2) == 1 &&
    t.time.cclk == 6) = true := by decide
theorem test_cell_linked : ok .coreSlot { st up17 with slices := [(4, { arriving := some (cell17 0) })], time := { cclk := 6 } } (fun t =>
    (t.sliceOf 4).voq == [(portQ 17 2, [.cell 512])] && (t.sliceOf 4).occ == 1 && t.rd (Reg.BUF_OCC_PEAK 4) == 1) = true := by decide
theorem test_cell_in_order_is_released : ok .coreSlot { st up17 with spars := [(2, { arriving := [cell17 0] })] } (fun t =>
    (t.spar 2).checked == [cell17 0] && t.seqExp 1 (portQ 17 2) == 1) = true := by decide
theorem test_cell_255_past_is_held : ok .coreSlot { st up17 with spars := [(2, { arriving := [cell17 255] })] } (fun t =>
    (t.spar 2).reorder.length == 1 && t.cnt (Reg.C_CORE_SEQ_ERR 2) == 0) = true := by decide
theorem test_cell_256_past_is_an_error : ok .coreSlot { st up17 with spars := [(2, { arriving := [cell17 256] })] } (fun t =>
    t.cnt (Reg.C_CORE_SEQ_ERR 2) == 1 && t.bget (Reg.CORE_EVENT 2) 5 && (t.spar 2).reorder == []) = true := by decide
theorem test_exhausted_slice_links_a_hole : (let d := ({ st up17 with slices := [(4, { genFresh := 8192 })] } : State).allocCell 4 (cell17 0)
    d.cnt (Reg.C_BUF_ALLOC_FAIL 4) == 1 && d.bget (Reg.BUF_EVENT 4) 2 && (d.sliceOf 4).holes == 1) = true ∧
    (({ genFresh := 8191 } : Slice).popGen.isSome && ({ genFresh := 8192 } : Slice).popGen.isNone) = true := by decide
theorem test_window_stall : ok .coreSlot { st up17 with spars := [(1, { inFifo := [cell17 0], seqNext := [(portQ 17 2, 256)] })] } (fun t =>
    t.cnt (Reg.C_CORE_WINDOW_STALL 1) == 1 && (t.spar 1).inFifo.length == 1) = true := by decide
/-- A tabled cell from spar 40 to spar 41 with the round tag 5. -/
def tab40 : TabCell := { tag := 5, slot := 126, num := 0, inSpar := 40, outSpar := 41, port := 328, entry := 3, frame := 0, period := 0,
                         first := true, last := true, size := 64, data := [] }
/-- The words of that cell. -/
def tabWords : List (TabCell × FWord) := (fifoWords true (zs 64)).map (fun w => (tab40, w))
theorem test_tabled_cell_latched : ok .coreSlot { st [(Reg.CORE_TAB_MAP 40 3, 0x40000000)] with
    spars := [(40, { wall := tabWords })], time := { cclk := 125, pround := 5 } } (fun t => (t.spar 40).latched == some { tab40 with data := zs 64 } && (t.spar 40).wall == []) = true := by decide
theorem test_tabled_cell_without_slot : ok .coreSlot { base with spars := [(40, { wall := tabWords })], time := { cclk := 125, pround := 5 } }
    (fun t => t.cnt (Reg.C_CORE_TAB_BAD 40) == 1 && t.bget (Reg.CORE_EVENT 40) 2 && (t.spar 40).wall == []) = true := by decide
theorem test_reef_levels : base.reefLevel 0 5760 0 = 1 ∧ base.reefLevel 0 5759 0 = 0 ∧ base.reefLevel 0 5632 1 = 1 ∧ base.reefLevel 0 5631 1 = 0 ∧
    base.reefLevel 0 7440 1 = 3 := by decide
theorem test_ingress_pause_thresholds : ((({ base with spars := [(2, { inFifo := List.replicate 384 {} })] } : State).inSync 2).spar 2).inPause = true ∧
    ((({ base with spars := [(2, { inFifo := List.replicate 383 {} })] } : State).inSync 2).spar 2).inPause = false := by decide
theorem test_reorder_timeout_skips : ok (.reorderTimeout 2 1 (portQ 17 2)) { st up17 with spars := [(2, { reorder := [cell17 9, cell17 7] })] } (fun t =>
    t.seqExp 1 (portQ 17 2) == 7 && t.cnt (Reg.C_CORE_SEQ_SKIP 2) == 1 && t.bget (Reg.CORE_EVENT 2) 4) = true := by decide
theorem test_walker_frees : ok (.flushWalkerFree 4) { base with slices := [(4, { cells := [(600, cell17 0)], genFresh := 601, unlinked := [600] })] } (fun t =>
    (t.sliceOf 4).genFree == [600] && (t.sliceOf 4).unlinked == [] && t.cnt (Reg.C_BUF_FLUSH_FREED 4) == 1) = true := by decide
theorem test_free_of_a_free_cell : ok (.flushWalkerFree 4) { base with slices := [(4, { unlinked := [600] })] } (fun t =>
    t.rd (Reg.FLT_COUNT 4) == 1) = true := by decide
theorem test_core_clear : ok (.coreCntClr 3) { base with cnts := [(Reg.C_CORE_TAB_CELLS 3, 1), (Reg.C_CORE_SEQ_ERR 3, 2), (Reg.C_CORE_SEQ_ERR 4, 3)] }
    (fun t => t.cnts == [(Reg.C_CORE_SEQ_ERR 4, 3)]) = true := by decide
theorem test_audit_publishes : ok .auditPassEnd { base with
    slices := [(4, { cells := [(512, cell17 0)], genFresh := 513 })], audit := 1, regs := [(Reg.BUF_AUDIT_CTRL, 0x40000009)], time := { cclk := 150000000 } } (fun t =>
    t.tab 0x0602 0 8 == [0x80000001, 100000] && t.bget (Reg.BUF_EVENT 1) 3 && t.rd Reg.BUF_AUDIT_CTRL == 0x20000009 && t.rd Reg.BUF_AUDIT_PASS == 1) = true := by decide
theorem test_audit_below_the_limit : ok .auditPassEnd { base with
    slices := [(4, { cells := [(512, cell17 0)], genFresh := 513 })], time := { cclk := 149999999 } } (fun t => t.tab 0x0602 0 8 == [1, 99999] && t.rd (Reg.BUF_EVENT 1) == 0) = true := by decide
theorem test_audit_asked : ok (.auditQuery 77) (st [(Reg.BUF_AUDIT_CTRL, 0x20000000)]) (fun t => t.rd Reg.BUF_AUDIT_CTRL == 0x4000004D && t.audit == 2) = true := by decide
/-- Pool mode with one buffer in each of pools 1 to 3; the pools take 4, 12 and 16 KiB, so that their stacks stand at 0x8000, 0x9000 and
0xA000. -/
def pools : State := st [(Reg.BUF_MODE, 1), (Reg.BUF_POOL_CNT 1, 1), (Reg.BUF_POOL_CNT 2, 1), (Reg.BUF_POOL_CNT 3, 1)]
theorem test_pool_sizes : poolFor 512 = 0 ∧ poolFor 513 = 1 ∧ poolFor 16352 = 3 := by decide
theorem test_pool_get_takes_a_larger_one : ok (.poolGet 1) { pools with
    fmem := { bytes := [(0x9003, 0x80)] }, host := { inUse := [0x40000000], poolDepth := [(2, 1)] } } (fun t =>
    t.outs == [.readData (Reg.BUF_POOL_GET 1) 0x80000000] && t.host.inUse == [0x40000000, 0x80000000] && t.host.poolDepth == []) = true := by decide
theorem test_pool_empty : ok (.poolGet 3) pools (fun t =>
    t.outs == [.readData (Reg.BUF_POOL_GET 3) 0xFFFFFFFF] && t.bget (Reg.BUF_EVENT 0) 5) = true := by decide
theorem test_pool_free : ok (.poolFree 0x40000000) { pools with host := { inUse := [0x40000000] } } (fun t =>
    t.host.inUse == [] && t.host.poolDepth == [(1, 1)] && t.fmem.bytes == [(0x8003, 0x40)]) = true := by decide
theorem test_pool_bad_free : ok (.poolFree 0x40000000) pools (fun t =>
    t.cnt Reg.C_BUF_POOL_BAD_FREE == 1 && t.bget (Reg.BUF_EVENT 0) 6) = true := by decide
theorem test_peak_read_clears : ok (.occPeakRead 4) (st [(Reg.BUF_OCC_PEAK 4, 6743)]) (fun t =>
    t.outs == [.readData (Reg.BUF_OCC_PEAK 4) 6743] && t.rd (Reg.BUF_OCC_PEAK 4) == 0) = true := by decide
theorem test_buf_clear : ok (.bufCntClr 4) { base with cnts := [(Reg.C_BUF_REEF_DROP_RED 4, 1), (Reg.C_BUF_MC_FREED 4, 1)] } (fun t => t.cnts == []) = true := by decide
theorem test_credit_comes_back : ok (.creditReturn 4 .wall) { base with spars := [(4, { wallCr := 2047 })] } (fun t =>
    (t.spar 4).wallCr == 2048 && t.rd (Reg.BUF_EVENT 4) == 0) = true := by decide
theorem test_credit_too_many : ok (.creditReturn 4 .inlet) { base with spars := [(4, { inletCr := 1024 })] } (fun t =>
    (t.spar 4).inletCr == 1024 && t.bget (Reg.BUF_EVENT 4) 7) = true := by decide
theorem test_scrub_corrects : ok (.sliceScrubRead 4 (.data 9) .single) base (fun t => t.cnt (Reg.C_BUF_ECC_CORR 4) == 1 && t.slices == []) = true := by decide
theorem test_scrub_marks_discard : ok (.sliceScrubRead 4 (.data 600) .double) { base with slices := [(4, { cells := [(600, cell17 0)], genFresh := 601 })] }
    (fun t => t.cnt (Reg.C_BUF_ECC_UNCORR_DROP 4) == 1 && t.rd (Reg.FLT_COUNT 5) == 1) = true := by decide

/-! Egress queues, shaping and telemetry. -/

/-- A frame of one cell from port 9 held in the staging FIFO of queue `q` of spar 2. -/
def staged (q : Nat) : List (Nat × Spar) := [(2, { staging := [(q, [{ cell17 0 with res := { inPort := 9, cls := 2 } }])] })]

theorem test_frame_sent : ok (.portSelect 17) { st up17 with spars := staged (portQ 17 2), time := { ticks := 640 * 196608000000 } } (fun t =>
    t.outs == [.frame 17 (zs 60 ++ fcsBytes (zs 60))] && t.cnt (Reg.C_MAC_TX_FRAMES 17) == 1 && t.cnt (Reg.C_MAC_TX_BYTES 17) == 64 &&
    ((t.spar 2).staging == [])) = true := by decide
theorem test_sojourn_at_a_bin_edge : histBin 64 63 = 0 ∧ histBin 64 64 = 1 ∧ histBin 64 1048575 = 14 ∧ histBin 64 1048576 = 15 := by decide
theorem test_deficit_pays : ok (.portSelect 17) { st up17 with spars := staged (portQ 17 2), slices := [(4, { voq := [(portQ 17 2, [.cell 600])] })] } (fun t =>
    (t.port 17).deficit.getD 2 0 == 44) = true := by decide
theorem test_strict_class_pays_no_deficit : ok (.portSelect 17)
    { st ((Reg.EQ_PORT_CFG 2 1, 0x401) :: up17) with spars := staged (portQ 17 2), ports := [(17, { bucket := 0 })] } (fun t =>
    (t.port 17).deficit.getD 2 0 == 0 && (t.port 17).bucket == -1008000) = true := by decide
theorem test_port_shaper_holds : ok (.portSelect 17)
    { st ((Reg.EQ_PORT_CFG 2 1, 1) :: up17) with spars := staged (portQ 17 2), ports := [(17, { bucket := -1 })] } (fun t => t.outs == []) = true := by decide
theorem test_port_shaper_passes_management : ok (.portSelect 17)
    { st ((Reg.EQ_PORT_CFG 2 1, 1) :: up17) with spars := staged (portQ 17 8), ports := [(17, { bucket := -1 })] } (fun t =>
    t.outs.length == 1 && t.cnt (Reg.C_EQ_MGMT_TX 2) == 1 && (t.port 17).bucket == -1008001) = true := by decide
theorem test_paused_class_waits : ok (.portSelect 17)
    { st ((Reg.MAC_SPAR_MODE 2, 5) :: [(Reg.MAC_CFG 17, 0x24000001), (Reg.MAC_STATUS 17, 0x403)]) with spars := staged (portQ 17 2) } (fun t => t.outs == []) = true := by decide
theorem test_credit_below_zero_holds : ok (.portSelect 17) { st up17 with spars := staged (portQ 17 2)
                                                                          tabs := [(tkey 0x0801 2 11, [100000, 16384, 0xFFFF8000, 1])]
                                                                          ports := [(17, { credit := [0, 0, -1, 0, 0, 0, 0, 0] })] } (fun t => t.outs == []) = true := by decide
theorem test_credit_stays_at_its_cap : ((({ st up17 with tabs := [(tkey 0x0801 2 11, [100000, 16384, 0xFFFF8000, 1])], slices := [(4, { voq := [(portQ 17 2, [.cell 600])] })],
                                                         ports := [(17, { credit := [0, 0, 16384 * 1500 - 1, 0, 0, 0, 0, 0] })] } : State).shaperTick 17).port 17).credit.getD 2 0
    = 16384 * 1500 := by decide
theorem test_paused_credit_is_held : ((({ st ((Reg.MAC_STATUS 17, 0x403) :: up17.take 2) with
    tabs := [(tkey 0x0801 2 11, [100000, 16384, 0xFFFF8000, 1])], slices := [(4, { voq := [(portQ 17 2, [.cell 600])] })],
    ports := [(17, { credit := [0, 0, -7, 0, 0, 0, 0, 0] })] } : State).shaperTick 17).port 17).credit.getD 2 0 = -7 := by decide
/-- An Ethernet frame of one tag with an IPv4 header of TTL `t`, without its FCS. -/
def tagged (t : Byte) : Bytes := zs 12 ++ [0x81, 0, 0x60, 5, 8, 0] ++ [0x45, 0, 0, 20, 0, 0, 0, 0, t, 17, 0xAA - t, 0xD7] ++ zs 8
theorem test_pop_and_ttl : (editFrame [0x9, 0, 0, 0, 0, 0] (tagged 9) [255, 18, 255, 255, 255, 255, 255, 255, 255]).body =
    zs 12 ++ [8, 0] ++ [0x45, 0, 0, 20, 0, 0, 0, 0, 8, 17, 0xA2, 0xD7] ++ zs 8 := by decide
theorem test_ttl_of_one : (editFrame [1] (tagged 1) [255, 18, 255, 255, 255, 255, 255, 255, 255]).ttlBad = true ∧
    (editFrame [1] (tagged 2) [255, 18, 255, 255, 255, 255, 255, 255, 255]).ttlBad = false := by decide
theorem test_push_and_addresses : ((editFrame [0x000500E4, 0x88A80064, 0x01020304, 0x07080506, 0x090A0B0C, 0] (zs 20) []).body.take 18) =
    [1, 2, 3, 4, 5, 6, 7, 8, 9, 10, 11, 12, 0x88, 0xA8, 0xA0, 0x64, 0, 0] := by decide
theorem test_samples : ok (.telemetrySample 2) { st up17 with
    spars := staged (portQ 17 2), slices := [(4, { voq := [(portQ 17 2, [.cell 600])] })], time := { ticks := 400 * 196608000000 } } (fun t =>
    t.tab 0x0810 2 11 == [2, 2, 100, 100, 0, 0]) = true := by decide
theorem test_samples_off : ok (.telemetrySample 2) { st [(Reg.TEL_SAMPLE 2, 0)] with spars := staged (portQ 17 2) } (fun t => t.tabs == []) = true := by decide
theorem test_inlet_takes_a_cell : ok (.engineInletServe 2) { base with spars := [(2, { staging := [(engineQ 2, [cell17 0])], inletCr := 8 })] } (fun t =>
    (t.spar 2).inlet.length == 8 && (t.spar 2).inletCr == 0 && ((t.spar 2).inlet.map (·.l)) == List.replicate 7 false ++ [true]) = true := by decide
theorem test_inlet_waits_for_credit : ok (.engineInletServe 2) { base with spars := [(2, { staging := [(engineQ 2, [cell17 0])], inletCr := 7 })] } (fun t =>
    (t.spar 2).inlet.length == 7 && (t.spar 2).inletHold.length == 1 && (t.spar 2).inletCr == 0) = true := by decide
theorem test_eq_clear : ok (.eqCntClr 3) { base with cnts := [(Reg.C_EQ_QDROP_GREEN 3, 1), (Reg.C_EQ_TAB_TX 3, 2), (Reg.C_TEL_PC_SENT 3, 3)] }
    (fun t => t.cnts == [(Reg.C_TEL_PC_SENT 3, 3)]) = true := by decide
theorem test_tel_clear : ok (.telCntClr 3) { base with cnts := [(Reg.C_EQ_TAB_TX 3, 2), (Reg.C_TEL_PC_SENT 3, 3), (Reg.C_TEL_STAMP_SKIP 3, 4)] }
    (fun t => t.cnts == [(Reg.C_EQ_TAB_TX 3, 2)]) = true := by decide
theorem test_hist_clear : ok (.histClr 3) { base with tabs := [(tkey 0x0811 2 1151, [1, 0]), (tkey 0x0811 3 0, [1, 0]), (tkey 0x0811 3 1151, [2, 0])] }
    (fun t => t.tabs == [(tkey 0x0811 2 1151, [1, 0])]) = true := by decide
theorem test_postcard_refused_by_an_empty_rate : ok (.portSelect 17) { st ([(Reg.TEL_PC_CFG 2, 1), (Reg.TEL_PC_THR 2, 0), (Reg.TEL_PC_RATE 2, 0x40000000)] ++ up17) with
    spars := staged (portQ 17 2) } (fun t => t.outs.length == 1 && t.cnt (Reg.C_TEL_PC_DROP 2) == 1 && t.bget (Reg.TEL_EVENT 2) 0 && t.rd (Reg.TEL_PC_SEQ 2) == 0) = true := by decide

/-! Coding engines. -/

/-- Engine 20 in state `x`. -/
def eng (x : Engine) : State := { base with engines := [(20, x)] }
/-- A routine of context 1, a job of queue 3, with micro-registers. -/
def job1 (r : SMap Word) : Engine := { cur := some 1, ctxs := [(1, { state := 2, count := 3, sq := 3 })], uregs := r, mpc := 0x200 }
/-- The form `f r3 = r1, r2` with F = 1. -/
def rrr (p : Bool) : Alu := .reg 3 1 2 p true
/-- The operation leaves `r` in r3 and the flags `f`: Z, N, C, V and DZ from bit 4 down. -/
def leaves (c : Instr) (a b r : Word) (f : Nat) : Bool :=
  ok c (eng (job1 [(1, a), (2, b)])) (fun t => let x := t.engine 20
    x.reg 3 == r && b2n x.z * 16 + b2n x.nf * 8 + b2n x.c * 4 + b2n x.v * 2 + b2n x.dz == f)

theorem test_nop : ok (.uNop 20) (eng (job1 [])) (fun t => (t.engine 20).mpc == 0x201 && t.cnt (Reg.C_CE_BUSY_ECLK 20) == 1) = true := by decide
theorem test_nop_without_a_routine : ok (.uNop 20) base (fun t => decide (t = base)) = true := by decide
theorem test_add : leaves (.uAdd 20 (rrr false)) 0xFFFFFFFF 1 0 20 = true ∧
    leaves (.uAdd 20 (rrr false)) 0x7FFFFFFF 1 0x80000000 10 = true := by decide
theorem test_add_lanes : leaves (.uAdd 20 (rrr true)) 0x7FFFFFFF 0x00010001 0x80000000 14 = true := by decide
theorem test_sub : leaves (.uSub 20 (rrr false)) 1 2 0xFFFFFFFF 12 = true ∧
    leaves (.uSub 20 (rrr false)) 0x80000000 1 0x7FFFFFFF 2 = true := by decide
theorem test_logic : leaves (.uAnd 20 (rrr false)) 0xF0F0 0xFF00 0xF000 0 = true ∧
    leaves (.uOr 20 (rrr false)) 0xF0F0 0xFF00 0xFFF0 0 = true ∧
    leaves (.uXor 20 (rrr false)) 0xFF00 0xFF00 0 16 = true := by decide
theorem test_shl : leaves (.uShl 20 (rrr false)) 1 31 0x80000000 8 = true ∧
    leaves (.uShl 20 (rrr false)) 1 32 0 18 = true ∧
    leaves (.uShl 20 (rrr false)) 5 64 5 0 = true := by decide
theorem test_shr : leaves (.uShr 20 (rrr false)) 0x80000000 31 1 0 = true ∧
    leaves (.uShr 20 (rrr false)) 0x80000000 32 0 16 = true := by decide
theorem test_sar : leaves (.uSar 20 (rrr false)) 0x80000000 31 0xFFFFFFFF 8 = true ∧
    leaves (.uSar 20 (rrr false)) 0x80000000 32 0xFFFFFFFF 8 = true ∧
    leaves (.uSar 20 (rrr true)) 0x80004000 0x00100001 0xFFFF2000 8 = true := by decide
theorem test_neg : leaves (.uNeg 20 (rrr false)) 0x80000000 7 0x80000000 10 = true ∧
    leaves (.uNeg 20 (rrr true)) 0x80000001 7 0x8000FFFF 10 = true := by decide
theorem test_mul : leaves (.uMul 20 (rrr false)) 0xFFFFFFFF 3 0xFFFFFFFD 8 = true ∧
    leaves (.uMul 20 (rrr false)) 0x10000 0x10000 0 18 = true := by decide
theorem test_mulh : leaves (.uMulh 20 (rrr false)) 0xFFFFFFFF 3 0xFFFFFFFF 8 = true ∧
    leaves (.uMulh 20 (rrr false)) 0x10000 0x10000 1 0 = true := by decide
theorem test_div : leaves (.uDiv 20 (rrr false)) 0xFFFFFFF9 2 0xFFFFFFFD 8 = true ∧
    leaves (.uDiv 20 (rrr false)) 0x80000000 0xFFFFFFFF 0x80000000 10 = true ∧
    leaves (.uDiv 20 (rrr false)) 0xFFFFFFFF 0 0x80000000 9 = true ∧
    leaves (.uDiv 20 (rrr false)) 0 0 0x7FFFFFFF 1 = true := by decide
theorem test_rem : leaves (.uRem 20 (rrr false)) 0xFFFFFFF9 2 0xFFFFFFFF 8 = true ∧
    leaves (.uRem 20 (rrr false)) 0x80000000 0xFFFFFFFF 0 16 = true ∧
    leaves (.uRem 20 (rrr false)) 9 0 9 1 = true := by decide
theorem test_div_lanes_are_illegal : ok (.uDiv 20 (rrr true)) (eng (job1 [])) (fun t => t.rd (Reg.CE_EXC 20) == 0x90010200 && (t.engine 20).cur == none) = true := by decide
theorem test_min_max : leaves (.uMin 20 (rrr false)) 0xFFFFFFFF 1 0xFFFFFFFF 8 = true ∧
    leaves (.uMax 20 (rrr false)) 0xFFFFFFFF 1 1 0 = true := by decide
theorem test_abs : leaves (.uAbs 20 (rrr false)) 0xFFFFFFF0 0 16 0 = true ∧
    leaves (.uAbs 20 (rrr false)) 0x80000000 0 0x80000000 10 = true := by decide
theorem test_alui_extends_its_sign : ok (.uAdd 20 (.imm 3 1 false 0x3FF)) (eng (job1 [(1, 5)])) (fun t => (t.engine 20).reg 3 == 4 && !(t.engine 20).z) = true := by decide
theorem test_r0_discards : ok (.uAdd 20 (.imm 0 1 false 1)) (eng (job1 [(1, 5)])) (fun t => (t.engine 20).reg 0 == 0 && (t.engine 20).uregs == [(1, 5)]) = true := by decide
theorem test_ldi : ok (.uLdi 20 3 true 0x1234) (eng (job1 [(3, 0xABCD5678)])) (fun t => (t.engine 20).reg 3 == 0x12345678) = true ∧
    ok (.uLdi 20 3 false 0x1234) (eng (job1 [(3, 0xABCD5678)])) (fun t => (t.engine 20).reg 3 == 0x1234) = true := by decide
theorem test_ld_scratch_wraps : ok (.uLd 20 3 1 0 0x1FFF) (eng { job1 [] with scratch := [(4095, 77)] }) (fun t => (t.engine 20).reg 3 == 77) = true := by decide
theorem test_ld_operands : ok (.uLd 20 3 1 2 8) (eng (job1 [])) (fun t => (t.engine 20).reg 3 == 20) = true ∧
    ok (.uLd 20 3 1 2 11) (eng (job1 [])) (fun t => (t.engine 20).reg 3 == 1) = true := by decide
/-- A job with segment 1 and the window 16 to 17. -/
def winJob (r : SMap Word) : Engine := { job1 r with ctxs := [(1, { state := 2, count := 3, sq := 3, seg := 1 })], cmd := [0, 0, 0, 0, 0, 0, 16, 17] }
theorem test_ld_memory : ok (.uLd 20 3 1 1 2) { eng (winJob [(1, 1)]) with fmem := { bytes := [(4108, 9)] } } (fun t => (t.engine 20).reg 3 == 9) = true := by decide
theorem test_st_in_the_window : ok (.uSt 20 2 1 1 1) (eng (winJob [(1, 16), (2, 0xA1B2C3D4)])) (fun t =>
    t.fmem.bytes == [(4164, 0xD4), (4165, 0xC3), (4166, 0xB2), (4167, 0xA1)]) = true := by decide
theorem test_st_past_the_window : ok (.uSt 20 2 1 1 2) (eng (winJob [(1, 16), (2, 1)])) (fun t =>
    t.fmem.bytes == [] && t.fget (Reg.CE_EXC 20) 19 16 == 5 && (t.engine 20).cur == none) = true := by decide
theorem test_st_operands_is_illegal : ok (.uSt 20 2 1 2 2) (eng (winJob [])) (fun t => t.fget (Reg.CE_EXC 20) 19 16 == 1) = true := by decide
theorem test_br : ok (.uBr 20 12 0x300) (eng { job1 [] with il := true }) (fun t => (t.engine 20).mpc == 0x300 && t.cnt (Reg.C_CE_BUSY_ECLK 20) == 2) = true ∧
    ok (.uBr 20 13 0x300) (eng { job1 [] with il := true }) (fun t => (t.engine 20).mpc == 0x201 && t.cnt (Reg.C_CE_BUSY_ECLK 20) == 1) = true := by decide
theorem test_call : ok (.uCall 20 0x300) (eng { job1 [] with stack := List.replicate 7 1 }) (fun t => (t.engine 20).stack == 0x201 :: List.replicate 7 1) = true ∧
    ok (.uCall 20 0x300) (eng { job1 [] with stack := List.replicate 8 1 }) (fun t => t.fget (Reg.CE_EXC 20) 19 16 == 3 && t.fget (Reg.CE_EXC 20) 12 0 == 0x200) = true := by decide
theorem test_ret : ok (.uRet 20) (eng { job1 [] with stack := [0x1FFF, 5] }) (fun t => (t.engine 20).mpc == 0x1FFF && (t.engine 20).stack == [5]) = true ∧
    ok (.uRet 20) (eng (job1 [])) (fun t => t.fget (Reg.CE_EXC 20) 19 16 == 4) = true := by decide
theorem test_unit : ok (.uUnit 20 3 7) (eng (job1 [])) (fun t => (t.engine 20).unitBusy == [(3, 7)] && (t.engine 20).mpc == 0x201) = true ∧
    ok (.uUnit 20 3 7) (eng { job1 [] with unitBusy := [(3, 1)] }) (fun t => (t.engine 20).stall == .unit 3 7) = true := by decide
theorem test_reserved_unit : ok (.uUnit 20 10 7) (eng (job1 [])) (fun t => t.fget (Reg.CE_EXC 20) 19 16 == 1) = true := by decide
theorem test_unit_done : ok (.unitDone 20 3 [(2, 9)] [(16, 1), (18, 2)] []) (eng { winJob [] with unitBusy := [(3, 1)] }) (fun t =>
    t.fmem.bytes == [(4160, 1)] && t.fget (Reg.CE_EXC 20) 19 16 == 5) = true ∧
    ok (.unitDone 20 3 [(2, 9)] [] []) (eng { winJob [] with unitBusy := [(3, 1)] }) (fun t =>
    (t.engine 20).unitBusy == [] && (t.engine 20).unitRegs == [(50, 9)]) = true := by decide
theorem test_wait : ok (.uWait 20 0x8000) (eng (job1 [])) (fun t => (t.engine 20).stall == .wait 0x8000) = true ∧
    ok (.uWait 20 0x4008) (eng (job1 [])) (fun t => (t.engine 20).mpc == 0x201) = true := by decide
theorem test_stall_ends : ok (.stallEnd 20) (eng { job1 [] with stall := .unit 3 7 }) (fun t => (t.engine 20).unitBusy == [(3, 7)] && (t.engine 20).stall == .none) = true ∧
    ok (.stallEnd 20) (eng { job1 [] with stall := .unit 3 7, unitBusy := [(3, 1)] }) (fun t => (t.engine 20).stall == .unit 3 7) = true := by decide
/-- A routine of context 0. -/
def inlet0 : Engine := { cur := some 0, ctxs := [(0, { state := 2 })], mpc := 0x202 }
theorem test_in : ok (.uIn 20 4) { eng inlet0 with spars := [(20, { inlet := [⟨0x1122334455667788, true, true⟩] })] } (fun t =>
    (t.engine 20).reg 4 == 0x55667788 && (t.engine 20).reg 5 == 0x11223344 && (t.engine 20).iv && (t.engine 20).il &&
    (t.engine 20).hold.length == 1 && (t.spar 20).inlet == []) = true := by decide
theorem test_in_replays_the_hold : ok (.uIn 20 4) { eng { inlet0 with hold := [⟨5, true, false⟩] } with spars := [(20, { inlet := [⟨6, true, true⟩] })] } (fun t =>
    (t.engine 20).reg 4 == 5 && (t.engine 20).replay == 1 && (t.spar 20).inlet.length == 1) = true := by decide
theorem test_in_odd : ok (.uIn 20 5) (eng inlet0) (fun t => t.fget (Reg.CE_EXC 20) 19 16 == 1) = true ∧
    ok (.uIn 20 4) (eng inlet0) (fun t => !(t.engine 20).iv && (t.engine 20).hold == []) = true := by decide
theorem test_out : ok (.uOut 20 4 true) (eng (job1 [(4, 1), (5, 2)])) (fun t => (t.engine 20).openStage == [⟨0x0000000200000001, true, true⟩]) = true ∧
    ok (.uOut 20 4 true) (eng { job1 [] with sealedStages := [(1, []), (1, [])] }) (fun t => (t.engine 20).stall == .outlet 0 true) = true := by decide
theorem test_commit : ok (.uCommit 20) (eng { job1 [(48, 9), (63, 8)] with openStage := [⟨1, true, true⟩] }) (fun t =>
    (t.ctx 20 1).a.getD 0 0 == 9 && (t.ctx 20 1).a.getD 15 0 == 8 && (t.ctx 20 1).cmdIdx == 1 && (t.engine 20).sealedStages == [(1, [⟨1, true, true⟩])] &&
    t.cnt (Reg.C_CE_COMMITS 20) == 1 && (t.engine 20).committed) = true := by decide
theorem test_tail_of_16 : ok (.uNop 20) (eng { job1 [] with committed := true, tail := 15 }) (fun t => (t.engine 20).tail == 16 && t.rd (Reg.CE_EXC 20) == 0) = true ∧
    ok (.uNop 20) (eng { job1 [] with committed := true, tail := 16 }) (fun t => t.fget (Reg.CE_EXC 20) 19 16 == 8) = true := by decide
theorem test_tail_register : ok (.uAdd 20 (.reg 48 1 2 false false)) (eng { job1 [] with committed := true }) (fun t => t.fget (Reg.CE_EXC 20) 19 16 == 8) = true ∧
    ok (.uNeg 20 (.reg 47 1 0 false false)) (eng { job1 [(1, 1)] with committed := true }) (fun t => (t.engine 20).reg 47 == 0xFFFFFFFF) = true := by decide
theorem test_end_commits : ok (.uEnd 20) (eng (job1 [(48, 9)])) (fun t =>
    (t.ctx 20 1).a.getD 0 0 == 9 && (t.ctx 20 1).cmdIdx == 1 && (t.engine 20).cur == none && (t.ctx 20 1).state == 1) = true := by decide
theorem test_raise : ok (.raiseException 20 5) (eng (job1 [])) (fun t => t.rd (Reg.CE_EXC 20) == 0x905A0200 && t.bget (Reg.CE_EVENT 20) 1 &&
    t.pendOf (128 + 8 * 20 + 6) && t.cnt (Reg.C_CE_EXC_CNT 20) == 1) = true := by decide
theorem test_notice_is_held : ok (.raiseNotice 20 5) (eng (job1 [])) (fun t => (t.engine 20).notices == [5] && t.rd (Reg.CE_NOTE 20) == 0) = true ∧
    ok (.uCommit 20) (eng { job1 [] with notices := [5] }) (fun t => t.rd (Reg.CE_NOTE 20) == 0x85 && t.bget (Reg.CE_EVENT 20) 0) = true := by decide
theorem test_reserved_opcode : ok (.reservedOpcode 20) (eng (job1 [])) (fun t => t.rd (Reg.CE_EXC 20) == 0x90010200) = true := by decide
theorem test_runaway : ok (.routineWatchdogExpire 20) (eng inlet0) (fun t => t.fget (Reg.CE_EXC 20) 19 16 == 9 && t.cnt (Reg.C_CE_INLET_SKIPS 20) == 1) = true := by decide
theorem test_second_exception_sets_ovf : ok (.reservedOpcode 20) { eng (job1 []) with regs := [(Reg.CE_EXC 20, 0x90020200)] } (fun t => t.rd (Reg.CE_EXC 20) == 0xD0020200) = true := by decide
theorem test_inlet_halts : ok (.reservedOpcode 20) { eng { inlet0 with hold := [⟨5, true, false⟩] } with regs := [(Reg.CE_CFG 20, 0x0FA00339)] } (fun t =>
    (t.ctx 20 0).state == 5 && (t.engine 20).hold.length == 1) = true := by decide
theorem test_machine_check : ok (.machineCheck 20 false) (eng { job1 [] with openStage := [⟨5, true, false⟩] }) (fun t =>
    (t.ctx 20 1).state == 4 && (t.ctx 20 1).fails == 1 && (t.engine 20).reloading && (t.engine 20).openStage == [] && t.bget (Reg.CE_EVENT 20) 2 &&
    t.cnt (Reg.C_CE_AB_FAULT 20) == 1 && t.cnt (Reg.C_CE_MCHK_CNT 20) == 1) = true := by decide
theorem test_retry_max : ok (.machineCheck 20 false) (eng { job1 [] with ctxs := [(1, { state := 2, count := 3, sq := 3, fails := 2 })] }) (fun t =>
    (t.ctx 20 1).state == 0 && t.bget (Reg.CE_EVENT 20) 4) = true := by decide
theorem test_reload_done : ok (.engineReloadDone 20 true) (eng { reloading := true }) (fun t => !(t.engine 20).reloading && t.bget (Reg.CE_EVENT 20) 3) = true ∧
    ok (.engineReloadDone 20 false) (eng { reloading := true }) (fun t => (t.engine 20).failed && !(t.engine 20).reloading) = true := by decide
theorem test_force_reload : ok (.engineForceReload 20) (eng (job1 [])) (fun t => (t.ctx 20 1).state == 4 && (t.ctx 20 1).fails == 0 && (t.engine 20).reloading &&
    t.cnt (Reg.C_CE_AB_FAULT 20) == 0) = true := by decide
theorem test_inlet_resume : ok (.inletResume 20) (eng { ctxs := [(0, { state := 5 })], hold := [⟨5, true, false⟩] }) (fun t => (t.ctx 20 0).state == 4 && (t.engine 20).hold.length == 1) = true := by decide
theorem test_inlet_skip : ok (.inletSkip 20) { eng { ctxs := [(0, { state := 5, cmdIdx := 1 })], hold := [⟨5, true, false⟩] } with regs := [(Reg.CE_INLET_LEN 20, 2)] } (fun t =>
    (t.ctx 20 0).cmdIdx == 0 && (t.ctx 20 0).state == 1 && (t.engine 20).hold == [] && t.cnt (Reg.C_CE_INLET_SKIPS 20) == 1) = true := by decide
theorem test_fence : ok (.engineFence 20 true) base (fun t => t.rd (Reg.CE_CMD 20) == 2) = true := by decide
theorem test_ce_clear : ok (.ceCntClr 20) { base with cnts := [(Reg.C_CE_COMMANDS 20, 1), (Reg.C_CE_INLET_SKIPS 20, 1), (Reg.C_CE_ENC_PICTURES 20, 1), (Reg.C_CE_COMMANDS 21, 3)] }
    (fun t => t.cnts == [(Reg.C_CE_COMMANDS 21, 3)]) = true := by decide
/-- A packet of 64 bytes for class 2 of port 17: its descriptor and its words. -/
def packet (len : Nat) : List FWord := ⟨BitVec.ofNat 64 (len * 2 ^ 36 + 2 * 2 ^ 20 + 2 ^ 17 + 17), true, false⟩ :: List.replicate 7 ⟨0, true, false⟩ ++ [⟨0, true, true⟩]
theorem test_release : ok (.outletRelease 20) { eng { sealedStages := [(0, packet 64)] } with spars := [(20, { outletCr := 5 })], regs := (st up17).regs } (fun t =>
    (t.spar 20).outlet.length == 5 && (t.spar 20).outletCr == 0 && (t.engine 20).releasing.length == 4 && (t.engine 20).sealedStages == []) = true := by decide
theorem test_release_discards : ok (.outletRelease 20) { eng { sealedStages := [(0, packet 63)] } with regs := (st up17).regs } (fun t =>
    (t.spar 20).outlet == [] && t.cnt (Reg.C_CE_OUT_BAD 20) == 1) = true := by decide
/-- The frame memory of a list at 0x40: its first command is opcode 0x30. -/
def cmds : FrameMem := { bytes := [(0x47, 0x30)] }
/-- Context 0 of engine 20 with a list of two commands and a routine for opcode 0x30 at 0x200. -/
def inletReady : State := { st [(Reg.CE_INLET_LIST 20, 2), (Reg.CE_INLET_LEN 20, 2)] with fmem := cmds, tabs := [(tkey 0x0901 20 0x30, [0x80000200])] }
theorem test_routine_start : ok (.routineStart 20) { inletReady with engines := [(20, { ctxs := [(0, { a := 7 :: List.replicate 15 0 })], uregs := [(3, 1)], z := true })] } (fun t =>
    (t.engine 20).cur == some 0 && (t.engine 20).mpc == 0x200 && (t.engine 20).uregs == [(48, 7)] && !(t.engine 20).z && t.cnt (Reg.C_CE_COMMANDS 20) == 1 &&
    (t.ctx 20 0).state == 2) = true := by decide
theorem test_bad_command : ok (.routineStart 20) { inletReady with tabs := [], regs := SMap.set Reg.resetVal inletReady.regs (Reg.CE_CFG 20) 0x0FA00339 } (fun t =>
    t.fget (Reg.CE_EXC 20) 19 16 == 2 && (t.ctx 20 0).state == 5) = true := by decide
theorem test_fenced_engine_starts_nothing : ok (.routineStart 20) { inletReady with regs := SMap.set Reg.resetVal inletReady.regs (Reg.CE_CMD 20) 2 } (fun t =>
    (t.engine 20).cur == none) = true := by decide
theorem test_higher_context_first : ({ inletReady with engines := [(20, { ctxs := [(2, { state := 1, prio := 3 })], lastCtx := 0 })] } : State).pickCtx 20 = some 2 ∧
    ({ inletReady with engines := [(20, { ctxs := [(2, { state := 1, prio := 2 })], lastCtx := 0 })] } : State).pickCtx 20 = some 0 := by decide

/-! The standard commands and the encoder. -/

/-- Words stored in frame memory, by byte address. -/
def memOf (m : List (Nat × List Word)) : FrameMem := { bytes := m.foldl (fun b p => cellsPut b p.1 (bytesOf p.2)) [] }
/-- Context 1 of engine 20 in the routine of a command with the window `lo` to `hi`, its segment at address 0. -/
def std (k : Nat) (c : Ctx) (op lo hi : Nat) (r : SMap Word) : Engine :=
  { cur := some k, ctxs := [(k, { c with state := 2, count := 3, sq := 3 })], uregs := r, cmd := [0, wd (op * 2 ^ 24), 0, 0, 0, 0, wd lo, wd hi], mpc := 0x200 }
/-- The detail code of the exception latched at engine 20. -/
def detail (t : State) : Nat := t.fget (Reg.CE_EXC 20) 27 20

theorem test_setctx_refuses_a_version : ok (.setctx 20 0) (eng (std 1 {} 1 99 99 [])) (fun t => detail t == 0x10 && t.fget (Reg.CE_EXC 20) 19 16 == 10 && (t.engine 20).cur == none) = true := by decide
theorem test_setctx_refuses_profiles : ok (.setctx 20 0) { eng (std 1 {} 1 99 99 []) with fmem := memOf [(0, [0x81])] } (fun t => detail t == 0x40) = true := by decide
theorem test_ingest : ok (.ingest 20) { eng (std 0 {} 2 16 19 [(48, 19)]) with spars := [(20, { inlet := [⟨0x0000000B0000000A, true, true⟩] })] } (fun t =>
    t.fmem.bytes == [(64, 11), (76, 10)] && ((t.ctx 20 0).a.getD 0 0 == 17) && (t.engine 20).hold == [] && (t.engine 20).cur == none) = true := by decide
theorem test_ingest_waits : ok (.ingest 20) { eng (std 0 {} 2 16 19 [(48, 19)]) with spars := [(20, { inlet := [⟨7, true, false⟩] })] } (fun t =>
    (t.engine 20).stall == .wait 0x8000 && (t.spar 20).inlet.length == 1) = true := by decide
theorem test_fetch : ok (.fetch 20 100 5) { eng (std 1 {} 3 16 19 [(48, 17)]) with fmem := memOf [(400, [7, 0x0908])] } (fun t =>
    t.fmWords 68 2 == [7, 0x0908] && (t.ctx 20 1).a.getD 0 0 == 19 && (t.ctx 20 1).cmdIdx == 1) = true := by decide
theorem test_fetch_past_the_window : ok (.fetch 20 100 5) (eng (std 1 {} 3 16 19 [(48, 20)])) (fun t => t.fget (Reg.CE_EXC 20) 19 16 == 5) = true := by decide
/-- The header of a picture of 2 by 2 samples in 4:4:4, its CTU mark and its planes, then the header of another. -/
def pictures : FrameMem := memOf [(64, [3, 0, 0, 0, 0, 0, 0x00020002] ++ List.replicate 10 0 ++ [0x281E140A, 0x44434241, 0x04030201]), (192, [3, 0, 0, 0, 0, 0, 0x00020002])]
/-- The whole picture of the slot at a word. -/
def whole (i : Word) : Region := { pic := i, x := 0, y := 0, w := 2, h := 2 }
theorem test_scale_to_the_same_size : ok (.scale 20 (whole 16) (whole 48) 0) { eng (std 1 {} 0x30 48 80 []) with fmem := pictures } (fun t =>
    t.fmRead 260 12 == [10, 20, 30, 40, 0x41, 0x42, 0x43, 0x44, 1, 2, 3, 4] && (t.ctx 20 1).cmdIdx == 1) = true := by decide +kernel
theorem test_scale_reads_outside_its_window : ok (.scale 20 (whole 16) (whole 48) 0) { eng (std 1 {} 0x30 16 80 []) with fmem := pictures } (fun t =>
    detail t == 1 && t.fmRead 260 4 == [0, 0, 0, 0]) = true := by decide +kernel
/-- A colour slot that swaps channels 0 and 1, with the LUT of identity in the entries that the test meets. -/
def swapSlot : List Word := [0x10000000, 0x10000000, 0, 0, 0x1000, 0, 0, 0] ++ List.replicate 1536 0
theorem test_colour_of_a_slot_without_values : ok (.colour 20 (whole 16) (whole 48) 5) { eng (std 1 {} 0x31 48 80 []) with
    fmem := pictures, tabs := [(tkey 0x0C03 20 5, swapSlot)] } (fun t => t.fmRead 260 12 == zs 12 && (t.ctx 20 1).cmdIdx == 1) = true := by decide +kernel
theorem test_matrix_of_a_slot : slotMatrix swapSlot 0 (fun k => [5, 7, 9].getD k 0) = 7 ∧ slotMatrix swapSlot 1 (fun k => [5, 7, 9].getD k 0) = 5 ∧
    slotMatrix swapSlot 2 (fun k => [5, 7, 9].getD k 0) = 9 := by decide
theorem test_emit : ok (.emit 20 16 64 0x20011 2) (eng (std 1 { owner := 1155 } 0x40 0 0 [])) (fun t =>
    (t.engine 20).sealedStages.map (fun x => x.2.length) == [9] &&
    ((t.engine 20).sealedStages.head?.bind (fun x => x.2.head?)).map (·.data) == some (BitVec.ofNat 64 (0x20011 + 2 * 2 ^ 20 + 1155 * 2 ^ 24 + 64 * 2 ^ 36))) = true := by decide
theorem test_complete : ok (.complete 20 7 99) (eng (std 1 { job := 5 } 0x41 0 0 [])) (fun t =>
    t.host.heldCqe.map (fun x => x.words.take 4) == [[5, wd (0x87 + 3 * 65536), 0, 99]] && (t.ctx 20 1).state == 0) = true := by decide
theorem test_complete_of_context_0 : ok (.complete 20 7 99) (eng (std 0 {} 0x41 0 0 [])) (fun t => t.host.heldCqe == [] && t.cnt (Reg.C_CE_COMMITS 20) == 1) = true := by decide
theorem test_mark_of_a_decoded_slot : ok (.mark 20 1 3) { eng (std 1 { decDsb := some ([0x81, 0, 0, 0, 0, 0, 0, 8, 3] ++ List.replicate 23 0) } 0x50 0 63 []) with
    fmem := memOf [(48, [8])] } (fun t => t.fmWord 48 == 0x48) = true := by decide
/-- A gang of engines 20 and 21. -/
def gang2 : List (Nat × List Word) := [(tkey 0x0902 0 0, [0x00300000, 0, 0, 0, 2])]
theorem test_gsync_waits : ok (.gsync 20 3) { eng (std 1 { gang := some 0 } 0x60 0 0 []) with tabs := gang2 } (fun t =>
    (t.engine 20).stall == .barrier 3 1 && t.arrivedAt 0 3 0 == 1) = true := by decide
theorem test_gsync_releases : ok (.gsync 20 3) { eng (std 1 { gang := some 0 } 0x60 0 0 []) with tabs := gang2, stack := { arrived := [(49, 1)] } } (fun t =>
    (t.engine 20).cur == none && t.released 0 3 == 1 && SMap.get (fun _ => 0) (t.ctx 20 1).gens 3 == 1) = true := by decide

/-- The session of the Cawley Sound example. -/
def cawley (w h br cpb delay rows lev : Nat) : List Word :=
  [wd (1 + 1 * 256 + lev * 4096 + 2 * 2 ^ 20 + 2 ^ 22 + 2 ^ 24), wd (w + h * 65536), 60, 1, wd (30 * 4 + 10 * 512 + 45 * 65536 + 2 ^ 23 + 2 ^ 24), wd br, wd cpb,
   wd delay, wd rows, 0, 0, 0x80000, wd (1500 + 42 * 2 ^ 14 + 96 * 2 ^ 21), 0, 0, 0] ++ List.replicate 28 0 ++ [2] ++ List.replicate 19 0
/-- The check of a session block as it is read. -/
def esb (b : List Word) : Option Nat := base.esbFails 20 b b
theorem test_cawley_sound_opens : esb (cawley 1920 1080 125000 25000 3600 1 123) = none ∧ sliceCount (cawley 1920 1080 125000 25000 3600 1 123) = 17 ∧
    esbCols (cawley 1920 1080 125000 25000 3600 1 123) * esbRows (cawley 1920 1080 125000 25000 3600 1 123) = 510 := by decide +kernel
theorem test_engine_throughput : esb (cawley 3840 2160 625000 62500 2250 0 153) = none ∧ esb (cawley 4096 2160 625000 62500 2250 0 153) = some 0x1A := by decide +kernel
theorem test_level_of_a_single_engine : esb (cawley 1920 1080 125000 25000 3600 1 156) = some 0x12 ∧ esb (cawley 1924 1080 125000 25000 3600 1 123) = some 0x13 := by decide +kernel
/-- The check at the scene cut: F(n) = 180,000, 165,000 bits spent, 5,688 reserved after CTU 400. -/
def cut (bits : Nat) : EncRun :=
  encStep { rc := 0, limNum := 180000, limDen := 1, qpMin := 10, qpMax := 45, targetNum := 300000, targetDen := 1, area := 2073600 }
    { spent := 165000, qp := 30, rest := 5712, restCmd := 24 } { bound := 24, area := 4096, head := none, bits := bits, least := 6, room := 100000 }
theorem test_scene_cut : (cut 11200).spent = 165006 ∧ (cut 11200).fall = 1 ∧ (cut 9312).spent = 174312 ∧ (cut 9312).fall = 0 ∧ (cut 9313).fall = 1 := by decide
/-- A session of one CTU: 64 by 64 samples, I pictures, VBR, slots of 2 words from word 8, the source at word 2,000. -/
def tiny (rc : Nat) : List Word :=
  [wd (1 + 123 * 4096 + 2 * 2 ^ 20), 0x00400040, 60, 1, wd (rc + 30 * 4 + 10 * 512 + 45 * 65536 + 2 ^ 24), 125000, 25000, 3600, 0, 0, 0, 0x80000,
   wd (1500 + 42 * 2 ^ 14 + 96 * 2 ^ 21), 0, 0, 0] ++ List.replicate 24 0 ++ [2000, 0, 8, 2, 2] ++ List.replicate 19 0
/-- A command of the encoder with its rate model block at word 16 and the window 8 to 31. -/
def encCmd (op cnt : Nat) (c : Ctx) : Engine := { std 1 c op 8 31 [] with cmd := [wd (cnt * 4096), wd (op * 2 ^ 24), 16, 0, 0, 0, 8, 31] }
theorem test_enc_ctus_out_of_order : ok (.encCtus 20) { eng (encCmd 0x20 1 { encEsb := some (tiny 1) }) with
    fmem := memOf [(8000, [1, 64]), (64, [0, 0, 0, 0, 1, 0, 0, 1])] } (fun t => detail t == 0x20) = true := by decide
theorem test_enc_ctus_waits_for_rows : ok (.encCtus 20) { eng (encCmd 0x20 1 { encEsb := some (tiny 1) }) with fmem := memOf [(8000, [1, 63])] } (fun t =>
    (t.engine 20).stall == .rows) = true := by decide
theorem test_enc_without_a_session : ok (.encCtus 20) (eng (encCmd 0x20 1 {})) (fun t => detail t == 0x2F) = true := by decide
theorem test_enc_end : ok (.encEnd 20) { eng (encCmd 0x21 0 { encEsb := some (tiny 1), encRecon := some 1 }) with
    fmem := memOf [(32, [2]), (40, [1]), (64, [0x00A4CB80, 0, 178900, 0, 7, 0x1E23, 9, 1])] } (fun t =>
    t.fmWord 64 == 0x007B13D0 && t.fmWord 72 == 0 && t.fmWord 80 == 8 && t.fmWord 40 == 2 && t.fmWord 32 == 0 && t.cnt (Reg.C_CE_ENC_PICTURES 20) == 1) = true := by decide
theorem test_filler_of_the_static_picture : ceilDiv (390000 * 60 - 40000 * 60 + 8000000 - 400000 * 60) (8 * 60) = 10417 ∧ (fillerNals 10).length = 1 ∧
    ((fillerNals 10).map List.length).sum = 10 := by decide
theorem test_wpp_shares : (upto 10).map (shareArea [wd (2 * 2 ^ 30 + 2 * 2 ^ 20), wd (8192 + 4320 * 65536)] 10) =
    List.replicate 7 (8192 * 448) ++ [8192 * 416] ++ List.replicate 2 (8192 * 384) := by decide

/-! RTP and NAL units, and the decoder. -/

theorem test_nal_unit_in_fragments : nalPackets 10 (0x26 :: 1 :: [1, 2, 3, 4, 5, 6, 7, 8, 9, 10]) =
    [[0x62, 1, 0x93, 1, 2, 3, 4, 5, 6, 7], [0x62, 1, 0x53, 8, 9, 10]] ∧ nalPackets 10 [0x26, 1, 7] = [[0x26, 1, 7]] := by decide
theorem test_emulation_prevention : escapeFrom 0 [0, 0, 1, 0, 0, 0, 0, 4] = [0, 0, 3, 1, 0, 0, 3, 0, 0, 4] := by decide
theorem test_fragments_make_the_nal_unit : ((({ seq := none, part := none } : Reception).packet 7 9 5 [0x62, 1, 0x93, 1, 2]).packet 8 9 5 [0x62, 1, 0x53, 3]) =
    { seq := some 8, part := none, units := [⟨[0x26, 1, 1, 2, 3], 9, 5⟩] } := by decide
theorem test_gap_loses_the_nal_unit : ((({ seq := none, part := none } : Reception).packet 7 9 5 [0x62, 1, 0x93, 1, 2]).packet 9 9 5 [0x62, 1, 0x53, 3]) =
    { seq := some 9, part := none, lost := 1 } := by decide
theorem test_aggregation : (({ seq := none, part := none } : Reception).packet 7 9 5 [0x60, 1, 0, 2, 0x40, 1, 0, 3, 0x42, 1, 8]).units =
    [⟨[0x40, 1], 9, 5⟩, ⟨[0x42, 1, 8], 9, 5⟩] := by decide

/-- A decode session: Main, 64 by 64 samples at most, three slots of 64 words from word 64, reports at word 40, publish block at word 32. -/
def dsb (freeze : Nat) : List Word :=
  [wd (0x81 + 0x100 + 153 * 2 ^ 13 + freeze * 2 ^ 24), 0x00400040, 60, 1, 0, 100, 64, 64, 3, 400, 16, 40, 1, 32, 0x3F] ++ List.replicate 17 0
/-- A parameter set of Main at 64 by 64 samples with one CTU. -/
def ps : Config.ParamSet :=
  { profile := 0, level := 93, highTier := false, width := 64, height := 64, depth := 8, chroma := 1, ctuSize := 64, maxDecBuf := 0 }
/-- One of 8 by 8 samples. -/
def ps8 : Config.ParamSet := { ps with width := 8, height := 8, ctuSize := 16 }
/-- A command of the decoder on the current picture with the window 0 to 300. -/
def decCmd (op : Nat) (c : Ctx) : Engine := { std 1 c op 0 300 [] with cmd := [0xF0001000, wd (op * 2 ^ 24 + 0xFFFFFF), 0, 0, 0, 0, 0, 300] }
/-- The check of a session block as it is read. -/
def dsbCode (b : List Word) : Option Nat := base.dsbFails 20 b b

theorem test_decode_session : dsbCode (dsb 0) = none ∧ dsbCode (dsb 3) = some 0x45 ∧ dsbCode ((dsb 0).set 8 2) = some 0x44 ∧
    dsbCode ((dsb 0).set 20 1) = some 0x46 ∧ dsbCode ((dsb 0).set 1 0x003F0040) = some 0x42 := by decide
theorem test_parameter_sets : paramsOk (dsb 0) ps 1 = true ∧ paramsOk (dsb 0) { ps with profile := 1 } 1 = false ∧
    paramsOk (dsb 0) { ps with maxDecBuf := 1 } 1 = false ∧ paramsOk (dsb 0) { ps with width := 72 } 1 = false ∧
    paramsOk (dsb 0) { ps with highTier := true } 1 = false := by decide
theorem test_dec_without_a_session : ok (.decCtus 20 []) (eng (decCmd 0x10 {})) (fun t => detail t == 0x4F) = true := by decide
/-- A picture under way in slot 0. -/
def pic0 (p : Config.ParamSet) (done : List Nat) : Ctx := { decParams := some p, decSlot := some 0, decDone := done, decNext := done.length }
theorem test_dec_ctus_out_of_order : ok (.decCtus 20 []) { eng { std 1 { pic0 ps [0] with decDsb := some (dsb 0) } 0x10 0 300 [] with
    cmd := [0x00001000, 0x10FF0000, 0, 0, 0, 0, 0, 300] } with fmem := memOf [(272, [1, 5])] } (fun t => detail t == 0x20) = true := by decide
theorem test_dec_ctus_with_nothing_to_do : ok (.decCtus 20 []) (eng (decCmd 0x10 { decDsb := some (dsb 0) })) (fun t =>
    t.fmem.bytes == [] && (t.ctx 20 1).decSlot == none && (t.ctx 20 1).cmdIdx == 1) = true := by decide
/-- An RTP packet of a NAL unit of type 35 in a frame of 16 words of the ring. -/
def rtp35 : List Word := [0, 0, 0, 0x00450008, 0, 0x11000000, 0, 0, 0, 0x16000000, 0x60800000, 0x0700, 0, 0x01460000, 0, 0]
theorem test_dec_ctus_takes_its_packets : ok (.decCtus 20 [⟨16, 5⟩]) { eng { decCmd 0x10 { decDsb := some (dsb 0) } with cmd := [0xF0001000, 0x10FFFFFF, 0, 0, 0, 0, 0, 300] } with
    fmem := memOf [(1600, rtp35)] } (fun t => (t.ctx 20 1).str.seq == some 7 && (t.ctx 20 1).str.units == [] && (t.ctx 20 1).str.read == 0 &&
    (t.ctx 20 1).cmdIdx == 1 && t.cnt (Reg.C_CE_DEC_NAL_DISCARD 20) == 0) = true := by decide
theorem test_dec_end_publishes : ok (.decEnd 20) { eng (decCmd 0x11 { pic0 ps8 [0] with decDsb := some (dsb 0) }) with fmem := memOf [(272, [1, 5])] } (fun t =>
    t.fmWord 272 == 0x12 && t.fmWords 128 3 == [8, 5, 1] && t.fmWords 160 4 == [0, 5, 0, 0] && t.fmWord 260 == 8 && t.cnt (Reg.C_CE_DEC_PICTURES 20) == 1 &&
    (t.ctx 20 1).decSlot == none) = true := by decide +kernel
/-- The decoder's time-out of 100 us over. -/
def late : State := { base with time := { ticks := 400000 * 196608000000 } }
theorem test_dec_end_conceals_and_withholds : ok (.decEnd 20)
    { eng (decCmd 0x11 { pic0 ps8 [] with decDsb := some (dsb 2) }) with fmem := memOf [(272, [1, 5])], time := late.time } (fun t =>
    t.fmWord 272 == 2 && t.fmWord 128 == 0 && t.fmWord 320 == 1 && t.fmWords 160 4 == [0, 5, 1, 0x49] && t.cnt (Reg.C_CE_DEC_LATE_CLOSE 20) == 1 &&
    t.fmRead 324 3 == [128, 128, 128] && t.cnt (Reg.C_CE_DEC_CONC_CTUS 20) == 1 &&
    t.cnt (Reg.C_CE_DEC_WITHHELD 20) == 1 && (t.ctx 20 1).decFrozen) = true := by decide +kernel
theorem test_dec_end_too_early : ok (.decEnd 20) { eng (decCmd 0x11 { pic0 ps8 [] with decDsb := some (dsb 0) }) with fmem := memOf [(272, [1, 5])] } (fun t =>
    t.fmWord 272 == 1 && (t.ctx 20 1).decSlot == some 0 && (t.ctx 20 1).cmdIdx == 1) = true := by decide
theorem test_freeze_at_the_edge : withheldBy [1 * 2 ^ 24, 0, 0, 0, 25] 2040 510 = false ∧ withheldBy [1 * 2 ^ 24, 0, 0, 0, 25] 2040 511 = true := by decide
theorem test_concealment_vector : concealVector [0] 60 [(11 * 60 + 10, (4, 0)), (13 * 60 + 10, (6, -2))] (12 * 60 + 10) = (4, -2) ∧
    concealVector [2 * 2 ^ 22] 60 [(11 * 60 + 10, (4, 0))] (12 * 60 + 10) = (0, 0) := by decide

/-! Wall output. -/

/-- Spar 50 with a wall stage and one entry, fresh in a period. -/
def wall50 (e : List Word) (len : Word) (rs : List (Nat × Word)) : State :=
  { st ([(Reg.WALL_CFG 50, 3), (Reg.WALL_SCHED 50, 1)] ++ rs) with
    tabs := [(tkey 0x0C01 50 0, e), (tkey 0x0C02 50 0, len :: List.replicate 23 0)], time := { freshRound := true, perSeq := 9, showAt := 5 } }
/-- A show entry for port 408 and wall 7. -/
def showEntry : List Word := [3, wd (408 + 7 * 1024), 0, 0, 0, 0, 0, 0]
/-- Tile 37 of the Brannock Arcade wall. -/
def tile37 : List Word :=
  [wd (1 + 4), wd (408 + 7 * 1024), wd (37 + 2048 * 65536), wd (57488 + 4 * 2 ^ 20), 1, wd (600 + 240 * 65536), wd (120 + 120 * 65536), wd (160 + 160 * 65536)]

theorem test_arcade_cells : (wall50 tile37 18 []).wFrames 50 0 = 13 ∧ (wall50 tile37 18 []).wLength 50 0 0 = 7742 ∧ (wall50 tile37 18 []).wFrameCells 50 0 0 = 31 ∧
    (wall50 tile37 18 []).wFrameCells 50 0 12 = 16 ∧ (wall50 tile37 18 []).wCells 50 0 = 388 ∧ (wall50 tile37 18 []).wTag 50 0 155 = 58108 := by decide
theorem test_arcade_pixel : srcPos 600 120 160 0 = (599, 56) ∧ slotLut (List.replicate 8 0 ++ List.replicate 312 0 ++ [wd (30000 * 65536), 30128]) 0 40010 = 30020 ∧
    reduce 1 10 0 0 0 30020 = 469 := by decide
/-- The cell at the head of spar 50's wall output FIFO. -/
def head50 (t : State) (p : TabCell → Bool) : Bool := match wallHead (t.spar 50).wall with | some (c, _) => p c | none => false
theorem test_show_frame : ok (.wallPipeCellBuild 50) (wall50 showEntry 14 [(Reg.GLB_PERIOD_COUNT, 3)]) (fun t =>
    t.cnt (Reg.C_WALL_SHOW_SENT 50) == 1 && (t.spar 50).wallCr == 2040 && head50 t (fun c => c.tag == 0 && c.slot == 126 && c.num == 0 && c.port == 408 &&
    c.period == 9 && c.data.length == 64 && (c.data.drop 14).take 20 == [16, 10, 1, 0, 0, 0, 0, 7, 0xFF, 0xFF, 0, 0, 0, 0, 0, 3, 0, 0, 0, 0])) = true := by decide
theorem test_show_frame_holds_for_credit : ok (.wallPipeCellBuild 50) { wall50 showEntry 14 [] with spars := [(50, { wallCr := 7 })] } (fun t =>
    (t.spar 50).wall.length == 7 && (t.spar 50).wallHold.length == 1 && (t.spar 50).wallCr == 0) = true := by decide
theorem test_no_picture : ok (.wallPipeCellBuild 50) (wall50 tile37 18 []) (fun t =>
    t.cnt (Reg.C_WALL_NO_PIC_TILES 50) == 1 && t.bget (Reg.WALL_EVENT 50) 2 && (t.spar 50).wall == []) = true := by decide
/-- A tile of 16 by 16 pixels in frames of 16 pixels, safe colour 0x3FF, 0, 4. -/
def safe16 : State := wall50 [wd 1, 408, wd (5 + 16 * 65536), wd (64 + 2 ^ 20), 1, 0, wd (16 + 16 * 65536), wd (16 + 16 * 65536)] 14
  [(Reg.WALL_STATUS 50, 0x10000), (Reg.WALL_SAFE_RGB 50, 0x3FF00004)]
theorem test_safe_picture : ok (.wallPipeCellBuild 50) safe16 (fun t =>
    head50 t (fun c => (c.data.drop 18).take 2 == [0, 4] && (c.data.drop 54).take 6 == [255, 0, 1, 255, 0, 1] && c.data.length == 106 && c.last) &&
    t.cnt (Reg.C_WALL_FRAMES_SENT 50) == 1 && (t.spar 50).frameStats == [(0, (1, 0))]) = true := by decide
theorem test_frame_skipped : ok (.pipeFrameSkip 50 0) { safe16 with time := { pround := 64, perSeq := 9 } } (fun t =>
    t.cnt (Reg.C_WALL_FRAMES_SKIPPED 50) == 1 && t.cnt (Reg.C_WALL_TILES_UNDERRUN 50) == 1 && t.rd (Reg.WALL_EVENT 50) == 3 && (t.pipeOf 50 0).frame == 1 &&
    (t.pipeOf 50 0).k == 1 && (t.tab 0x0C10 50 0).getD 0 0 == 1) = true := by decide
theorem test_frame_not_late : ok (.pipeFrameSkip 50 0) { safe16 with time := { pround := 63, perSeq := 9 } } (fun t => t.cnt (Reg.C_WALL_FRAMES_SKIPPED 50) == 0) = true := by decide
theorem test_second_skip_of_a_tile : ok (.pipeFrameSkip 50 0) { safe16 with time := { pround := 64, perSeq := 9 }, spars := [(50, { underrun := [(9, 0)] })] } (fun t =>
    t.cnt (Reg.C_WALL_FRAMES_SKIPPED 50) == 1 && t.cnt (Reg.C_WALL_TILES_UNDERRUN 50) == 0) = true := by decide
theorem test_wall_clear : ok (.wallCntClr 50) { base with cnts := [(Reg.C_WALL_TILES_SENT 50, 1), (Reg.C_WALL_MEM_ERR_FRAMES 50, 1), (Reg.C_WALL_TILES_SENT 51, 1)] }
    (fun t => t.cnts == [(Reg.C_WALL_TILES_SENT 51, 1)]) = true := by decide
theorem test_period_fixes_pictures : let t := ({ wall50 tile37 18 [] with fmem := memOf [(32, [4, 7, 9])], spars := [(50, { frameStats := [(0, (12, 1))], underrun := [(8, 0), (7, 0)] })] } : State).wallPeriod
    (t.spar 50).pictures = [{ pub := 1, slot := 4, poc := 7, count := 9 }] ∧ t.fmWord 144 = 0x20 ∧ (t.spar 50).sources = [(0, (4, 9))] ∧ t.rd (Reg.WALL_COUNT 50) = 1 ∧
    (t.spar 50).tabNext = [(51, 388)] ∧ (t.tab 0x0C10 50 0).getD 2 0 = wd (12 + 65536) ∧ (t.spar 50).underrun = [(8, 0)] ∧ t.wRepeat 50 0 = false := by decide

/-! States and operands that meet the hypotheses of each statement, clause by clause, at the ends of their ranges. -/

theorem meets_StepRunsFront : ({ base with pending := [.stkCntClr, .hqCntClr] } : State).pending = .stkCntClr :: [.hqCntClr] ∧
    (base.pending = [] ∧ base.fmem.xfers = [] ∧ ∀ e, microFetch base.toDev e = none) ∧
    (let s : State := { eng (job1 []) with tabs := [(tkey tidEngine 20 0x200, [0x08000000, 0])] }
     s.pending = [] ∧ s.engines.map (·.1) = [20] ∧ microFetch s.toDev 20 = some (.uAdd 20 (.reg 0 0 0 false false))) := by
  refine ⟨rfl, ⟨rfl, rfl, fun e => ?_⟩, by decide⟩
  unfold microFetch; split <;> rfl
/-- A lane in a state, with some registers, of an enabled port of spar 0. -/
def laneSt (l x : Nat) (rs : List (Nat × Word)) : State := st ((Reg.LANE_STATE l, wd x) :: rs ++ oct)
theorem meets_LaneDetectors : Calm (laneSt 3 lsData [(Reg.LANE_RX_STATUS 3, 0)]) ∧
    (let s := laneSt 3 lsData [(Reg.LANE_RX_STATUS 3, 0)]
     59999 < 2000 * s.fget (Reg.LANE_DET_CFG 3) 7 0 ∧ 60000 = 2000 * s.fget (Reg.LANE_DET_CFG 3) 7 0 ∧ s.bget (Reg.LANE_RX_STATUS 3) 0 = false ∧ s.laneState 3 = lsData ∧
     max (2000 * s.fget (Reg.LANE_DET_CFG 3) 15 8) 70000 < 90001 ∧ max (2000 * s.fget (Reg.LANE_DET_CFG 3) 15 8) 70000 = 90000 ∧
     10 * min 300 (s.fget (Reg.LANE_DET_CFG 3) 27 16) < (sgn 16 3001).natAbs ∧ 10 * min 300 (s.fget (Reg.LANE_DET_CFG 3) 27 16) = (sgn 16 62536).natAbs) ∧
    (let s := laneSt 3 lsWait [(Reg.LANE_RX_STATUS 3, 1)]
     s.laneState 3 = lsWait ∧ s.bget (Reg.MAC_CFG (s.groupBase 3)) 2 = false ∧ s.bget (Reg.LANE_RX_STATUS 3) 0 = true) ∧
    (let s := laneSt 3 lsTrain [(Reg.LANE_RX_STATUS 3, 0)]
     s.laneState 3 = lsTrain ∧ s.laneState 3 ≠ lsData) := ⟨calm_st _, by decide⟩
theorem meets_LaneWalk : Calm (laneSt 3 lsResume []) ∧ (laneSt 3 lsResume []).laneState 3 = lsResume ∧ (laneSt 3 lsTrain []).laneState 3 ≠ lsResume ∧
    (laneSt 3 lsPartner []).laneState 3 = lsPartner ∧
    (let s := laneSt 3 lsTrain []
     s.laneState 3 = lsTrain ∧ 100 * atLeast1 (s.fget (Reg.LANE_TRAIN_CTRL 3) 22 16) = 3000 ∧ ¬ 3000 ≤ 2999) ∧
    (let s := laneSt 3 lsFail [(Reg.LANE_RX_STATUS 3, 1)]
     s.laneState 3 = lsFail ∧ s.bget (Reg.LANE_RX_STATUS 3) 0 = true) := ⟨calm_st _, by decide⟩
theorem meets_LaneTrained :
    let s := laneSt 1 lsTrain [(Reg.LANE_CFG 1, 0), (Reg.LANE_TRAIN_CTRL 1, 0x8001)]
    let u := laneSt 1 lsTrain [(Reg.LANE_CFG 1, 0x14), (Reg.LANE_TRAIN_CTRL 1, 0x8000)]
    let v := laneSt 1 lsTrain [(Reg.LANE_CFG 1, 0x22), (Reg.LANE_TRAIN_CTRL 1, 0x8000)]
    (Calm s ∧ Calm u ∧ Calm v) ∧ s.laneState 1 = lsTrain ∧ s.bget (Reg.LANE_TRAIN_CTRL 1) 0 = true ∧ s.fget (Reg.LANE_CFG 1) 2 1 = 0 ∧ s.fget (Reg.LANE_CFG 1) 5 4 = 0 ∧
      atLeast1 (s.widthAt 1) = 8 ∧ s.groupBase 1 = 0 ∧ 6 + 1 + 1 = 8 ∧ 3 ≠ 1 ∧ 3 + 1 + 1 ≠ 8 ∧
      u.fget (Reg.LANE_CFG 1) 2 1 = 2 ∧ u.fget (Reg.LANE_CFG 1) 5 4 = 1 ∧ u.bget (Reg.LANE_TRAIN_CTRL 1) 0 = false ∧ u.fget (Reg.LANE_TRAIN_CTRL 1) 15 8 = 0x80 ∧
      v.fget (Reg.LANE_CFG 1) 2 1 = 1 ∧ v.fget (Reg.LANE_CFG 1) 5 4 = 2 :=
  ⟨⟨calm_st _, calm_st _, calm_st _⟩, by decide⟩
theorem meets_TrainingAnswers : Safe (st [(Reg.LANE_TX_TAPS 5, tapsWord [0, 0, 0, 64, 0])]) ∧
    (let s := st [(Reg.LANE_TX_TAPS 5, tapsWord [0, 0, 0, 64, 0])]
     s.bget (Reg.LANE_TRAIN_CTRL 5) 0 = true ∧ s.bget (Reg.LANE_TX_OVR 5) 31 = false ∧
     tapsOk (tapMove (tapsOf (s.rd (Reg.LANE_TX_TAPS 5))) 3 1) = false ∧ tapsOk (tapMove (tapsOf (s.rd (Reg.LANE_TX_TAPS 5))) 3 (-1)) = true) ∧
    (st [(Reg.LANE_TX_OVR 5, 0x80000000)]).bget (Reg.LANE_TX_OVR 5) 31 = true ∧ (st [(Reg.LANE_TRAIN_CTRL 5, 0)]).bget (Reg.LANE_TRAIN_CTRL 5) 0 = false :=
  ⟨safe_st _, by decide⟩
theorem meets_LaneUpkeep :
    let s : State := { st [(Reg.LANE_STATE 2, 6), (Reg.LANE_RX_STATUS 2, 0x10), (Reg.LANE_TRAIN_CTRL 2, 0x02000000), (Reg.LANE_TEST_CTRL 2, 0x10)] with
      lanes := [(2, { ffe := List.replicate 24 127, chk := { hist := 127, missed := List.replicate 15 true } })] }
    let u := st [(Reg.LANE_STATE 2, 8), (Reg.LANE_TEST_CTRL 2, 0x277), (Reg.LANE_RX_STATUS 2, 0x10)]
    (Safe s ∧ Safe u) ∧ s.bget (Reg.LANE_TRAIN_CTRL 2) 25 = true ∧ s.laneState 2 = lsData ∧ (s.lane 2).ffe[23]? = some 127 ∧
      s.fget (Reg.LANE_TEST_CTRL 2) 7 4 = 1 ∧ s.bget (Reg.LANE_RX_STATUS 2) 4 = true ∧ s.laneState 2 ≠ lsLow ∧
      u.fget (Reg.LANE_TEST_CTRL 2) 7 4 = 7 ∧ u.fget (Reg.LANE_TEST_CTRL 2) 3 0 = 7 ∧ u.fget (Reg.LANE_TEST_CTRL 2) 10 8 = 2 ∧ u.laneState 2 = lsTest ∧
      u.bget (Reg.LANE_RX_STATUS 2) 4 = true ∧
      (st [(Reg.LANE_TEST_CTRL 2, 0x108), (Reg.LANE_STATE 2, 8)]).fget (Reg.LANE_TEST_CTRL 2) 3 0 = 8 ∧ base.bget (Reg.LANE_RX_STATUS 2) 4 = false ∧
      (st [(Reg.LANE_STATE 2, 1)]).laneState 2 = lsLow := ⟨⟨safe_of _ rfl rfl rfl, safe_st _⟩, by decide⟩
theorem meets_LaneLowPower :
    let s := laneSt 2 lsLow [(Reg.LANE_LP_CTRL 2, 6), (Reg.LANE_RX_STATUS 2, 1)]
    let u := laneSt 2 lsOff [(Reg.LANE_LP_CTRL 2, 4), (Reg.LANE_TEST_CTRL 2, 1)]
    let v := laneSt 2 lsOff [(Reg.LANE_RX_STATUS 2, 1)]
    (Calm s ∧ Calm u ∧ Calm v) ∧ s.bget (Reg.LANE_LP_CTRL 2) 2 = true ∧ s.laneTest 2 = false ∧ s.bget (Reg.LANE_RX_STATUS 2) 0 = true ∧ s.laneState 2 ≠ lsOff ∧
      u.bget (Reg.LANE_LP_CTRL 2) 2 = true ∧ u.laneTest 2 = true ∧ u.laneState 2 = lsOff ∧ base.bget (Reg.LANE_LP_CTRL 2) 2 = false ∧
      v.laneState 2 = lsOff ∧ v.laneTest 2 = false ∧ v.laneUsed 2 = true ∧ v.bget (Reg.LANE_RX_STATUS 2) 0 = true ∧
      base.laneState 2 = lsOff ∧ base.laneUsed 2 = false := ⟨⟨calm_st _, calm_st _, calm_st _⟩, by decide⟩
/-- Port 8 enabled, its lane in DATA. -/
def port8 (cfg mac : Word) : State := st [(Reg.MAC_SPAR_MODE 1, 5), (Reg.MAC_CFG 8, cfg), (Reg.MAC_STATUS 8, mac), (Reg.LANE_STATE 8, 6), (Reg.LANE_RX_STATUS 8, 4)]
theorem meets_PortAlignment : (Calm (port8 1 0) ∧ Calm (port8 5 4)) ∧ base.named 8 = false ∧
    (let s := port8 1 0
     s.named 8 = true ∧ s.fault.downChips.contains 0 = false ∧ s.bget (Reg.MAC_CFG 8) 0 = true ∧
     (∀ l ∈ s.groupLanes 8, s.laneState l = lsData ∧ s.fget (Reg.LANE_RX_STATUS l) 1 0 = 0) ∧ s.bget (Reg.MAC_CFG 8) 2 = false) ∧
    (port8 5 4).bget (Reg.MAC_CFG 8) 2 = true ∧ (port8 5 4).bget (Reg.MAC_STATUS 8) 2 = true := ⟨⟨calm_st _, calm_st _⟩, by decide⟩
theorem meets_AutoNegotiation : (Calm (port8 5 8) ∧ Calm (port8 1 0)) ∧
    (let s := port8 5 8
     (s.named 8 && s.bget (Reg.MAC_CFG 8) 2) = true ∧ s.bget (Reg.MAC_CFG 8) 0 = true ∧ s.bget (Reg.MAC_STATUS 8) 3 = true ∧ s.bget (Reg.MAC_STATUS 8) 2 = false ∧
     8 ∈ s.groupLanes 8 ∧ 3 ≤ s.laneState 8 ∧ s.laneState 8 ≤ 7 ∧ [100].contains (s.portRate 8 / 1000) = true ∧ [99, 101].contains (s.portRate 8 / 1000) = false) ∧
    ((port8 1 0).named 8 && (port8 1 0).bget (Reg.MAC_CFG 8) 2) = false ∧ (port8 5 0).bget (Reg.MAC_STATUS 8) 3 = false ∧
    (port8 5 4).bget (Reg.MAC_STATUS 8) 2 = true ∧ (port8 4 0).bget (Reg.MAC_CFG 8) 0 = false := ⟨⟨calm_st _, calm_st _⟩, by decide⟩
theorem meets_FrameReception : Safe (st ports1) ∧
    (let s := st ports1
     (s.named 8 && s.linkUp 8) = true ∧ s.rxFenced 8 = false ∧ s.maxFrame 8 = 1518 ∧ good64.length = 64 ∧ (zs 63).length < 64 ∧ isControl good64 = false ∧
     fcsGood good64 = true ∧ fcsGood (zs 64) = false ∧ (s.spar 1).reloading = false ∧
     ([⟨15, true⟩] : List Codeword).any (fun c => c.touches && decide (15 < c.errors)) = false ∧
     ([⟨16, true⟩] : List Codeword).any (fun c => c.touches && decide (15 < c.errors)) = true) ∧
    (let s := st ((Reg.MAC_STATUS 8, 0x13) :: (Reg.MAC_CMD 8, 1) :: ports1.drop 4 ++ ports1.take 3)
     (s.named 8 && s.linkUp 8) = true ∧ s.rxFenced 8 = true) ∧ (base.named 8 && base.linkUp 8) = false ∧
    (let s : State := { st ports1 with spars := [(1, { reloading := true })] }
     Safe s ∧ (s.spar 1).reloading = true) := ⟨safe_st _, by decide, by decide, by decide, safe_of _ rfl rfl rfl, by decide⟩
theorem meets_PauseFrames : Safe (st ports1) ∧
    (let s := st ((Reg.MAC_PFC_CFG 8, 0xFF000000) :: ports1)
     s.named 8 = true ∧ s.linkUp 8 = true ∧ s.rxFenced 8 = false ∧ 64 ≤ pfc3.length ∧ pfc3.length ≤ s.maxFrame 8 ∧ fcsGood pfc3 = true ∧ isControl pfc3 = true ∧
     beAt pfc3 14 2 = 0x0101 ∧ bit (beAt pfc3 16 2 &&& s.fget (Reg.MAC_PFC_CFG 8) 31 24) 3 = true ∧ bit (beAt pfc3 16 2 &&& s.fget (Reg.MAC_PFC_CFG 8) 31 24) 5 = false ∧
     beAt pfc3 (18 + 2 * 3) 2 = 5 ∧ beAt pfc3 (18 + 2 * 4) 2 = 0 ∧ s.sending 8 = false) ∧
    (let s : State := { st ports1 with ports := [(8, { txPause := 0x40, cut := some { queue := 0, stream := 0, cells := [] } })] }
     s.sending 8 = true ∧ bit (s.port 8).txPause 6 = true) := ⟨safe_st _, by decide⟩

theorem test_microwords_of_the_trace : ([0x54000000, 0x10580000, 0x58800000, 0x28812000, 0x36800202, 0x68000000, 0x70000000] : List Word).map (microDecode 20) =
    [.uWait 20 0x8000, .uAdd 20 (.imm 2 48 false 0), .uIn 20 4, .uSt 20 4 2 1 0, .uBr 20 13 0x202, .uCommit 20, .uEnd 20] ∧
    microDecode 20 0x80000000 = .reservedOpcode 20 ∧ microDecode 20 0x7C200000 = .raiseNotice 20 4 := by decide
theorem meets_PortFencesAndStamps :
    let s : State := { st ports1 with ports := [(8, { tsFifo := [(0x500000007, 9), (1, 2)], fecCount := 3 })] }
    (Safe s ∧ Calm s ∧ Calm (st ((Reg.MAC_FEC_THRESH 8, 4) :: ports1))) ∧ s.named 8 = true ∧ (s.port 8).tsFifo = (0x500000007, 9) :: [(1, 2)] ∧
      (s.port 9).tsFifo = [] ∧ base.named 8 = false ∧ s.loader.fence = false ∧ s.inBlack = false ∧ s.linkUp 8 = true ∧ (s.port 8).fecFired = false ∧
      base.linkUp 8 = false ∧ ([15, 16].filter (fun e => decide (15 < e))).length = 1 ∧
      atLeast1 ((st ((Reg.MAC_FEC_THRESH 8, 4) :: ports1)).fget (Reg.MAC_FEC_THRESH 8) 15 0) = 3 + 1 :=
  ⟨⟨safe_of _ rfl rfl rfl, calm_of _ rfl rfl rfl rfl rfl, calm_st _⟩, by decide⟩
theorem meets_TimeAndClocks : (Safe base ∧ Safe (st [(Reg.PTP_STATUS, 1), (Reg.GLB_PERIOD_CTRL, 0), (Reg.GLB_PERIOD_STATUS, 2)])) ∧
    (sgn 32 32768000 = 32768000 ∧ sgn 32 32768001 = 32768001 ∧ sgn 32 0xFE0C0000 = -32768000 ∧ sgn 32 0xFE0BFFFF = -32768001) ∧
    signed64 0xFFFFFFFF 0xFFFFFFFC = -4 ∧ (st [(Reg.PTP_STATUS, 4)]).bget Reg.PTP_STATUS 2 = true ∧ (st [(Reg.PTP_STATUS, 1)]).bget Reg.PTP_STATUS 2 = false ∧
    (let s := st [(Reg.PTP_STATUS, 1), (Reg.GLB_PERIOD_CTRL, 0), (Reg.GLB_PERIOD_STATUS, 2)]
     s.periodSrc = 0 ∧ s.bget Reg.PTP_STATUS 0 = true ∧ s.bget Reg.GLB_PERIOD_STATUS 1 = true) ∧
    (st [(Reg.GLB_PERIOD_CTRL, 2)]).periodSrc = 2 ∧ base.bget Reg.PTP_STATUS 0 = false := ⟨⟨safe_st [], safe_st _⟩, by decide⟩
/-- Sources 150 and 151 pend, unmasked, of priority 3, for target 2; 152 of priority 2 too. -/
def pends : State := { st [(Reg.IRQ_PEND 4, 0x01C00000), (Reg.IRQ_MASK 4, 0xFE3FFFFF)] with
  tabs := [(tkey 0x0F01 0 150, [0x23]), (tkey 0x0F01 0 151, [0x23]), (tkey 0x0F01 0 152, [0x22])] }
theorem meets_InterruptClaims : Safe pends ∧
    (let waits := fun (x : Nat) => x < 1152 ∧ pends.pendOf x = true ∧ pends.maskOf x = false ∧ 0 < pends.prioOf x ∧ pends.targetOf x = 2
     waits 150 ∧ waits 151 ∧ waits 152 ∧ pends.prioOf 150 = pends.prioOf 151 ∧ pends.prioOf 152 < pends.prioOf 150) ∧ base.pendOf 1151 = false ∧
    (let s : State := { st [(Reg.IRQ_ACTIVE 4, 0x00400000)] with irq := { claimedBy := [(150, 2)] } }
     Safe s ∧ s.actOf 150 = true ∧ SMap.get? s.irq.claimedBy 150 = some 2 ∧ s.actOf 151 = false ∧ SMap.get? s.irq.claimedBy 150 ≠ some 3) :=
  ⟨safe_of _ rfl rfl rfl, by decide, by decide, safe_of _ rfl rfl rfl, by decide⟩
theorem meets_InterruptWrites : Safe base ∧ (let named := fun (w x : Nat) => x / 32 = w ∧ wbit 0xFFFFFFFF (x % 32) = true ∧ x ≠ 31 ∧ ¬ (33 ≤ x ∧ x < 120)
      named 0 30 ∧ ¬ named 0 31 ∧ named 1 32 ∧ ¬ named 1 33 ∧ ¬ named 3 119 ∧ named 3 120 ∧ named 35 1151) ∧ base.irqInput 120 = false ∧
    (let s : State := { pends with irq := { targets := [(2, { counting := true })] } }
     (s.target 2).counting = true ∧ (s.target 2).d = false ∧ s.claimables 2 ≠ []) ∧ (base.target 7).counting = false := ⟨safe_st [], by decide⟩
theorem meets_CounterClears : Safe base ∧ base.named 1023 = false ∧ (st ports1).named 8 = true := ⟨safe_st [], by decide⟩
/-- Does the register map name a register of a class at an address? -/
def classAt (a : Nat) (c : Cls) : Bool := match Reg.at? a with | some r => r.cls == c | none => false
theorem meets_LoadOnlyWritesDiscarded : Safe base ∧ (Reg.LANE_CFG 1023 < 0x04000000 ∧ classAt (Reg.LANE_CFG 1023) .L = true) ∧ classAt Reg.GLB_PERIOD_CTRL .L = true := ⟨safe_st [], by decide +kernel⟩
theorem meets_BoundaryWrites :
    let s : State := { base with commit := { hold := [(0x200, 50), (0x200, 51)] } }
    (Safe base ∧ Safe s) ∧ (0x200 < 0x800 ∧ classAt 0x200 .B = true ∧ isMacCfg 0x200 = false) ∧
    (let a := Reg.MAC_CFG 1023
     0x1000 ≤ a ∧ a < 0x04000000 ∧ classAt a .B = true ∧ isMacCfg a = true ∧ maxFrameBad 0x05EE0001 = false) ∧
    base.deadAt 0x200 = false ∧ parseCfgBad 0x200 50 = false ∧ base.fullExpanding = false ∧ base.commit.window = false ∧ base.commit.hold = [] ∧
    base.commit.readyFor = none ∧ s.commit.hold = (0x200, 50) :: [(0x200, 51)] := ⟨⟨safe_st [], safe_of _ rfl rfl rfl⟩, by decide +kernel⟩
theorem meets_ShadowView : Safe base ∧ Safe (st [(Reg.GLB_COMMIT_CTRL, 0x10)]) ∧ (st [(Reg.GLB_COMMIT_CTRL, 0x10)]).bget Reg.GLB_COMMIT_CTRL 4 = true :=
  ⟨safe_st [], safe_st _, by decide +kernel⟩
theorem meets_PairLatches : (Safe base ∧ Safe (st [(Reg.MAC_SPAR_MODE 1, 5)])) ∧
    (let lo := Reg.C_MAC_TX_BYTES 8
     lo < 0x04000000 ∧ (st [(Reg.MAC_SPAR_MODE 1, 5)]).deadAt lo = false ∧ (st [(Reg.MAC_SPAR_MODE 1, 5)]).deadAt (lo + 4) = false ∧
     pairAt? lo = some (lo, false) ∧ pairAt? (lo + 4) = some (lo, true)) ∧
    (let lo := Reg.PTP_PPS_IN_TS_LO
     base.deadAt lo = false ∧ base.deadAt (lo + 4) = false ∧ pairAt? lo = some (lo, false) ∧ pairAt? (lo + 4) = some (lo, true)) :=
  ⟨⟨safe_st [], safe_st _⟩, ⟨by decide, rfl, rfl, rfl, rfl⟩, ⟨rfl, rfl, rfl, rfl⟩⟩

theorem meets_CommitArming : let s := st [(Reg.STK_STATUS, 0x02000000), (Reg.GLB_COMMIT_TARGET, 9)]
    let b := st [(Reg.FLT_STATUS, 1)]
    let d : State := { base with commit := { arm := some { target := 9, stack := false }, decided := true } }
    (Safe base ∧ Safe s ∧ Safe b ∧ Safe d) ∧ base.stackSize = 1 ∧ s.stackSize = 2 ∧ s.fuses.master = true ∧ s.targetPassed 9 = false ∧
      base.inBlack = false ∧ base.powered .entering = false ∧ b.inBlack = true ∧ d.commit.decided = true ∧ base.commit.decided = false ∧
      base.targetPassed 0 = true ∧ base.targetPassed 1 = false ∧ base.targetPassed 0x80000000 = false ∧ base.targetPassed 0x80000001 = true :=
  ⟨⟨safe_st [], safe_st _, safe_st _, safe_of _ rfl rfl rfl⟩, by decide⟩
/-- An arm for the next boundary, of a stack or not. -/
def armed1 (stack decided : Bool) (rs : List (Nat × Word)) : State := { st rs with commit := { arm := some { target := 1, stack := stack }, decided := decided } }
theorem meets_CommitJudged : (Safe (armed1 false false []) ∧ Safe (armed1 true false [(Reg.STK_STATUS, 0x02000000)]) ∧ Safe base) ∧
    (let s := armed1 false false []
     s.nextCount = 1 ∧ s.commit.window = false ∧ s.commit.decided = false ∧ s.deltaLoading = false ∧ s.shadowOk = true) ∧
    ({ armed1 false false [] with shadow := [(0x200, 0)] } : State).shadowOk = false ∧
    ({ armed1 false false [] with loader := { job := some { delta := true }, reading := true } } : State).deltaLoading = true ∧
    (armed1 true true []).commit.decided = true ∧ base.commit.arm = none ∧ ({ base with commit := { window := true } } : State).commit.window = true ∧
    (let s := armed1 true false [(Reg.STK_STATUS, 0x02000000)]
     s.fuses.master = true ∧ s.commit.decided = false ∧ (upto s.stackSize).all (fun i => i == s.fuses.stackId || s.bget Reg.STK_STATUS (8 + i)) = false) ∧
    (let s := armed1 true false [(Reg.STK_STATUS, 0x02000200)]
     (upto s.stackSize).all (fun i => i == s.fuses.stackId || s.bget Reg.STK_STATUS (8 + i)) = true) :=
  ⟨⟨safe_of _ rfl rfl rfl, safe_of _ rfl rfl rfl, safe_st []⟩, by decide⟩
theorem meets_BoundaryReached : let s : State := { base with commit := { window := true }, spars := [(127, { frameStats := [(2000, (1, 0))] })] }
    Safe s ∧ s.periodSrc ≠ 1 ∧ s.commit.swap = false ∧ s.commit.readyFor = none ∧ s.loader.job = none ∧ s.island.entryOpen = false ∧
      ∀ p ∈ s.spars, p.1 < 256 ∧ ∀ f ∈ p.2.frameStats, f.1 < 2 ^ 20 := ⟨safe_of _ rfl rfl rfl, by decide⟩
theorem meets_BoundarySwaps : let s : State := { base with shadow := [(0x200, 50)], commit := { window := true, swap := true } }
    Safe s ∧ s.Unused ∧ s.periodSrc ≠ 1 ∧ s.commit.swap = true ∧ s.commit.readyFor = none ∧ s.loader.job = none ∧ s.island.entryOpen = false :=
  ⟨safe_of _ rfl rfl rfl, by unfold Unused; decide, by decide⟩
/-- A member whose period comes from BOUNDARY_IN, its next boundary at 1/60 s. -/
def member (first : Bool) : State := { st [(Reg.GLB_PERIOD_CTRL, 1)] with
  fuses := { master := false, stackId := 1 }, time := { next := { num := 1, den := 60 }, firstMark := first } }
theorem meets_BoundaryMarks : (Safe base ∧ Safe (member true) ∧ Safe (member false)) ∧ base.fuses.master = true ∧
    (let word := 0x5000000000001e24080000068
     (!(member true).fuses.master && (member true).periodSrc == 1) = true ∧ crc8 (word / 256) 120 0 = word % 256 ∧ (member true).time.firstMark = true ∧
     crc8 ((word + 1) / 256) 120 0 ≠ (word + 1) % 256) ∧
    (member false).time.firstMark = false ∧ (member false).edgeFits 66666866 = true ∧ (member false).edgeFits 66666867 = false ∧
    (!base.fuses.master && base.periodSrc == 1) = false := ⟨⟨safe_st [], safe_of _ rfl rfl rfl, safe_of _ rfl rfl rfl⟩, by decide⟩
/-- The host's delta image in frame memory at 0, being read. -/
def loading (len : Word) : State := { st [(0x40C, 0x10), (0x404, len), (0x414, 6)] with
  fmem := { bytes := cellsPut [] 0 delta50 }, loader := { job := some { delta := true }, reading := true } }
/-- The code of its check, by the header and the bytes that the loader reads. -/
def hostCode (s : State) (j : Load) : Nat :=
  let h := s.memRead 257 ((s.rd Reg.GLB_IMG_ADDR).toNat * 32) 32 false
  let r := h.2.2.memRead 257 ((s.rd Reg.GLB_IMG_ADDR).toNat * 32 + 32) (imgLength h.1 - 32) false
  if h.2.1 then 4 else if headCode h.1 ≠ 0 then headCode h.1 else if r.2.1 then 4
    else r.2.2.imageCode (h.1 ++ r.1) ((s.rd Reg.GLB_IMG_LEN).toNat != imgLength h.1) (j.delta != imgDelta (h.1 ++ r.1))
theorem meets_ImageLoads : (Safe base ∧ Safe (loading 52)) ∧ base.bget Reg.GLB_IMG_STATUS 4 = false ∧ (st [(0x40C, 0x10)]).bget Reg.GLB_IMG_STATUS 4 = true ∧
    (loading 52).loader.job = some { delta := true } ∧ (loading 52).loader.reading = true ∧ hostCode (loading 52) { delta := true } = 0 ∧
    hostCode (loading 48) { delta := true } = 3 ∧ base.loader.job = none ∧
    (let s : State := { base with loader := { job := some { flash := true }, reading := true } }
     headCode (flashBytes {} {} s.loader.fallback 32) = 1 ∧ s.loader.fallback = false) := ⟨⟨safe_st [], rfl, rfl, rfl⟩, by decide +kernel⟩
theorem meets_ImageLoads_expansion : let j : Load := { image := delta50, delta := true, expanding := true }
    let s : State := { base with loader := { job := some j } }
    let u : State := { base with loader := { job := some j }, commit := { window := true } }
    let f : State := { base with loader := { job := some { j with delta := false } } }
    (Safe s ∧ Safe u ∧ Safe f) ∧ s.loader.job = some j ∧ s.commit.window = false ∧ u.commit.window = true ∧ f.loader.job = some { j with delta := false } :=
  ⟨⟨safe_of _ rfl rfl rfl, safe_of _ rfl rfl rfl, safe_of _ rfl rfl rfl⟩, by decide⟩

/-- The rule of the dispatch with an action that names port 17 directly, at class 5, its source's report programmed Amber. -/
def tarnDirect (rs : List (Nat × Word)) : State := { st ([(Reg.MAC_SPAR_MODE 2, 5), (Reg.PRS_PORT_CFG 2 0, 0x00014010)] ++ up17.drop 1 ++ rs) with
  tabs := tabsOf ((tkey 0x1001 0 70, [1]) :: (tkey 0x0511 2 12, [0, wd (0x20011 * 2 ^ 12 + 2 ^ 10)]) :: tarnTabs ++ tarnRule.take 1) }
/-- The frame as it waits. -/
def tarnRx : Frame := { bytes := tarnFrame, port := 16, stamp := 5, bad := false, res := {} }
/-- The result of the action. -/
def tarnRes (s : State) : Result :=
  let act := wide (s.tab 0x0511 2 12)
  let d0 : Dev := s.updSpar 2 (fun y => { y with rx := [], rxTurn := 1 })
  let walk := d0.parseFrom 2 16 256 tarnFrame 16 0 0 0 {}
  { dest := bits act 63 44, cls := actionClass d0 2 16 tarnFrame act, owner := 16, marks := walk.1.marks, edit := bits act 7 0, stamp := 5, rule := 12,
    prune := bit act 8, inPort := 16 }
theorem meets_FrameParsing : let s : State := { tarnDirect [] with spars := [(2, { rx := [tarnRx] })] }
    let d0 : Dev := s.updSpar 2 (fun y => { y with rx := [], rxTurn := 1 })
    let walk := d0.parseFrom 2 (s.fget (Reg.PRS_PORT_CFG 2 0) 4 0) (s.fget (Reg.PRS_PORT_CFG 2 0) 14 6) tarnFrame 16 0 (s.fget (Reg.PRS_PORT_CFG 2 0) 31 24) 0 {}
    let act := wide (s.tab 0x0511 2 12)
    (Safe s ∧ s.Mild 70) ∧ rxNext (s.spar 2) = some (tarnRx, []) ∧ (s.spar 2).reloading = false ∧ s.armed 70 = false ∧
      (∀ q ∈ s.spars, q.2.badEntries = []) ∧ (walk.2 = .done ∧ d0.ruleHit 2 (parseKey 16 walk.1 false false) = some 12) ∧
      (bits act 43 42 = 1 ∧ bit act 10 = false ∧ bits act 34 23 = 0 ∧ bit act 9 = false ∧ (tarnRes s).cls ≠ 8) ∧ s.inBlack = false ∧
      (match d0.resolve 2 16 (tarnRes s) with | .go _ => true | _ => false) = true :=
  ⟨⟨safe_of _ rfl rfl rfl, by decide, 3, by decide, by decide⟩, by decide, by decide, by decide, by decide, by decide, by decide, by decide, by decide⟩
theorem meets_FrameParsing_otherwise : (tarnDirect [(Reg.FLT_STATUS, 1)]).inBlack = true ∧ (tarnDirect [(Reg.FLT_INJ, 0x80000046)]).armed 70 = true ∧
    (tarnDirect [(Reg.FLT_INJ, 0x80000046)]).Mild 70 ∧ rxNext ({} : Spar) = none ∧
    ((tarnDirect []).toDev.parseFrom 2 16 256 (tarnFrame.take 60) 16 0 0 0 {}).2 = .fail 14 ∧ (tarnDirect []).fget (Reg.PRS_PORT_CFG 2 0) 17 16 = 1 ∧
    (st [(Reg.PRS_PORT_CFG 2 0, 0)]).fget (Reg.PRS_PORT_CFG 2 0) 17 16 = 0 :=
  ⟨by decide, by decide, ⟨by decide, 3, by decide, by decide⟩, by decide, by decide, by decide, by decide⟩
theorem meets_Scrubbers : let p := tarnDirect []
    let s : State := { base with slices := [(4, { cells := [(600, cell17 0)], genFresh := 601 })], tabs := [(tkey 0x1001 0 77, [1])] }
    (Safe p ∧ p.Mild 70 ∧ Safe s ∧ s.Mild 26 ∧ s.Mild 77) ∧ fltClass? 70 = some 3 ∧ p.armed 70 = false ∧ (entryKey? 2 (.rule 4095)).isSome = true ∧
      (entryKey? 2 .store).isSome = false ∧ s.armed 26 = false ∧ SMap.get? (s.sliceOf 4).cells 600 = some (cell17 0) ∧ SMap.get? (s.sliceOf 4).cells 8191 = none :=
  ⟨⟨safe_of _ rfl rfl rfl, ⟨by decide, 3, by decide, by decide⟩, safe_of _ rfl rfl rfl, ⟨by decide, 5, by decide, by decide⟩, ⟨by decide, 4, by decide, by decide⟩⟩, by decide⟩
/-- What the admission of the parsed frame of `parsed2` is decided by: its room. -/
def roomOf (s : State) : Bool := decide ((s.spar 2).inFifo.length + ceilDiv (s.maxFrame 16) 256 ≤ 512)
theorem meets_FrameAdmission : (Safe (parsed2 2 448) ∧ Safe (parsed2 8 448)) ∧
    (let s := parsed2 2 448
     (s.spar 2).parsed.length = 1 ∧ (s.spar 2).entering = [] ∧ roomOf s = true ∧ roomOf (parsed2 2 449) = false ∧ s.inBlack = false ∧
     s.ownerCount 16 < s.tf 0x0601 0 16 0 20 0 ∧ (s.refusal 2 { dest := 0x20011, cls := 2, owner := 16 }).isNone = true) ∧
    (let s : State := { parsed2 2 0 with regs := SMap.set Reg.resetVal (parsed2 2 0).regs Reg.FLT_STATUS 1 }
     s.inBlack = true) ∧
    (let s : State := { parsed2 2 0 with tabs := [(tkey 0x0601 0 16, [0, 0])] }
     s.tf 0x0601 0 16 0 20 0 = 0 ∧ s.tf 0x0601 0 16 0 20 0 ≤ s.ownerCount 16) ∧
    (cellsOf 2 {} (zs 256) false).length = 1 ∧ (cellsOf 2 {} (zs 257) false).length = 2 := ⟨⟨safe_of _ rfl rfl rfl, safe_of _ rfl rfl rfl⟩, by decide⟩
theorem meets_CoreSlots : let s : State := { base with spars := [(40, { latched := some tab40 })], time := { cclk := 126, pround := 5 } }
    Safe s ∧ (s.time.cclk + 1) % 128 ≠ 0 ∧ (127 + 1) % 128 = 0 ∧ s.spars = [(40, { latched := some tab40 })] ∧ s.slices = [] ∧ s.isHalyard 40 = false ∧
      base.time.stretch = false := ⟨safe_of _ rfl rfl rfl, by decide⟩
theorem meets_CoreReturns : let s : State := { st up17 with
        spars := [(2, { reorder := [cell17 9, cell17 7], inletCr := 1023, outletCr := 1023, wallCr := 2047 })], slices := [(4, { cells := [(600, { cell17 0 with ref := 1 })], genFresh := 601, unlinked := [600] })] }
    (Safe s ∧ s.Mild 28) ∧ s.lowestHeld 2 1 (portQ 17 2) = some (cell17 7) ∧ s.seqDist (cell17 7) ≠ 0 ∧ s.seqDist (cell17 0) = 0 ∧ outSpar (portQ 17 2) = 2 ∧
      s.lowestHeld 2 3 (portQ 17 2) = none ∧ (s.sliceOf 4).unlinked = 600 :: [] ∧ (s.sliceOf 5).unlinked = [] ∧ s.armed 77 = false ∧
      SMap.get? (s.sliceOf 4).cells 600 = some { cell17 0 with ref := 1 } ∧ (cell17 0).mgmt = false ∧ (s.sliceOf 4).freed = [] ∧
      ¬ 1024 ≤ (s.spar 2).inletCr ∧ ¬ 2048 ≤ (s.spar 2).wallCr ∧ 1024 ≤ (s.spar 3).inletCr ∧ 1024 ≤ (s.spar 3).outletCr ∧ 2048 ≤ (s.spar 3).wallCr :=
  ⟨⟨safe_of _ rfl rfl rfl, by decide, 6, by decide, by decide⟩, by decide⟩
theorem meets_BufferCommands : let s : State := { pools with fmem := { bytes := [(0x9003, 0x80)] }, host := { inUse := [0x40000000], poolDepth := [(2, 1)] } }
    (Safe s ∧ Safe base ∧ Safe pools) ∧ base.poolMode = false ∧ s.poolMode = true ∧ s.poolDepth 2 ≠ 0 ∧ s.poolDepth 1 = 0 ∧ (pools.poolTake 3).isNone = true ∧
      0x40000000 ∈ s.host.inUse ∧ 0x40000001 ∉ s.host.inUse := ⟨⟨⟨by decide, rfl, rfl⟩, safe_st [], safe_st _⟩, by decide⟩
theorem meets_BufferCommands_audit : let s : State := { base with slices := [(4, { cells := [(512, cell17 0)], genFresh := 513 })], audit := 1 }
    Safe s ∧ (∀ p ∈ s.host.fns, p.2.resetting = false) ∧ (∀ p ∈ s.slices, p.2.genAvail + p.2.mgmtAvail + p.2.cells.length = 8192) ∧
      (∀ p ∈ s.slices, ∀ x ∈ p.2.cells, x.2.owner < 4096) ∧ s.audit = 1 := ⟨safe_of _ rfl rfl rfl, by decide +kernel⟩
theorem meets_PortTransmit : let s : State := { st up17 with spars := staged (portQ 17 2) }
    (Safe s ∧ Safe base) ∧ (s.linkUp 17 = true ∧ (s.port 17).cut.isNone = true ∧ (s.port 17).pfcDue = []) ∧ base.linkUp 17 = false ∧ s.portFenced 17 = false ∧
      (tabFrame 17 (s.spar 2).tabLane).isNone = true ∧ s.headReady (portQ 17 8) = false ∧ s.strict 17 2 = false ∧ s.eligible 17 2 = true ∧
      (s.headFrame (portQ 17 2)).1.length = 1 ∧ wholeFrame (s.headFrame (portQ 17 2)).1 = true ∧
      ({} : Result).marks.getD 8 255 = 255 ∧ 64 ≤ s.maxFrame 17 ∧ s.bget (Reg.TEL_PC_CFG 2) 0 = false :=
  ⟨⟨safe_of _ rfl rfl rfl, safe_st []⟩, by decide⟩
theorem meets_PortTransmit_pick : let s : State := { st up17 with spars := staged (portQ 17 2) }
    (s.tab 0x0803 2 0).all (· == 0) = true ∧ ((s.roundRobin 17 4400 (s.port 17)).1 == some 2) = true := by decide +kernel
theorem meets_PortTransmit_before : let s : State := { st up17 with spars := [(2, { tabLane := [{ tab40 with port := 17, data := zs 64 }] })] }
    let u : State := { st up17 with ports := [(17, { pfcDue := [(3, 5), (4, 0)] })] }
    let v := st up17
    (Safe s ∧ Safe u ∧ Safe v) ∧ (tabFrame 17 (s.spar 2).tabLane).isSome = true ∧ u.linkUp 17 = true ∧ (u.port 17).pfcDue = (3, 5) :: [(4, 0)] ∧
      (upto 8).any (fun k => !v.strict 17 k && v.eligible 17 k) = false ∧ [7, 6, 5, 4, 3, 2, 1, 0].find? (fun k => v.strict 17 k && v.eligible 17 k) = none :=
  ⟨⟨safe_of _ rfl rfl rfl, safe_of _ rfl rfl rfl, safe_st _⟩, by decide +kernel⟩
theorem meets_EgressService : let s : State := { base with spars := [(2, { staging := [(engineQ 2, [cell17 0])], inletCr := 7 })] }
    let h : State := { base with spars := [(2, { inletHold := [⟨1, true, true⟩] })] }
    (Safe s ∧ Safe h) ∧ s.headFrame (engineQ 2) = (cell17 0 :: [], []) ∧ wholeFrame [cell17 0] = true ∧ wholeFrame [{ cell17 0 with last := false }] = false ∧
      (s.spar 2).inletHold = [] ∧ (h.spar 2).inletHold ≠ [] ∧ (base.headFrame (engineQ 2)).1 = [] ∧ s.fget (Reg.TEL_SAMPLE 2) 15 0 ≠ 0 ∧
      (st [(Reg.TEL_SAMPLE 2, 0)]).fget (Reg.TEL_SAMPLE 2) 15 0 = 0 := ⟨⟨safe_of _ rfl rfl rfl, safe_of _ rfl rfl rfl⟩, by decide⟩

/-! The statements about microwords, routines and standard commands. -/

theorem meets_EngineAlu : (Safe (eng (job1 [(1, 7)])) ∧ Safe (eng { job1 [] with committed := true, tail := 15 })) ∧
    (let s := eng (job1 [(1, 7)])
     s.fetches 20 = true ∧ (s.engine 20).committed = false ∧ Alu.paired (rrr false) = false ∧ Alu.paired (rrr true) = true ∧ base.uLive 20 = false) ∧
    (let s := eng { job1 [] with committed := true, tail := 15 }
     let inTail := fun (k : Nat) (f : Alu) => (Alu.regs f).all (fun r => decide (1 ≤ r) && decide (r ≤ 47)) && decide (k < 16)
     s.fetches 20 = true ∧ inTail (s.engine 20).tail (.reg 47 1 2 false true) = true ∧ inTail 16 (.reg 47 1 2 false true) = false ∧
       inTail 15 (.reg 48 1 2 false true) = false ∧ inTail 15 (.reg 0 1 2 false true) = false) :=
  ⟨⟨safe_of _ rfl rfl rfl, safe_of _ rfl rfl rfl⟩, by decide⟩
theorem meets_AluResults : Safe (eng (job1 [])) ∧ (eng (job1 [])).fetches 20 = true ∧ ((eng (job1 [])).engine 20).committed = false ∧
    (16 = 16 ∨ 16 = 32) ∧ (BitVec.allOnes 32 ≠ 0) ∧ ((63 : Nat) ≠ 0) := ⟨safe_of _ rfl rfl rfl, by decide⟩
theorem meets_EngineFlow : (Safe base ∧ Safe (eng { job1 [] with stack := List.replicate 8 1 }) ∧ Safe (eng { job1 [] with committed := true, tail := 15 })) ∧
    base.uLive 20 = false ∧ (eng (job1 [])).Steps 20 ∧
    (let s := eng { job1 [] with stack := List.replicate 8 1 }
     s.Steps 20 ∧ 8 ≤ (s.engine 20).stack.length ∧ (s.engine 20).stack = 1 :: List.replicate 7 1) ∧
    (let s := eng { job1 [] with stack := List.replicate 7 1 }
     s.Steps 20 ∧ (s.engine 20).stack.length < 8) ∧ ((eng (job1 [])).engine 20).stack = [] ∧
    (let s := eng { job1 [] with committed := true, tail := 15 }
     s.fetches 20 = true ∧ (s.engine 20).committed = true ∧ (s.engine 20).tail < 16) :=
  ⟨⟨safe_st [], safe_of _ rfl rfl rfl, safe_of _ rfl rfl rfl⟩, by unfold Steps; decide⟩
/-- Engine 20 a member of a gang with engine 21. -/
def inGang (x : Engine) : State := { eng { x with ctxs := [(1, { state := 2, count := 3, sq := 3, gang := some 0 })] } with tabs := gang2 }
theorem meets_EngineUnits : (Safe (eng (job1 [])) ∧ Safe (inGang (job1 []))) ∧
    (let s := eng { job1 [] with unitBusy := [(3, 1)] }
     s.Steps 20 ∧ s.unitIdle 20 3 = false ∧ s.unitIdle 20 9 = true ∧ s.gangOf 20 = none) ∧
    (let s := inGang (job1 [])
     s.Steps 20 ∧ s.unitIdle 20 9 = true ∧ s.gangOf 20 ≠ none) ∧
    (let s := eng { winJob [] with unitBusy := [(3, 1)] }
     (s.engine 20).cur ≠ none ∧ (s.engine 20).unitBusy.any (fun p => p.1 == 3) = true ∧ (s.engine 20).committed = false ∧
       s.inWin 20 16 = true ∧ s.inWin 20 17 = true ∧ s.inWin 20 18 = false ∧ s.inWin 20 15 = false) ∧
    ((base.engine 20).cur = none) := ⟨⟨safe_of _ rfl rfl rfl, safe_of _ rfl rfl rfl⟩, by unfold Steps; decide⟩
theorem meets_EngineUnits_stalls : ((base.engine 20).stall = .none) ∧
    (let s := eng { job1 [] with stall := .wait 0x8000 }
     (s.engine 20).stall = .wait 0x8000 ∧ s.waitMet 20 0x8000 = false ∧ s.waitMet 20 0x4008 = true) ∧
    (let s := eng { job1 [] with stall := .unit 3 7 }
     (s.engine 20).stall = .unit 3 7 ∧ s.unitIdle 20 3 = true) ∧
    (let s := eng { job1 [] with stall := .unit 9 7 }
     (s.engine 20).stall = .unit 9 7 ∧ s.unitIdle 20 9 = true ∧ s.gangOf 20 = none) ∧
    (let s := inGang { job1 [] with stall := .barrier 3 1 }
     (s.engine 20).stall = .barrier 3 1 ∧ s.barrierOpen 20 3 1 = false) ∧
    (let s := eng { job1 [] with stall := .outlet 5 true, openStage := List.replicate 2047 ⟨1, true, false⟩ }
     (s.engine 20).stall = .outlet 5 true ∧ s.stageFree 20 = true ∧ (s.engine 20).openStage.length < 2048) ∧
    (eng { job1 [] with stall := .outlet 5 true, sealedStages := [(1, []), (1, [])] }).stageFree 20 = false ∧
    (let s := eng { job1 [] with stall := .memory }
     (s.engine 20).stall = .memory ∧ s.memFenced 20 = false) ∧ ((eng { job1 [] with stall := .rows }).engine 20).stall = .rows ∧ base.cqeRoom = true := by decide
theorem meets_EngineMemory : Safe (eng (winJob [(1, 16)])) ∧
    (let s := eng (winJob [(1, 16)])
     s.Steps 20 ∧ s.memFenced 20 = false ∧ s.inWin 20 16 = true ∧ s.inWin 20 17 = true ∧ s.inWin 20 18 = false ∧
       s.isoRefused (s.segTenant 20) (s.segAddr 20 16) 4 = false ∧ touchesHole (s.segAddr 20 16) 4 = false ∧ s.armed 29 = false ∧
       s.burstErrs (s.segAddr 20 16) 4 = []) ∧
    (eng { job1 [] with committed := true }).fetches 20 = true := ⟨safe_of _ rfl rfl rfl, by unfold Steps; decide⟩
theorem meets_EngineMemory_stops : (let s : State := { eng (job1 []) with fmem := { fenced := [20] } }
     Safe s ∧ s.Steps 20 ∧ s.memFenced 20 = true) ∧
    (let s : State := { eng { job1 [] with ctxs := [(1, { state := 2, count := 3, sq := 3, tenant := 1 })] } with regs := [(Reg.FMC_CFG, 1)], tabs := [(tkey 0x0D01 0 1, [1])] }
     Safe s ∧ s.Steps 20 ∧ s.memFenced 20 = false ∧ s.isoRefused (s.segTenant 20) (s.segAddr 20 16) 4 = false ∧ s.isoRefused 1 (2 ^ 34) 4 = true) :=
  ⟨⟨safe_of _ rfl rfl rfl, by unfold Steps; decide⟩, safe_of _ rfl rfl rfl, by unfold Steps; decide⟩

theorem meets_EngineStreams : let s : State := { eng { inlet0 with hold := List.replicate 2047 ⟨5, true, false⟩, replay := 2047 } with spars := [(20, { inlet := [⟨6, true, true⟩] })] }
    let u := eng { inlet0 with hold := [⟨5, true, false⟩] }
    (Safe s ∧ Safe u ∧ Safe base) ∧ base.uLive 20 = false ∧
    (s.Steps 20 ∧ s.curOf 20 = 0 ∧ (s.engine 20).hold.drop (s.engine 20).replay = [] ∧ (s.spar 20).inlet = ⟨6, true, true⟩ :: [] ∧ (s.engine 20).hold.length < 2048) ∧
    (u.Steps 20 ∧ u.curOf 20 = 0 ∧ (u.engine 20).hold.drop (u.engine 20).replay = ⟨5, true, false⟩ :: []) ∧ (eng (job1 [])).curOf 20 ≠ 0 ∧
    (u.stageFree 20 = true ∧ (u.engine 20).openStage.length < 2048) ∧ (eng { job1 [] with sealedStages := [(1, []), (1, [])] }).stageFree 20 = false ∧
    (u.Steps 20 ∧ (u.engine 20).cur = some 0 ∧ (u.engine 20).notices = [] ∧ (u.engine 20).gsync = [] ∧ (u.engine 20).changes = []) ∧
    (let v := eng { inlet0 with changes := [(16, 1)] }
     v.Steps 20 ∧ (v.engine 20).changes = [(16, 1)] ∧ touchesHole (v.segAddr 20 16) 4 = false) ∧
    (let v := eng { inlet0 with notices := [5] }
     v.Steps 20 ∧ (v.engine 20).cur = some 0 ∧ (v.engine 20).notices = [5]) ∧
    (let v := eng { job1 [] with committed := true, ctxs := [(1, { state := 2, ended := some 2 })] }
     v.fetches 20 = true ∧ (v.engine 20).committed = true ∧ (v.engine 20).cur = some 1 ∧ (v.ctx 20 1).ended ≠ none) :=
  ⟨⟨safe_of _ rfl rfl rfl, safe_of _ rfl rfl rfl, safe_st []⟩, by unfold Steps; decide⟩
theorem meets_EngineStreams_release : (let s := eng { releasing := packet 64 }
     Safe s ∧ s.engFenced 20 = false ∧ (s.engine 20).releasing ≠ []) ∧
    (let s := eng { sealedStages := [(0, packet 63)] }
     Safe s ∧ s.engFenced 20 = false ∧ (s.engine 20).releasing = [] ∧ (s.engine 20).sealedStages = (0, packet 63) :: []) ∧
    (let s : State := { eng {} with regs := [(Reg.CE_CMD 20, 2)] }
     Safe s ∧ s.engFenced 20 = true) := ⟨⟨safe_of _ rfl rfl rfl, by decide⟩, ⟨safe_of _ rfl rfl rfl, by decide⟩, safe_of _ rfl rfl rfl, by decide⟩
theorem meets_EngineExceptions : (Safe inletReady ∧ ({ inletReady with tabs := inletReady.tabs ++ [(tkey 0x1001 0 126, [1])] } : State).Mild 126) ∧
    (inletReady.memFenced 20 = false ∧ inletReady.engUsable 20 = true ∧ (inletReady.engine 20).reloading = false ∧ (inletReady.engine 20).cur = none ∧
      inletReady.pickCtx 20 = some 0 ∧ touchesHole 0x40 32 = false ∧ inletReady.armed 29 = false ∧ inletReady.burstErrs 0x40 32 = []) ∧ base.pickCtx 20 = none ∧
    (let s : State := { eng { reloading := true } with tabs := [(tkey 0x1001 0 40, [1])] }
     Safe s ∧ s.armed 40 = false ∧ s.Mild 40 ∧ (s.engine 20).reloading = true) ∧
    (let s : State := { eng { job1 [] with ctxs := [(0, { state := 5 }), (1, { state := 2, count := 3, sq := 3 })] } with
       regs := [(Reg.CE_CFG 20, 0x0FA00339), (Reg.CE_INLET_LEN 20, 2)] }
     Safe s ∧ (s.ctx 20 0).state = 5 ∧ (s.engine 20).cur = some 1 ∧ s.bget (Reg.CE_CFG 20) 3 = true ∧ (s.engine 20).committed = false ∧
       0 < s.ctxCount 20 0 ∧ s.ctxPrio 20 1 < s.ctxPrio 20 0) ∧
    ((eng (job1 [])).Steps 20 ∧ (base.ctx 20 0).state ≠ 5 ∧ (eng { job1 [] with committed := true }).fetches 20 = true) :=
  ⟨⟨⟨by decide, rfl, rfl⟩, by decide, 7, by decide, by decide⟩, by decide, by decide, ⟨safe_of _ rfl rfl rfl, by decide, ⟨by decide, 14, by decide, by decide⟩, by decide⟩,
    ⟨safe_of _ rfl rfl rfl, by decide⟩, by unfold Steps; decide⟩
theorem meets_StandardCommands : (let s : State := { eng (std 0 {} 2 16 19 [(48, 19)]) with spars := [(20, { inlet := [⟨0x0000000B0000000A, true, true⟩] })] }
     (Safe s ∧ s.CleanMem ∧ s.OnCommand 20 2 0) ∧ (s.engine 20).hold = [] ∧ (s.spar 20).inlet = ⟨0x0000000B0000000A, true, true⟩ :: [] ∧ s.ringNext 20 19 = 16 ∧
       lands s 19 4 = true ∧ lands s 16 4 = true ∧ (19 : Nat) ≠ 16) ∧
    (let s := eng (std 0 {} 2 16 19 [(48, 19)])
     (Safe s ∧ s.CleanMem ∧ s.OnCommand 20 2 0) ∧ (s.inletWords 20).any (fun w => w.l) = false) ∧
    (let s := eng (std 1 {} 3 16 19 [(48, 19)])
     (Safe s ∧ s.CleanMem ∧ s.OnCommand 20 3 1) ∧ s.winMeets 20 15 1 = false ∧ s.winMeets 20 16 1 = true ∧ s.winMeets 20 19 1 = true ∧
       s.winMeets 20 20 1 = false ∧ reach s 20 4 = true ∧ lands s 19 4 = true ∧ lands s 20 4 = false ∧ s.inWin 20 20 = false) :=
  ⟨⟨⟨safe_of _ rfl rfl rfl, ⟨by decide, rfl, rfl⟩, onCmd_runs _ _ _ (by decide)⟩, by decide⟩, ⟨⟨safe_of _ rfl rfl rfl, ⟨by decide, rfl, rfl⟩, onCmd_runs _ _ _ (by decide)⟩, by decide⟩,
    ⟨safe_of _ rfl rfl rfl, ⟨by decide, rfl, rfl⟩, onCmd_runs _ _ _ (by decide)⟩, by decide⟩
/-- The stores of a region of the picture at word 16 land. -/
def rowsLand (s : State) (src : Nat) : Bool :=
  (upto 3).all (fun c => let r := regionRows (s.picAt (s.segAddr 20 48)) (whole 48) (fun _ _ _ => 0) c
    r.all (fun r => r.2.isEmpty || (s.inWin 20 ((4 * 48 + r.1) / 4) && s.inWin 20 ((4 * 48 + r.1 + r.2.length - 1) / 4) &&
      !s.isoRefused (s.segTenant 20) (addr37 (s.ctxSeg 20 1 * 4096 + (4 * 48 + r.1))) r.2.length))) &&
    !(regionReads (s.picAt (s.segAddr 20 src)) src 0 1).any (fun r => s.winMeets 20 r.1 r.2)
theorem meets_StandardCommands_regions : (let s : State := { eng (std 1 {} 0x30 48 80 []) with fmem := pictures }
     (Safe s ∧ s.CleanMem ∧ s.OnCommand 20 0x30 1) ∧ rowsLand s 16 = true ∧ (regionReads (s.picAt (s.segAddr 20 16)) 16 0 1).all (fun r => reach s r.1 (4 * r.2)) = true) ∧
    (let s : State := { eng (std 1 {} 0x31 16 80 []) with fmem := pictures }
     (Safe s ∧ s.CleanMem ∧ s.OnCommand 20 0x31 1) ∧ (regionReads (s.picAt (s.segAddr 20 16)) 16 0 1).any (fun r => s.winMeets 20 r.1 r.2) = true) :=
  ⟨⟨⟨⟨by decide +kernel, rfl, rfl⟩, ⟨by decide, rfl, rfl⟩, onCmd_runs _ _ _ (by decide)⟩, by decide +kernel⟩,
    ⟨⟨by decide +kernel, rfl, rfl⟩, ⟨by decide, rfl, rfl⟩, onCmd_runs _ _ _ (by decide)⟩, by decide +kernel⟩
theorem meets_StandardCommands_ends : (let s := eng (std 1 { owner := 1155 } 0x40 0 0 [])
     (Safe s ∧ s.CleanMem ∧ s.OnCommand 20 0x40 1) ∧ s.ringSession 20 16 = none ∧ s.winMeets 20 16 16 = false ∧ s.winMeets 20 0 16 = true ∧ s.stageFree 20 = true ∧
       reach s 16 64 = true ∧ (packetWords 0x20011 2 1155 (zs 64)).length ≤ 2048 ∧ 2048 < (packetWords 0x20011 2 1155 (zs 16377)).length ∧
       (packetWords 0x20011 2 1155 (zs 16376)).length = 2048) ∧
    (let s := eng (std 1 { job := 5 } 0x41 0 0 [])
     (Safe s ∧ s.CleanMem ∧ s.Steps 20) ∧ s.memFenced 20 = false ∧ (s.engine 20).cur = some 1 ∧ (s.ctx 20 1).ended = none ∧ (s.ctx 20 1).gang = none ∧ s.cqeRoom = true ∧
       s.host.taking = false) ∧
    (let s := eng (std 0 {} 0x41 0 0 [])
     (Safe s ∧ s.CleanMem ∧ s.OnCommand 20 0x41 0)) ∧
    (let s := eng (std 1 { decDsb := some (dsb 0) } 0x50 64 68 [])
     (Safe s ∧ s.CleanMem ∧ s.OnCommand 20 0x50 1) ∧ (s.ctx 20 1).encEsb = none ∧ (s.ctx 20 1).decDsb = some (dsb 0) ∧ 2 < bf (dsb 0) 8 4 0 ∧ ¬ 3 < bf (dsb 0) 8 4 0 ∧
       bf (dsb 0) 6 31 0 + 0 * bf (dsb 0) 7 31 0 + 4 = 68 ∧ lands s 68 4 = true) ∧
    (let s := eng (std 1 { encEsb := some (tiny 1) } 0x50 8 12 [])
     (Safe s ∧ s.CleanMem ∧ s.OnCommand 20 0x50 1) ∧ ((s.ctx 20 1).encEsb == some (tiny 1)) = true ∧ 1 < bf (tiny 1) 44 3 0 ∧ lands s (bf (tiny 1) 42 31 0 + bf (tiny 1) 43 31 0) 4 = true) ∧
    (let s : State := { eng (std 1 { gang := some 0 } 0x60 0 0 []) with tabs := gang2, stack := { arrived := [(49, 1)] } }
     (Safe s ∧ s.CleanMem ∧ s.OnCommand 20 0x60 1) ∧ (s.engine 20).gsync = [] ∧ s.gangOf 20 = some 0 ∧ s.gangSize 0 = 2 ∧ s.memberIndex 20 = 0 ∧ 1 ≤ s.arrivedAt 0 3 1) ∧
    (let s : State := { eng (std 1 { gang := some 0 } 0x60 0 0 []) with tabs := gang2 }
     s.arrivedAt 0 3 1 < 1 ∧ s.released 0 3 < 1) :=
  ⟨⟨⟨safe_of _ rfl rfl rfl, ⟨by decide, rfl, rfl⟩, onCmd_runs _ _ _ (by decide)⟩, by decide⟩, ⟨⟨safe_of _ rfl rfl rfl, ⟨by decide, rfl, rfl⟩, by unfold Steps; decide⟩, by decide⟩,
    ⟨safe_of _ rfl rfl rfl, ⟨by decide, rfl, rfl⟩, onCmd_runs _ _ _ (by decide)⟩, ⟨⟨safe_of _ rfl rfl rfl, ⟨by decide, rfl, rfl⟩, onCmd_runs _ _ _ (by decide)⟩, by decide⟩,
    ⟨⟨safe_of _ rfl rfl rfl, ⟨by decide, rfl, rfl⟩, onCmd_runs _ _ _ (by decide)⟩, by decide⟩, ⟨⟨safe_of _ rfl rfl rfl, ⟨by decide, rfl, rfl⟩, onCmd_runs _ _ _ (by decide)⟩, by decide⟩, by decide⟩

/-- The chain of reads, coding and stores that lets ENC_CTUS of engine 20 complete, with `b` as its session (R257–R277). -/
def encCompletes (s : State) (b : List Word) (r : Nat) (k : Nat) : Bool :=
  let seg := fun (i n : Nat) => wordsOf (s.fmRead (s.segAddr 20 i) (4 * n))
  let rmb := rmbTake b (seg r 16) (s.ctx 20 k).encFresh
  let src := s.encSrc 20 b
  let first := (s.encRange 20 b).1
  let last := (s.encRange 20 b).2
  let hd := seg src 4
  let want := if s.isLeader 20 then wAt rmb 7 else (s.ctx 20 k).encNext
  let r1 := s.segRead 20 r 16
  let r2 := r1.2.segRead 20 src 4
  let r3 := r2.2.segReads 20 (s.encReads 20 b)
  let g := r3.2.encStart 20 b rmb hd
  let r4 := r3.2.encCtuRun 20 g.1 g.2.1 (s.encRing 20) g.2.2 (s.encMine 20 b first last)
  reach s r 64 && first == want && !((src, 4) :: s.encReads 20 b).any (fun q => s.winMeets 20 q.1 q.2) && reach s src 16 &&
    (fld (hd.getD 0 0) 1 0 == bf b 4 25 24 && fld (hd.getD 0 0) 2 2 == bf b 4 23 23) && !(decide (first < last ∧ wAt hd 1 < s.encLines 20 b) || s.encWaits 20 b) &&
    (decide (first ≠ 0) || (s.encSlot 20 b).isSome) && r1.1 == some (seg r 16) && r2.1 == some hd && r3.1 &&
    match r4.1 with
    | none => false
    | some o =>
      let r5 := r4.2.segPuts 20 (o.done.map (fun q => (4 * ringEntry b q.1 + 4, q.2)))
      let ws := r5.2.encWords 20 b rmb hd o
      let fs := r3.2.encFrames 20 b rmb hd o
      r5.1 && ws.all (fun q => s.inWin 20 q.1) && (fs.isEmpty || r4.2.stageFree 20) &&
        decide ((s.engine 20).openStage.length + (fs.flatMap (packetWords (bf b 11 19 0) (bf b 11 23 20) (s.ctxOwner 20))).length ≤ 2048)
/-- ENC_CTUS with no CTU left of its picture: FIRST is 1, the count 0, and the rate model block at 16 stands at CTU 1. -/
def encDone : State := { eng { encCmd 0x20 0 { encEsb := some (tiny 1), encRecon := some 1 } with
    cmd := [0x10000000, 0x20000000, 16, 0, 0, 0, 8, 31] } with
  fmem := memOf [(64, [0x00A4CB80, 0, 178900, 0, 7, 0x1E23, 9, 1]), (8000, [1, 64])] }
theorem meets_CodingSessions : (Safe encDone ∧ encDone.CleanMem ∧ encDone.OnCommand 20 0x20 1) ∧ encCompletes encDone (tiny 1) 16 1 = true :=
  ⟨⟨⟨by decide, rfl, rfl⟩, ⟨by decide, rfl, rfl⟩, onCmd_runs _ _ _ (by decide)⟩, by decide +kernel⟩
theorem meets_CodingSessions_refusals : (let s := eng (encCmd 0x20 1 {})
     (Safe s ∧ s.CleanMem ∧ s.OnCommand 20 0x20 1) ∧ (s.ctx 20 1).encEsb = none) ∧
    (let s := eng (encCmd 0x21 0 {})
     (Safe s ∧ s.CleanMem ∧ s.OnCommand 20 0x21 1) ∧ (s.ctx 20 1).encEsb = none) ∧
    (let s := eng (decCmd 0x10 {})
     (Safe s ∧ s.CleanMem ∧ s.OnCommand 20 0x10 1) ∧ (s.ctx 20 1).decDsb = none) ∧
    (let s := eng (decCmd 0x11 { decDsb := some (dsb 0) })
     (Safe s ∧ s.CleanMem ∧ s.OnCommand 20 0x11 1) ∧ (s.ctx 20 1).decDsb ≠ none ∧ (s.ctx 20 1).decSlot = none) ∧
    (let s := eng (decCmd 0x10 { decDsb := some (dsb 0), decSlot := some 3 })
     bits ((wAt (s.engine 20).cmd 0) + 2 ^ 32 * wAt (s.engine 20).cmd 1) 55 48 = 255) ∧ base.uLive 20 = false :=
  ⟨⟨⟨safe_of _ rfl rfl rfl, ⟨by decide, rfl, rfl⟩, onCmd_runs _ _ _ (by decide)⟩, by decide⟩,
    ⟨⟨safe_of _ rfl rfl rfl, ⟨by decide, rfl, rfl⟩, onCmd_runs _ _ _ (by decide)⟩, by decide⟩,
    ⟨⟨safe_of _ rfl rfl rfl, ⟨by decide, rfl, rfl⟩, onCmd_runs _ _ _ (by decide)⟩, by decide⟩,
    ⟨⟨safe_of _ rfl rfl rfl, ⟨by decide, rfl, rfl⟩, onCmd_runs _ _ _ (by decide)⟩, by decide⟩, by decide⟩
theorem meets_CodingSessions_setctx : (let s : State := { eng (std 1 {} 1 99 99 []) with fmem := memOf [(0, dsb 0)] }
     (Safe s ∧ s.CleanMem ∧ s.OnCommand 20 1 1) ∧ s.winMeets 20 0 32 = false ∧ s.winMeets 20 68 32 = true ∧ s.winMeets 20 67 32 = false ∧ reach s 0 128 = true ∧
       (let lo := wordsOf (s.fmRead (s.segAddr 20 0) 128)
        bf lo 0 7 0 = 0x81 ∧ (s.dsbFails 20 lo (s.rateFilled lo)).isNone = true)) ∧
    (let s : State := { eng (std 1 {} 1 99 99 []) with fmem := memOf [(0, cawley 1920 1080 125000 25000 3600 1 123)] }
     (Safe s ∧ s.CleanMem ∧ s.OnCommand 20 1 1) ∧ s.winMeets 20 32 32 = false ∧ reach s 0 128 = true ∧ reach s 32 128 = true ∧
       (let raw := wordsOf (s.fmRead (s.segAddr 20 0) 256)
        bf raw 0 7 0 ≠ 0x81 ∧ (s.esbFails 20 raw (s.rateFilled raw)).isNone = true)) :=
  ⟨⟨⟨⟨by decide, rfl, rfl⟩, ⟨by decide, rfl, rfl⟩, onCmd_runs _ _ _ (by decide)⟩, by decide +kernel⟩,
    ⟨⟨by decide, rfl, rfl⟩, ⟨by decide, rfl, rfl⟩, onCmd_runs _ _ _ (by decide)⟩, by decide +kernel⟩
/-- The chain that lets ENC_END of engine 20's leader complete. -/
def encEndCompletes (s : State) (b : List Word) (r k : Nat) : Bool :=
  let seg := fun (i n : Nat) => wordsOf (s.fmRead (s.segAddr 20 i) (4 * n))
  let r1 := s.segRead 20 r 16
  let r2 := r1.2.segRead 20 (s.encSrc 20 b) 4
  let y := r2.2.encClose 20 b (rmbTake b (seg r 16) (s.ctx 20 k).encFresh) (seg (s.encSrc 20 b) 4)
  !s.encAcross 20 b && s.isLeader 20 && bf b 4 28 27 == 0 && reach s r 64 && reach s (s.encSrc 20 b) 16 && r1.1 == some (seg r 16) &&
    r2.1 == some (seg (s.encSrc 20 b) 4) && y.words.all (fun q => s.inWin 20 q.1) && (y.frames.isEmpty || r2.2.stageFree 20) &&
    decide ((s.engine 20).openStage.length + (y.frames.flatMap (packetWords (bf b 11 19 0) (bf b 11 23 20) (s.ctxOwner 20))).length ≤ 2048)
theorem meets_CodingSessions_encEnd : let s : State := { eng (encCmd 0x21 0 { encEsb := some (tiny 1), encRecon := some 1 }) with
        fmem := memOf [(32, [2]), (40, [1]), (64, [0x00A4CB80, 0, 178900, 0, 7, 0x1E23, 9, 1])] }
    (Safe s ∧ s.CleanMem ∧ s.OnCommand 20 0x21 1) ∧ encEndCompletes s (tiny 1) 16 1 = true :=
  ⟨⟨⟨by decide, rfl, rfl⟩, ⟨by decide, rfl, rfl⟩, onCmd_runs _ _ _ (by decide)⟩, by decide +kernel⟩
/-- The chain that lets DEC_CTUS complete with what it takes of the ring. -/
def decCompletes (s : State) (b : List Word) (k : Nat) (ring : List RingPacket) : Bool :=
  let c := s.ctx 20 k
  let w0 := wAt (s.engine 20).cmd 0 + 2 ^ 32 * wAt (s.engine 20).cmd 1
  let slot := bits w0 55 48
  let first := bits w0 47 28
  let r1 := s.ringTake 20 b (c.str, { seq := c.str.seq, part := c.str.part }) ring
  (slot == 255 || !c.decSlot.any (fun q => q != slot)) && (first == 0xFFFFF || first == c.decNext) &&
    match r1.1 with
    | none => false
    | some (z, rc) =>
      let r2 := r1.2.decRunAll 20 b (takenCtx c z rc) (bits w0 27 12) rc.lost
      match r2.1 with
      | none => false
      | some u => !u.wait && (r2.2.rowsGrown 20 b u.c).isNone
theorem meets_CodingSessions_decCtus : let s : State := { eng { decCmd 0x10 { decDsb := some (dsb 0) } with
        cmd := [0xF0001000, 0x10FFFFFF, 0, 0, 0, 0, 0, 300] } with fmem := memOf [(1600, rtp35)] }
    (Safe s ∧ s.CleanMem ∧ s.OnCommand 20 0x10 1) ∧ decCompletes s (dsb 0) 1 [⟨16, 5⟩] = true :=
  ⟨⟨⟨by decide, rfl, rfl⟩, ⟨by decide, rfl, rfl⟩, onCmd_runs _ _ _ (by decide)⟩, by decide +kernel⟩
/-- The chain that lets DEC_END of a leader complete. -/
def decEndCompletes (s : State) (b : List Word) (p : Config.ParamSet) (pic k : Nat) : Bool :=
  let c := s.ctx 20 k
  let r1 := s.concealAll 20 b p pic
  let d2 := (r1.2.cntAdd (Reg.C_CE_DEC_CONC_CTUS 20) (s.decLacking 20 p).length).cntAdd (Reg.C_CE_DEC_TAINT_CTUS 20)
    (c.decDone.filter (fun a => r1.2.ctuMark 20 b pic a == 2)).length
  let r3 := d2.slotClose 20 b p pic
  let r4 := r3.2.closeOutputs 20 b p pic
  s.decCloses 20 b p pic && s.isLeader 20 && r1.1 && r3.1 && r4.1 &&
    (r4.2.2.segWrite 20 (s.reportAt 20 b) (bytesOf (r4.2.2.reportWords 20 b p pic (d2.markCounts 20 b p pic) r4.2.1 false false))).1
theorem meets_CodingSessions_decEnd : let s : State := { eng (decCmd 0x11 { pic0 ps8 [0] with decDsb := some (dsb 0) }) with fmem := memOf [(272, [1, 5])] }
    (Safe s ∧ s.CleanMem ∧ s.OnCommand 20 0x11 1) ∧ decEndCompletes s (dsb 0) ps8 0 1 = true ∧ (s.ctx 20 1).str.hash = [] ∧
      (eng (decCmd 0x11 { pic0 ps8 [] with decDsb := some (dsb 0) })).decCloses 20 (dsb 0) ps8 0 = false :=
  ⟨⟨⟨by decide, rfl, rfl⟩, ⟨by decide, rfl, rfl⟩, onCmd_runs _ _ _ (by decide)⟩, by decide +kernel⟩

/-! Frame memory. -/

/-- A read of eight bytes by engine 20, and a write by the BAR2 window. -/
def read8 : MemReq := { port := 20, addr := 0x1000, prio := 0, tenant := 1, op := .read 8 }
def write2 : MemReq := { port := 256, addr := 0x101F, prio := 0, tenant := 0, op := .write [1, 2] }
/-- One transfer under way. -/
def oneXfer (r : MemReq) (m : FrameMem) : State := { base with fmem := { m with xfers := [{ id := 4, req := r, cls := 1 }] } }
/-- The state that a step answers satisfies `p`. -/
def steps (s : State) (p : State → Bool) : Bool := match step s with | .next t => p t | _ => false

theorem test_request_is_queued : ok (.memoryRequest read8) { base with gated := [.pseudo 0, .pseudo 1] } (fun t =>
    t.fmem.xfers == [{ id := 0, req := read8, cls := 1 }] && t.gated == [.pseudo 1]) = true := by decide
theorem test_request_into_a_hole : ok (.memoryRequest { read8 with addr := 0x180000000 }) base (fun t =>
    t.cnt Reg.C_FMC_HOLE_ACCESS == 1 && t.rd Reg.FMC_EVENT == 0x20 && t.fmem.xfers == []) = true := by decide
theorem test_read_answered : steps (oneXfer read8 (memOf [(0x1000, [7, 9])])) (fun t =>
    t.fmem.xfers == [] && t.outs == [.memData [7, 0, 0, 0, 9, 0, 0, 0] false]) = true := by decide +kernel
theorem test_write_of_two_bursts : steps (oneXfer write2 {}) (fun t => t.fmRead 0x101F 2 == [1, 0] && t.fmem.xfers.length == 1 && steps t (fun u =>
    u.fmRead 0x101F 2 == [1, 2] && u.fmem.xfers == [])) = true := by decide +kernel
theorem test_refused_request : ok (.memoryRequest read8) { base with regs := [(Reg.FMC_CFG, 1)], tabs := [(tkey 0x0D01 0 1, [2])] } (fun t =>
    t.cnt Reg.C_FMC_ISO_REFUSE == 1 && t.rd Reg.FMC_EVENT == 0x40) = true := by decide
theorem test_refresh_forced : ok (.bankRefresh 3 5 false) { base with fmem := { debt := [(149, 7)] } } (fun t =>
    SMap.get (fun _ => 0) t.fmem.debt 149 == 7 && t.outs == [.refresh 3 5]) = true ∧
    ok (.bankRefresh 3 5 true) { base with fmem := { debt := [(149, 2)] } } (fun t => t.fmem.debt == [] && t.outs.length == 3) = true := by decide
theorem test_bar2 : ok (.bar2Access 0x20 (.write [5])) (st [(Reg.FMC_BAR2, 1)]) (fun t => t.fmem.bytes == [(0x40000020, 5)]) = true ∧
    ok (.bar2Move 113) base (fun t => t.rd Reg.FMC_EVENT == 0x80 && t.rd Reg.FMC_BAR2 == 0) = true := by decide

theorem meets_FrameMemory : (Safe base ∧ base.CleanMem) ∧ base.memFenced 20 = false ∧ ({ base with fmem := { fenced := [20] } } : State).memFenced 20 = true ∧
    touchesHole 0x17FFFFFFF 1 = false ∧ touchesHole 0x180000000 1 = true ∧ touchesHole 0x1FFFFFFFF 1 = true ∧ touchesHole 0x200000000 1 = false ∧
    (let s : State := { base with regs := [(Reg.FMC_CFG, 1)], tabs := [(tkey 0x0D01 0 1, [2])] }
     s.isoRefused 1 0x1000 8 = true) ∧
    ((st [(Reg.FMC_BAR2, 0x80000000)]).bget Reg.FMC_BAR2 31 = true) ∧ ¬ (112 < (112 : BitVec 7).toNat) ∧ 112 < (113 : BitVec 7).toNat ∧
    base.inReserved 0x40000000 1 = false := ⟨⟨safe_st [], by decide, rfl, rfl⟩, by decide⟩
/-- A transfer that is alone. -/
def aloneAt (s : State) (x : Xfer) : Prop := s.pending = [] ∧ (∀ e, microFetch s.toDev e = none) ∧ s.fmem.xfers = [x] ∧ s.fmem.queues = [] ∧ s.fmem.ordered = [] ∧
    s.fmem.throttled = [] ∧ s.memFenced x.req.port = false ∧ x.moved = 0 ∧ x.issued = 0 ∧ x.got = [] ∧ x.bad = false ∧ burstCount x.req.addr.toNat (reqLen x.req) = 1
theorem still (s : State) (h : s.engines = []) (e : Nat) : microFetch s.toDev e = none := by
  have hl : s.uLive e = false := by simp [uLive, engine, h, SMap.get]
  simp [microFetch, hl]
theorem meets_FrameMemory_transfers : let s := oneXfer read8 {}
    let u := oneXfer { read8 with port := 257 } { bad := [0x80] }
    (Safe s ∧ s.CleanMem ∧ aloneAt s { id := 4, req := read8, cls := 1 }) ∧ burstCount 0x1018 8 = 1 ∧ burstCount 0x1019 8 = 2 ∧
    (Safe u ∧ u.Mild 29 ∧ aloneAt u { id := 4, req := { read8 with port := 257 }, cls := 1 }) ∧ u.armed 29 = false ∧ u.burstErrs 0x1000 8 = [0x80] :=
  ⟨⟨safe_of _ rfl rfl rfl, ⟨by decide, rfl, rfl⟩, rfl, still _ rfl, by decide⟩, by decide, by decide,
    ⟨safe_of _ rfl rfl rfl, ⟨by decide, 8, by decide, by decide⟩, rfl, still _ rfl, by decide⟩, by decide⟩
theorem meets_FrameMemory_reports : base.Mild 29 ∧ ({ base with tabs := [(tkey 0x1001 0 30, [1])] } : State).Mild 30 ∧ base.Mild 31 ∧ base.fmem.bar2Held = [] :=
  ⟨⟨by decide, 8, by decide, by decide⟩, ⟨by decide, 9, by decide, by decide⟩, ⟨by decide, 10, by decide, by decide⟩, rfl⟩
theorem meets_MemoryUpkeep : (let s : State := { base with fmem := { debt := [(149, 7)] } }
     Safe s ∧ SMap.get (fun _ => 0) s.fmem.debt (3 * 48 + 5) = 7 ∧ s.bankQ 149 = [] ∧ s.wallWaits 149 = false) ∧
    (let s : State := { base with fmem := { debt := [(149, 7)], wallMaint := [149], queues := [(149, [{ seq := 0, xfer := 0, addr := 0, len := 8, data := none, cls := 3, port := 128 }])] } }
     Safe s ∧ s.wallWaits 149 = true ∧ 149 ∈ s.fmem.wallMaint ∧ s.bankQ 149 ≠ []) ∧
    ((st [(Reg.FMC_MAINT, 1)]).bget Reg.FMC_MAINT 0 = true ∧ (st [(Reg.FMC_MAINT, 0)]).bget Reg.FMC_MAINT 0 = false) ∧
    (let s : State := { base with fmem := { bad := [0x80] } }
     Safe s ∧ s.memFenced 258 = false ∧ isHole 0x1000 = false ∧ s.armed 29 = false ∧ s.Mild 29 ∧ 0x1000 / 32 ∈ s.fmem.bad) :=
  ⟨⟨safe_of _ rfl rfl rfl, by decide⟩, ⟨safe_of _ rfl rfl rfl, by decide⟩, by decide, safe_of _ rfl rfl rfl, by decide, by decide, by decide,
    ⟨by decide, 8, by decide, by decide⟩, by decide⟩
theorem meets_WallPipes : (Safe safe16 ∧ Safe base) ∧ base.wallOn 50 = false ∧
    (let s : State := { safe16 with time := { pround := 64, perSeq := 9 } }
     Safe s ∧ s.wallOn 50 = true ∧ (s.pipesSettle 50).pipeLive 50 0 = true ∧ (s.pipesSettle 50).pipeLate 50 0 = true ∧
       ((s.pipesSettle 50).pipeOf 50 0).frame + 1 ≠ s.wFrames 50 ((s.pipesSettle 50).pipeOf 50 0).entry) ∧
    (let s : State := { safe16 with time := { pround := 63, perSeq := 9 } }
     (s.pipesSettle 50).pipeLate 50 0 = false) ∧
    (let g := ((wall50 showEntry 14 []).wallDrain 50).pipesSettle 50
     g.pipeLive 50 0 = true ∧ g.pipeLive 50 1 = false ∧ g.pipeLive 50 2 = false ∧ g.pipeLive 50 3 = false ∧ g.pipeLate 50 0 = false ∧
       g.wType 50 (g.pipeOf 50 0).entry = 3 ∧ (g.spar 50).wallHold = []) :=
  ⟨⟨safe_of _ rfl rfl rfl, safe_st []⟩, by decide, ⟨safe_of _ rfl rfl rfl, by decide⟩, by decide, by decide⟩

/-! Host queues. -/

/-- SQ 5 of a kind and function, of 8 entries with two waiting, on CQ 7 of 8 entries that signals each entry, and what is cached of it. -/
def hq (kind fn : Nat) (cache : List (List Word)) : State := { st [(Reg.HQ_SQ_TAIL 5, 2)] with
  host := { taking := true, link := .l0, sqs := [(5, { cache := cache })] }
  tabs := [(tkey 0x0E01 0 5, [0, 0, wd (3 + 256 * kind + 1024 * fn), wd (7 * 65536), 0, 0]), (tkey 0x0E02 0 7, [0x1000, 0, wd (3 + 32 * fn + 2 ^ 11), 0])] }
/-- An entry of sixteen words. -/
def entry (ws : List Word) : List Word := ws ++ List.replicate (16 - ws.length) 0
/-- The status, the job and the result of the completion entries put out. -/
def cqes (t : State) : List (Nat × Word × Word) := t.outs.filterMap (fun o => match o with
  | .cqe _ _ _ ws => some (fld (ws.getD 1 0) 7 0, ws.getD 0 0, ws.getD 3 0)
  | _ => none)

theorem test_nop_entry : ok (.nopEntry 5 (entry [0, 77])) (hq 1 0 []) (fun t => cqes t == [(0, 77, 0)] && t.rd (Reg.HQ_SQ_HEAD 5) == 1 &&
    t.cnt Reg.C_HQ_CQE_POSTED == 1 && t.rd (Reg.HQ_CQ_TAIL 7) == 1) = true := by decide
theorem test_job_starts_a_context : ok (.job 5 (entry [1, 77, 20, 0, 3, 9, 8])) (hq 1 0 []) (fun t => cqes t == [] && (t.sq 5).running == 1 &&
    (t.ctx 20 1).state == 1 && (t.ctx 20 1).job == 77 && (t.ctx 20 1).count == 3 && (t.ctx 20 1).owner == 8 && t.cnt Reg.C_HQ_JOBS == 1) = true := by decide
theorem test_job_without_commands : ok (.job 5 (entry [1, 77, 20])) (hq 1 0 []) (fun t => cqes t == [(4, 77, 0)]) = true := by decide
theorem test_inject : ok (.inject 5 (entry [2, 77, 0, 0, 64, 0x20011]) (zs 60)) { hq 1 0 [] with regs := SMap.set Reg.resetVal ((st up17).regs) (Reg.HQ_SQ_TAIL 5) 2 } (fun t =>
    (t.spar 64).inject.length == 1 && t.cnt Reg.C_HQ_INJ_FRAMES == 1 && t.host.injecting == [(1, 5, 77)]) = true := by decide
theorem test_inject_too_short : ok (.inject 5 (entry [2, 77, 0, 0, 63, 0x20011]) (zs 60)) (hq 1 0 []) (fun t => cqes t == [(4, 77, 0)]) = true := by decide
theorem test_pool_alloc_outside_pool_mode : ok (.poolAlloc 5 (entry [3, 77, 1])) (hq 1 0 []) (fun t => cqes t == [(4, 77, 0)]) = true ∧
    ok (.poolFreeEntry 5 (entry [4, 77, 1])) (hq 1 0 []) (fun t => cqes t == [(4, 77, 0)]) = true := by decide
theorem test_rxbuf_waits : ok (.rxbuf 5 (entry [5, 77, 0, 0, 64])) (hq 2 0 []) (fun t => (t.sq 5).cache.length == 1 && cqes t == []) = true ∧
    ok (.rxbuf 5 (entry [5, 77, 0, 0, 63])) (hq 2 0 []) (fun t => (t.sq 5).cache == [] && cqes t == [(4, 77, 0)]) = true := by decide
theorem test_dma_entry : ok (.dmaEntry 5 (entry [0x0306, 77, 0x100, 0, 0x200, 0, 64, 1])) (hq 1 0 []) (fun t => (t.dma 3).active && (t.dma 3).burst == 64 &&
    t.rd (Reg.DMA_CH_STATUS 3) == 0x80000000) = true ∧
    ok (.dmaEntry 5 (entry [0x0306, 77, 0x100, 0, 0x200, 0, 62, 1])) (hq 1 0 []) (fun t => cqes t == [(4, 77, 0)]) = true := by decide
theorem test_fetch_pass : ok (.fetchPass [⟨5, 0, [entry [0, 1], entry [0, 2], entry [0, 3]]⟩] []) (hq 1 0 []) (fun t =>
    cqes t == [(0, 1, 0)] && (t.sq 5).cache.length == 1 && t.host.rrPos == 6) = true := by decide
theorem test_doorbell_past_the_ring : ok (.sqTailDoorbell 5 8) (hq 1 0 []) (fun t => t.cnt Reg.C_HQ_DB_BAD == 1 && t.rd (Reg.HQ_SQ_TAIL 5) == 2) = true ∧
    ok (.sqTailDoorbell 5 7) (hq 1 0 []) (fun t => t.rd (Reg.HQ_SQ_TAIL 5) == 7) = true := by decide
theorem test_stop : ok (.sqStop 5 true) (hq 1 0 [entry []]) (fun t => (t.sq 5).cache == [] && t.fget (Reg.HQ_SQ_CTRL 5) 4 0 == 17) = true := by decide
theorem test_dma_burst : ok (.dmaBurst 3 [1, 2, 3, 4] .ok) { hq 1 0 [] with host := { taking := true, dmas := [(3, { active := true, src := 16, dst := 32, burst := 4, count := 2, sq := 5 })] } }
    (fun t => t.outs == [.hostRead 0 16 4, .hostWrite 0 32 [1, 2, 3, 4]] && (t.dma 3).moved == 1 && t.rd (Reg.DMA_CH_MOVED 3) == 1) = true := by decide
theorem test_link_leaves_l0 : ok (.pcieLinkDown true) { hq 1 0 [] with host := { taking := true, link := .l0, heldMsix := [(0, 1)] } } (fun t =>
    t.host.link == .l2 && !t.host.taking && t.outs == [.wakeLine true]) = true := by decide

theorem meets_HostEntries : let h := entry [0, 77]
    let s := hq 1 0 [h]
    (Safe s ∧ s.Comes 5 0 h h []) ∧ s.cqFree 7 = true ∧
    (let u := hq 1 0 []
     Safe u ∧ u.Comes 5 1 (entry [0xFF, 77, 20, 0, 3, 9, 8]) (withType (entry [0xFF, 77, 20, 0, 3, 9, 8]) 1) []) ∧
    (let u := hq 0 0 [h]
     u.sqMoves 5 = false ∧ u.sqKind 5 = 0) ∧ ({ s with host := { s.host with cqs := [(7, { used := 8 })] } } : State).cqFree 7 = false ∧
    ({ s with host := { s.host with cqs := [(7, { used := 7 })] } } : State).cqFree 7 = true :=
  ⟨⟨safe_of _ rfl rfl rfl, by unfold Comes; decide⟩, by decide, ⟨safe_of _ rfl rfl rfl, by unfold Comes; decide⟩, by decide⟩
theorem meets_HostEntries_jobs : let h := entry [1, 77, 20, 0, 3, 9, 8]
    let s := hq 1 0 [h]
    (Safe s ∧ s.Comes 5 1 h h []) ∧ s.jobEngines h = [20] ∧ ¬ (ef h 4 15 0 = 0 ∨ 1216 < s.entOwner 5 h) ∧ s.listDenied 5 h = false ∧ s.engUsable 20 = true ∧
      s.freeCtx? 20 = some 1 ∧ (s.engine 20).cur = none ∧ 1216 < s.entOwner 5 (h.set 6 1217) ∧ ¬ 1216 < s.entOwner 5 (h.set 6 1216) ∧
    (let u := hq 1 3 [h]
     u.sqFn 5 ≠ 0 ∧ u.listDenied 5 h = true) ∧
    (let u : State := { s with engines := [(20, { ctxs := [(1, { state := 1 }), (2, { state := 1 }), (3, { state := 1 })] })] }
     (u.freeCtx? 20).isNone = true) :=
  ⟨⟨safe_of _ rfl rfl rfl, by unfold Comes; decide⟩, by decide⟩
theorem meets_HostEntries_others : (let h := entry [2, 77, 0, 0, 64, 0x20011]
     let s : State := { hq 1 0 [h] with regs := SMap.set Reg.resetVal ((st up17).regs) (Reg.HQ_SQ_TAIL 5) 2 }
     (Safe s ∧ s.Comes 5 2 h h []) ∧ s.injBad 5 h = false ∧ s.poolMode = false ∧ (s.injResult 64 0x20011 0 0).1.isSome = true ∧ s.injBad 5 (h.set 4 63) = true ∧
       s.injBad 5 (h.set 4 16352) = false ∧ s.injBad 5 (h.set 4 16353) = true) ∧
    (let h := entry [3, 77, 3]
     let s : State := { hq 1 0 [h] with regs := (Reg.BUF_MODE, 1) :: (hq 1 0 []).regs }
     (Safe s ∧ s.Comes 5 3 h h []) ∧ s.poolMode = true ∧ ef h 2 7 0 ≤ 3 ∧ (s.poolTake 3).isNone = true) ∧
    (let h := entry [0x3F06, 77, 0x100, 0, 0x200, 0, 4096, 1]
     let s := hq 1 0 [h]
     (Safe s ∧ s.Comes 5 6 h h []) ∧ dmaBad h = false ∧ dmaBad (h.set 6 4100) = true ∧ dmaBad (h.set 6 0) = true ∧ (s.dma 63).active = false) ∧
    (let s := hq 2 0 []
     Safe s ∧ s.sqKind 5 = 2 ∧ s.sqMoves 5 = true ∧ (s.sq 5).cache = [] ∧ 0 < s.sqWaiting 5 ∧ rxGood (entry [5, 77, 0, 0, 64]) = true ∧
       rxGood (entry [5, 77, 0, 0, 16384]) = true ∧ rxGood (entry [5, 77, 0, 0, 16385]) = false ∧ s.cqFree (s.sqCq 5) = true) ∧
    (let s := hq 1 0 []
     s.host.taking = true ∧ s.inBlack = false ∧ s.sqf 5 2 24 24 = 0 ∧ base.host.taking = false) :=
  ⟨⟨⟨safe_of _ rfl rfl rfl, by unfold Comes; decide⟩, by decide⟩, ⟨⟨safe_of _ rfl rfl rfl, by unfold Comes; decide⟩, by decide⟩,
    ⟨⟨safe_of _ rfl rfl rfl, by unfold Comes; decide⟩, by decide⟩, ⟨safe_of _ rfl rfl rfl, by decide⟩, by decide⟩
theorem meets_HostControl : let s := hq 1 0 []
    let r : State := { hq 1 3 [] with host := { (hq 1 3 []).host with fns := [(3, { resetting := true })] } }
    (Safe s ∧ Safe r) ∧ (s.fn (s.sqFn 5)).resetting = false ∧ (r.fn (r.sqFn 5)).resetting = true ∧ s.sqSize 5 ≤ 8 ∧ 7 < s.sqSize 5 ∧ s.cqSize 7 = 8 ∧
      (s.cq 7).used < s.cqSize 7 ∧ s.host.injecting = [] ∧
    (let i : State := { s with host := { s.host with injecting := [(1, 5, 77)] } }
     Safe i ∧ i.host.injecting = (1, 5, 77) :: [] ∧ i.spars = [] ∧ i.host.taking = true ∧ i.host.heldCqe = []) ∧ s.noImage = false ∧
    (let c : State := { s with host := { s.host with cqs := [(7, { unsignalled := 1 })] }, tabs := s.tabs.take 1 ++ [(tkey 0x0E02 0 7, [0x1000, 0, wd (3 + 2 ^ 11 + 2 ^ 13), 0])] }
     Safe c ∧ 0 < (c.cq 7).unsignalled ∧ c.cqf 7 2 13 12 = 2 ∧ c.cqFn 7 = 0) ∧ (s.cq 7).unsignalled = 0 :=
  ⟨⟨safe_of _ rfl rfl rfl, safe_of _ rfl rfl rfl⟩, by decide, by decide, by decide, by decide, by decide, by decide, by decide, ⟨safe_of _ rfl rfl rfl, by decide⟩, by decide,
    ⟨safe_of _ rfl rfl rfl, by decide⟩, by decide⟩
theorem meets_HostControl_delivery : let s : State := { hq 2 0 [entry [5, 77, 0, 0, 64]] with
        regs := [(Reg.HQ_RXQ, 5)], spars := [(64, { staging := [(hostQ 0, [{ cell17 0 with queue := hostQ 0 }])] })] }
    Safe s ∧ s.rxTurnOf 0 = true ∧ s.headFrame (hostQ 0) = ({ cell17 0 with queue := hostQ 0 } :: [], []) ∧ s.rxClosed 0 = false ∧ s.poolMode = false ∧ s.rxSq 0 = 5 ∧
      (s.sq 5).cache = [entry [5, 77, 0, 0, 64]] ∧ base.rxTurnOf 0 = false ∧ base.rxClosed 2 = true := ⟨safe_of _ rfl rfl rfl, by decide⟩
theorem meets_HostLinkAndDma : let s : State := { hq 1 0 [] with host := { taking := true, link := .l0, heldMsix := [(0, 9)], fns := [(0, { unmasked := [9], allMasked := false })] } }
    Safe s ∧ s.host.heldMsix = [(0, 9)] ∧ (s.fn 0).d3 = false ∧ (s.fn 0).allMasked = false ∧ 9 ∈ (s.fn 0).unmasked ∧
    (let x : Dma := { active := true, src := 0x100, dst := 0x200, burst := 64, count := 2, moved := 1, sq := 5 }
     let d : State := { hq 1 0 [] with host := { taking := true, dmas := [(3, x)] } }
     Safe d ∧ d.dmaReady 3 = true ∧ (∀ j < 3, d.dmaReady j = false) ∧ (x.count ≠ 0 ∧ x.count ≤ x.moved + 1) ∧ d.dmaReady 4 = false) ∧
    (let x : Dma := { active := true, src := 0x100, dst := 0x200, burst := 64, srcMem := true, dstMem := true, sq := 5 }
     let d : State := { hq 1 0 [] with host := { dmas := [(0, x)] } }
     (Safe d ∧ d.CleanMem) ∧ d.dmaReady 0 = true ∧ touchesHole (addr37 x.src) 64 = false ∧ touchesHole (addr37 x.dst) 64 = false) ∧
    (let x : Dma := { active := true, paced := true, line := 15, pend := 255 }
     let d : State := { base with host := { dmas := [(0, x)] } }
     Safe d ∧ x.line < 16 ∧ (0x8000 : BitVec 16).getLsbD x.line = true ∧ 255 ≤ x.pend) :=
  ⟨safe_of _ rfl rfl rfl, by decide, by decide, by decide, by decide, ⟨safe_of _ rfl rfl rfl, by decide⟩, ⟨⟨safe_of _ rfl rfl rfl, by decide, rfl, rfl⟩, by decide⟩,
    safe_of _ rfl rfl rfl, by decide⟩
theorem meets_HostLinkAndDma_timeout : let s : State := { base with tabs := [(tkey 0x1001 0 43, [1])], engines := [(20, { ctxs := [(2, { state := 1, sq := 5, job := 77 })] })] }
    (Safe s ∧ s.Mild 43) ∧ (s.ctx 20 2).state ≠ 0 ∧ (s.ctx 20 2).sq = 5 ∧ (s.ctx 20 2).job = 77 ∧ (s.ctx 20 1).state = 0 ∧ 2 ∈ [1, 2, 3] :=
  ⟨⟨safe_of _ rfl rfl rfl, by decide, 15, by decide, by decide⟩, by decide⟩

/-! Interrupts, faults, the stack and the island. -/

/-- A state of the island. -/
def isl (p : Power) (rs : List (Nat × Word)) : State := { st rs with island := { power := p } }
/-- Every rail asked for, and good. -/
def rails : List (Nat × Word) := [(Reg.MHI_PMIC_STATUS, 0xFF)]
/-- Spar 3 a Halyard link that is up, on a member of a stack of two. -/
def linked (x : Link) : State := { st [(Reg.MAC_SPAR_MODE 3, 6), (Reg.STK_STATUS, 0x02000000)] with
  fuses := { master := false, stackId := 1 }, stack := { links := [(3, { x with up := true })] } }
/-- A Halyard frame: a header and a body. -/
def hl (h : Nat) (body : Bytes) : Bytes := let b := beBytes 8 h ++ body; b ++ beBytes 4 (crc32c b)

theorem test_pll_report_goes_black : ok (.pllLockLoss 8) base (fun t => t.inBlack && t.classLevel 1 == 3 && t.outs == [.faultBus true] &&
    t.rd (Reg.FLT_COUNT 1) == 1 && t.fget (Reg.FLT_FIRST 1) 8 0 == 21) = true := by decide +kernel
theorem test_black_clear_needs_no_cause : ok .fltBlackClr { st [(Reg.FLT_STATUS, 1), (Reg.FLT_CLASS_STATE 1, 3)] with fault := { causes := [21], reported := [(1, [21])] } } (fun t =>
    t.inBlack && t.bget Reg.FLT_STATUS 4) = true ∧
    ok .fltBlackClr (st [(Reg.FLT_STATUS, 1), (Reg.FLT_CLASS_STATE 1, 3)]) (fun t => !t.inBlack && t.classLevel 1 == 0) = true := by decide
theorem test_injection_without_check_bits : ok (.faultInjectArm 13 true) base (fun t => t.bget Reg.FLT_INJ 30 && !t.bget Reg.FLT_INJ 31) = true ∧
    ok (.faultInjectArm 29 true) base (fun t => t.rd Reg.FLT_INJ == 0x8001001D) = true := by decide
theorem test_link_frame_out_of_order : ok (.halyardCellFrame 3 (hl 0x0010000000000000 (zs 288))) (linked {}) (fun t => (t.link 3).expSeq == 0 &&
    t.cnt Reg.C_STK_HL_CRC_ERR == 0 && t.outs.length == 1 && (t.spar 3).inFifo == []) = true := by decide
theorem test_link_frame_without_its_crc : ok (.halyardCellFrame 3 (zs 300)) (linked {}) (fun t => t.cnt Reg.C_STK_HL_CRC_ERR == 1) = true := by decide
theorem test_ack_frees : ok (.halyardAckFrame 3 6 5 1) (linked { store := [(5, [1]), (6, [2]), (7, [3])], credGen := 10 }) (fun t =>
    (t.link 3).store == [(7, [3])] && (t.link 3).credGen == 15 && (t.link 3).credMgmt == 65 && t.outs == []) = true := by decide
theorem test_member_arms : ok (.arm ⟨3, 0⟩ 9 7) (linked {}) (fun t => t.commit.readyFor == some 9 && t.outs.length == 1) = true := by decide +kernel
theorem test_hello_of_another_size : ok (.hello ⟨3, 0⟩ 0 3 true 7) (linked {}) (fun t => !(t.link 3).up && (t.link 3).heldDown && t.bget Reg.STK_EVENT 6) = true := by decide +kernel
theorem test_rails_rise_in_their_order : ok .coldCrystalReady base (fun t => t.island.power == .waking && t.outs == [.rail 0 true]) = true := by decide
theorem test_brownout : ok (.brownout 2) (isl .run rails) (fun t => t.island.power == .furled && t.bget Reg.MHI_WAKE_CAUSE 19 && t.fget Reg.MHI_PMIC_STATUS 11 8 == 2 &&
    t.island.dropping.length == 3) = true := by decide
theorem test_wake_pin_held : ok (.wakePin 2 true 3) (isl .furled [(Reg.MHI_WAKE_EN, 4), (Reg.MHI_WAKE_CFG, 0x44)]) (fun t => t.island.power == .furled) = true ∧
    ok (.wakePin 2 true 4) (isl .furled [(Reg.MHI_WAKE_EN, 4), (Reg.MHI_WAKE_CFG, 0x44)]) (fun t => t.island.power == .waking && t.fget Reg.MHI_WAKE_CAUSE 15 0 == 4) = true := by decide
theorem test_console_status : ok .monitorStatus (isl .furled [(Reg.MHI_UART_CFG, 0x100)]) (fun t => t.outs == [.uart 0x34]) = true := by decide
theorem test_console_read : ok (.monitorRead 0x200) (isl .run [(Reg.MHI_UART_CFG, 0x100), (0x200, 0xAB)]) (fun t =>
    t.outs == [0x30, 0x30, 0x30, 0x30, 0x30, 0x30, 0x61, 0x62].map Output.uart) = true := by decide
theorem test_rtc : ok (.rtcSet 5) (isl .run []) (fun t => t.rd Reg.MHI_RTC_SEC == 5) = true ∧ ok .rtcSecondTick (isl .furled [(Reg.MHI_RTC_SEC, 5)]) (fun t => t.rd Reg.MHI_RTC_SEC == 6) = true := by decide
theorem test_supply_edges : ok (.supplyOutOfRange 0 (railRange 0).1 11) base (fun t => t.rd Reg.GLB_ENV_STATUS == base.rd Reg.GLB_ENV_STATUS) = true ∧
    ok (.supplyOutOfRange 0 0 10) base (fun t => t.rd Reg.GLB_ENV_STATUS == base.rd Reg.GLB_ENV_STATUS) = true ∧
    ok (.supplyOutOfRange 0 0 11) base (fun t => t.bget Reg.GLB_ENV_STATUS 24) = true := by decide +kernel
theorem test_window_of_no_table : ok (.tableWindowRead 1) (st [(Reg.GLB_TW_SEL 1, 0x07770000)]) (fun t => t.fget (Reg.GLB_TW_CTRL 1) 7 4 == 1) = true := by decide
theorem test_window_past_the_table : ok (.tableWindowRead 1) (st [(Reg.GLB_TW_SEL 1, 0x0D010000), (Reg.GLB_TW_INDEX 1, 64)]) (fun t => t.fget (Reg.GLB_TW_CTRL 1) 7 4 == 2) = true ∧
    ok (.tableWindowRead 1) (st [(Reg.GLB_TW_SEL 1, 0x0D010000), (Reg.GLB_TW_INDEX 1, 63)]) (fun t => t.fget (Reg.GLB_TW_CTRL 1) 7 4 == 0 &&
      t.rd (Reg.GLB_TW_DATA 1 0) == 0xFFFF && t.bget (Reg.GLB_TW_CTRL 1) 2) = true := by decide +kernel

theorem meets_FaultReports : (Safe base ∧ base.Mild 26) ∧ effSev 0 (base.progSev 41) = 3 ∧ effSev 0 (base.progSev 42) = 2 ∧
    (let s : State := { base with tabs := [(tkey 0x1001 0 42, [1])] }
     Safe s ∧ effSev (s.classLevel 15) (s.progSev 42) ≤ 1 ∧ s.armed 39 = false ∧ s.bget (Reg.FLT_FIRST 15) 31 = false) ∧
    ((st [(Reg.FLT_LOG_STATUS, 0x80000000)]).bget Reg.FLT_LOG_STATUS 31 = true ∧ base.bget Reg.FLT_LOG_STATUS 31 = false ∧ base.classLevel 13 = 0) ∧
    (let s : State := { base with fault := { clearing := true } }
     Safe s ∧ s.fault.clearing = true) ∧ noCheckBits 13 = true ∧ noCheckBits 29 = false :=
  ⟨⟨safe_st [], by decide, 5, by decide, by decide⟩, by decide, by decide, ⟨safe_of _ rfl rfl rfl, by decide⟩, by decide, ⟨safe_of _ rfl rfl rfl, by decide⟩, by decide⟩
theorem meets_FaultClears : (let s : State := { st [(Reg.FLT_STATUS, 8), (Reg.FLT_CLASS_STATE 8, 1)] with fault := { resetting := [(9, 30, 20)] } }
     Safe s ∧ s.bget Reg.FLT_STATUS 3 = true ∧ s.classLevel 8 = 1 ∧ s.resettingOf 9 = true ∧ s.resettingOf 8 = false ∧ s.fmem.bar2Held = [] ∧
       (∀ p ∈ s.fault.resetting.filter (fun p => p.1 == 9), 8 ≤ p.2.1 ∧ (p.2.1 ≤ 12 ∨ 21 ≤ p.2.1) ∧ p.2.1 ≠ 26 ∧ p.2.1 ≠ 28 ∧ (p.2.1 < 64 ∨ (p.2.1 - 64) % 3 ≠ 1))) ∧
    (let s := st [(Reg.FLT_STATUS, 0), (Reg.FLT_CLASS_STATE 8, 1)]
     Safe s ∧ s.bget Reg.FLT_STATUS 3 = false ∧ s.classLevel 8 ≠ 0 ∧ ¬ (s.classLevel 8 = 3 ∨ s.causeOf 8 = true ∨ s.resettingOf 8 = true) ∧ s.armed 39 = false) ∧
    (let s : State := { st [(Reg.FLT_STATUS, 1), (Reg.FLT_CLASS_STATE 1, 3)] with fault := { causes := [21], reported := [(1, [21])] } }
     Safe s ∧ s.inBlack = true ∧ 1 < 16 ∧ s.classLevel 1 = 3 ∧ s.causeOf 1 = true) ∧
    (let s := st [(Reg.FLT_STATUS, 1), (Reg.FLT_CLASS_STATE 1, 3)]
     Safe s ∧ s.inBlack = true ∧ ∀ x < 16, s.classLevel x = 3 → s.causeOf x = false) ∧
    (base.fault.pulling = false ∧ base.fault.ignoring = false ∧ base.bget Reg.FLT_STATUS 1 = false ∧ base.inBlack = false) :=
  ⟨⟨safe_of _ rfl rfl rfl, by decide⟩, ⟨safe_st _, by decide⟩, ⟨safe_of _ rfl rfl rfl, by decide⟩, ⟨safe_st _, by decide⟩, by decide⟩
theorem meets_StackMessages : (Safe (linked {}) ∧ Calm (linked {}) ∧ Safe base) ∧ ((linked {}).link 3).up = true ∧ ((linked {}).link 4).up = false ∧
    ¬ ((linked {}).fuses.stackId = 0 ∧ (0 : Nat) ≠ 0) ∧ (linked {}).fuses.master = false ∧ ¬ ((0 : Nat) = (linked {}).fuses.stackId ∧ (0 : Nat) ≠ 0) ∧ (2 : Nat) = (linked {}).stackSize ∧
    (3 : Nat) ≠ (linked {}).stackSize ∧
    (let s : State := { st [(Reg.MAC_SPAR_MODE 3, 6), (Reg.STK_STATUS, 0x02000000)] with
       stack := { links := [(3, { up := true })] }, commit := { arm := some { target := 9, stack := true } } }
     Safe s ∧ (s.link 3).up = true ∧ s.fuses.stackId = 0 ∧ s.commit.arm = some { target := 9, stack := true } ∧ s.fuses.master = true) ∧
    (let s : State := { linked {} with tabs := [(tkey 0x1201 0 (8 * 128), [0x83])] }
     Safe s ∧ s.fuses.stackId ≠ 255 ∧ s.path? 128 0 = some 3 ∧ (s.link 3).store.length < 64) :=
  ⟨⟨safe_of _ rfl rfl rfl, calm_of _ rfl rfl rfl rfl rfl, safe_st []⟩, by decide, by decide, by decide, by decide, by decide, by decide, by decide,
    ⟨safe_of _ rfl rfl rfl, by decide⟩, safe_of _ rfl rfl rfl, by decide⟩
theorem meets_HalyardLinks : (Safe (linked {}) ∧ (linked {}).Mild 33 ∨ Safe (linked {})) ∧ ((linked {}).link 3).up = true ∧ ((linked {}).link 4).up = false ∧
    (let f := hl 0 (zs 288)
     let body := f.take (f.length - 4)
     let h := beAt body 0 8
     (decide (12 ≤ f.length) && crc32c body == beAt f (f.length - 4) 4) = true ∧ bits h 63 60 = 0 ∧ bits h 43 40 = 0 ∧ body.length = 296 ∧
       bits h 59 52 = ((linked {}).link 3).expSeq) ∧
    (let f := zs 300
     (decide (12 ≤ f.length) && crc32c (f.take 296) == beAt f 296 4) = false) ∧
    (let x := (linked { store := [(5, [1]), (6, [2]), (7, [3])] }).link 3
     x.up = true ∧ x.store.any (fun p => p.1 == 6) = true ∧ x.store ≠ [] ∧ x.replays + 1 < atLeast1 (base.fget Reg.STK_CFG 7 0)) ∧
    (let s : State := { linked { store := [(5, [1])], replays := 254 } with tabs := [(tkey 0x1001 0 33, [1])] }
     Safe s ∧ s.Mild 33 ∧ atLeast1 (s.fget Reg.STK_CFG 7 0) ≤ 254 + 1) ∧
    (let s : State := { base with stack := { calRun := true, calMarks := 64 } }
     Safe s ∧ s.stack.calRun = true ∧ 64 ≤ s.stack.calMarks) :=
  ⟨.inr (safe_of _ rfl rfl rfl), by decide, by decide, by decide, by decide, by decide, ⟨safe_of _ rfl rfl rfl, ⟨by decide, 11, by decide, by decide⟩, by decide⟩,
    safe_of _ rfl rfl rfl, by decide⟩
theorem meets_PowerStates : (Safe base ∧ base.island.power = .cold) ∧
    (let s : State := { base with island := { power := .furled, autoWait := true } }
     Safe s ∧ s.island.autoWait = true ∧ s.island.dropping = []) ∧
    (let s := isl .waking [(Reg.MHI_PMIC_STATUS, 1)]
     Safe s ∧ (decide (s.island.power = .waking) && s.bget Reg.MHI_PMIC_STATUS 0 && !s.bget Reg.MHI_PMIC_STATUS 4) = true ∧
       (railOrder.find? (fun j => !s.bget Reg.MHI_PMIC_STATUS j)).isSome = true) ∧
    (let s := isl .run rails
     Safe s ∧ s.island.power = .run ∧ s.fget Reg.MHI_PMIC_STATUS 3 0 ≠ 0 ∧ s.island.wakeHeld = false ∧ (railOrder.reverse.filter (fun k => s.bget Reg.MHI_PMIC_STATUS k)).length = 4 ∧
       (decide (s.fget Reg.MHI_PMIC_STATUS 7 0 = 255) && decide (s.island.dropping = [])) = true) ∧
    (let s : State := { base with island := { power := .furled, dropping := [1] } }
     Safe s ∧ s.island.dropping = 1 :: [] ∧ 1 < 4) :=
  ⟨⟨safe_st [], rfl⟩, ⟨safe_of _ rfl rfl rfl, by decide⟩, ⟨safe_of _ rfl rfl rfl, by decide⟩, ⟨safe_of _ rfl rfl rfl, by decide⟩, safe_of _ rfl rfl rfl, by decide⟩
/-- A snapshot with no lanes. -/
def snap (f : Word) : Snapshot := { seq := 7, imageId := 1, count := 0, instant := 0, freq := f, locked := true, lanes := [] }
theorem meets_WakeAndSleep : (let s := isl .furled [(Reg.MHI_WAKE_EN, 0x204), (Reg.MHI_WAKE_CFG, 4)]
     Safe s ∧ s.bget Reg.MHI_WAKE_CFG 2 = true ∧ s.bget Reg.MHI_WAKE_CFG 6 = false ∧ s.island.power ≠ .run) ∧
    (let s : State := { st rails with island := { power := .waking, snaps := [(3, snap 32768000)] } }
     Safe s ∧ (decide (s.island.power = .waking) && decide (s.fget Reg.MHI_PMIC_STATUS 7 0 = 255) && s.loader.job.isNone && !s.island.imageDone) = true ∧
       s.newestSnap = some (3, snap 32768000) ∧ -32768000 ≤ sgn 32 (snap 32768000).freq.toNat ∧ sgn 32 (snap 32768000).freq.toNat ≤ 32768000 ∧
       ¬ sgn 32 (snap 32768001).freq.toNat ≤ 32768000) ∧
    (let s := isl .run []
     Safe s ∧ s.sleepCause = 0 ∧ (decide (s.island.power = .run) && !s.bget Reg.MHI_SNAP_STATUS 8) = true) ∧
    (let s := isl .run [(Reg.GLB_IMG_STATUS, 0x10)]
     Safe s ∧ s.sleepCause ≠ 0) ∧
    (let s : State := { base with island := { power := .entering, entryArmed := true, snapNew := some (snap 0) } }
     Safe s ∧ s.island.entryArmed = true ∧ s.island.entryOpen = false ∧ s.island.snapNew = some (snap 0) ∧ s.island.writeTry = 0) ∧
    (let s : State := { base with island := { power := .waking, imageDone := true, lanesDone := true } }
     Safe s ∧ (s.island.imageDone && s.island.lanesDone) = true) ∧
    (let s := isl .run [(Reg.MHI_RTC_CTRL, 0x10000), (Reg.MHI_RTC_SEC, 5), (Reg.MHI_RTC_ALARM, 5)]
     Safe s ∧ (s.bget Reg.MHI_RTC_CTRL 16 && decide (s.rd Reg.MHI_RTC_SEC = s.rd Reg.MHI_RTC_ALARM)) = true) :=
  ⟨⟨safe_of _ rfl rfl rfl, by decide⟩, ⟨safe_of _ rfl rfl rfl, by decide⟩, ⟨safe_of _ rfl rfl rfl, by decide⟩, ⟨safe_of _ rfl rfl rfl, by decide⟩, ⟨safe_of _ rfl rfl rfl, by decide⟩,
    ⟨safe_of _ rfl rfl rfl, by decide⟩, safe_of _ rfl rfl rfl, by decide⟩
theorem meets_Console : (let s := isl .furled [(Reg.MHI_UART_CFG, 0x00410000)]
     Safe s ∧ (0x282 : BitVec 10).getLsbD 9 = true ∧ ((0x282 : BitVec 10).extractLsb' 1 8).toNat = s.fget Reg.MHI_UART_CFG 23 16 ∧ s.bget Reg.MHI_UART_CFG 8 = false) ∧
    (let s : State := { st [(Reg.MHI_UART_CFG, 0x100)] with island := { power := .run, line := [0x73] } }
     Safe s ∧ s.bget Reg.MHI_UART_CFG 8 = true ∧ s.island.line.length ≤ 32 ∧ s.deadAt 0x200 = false ∧ pairAt? 0x200 = none ∧ readOp? 0x200 = none) ∧
    (let s : State := { base with island := { power := .run, rx := List.replicate 16 1, tx := List.replicate 15 1 } }
     Safe s ∧ 16 ≤ s.island.rx.length ∧ s.island.tx.length < 16 ∧ s.island.tx ≠ []) :=
  ⟨⟨safe_of _ rfl rfl rfl, by decide⟩, ⟨safe_of _ rfl rfl rfl, by decide⟩, safe_of _ rfl rfl rfl, by decide⟩
theorem meets_Environment : (let s : State := { base with tabs := [(tkey 0x1001 0 35, [1]), (tkey 0x1001 0 36, [1])] }
     Safe s ∧ s.Mild 35 ∧ s.Mild 36 ∧ s.fget Reg.GLB_THERM_CFG 7 0 ≤ 109 ∧ 35 ∉ s.fault.causes ∧ s.fget Reg.GLB_ENV_STATUS 23 16 ≤ 85) ∧
    (let s : State := { base with tabs := [(tkey 0x1001 0 37, [1])] }
     Safe s ∧ s.Mild 37 ∧ s.bget Reg.GLB_ENV_STATUS 24 = false ∧ ¬ ((railRange 0).1 ≤ 0)) ∧
    (Safe base ∧ base.Mild 38 ∧ base.time.stretch = false ∧ (734 : Nat) < 735 ∧ ¬ ((735 : Nat) < 735 ∨ (784 : Nat) < 784) ∧ effSev (base.classLevel 12) (base.progSev 37) = 3) :=
  ⟨⟨safe_of _ rfl rfl rfl, ⟨by decide, 12, by decide, by decide⟩, ⟨by decide, 12, by decide, by decide⟩, by decide⟩,
    ⟨safe_of _ rfl rfl rfl, ⟨by decide, 12, by decide, by decide⟩, by decide⟩, safe_st [], ⟨by decide, 12, by decide, by decide⟩, by decide⟩
theorem meets_TableWindows : (let s := st [(Reg.GLB_TW_SEL 1, 0x0D010000), (Reg.GLB_TW_INDEX 1, 63)]
     Safe s ∧ s.bget (Reg.GLB_TW_CTRL 1) 2 = false ∧ (tab? (s.fget (Reg.GLB_TW_SEL 1) 31 16)).any (fun d => decide (63 < d.entries) && d.cls == .B) = true ∧
       (tab? 0x0D01).any (fun d => decide (d.entries ≤ 64)) = true ∧ s.fullExpanding = false ∧ (tab? 0x0777).isNone = true) ∧
    (let s : State := { st [(Reg.GLB_TW_SEL 1, 0x0D010000), (Reg.GLB_TW_INDEX 1, 63), (Reg.GLB_TW_CTRL 1, 4)] with winPend := [1] }
     Safe s ∧ s.winPend = [1] ∧ s.commit.window = false ∧ s.bget (Reg.GLB_TW_CTRL 1) 2 = true ∧ s.commit.readyFor = none) ∧
    ((tab? 0x0501).any (fun d => d.cls == .L) = true ∧ (st [(Reg.GLB_IMG_STATUS, 0x80)]).noImage = true) :=
  ⟨⟨safe_st _, by decide⟩, ⟨safe_of _ rfl rfl rfl, by decide⟩, by decide⟩

/-! An ill-formed command for each check, and safe states. -/

theorem meets_StepKeepsSafe : Safe base ∧ Safe { oneXfer read8 {} with pending := [] } ∧ Safe { inletReady with pending := [.routineStart 20] } :=
  ⟨safe_st [], safe_of _ rfl rfl rfl, by decide, rfl, rfl⟩
theorem test_ill_formed_addresses : Instr.wf (.registerWrite 0x04400000 4 0) = false ∧ Instr.wf (.registerWrite 0x043FFFFC 4 0) = true ∧
    Instr.wf (.registerWrite 0x200 3 0) = false ∧ Instr.wf (.registerWrite 0x200 8 0) = true ∧ Instr.wf (.counterLowRead 0x04400000 4) = false ∧
    Instr.wf (.counterLowRead 0x200 0) = false := by decide
theorem test_ill_formed_flash (bs : Bytes) (h : 0x400000 < bs.length) : Instr.wf (.flashCopyReadDone ⟨bs, []⟩ {}) = false ∧ Instr.wf (.flashCopyReadDone ⟨[], bs⟩ {}) = false ∧
    Instr.wf (.flashCopyReadDone {} ⟨bs, []⟩) = false ∧ Instr.wf (.flashCopyReadDone {} ⟨[], bs⟩) = false := by simp [Instr.wf, Instr.isFlash, h]
theorem test_ill_formed_marks : Instr.wf (.boundaryMarkReceive (2 ^ 64) 0) = false ∧ Instr.wf (.boundaryMarkReceive (2 ^ 64 - 1) 0) = true := by decide
theorem test_ill_formed_adaptation : Instr.wf (.adaptationUpdate 3 (List.replicate 23 0) 0) = false ∧ Instr.wf (.adaptationUpdate 3 (128 :: List.replicate 23 0) 0) = false ∧
    Instr.wf (.adaptationUpdate 3 (-129 :: List.replicate 23 0) 0) = false ∧ Instr.wf (.adaptationUpdate 3 (List.replicate 24 0) 32) = false ∧
    Instr.wf (.adaptationUpdate 3 (List.replicate 24 0) (-33)) = false ∧ Instr.wf (.adaptationUpdate 3 (-128 :: 127 :: List.replicate 22 0) (-32)) = true := by decide
theorem test_ill_formed_frames : Instr.wf (.frameReceive 8 [] false [] false) = false ∧ Instr.wf (.pfcReceive 8 []) = false ∧ Instr.wf (.halyardCellFrame 3 []) = false := by decide
theorem test_ill_formed_queue : Instr.wf (.reorderTimeout 2 1 9538) = false ∧ Instr.wf (.reorderTimeout 2 1 9537) = true := by decide
theorem test_ill_formed_ring : Instr.wf (.decCtus 20 [⟨0, 5⟩]) = false ∧ Instr.wf (.decCtus 20 [⟨4097, 5⟩]) = false ∧ Instr.wf (.decCtus 20 [⟨4096, 5⟩, ⟨1, 5⟩]) = true := by decide
theorem test_ill_formed_words : Instr.wf (.fetch 20 0 (2 ^ 32)) = false ∧ Instr.wf (.emit 20 0 (2 ^ 32) 0 0) = false ∧ Instr.wf (.emit 20 0 0 (2 ^ 20) 0) = false ∧
    Instr.wf (.emit 20 0 0 0 16) = false ∧ Instr.wf (.complete 20 256 0) = false ∧ Instr.wf (.complete 20 255 0) = true := by decide
theorem test_ill_formed_unit (ws : List (Word × Word)) (h : 4096 < ws.length) : Instr.wf (.unitDone 20 3 [] ws []) = false ∧
    Instr.wf (.unitDone 20 3 [] [] (ws.map (fun p => .word p.1 p.2))) = false := by simp [Instr.wf, h]
theorem test_ill_formed_memory : Instr.wf (.memoryRequest { read8 with op := .read 0 }) = false ∧ Instr.wf (.memoryRequest { read8 with op := .write [] }) = false ∧
    Instr.wf (.holdWatchdogBite { read8 with op := .read 0 }) = false ∧ Instr.wf (.bar2Access 0 (.write [])) = false ∧ Instr.wf (.bar2Access 0 (.read 1)) = true := by decide
theorem test_ill_formed_entries : ([.nopEntry 5, .job 5, .poolAlloc 5, .poolFreeEntry 5, .rxbuf 5, .dmaEntry 5, fun e => .inject 5 e []] : List (List Word → Instr)).all (fun c =>
    Instr.wf (c (entry [])) && !Instr.wf (c (List.replicate 15 0)) && !Instr.wf (c (List.replicate 17 0))) = true := by decide
theorem test_ill_formed_passes : Instr.wf (.fetchPass [⟨5, 2 ^ 32, []⟩] []) = false ∧ Instr.wf (.fetchPass [⟨5, 0, [[0]]⟩] []) = false ∧ Instr.wf (.fetchPass [⟨5, 0, [entry []]⟩] []) = true := by decide
theorem test_ill_formed_host_frames (b : Bytes) (h : 16352 < b.length) : Instr.wf (.inject 5 (entry []) b) = false ∧ Instr.wf (.fetchPass [] [b]) = false := by
  simp [Instr.wf, h]
theorem test_ill_formed_vector : Instr.wf (.vectorUnmask 1 (some 64)) = false ∧ Instr.wf (.vectorUnmask 0 (some 2047)) = true ∧ Instr.wf (.vectorUnmask 63 (some 63)) = true := by decide
theorem test_ill_formed_burst (b : Bytes) (h : 2 ^ 20 < b.length) : Instr.wf (.dmaBurst 3 b .ok) = false := by simpa [Instr.wf] using h
theorem test_ill_formed_sensors : Instr.wf (.sensorRead (List.replicate 15 0) 0) = false ∧ Instr.wf (.sensorRead (256 :: List.replicate 15 0) 0) = false ∧
    Instr.wf (.sensorRead (List.replicate 16 0) 256) = false ∧ Instr.wf (.sensorRead (List.replicate 16 255) 255) = true := by decide
theorem test_access_of_another_width_is_discarded : ok (.registerWrite 0x200 1 7) base (fun t => decide (t = base)) = true ∧
    ok (.registerWrite 0x202 4 7) base (fun t => decide (t = base)) = true := by decide
theorem test_a_step_takes_the_front : steps { base with pending := [.rtcSecondTick, .uNop 20] } (fun t => t.rd Reg.MHI_RTC_SEC == 1 && t.pending == [.uNop 20]) = true ∧
    steps base (fun t => decide (t = base)) = true := by decide

end Sys2Proof.Tests
end

/-!
SUPPORT. Register accesses of the host and the monitor: what a write of each commit class and a read of each kind of register come
down to, where nothing of a report waits.
-/
namespace Sys2Proof

open Machine

/-- A command answers a next state of which anything true of every state holds. -/
theorem runs_of_forall {c : Instr} {s : State} {post : State → Prop} (h : ∀ t, post t) : Runs c s post := by
  obtain ⟨d, hd⟩ := exec_shape c s
  exact ⟨_, hd.trans (finish_next s d), rfl, h _⟩

/-- A command whose meaning leaves the device as it is. -/
theorem runs_same {c : Instr} {s : State} {post : State → Prop} (he : exec c s = finish s s.toDev) (hs : Safe s) (hp : post s) :
    Runs c s post := runs_quiet he hs rfl rfl rfl rfl hp

/-- A 32-bit host write is a bus write. -/
theorem exec_registerWrite (a : Nat) (v : Word) (s : State) : exec (.registerWrite a 4 v) s = finish s (s.busWrite true a v) :=
  congrArg (finish s) (if_pos rfl)

/-- A 32-bit host read is a bus read, its data sent to the host. -/
theorem exec_counterLowRead (a : Nat) (s : State) :
    exec (.counterLowRead a 4) s = finish s ((s.busRead true a).2.emit (.readData a (s.busRead true a).1)) :=
  congrArg (finish s) (if_pos rfl)

namespace Machine

/-- A register of one field of all its bits takes a written value whole. -/
theorem host_whole (off stride count reset : Nat) (cls : Cls) (old v : Word) :
    RegDef.host ⟨off, stride, count, reset, cls, [⟨31, 0, .rw⟩]⟩ old v = v := by
  refine word_ext fun j hj => ?_
  simp only [RegDef.host, List.foldl_cons, List.foldl_nil]
  rw [wbit_setFld _ _ _ _ _ (by omega) hj, if_pos (by omega), testBit_fld]
  simp [hj]

namespace Dev

variable (d : Dev)

/-! Writes by commit class (R12, R14). -/

/-- An offset outside the island's registers is answered in every power state (R401). -/
theorem answers_outside_island (host : Bool) {a : Nat} (hi : a < 0x800 ∨ 0x1000 ≤ a) :
    (host && decide (0x800 ≤ a) && decide (a < 0x1000) && !d.inRun) = false := by
  rcases hi with h | h
  · simp [Nat.not_le.mpr h]
  · simp [Nat.not_lt.mpr h]

section
variable {d : Dev} {host : Bool} {a : Nat} {v : Word} {r : RegDef} (ha : a < 0x04000000) (hr : Reg.at? a = some r)
include ha hr

/-- A write to a class L register is discarded (R14). -/
theorem busWrite_classL (hc : r.cls = .L) : d.busWrite host a v = d := by
  simp only [busWrite, if_neg (Nat.not_le.mpr ha), hr, hc, ite_self]
/-- A write to a class B register that is there waits for a boundary. -/
theorem busWrite_classB (hc : r.cls = .B) (hd : d.deadAt a = false) (hi : a < 0x800 ∨ 0x1000 ≤ a) :
    d.busWrite host a v = d.boundaryWrite a v := by
  simp only [busWrite, if_neg (Nat.not_le.mpr ha), hd, d.answers_outside_island host hi, hr, hc, Bool.or_self, Bool.false_eq_true, if_false]
/-- A write to a class I register that is there acts at once. -/
theorem busWrite_classI (hc : r.cls = .I) (hd : d.deadAt a = false) (hi : a < 0x800 ∨ 0x1000 ≤ a) :
    d.busWrite host a v = d.immediate r a v := by
  simp only [busWrite, if_neg (Nat.not_le.mpr ha), hd, d.answers_outside_island host hi, hr, hc, Bool.or_self, Bool.false_eq_true, if_false]

end

/-- Where no READY is held a change of the shadow sends nothing (R431). -/
theorem readyAgain_none (h : d.commit.readyFor = none) : d.readyAgain = d := by
  rw [readyAgain, h]

/-- A write put into the shadow bank by the access types of its fields, where no MAX_FRAME is out of range and no READY is held. -/
theorem shadowPut_eq {a : Nat} {v : Word} {r : RegDef} (hr : Reg.at? a = some r)
    (hm : isMacCfg a = false ∨ maxFrameBad (r.host (d.rdSh a) v) = false) (hf : d.commit.readyFor = none) :
    d.shadowPut a v = d.wrSh a (r.host (d.rdSh a) v) := by
  have h : (isMacCfg a && maxFrameBad (r.host (d.rdSh a) v)) = false := by rcases hm with h | h <;> simp [h]
  simp only [shadowPut, hr, h, Bool.false_eq_true, if_false]
  exact readyAgain_none _ hf

/-- A class B write that nothing discards: held while the window is open or held writes wait, else put into the shadow bank (R48). -/
theorem boundaryWrite_eq {a : Nat} {v : Word} (hp : parseCfgBad a v = false) (hm : isMacCfg a = false ∨ maxFrameBad v = false)
    (he : d.fullExpanding = false) : d.boundaryWrite a v = if d.commit.window = true ∨ d.commit.hold ≠ [] then
      d.updCommit (fun c => { c with hold := c.hold ++ [(a, v)] }) else d.shadowPut a v := by
  have h : (isMacCfg a && maxFrameBad v) = false := by rcases hm with h | h <;> simp [h]
  simp [boundaryWrite, hp, h, he]

/-- Below the spars every register is there. -/
theorem deadAt_below_spars {a : Nat} (h : a < 0x01000000) : d.deadAt a = false := by
  have hp : regPort? a = none := if_pos (.inl h)
  have hq : ¬ Reg.spar 0 + 0x18810 ≤ a := by simp only [Reg.spar]; omega
  simp [deadAt, hp, hq]

/-- A whole-word register of the global region that starts nothing takes a host write whole, at once (R12). -/
theorem busWrite_operand {host : Bool} {a : Nat} (v : Word) (hr : Reg.at? a = some ⟨a, 0, 1, 0, .I, [⟨31, 0, .rw⟩]⟩) (ha : a < 0x800)
    (hc : a ≠ Reg.GLB_COMMIT_CTRL ∧ a ≠ Reg.GLB_IMG_CTRL ∧ a ≠ Reg.GLB_SLEEP_CTRL) : d.busWrite host a v = d.wr a v := by
  obtain ⟨h1, h2, h3⟩ := hc
  have ha' : a < 0x100000 := by omega
  rw [busWrite_classI (by omega) hr rfl (d.deadAt_below_spars (by omega)) (.inl ha), immediate, if_pos ha', glbWrite, if_neg h1, if_neg h2,
    if_neg h3, if_neg (by omega), plainWrite, host_whole]

/-! Reads (R6, R10, R13). -/

/-- The counters lie outside the island and inside BAR0. -/
theorem counterAt_range {a : Nat} {p : Nat × Bool} (h : Reg.counterAt? a = some p) : 0x1000 ≤ a ∧ a < 0x03000000 := by
  have hdev : ∀ {q}, Reg.deviceSpans.findSome? (fun s => s.hit? a) = some q → 0x1000 ≤ a ∧ a < 0x03000000 := by
    intro q hq
    obtain ⟨x, hx, hit⟩ := List.exists_of_findSome?_eq_some hq
    have hb : x.base ≤ a ∧ a < x.base + 8 * x.pairs := by
      rw [Reg.Span.hit?, Option.ite_none_right_eq_some] at hit
      exact ⟨hit.1.1, hit.1.2.1⟩
    have hall : ∀ y ∈ Reg.deviceSpans, 0x1000 ≤ y.base ∧ y.base + 8 * y.pairs ≤ 0x03000000 := by decide
    have := hall x hx
    omega
  unfold Reg.counterAt? at h
  split at h
  · omega
  · exact hdev h

/-- A word of a pair lies outside the island and inside BAR0. -/
theorem pairAt_range {a : Nat} {p : Nat × Bool} (h : pairAt? a = some p) : (a < 0x800 ∨ 0x1000 ≤ a) ∧ a < 0x04000000 := by
  have hlow : ∀ b, pairLows.contains b = true → (b + 4 < 0x800 ∨ 0x1000 ≤ b) ∧ b < 0x03000000 := by
    intro b hb
    have hall : ∀ y ∈ pairLows, (y + 4 < 0x800 ∨ 0x1000 ≤ y) ∧ y < 0x03000000 := by decide
    exact hall b (by simpa using hb)
  unfold pairAt? at h
  split at h
  next hc =>
    have := counterAt_range hc
    omega
  next =>
    split at h
    next hl =>
      have := hlow a hl
      omega
    next =>
      split at h
      next hl =>
        have := hlow (a - 4) hl.2
        omega
      next => cases h

section
variable {d : Dev} {host : Bool} {a lo : Nat}

/-- A read of the low word of a pair latches its high word (R10). -/
theorem busRead_low (hd : d.deadAt a = false) (hp : pairAt? a = some (lo, false)) :
    d.busRead host a = (wd (d.pairVal lo), d.latchSet lo (wd (d.pairVal lo / 2 ^ 32))) := by
  obtain ⟨hi, ha⟩ := pairAt_range hp
  simp only [busRead, if_neg (Nat.not_le.mpr ha), hd, d.answers_outside_island host hi, hp, Bool.or_self, Bool.false_eq_true, if_false]

/-- A read of the high word of a pair answers what is latched (R10). -/
theorem busRead_high (hd : d.deadAt a = false) (hp : pairAt? a = some (lo, true)) :
    d.busRead host a = (SMap.get (fun _ => 0) d.latch lo, d) := by
  obtain ⟨hi, ha⟩ := pairAt_range hp
  simp only [busRead, if_neg (Nat.not_le.mpr ha), hd, d.answers_outside_island host hi, hp, Bool.or_self, Bool.false_eq_true, if_false]

/-- A read of a register without a latch or an effect answers its value and changes nothing. -/
theorem busRead_plain (ha : a < 0x04000000) (hd : d.deadAt a = false) (hi : a < 0x800 ∨ 0x1000 ≤ a) (hp : pairAt? a = none)
    (ho : readOp? a = none) : d.busRead host a = (d.regVal a, d) := by
  simp only [busRead, if_neg (Nat.not_le.mpr ha), hd, d.answers_outside_island host hi, hp, ho, Bool.or_self, Bool.false_eq_true, if_false]

end

/-- The 64 bits of a counter's pair are the counter. -/
theorem pairVal_counter {a : Nat} {p : Nat × Bool} (h : Reg.counterAt? a = some p) : d.pairVal a = (d.cnt a).toNat := by
  have hne : ∀ b, Reg.counterAt? b = none → a ≠ b := fun b hb e => by rw [e, hb] at h; cases h
  rw [pairVal, if_neg (hne _ (by decide)), if_neg (hne _ (by decide)), if_neg (hne _ (by decide)), if_pos (by rw [h]; rfl)]

/-- The period rate is of class B: VIEW_SHADOW says from which bank it reads (R13, R45). -/
theorem regVal_periodRate {a : Nat} (ha : a = Reg.GLB_RATE_N ∨ a = Reg.GLB_RATE_D) :
    d.regVal a = if d.bget Reg.GLB_COMMIT_CTRL 4 then d.rdSh a else d.rd a := by
  rcases ha with rfl | rfl
  · rfl
  · rfl

/-- Characters said leave by the UART, and nothing else changes. -/
theorem say_eq (cs : List Byte) : d.say cs = { d with outs := d.outs ++ cs.map .uart } := by
  induction cs generalizing d with
  | nil => simp [say]
  | cons c cs ih =>
    show (d.emit (.uart c)).say cs = _
    rw [ih]
    simp [emit]

end Dev
end Machine

/-- Settles O19: a write to a class L register is discarded by the host's path and the monitor's alike, and the monitor's answer touches its
line and the outputs alone. -/
theorem loadOnlyWritesDiscarded : Obligations.LoadOnlyWritesDiscarded := by
  intro s a v r hs ha hr hc
  constructor
  · exact runs_same (by rw [exec_registerWrite, Dev.busWrite_classL ha hr hc]) hs rfl
  · have hm : s.monWrite a v = s.toDev ∨ s.monWrite a v =
        (s.updIsland (fun y => { y with line := [] })).say (chars ['o', 'k']) := by
      unfold Dev.monWrite Dev.monitor
      split
      · exact .inr (congrArg (fun x : Dev => x.say (chars ['o', 'k'])) (Dev.busWrite_classL ha hr hc))
      · exact .inl rfl
    rcases hm with h | h
    · exact runs_same (congrArg (finish s) h) hs rfl
    · rw [Dev.say_eq] at h
      exact runs_quiet (congrArg (finish s) h) hs rfl rfl rfl rfl rfl

/-- Settles O20: a write goes where `boundaryWrite_eq` says, and the oldest held one where `shadowPut_eq` says. -/
theorem boundaryWrites : Obligations.BoundaryWrites := by
  intro s a v r hs hi ha hr hc hm
  have hnew : Dev.isMacCfg a = false ∨ Dev.maxFrameBad (r.host (s.rdSh a) v) = false := hm.imp id And.right
  constructor
  · intro hd hp he
    have hw := exec_registerWrite a v s
    rw [Dev.busWrite_classB ha hr hc hd hi, s.boundaryWrite_eq hp (hm.imp id And.left) he] at hw
    by_cases hh : s.commit.window = true ∨ s.commit.hold ≠ []
    · rw [if_pos hh] at hw
      refine runs_quiet hw hs rfl rfl rfl rfl ⟨fun h1 h2 => ?_, fun _ => rfl⟩
      simp [h1, h2] at hh
    · rw [if_neg hh] at hw
      by_cases hf : s.commit.readyFor = none
      · rw [s.shadowPut_eq hr hnew hf] at hw
        exact runs_quiet hw hs rfl rfl rfl rfl ⟨fun _ _ _ => ⟨rfl, fun b => s.rdSh_wrSh a b _⟩, fun h => absurd h hh⟩
      · exact runs_of_forall fun t => ⟨fun _ _ h => absurd h hf, fun h => absurd h hh⟩
  · by_cases hh : s.commit.window = true ∨ s.commit.hold = []
    · have he : s.heldEnter = s.toDev := by
        rcases hh with h | h <;> simp [Dev.heldEnter, h]
      refine runs_same (congrArg (finish s) he) hs ⟨fun _ => rfl, fun tl h1 h2 => ?_⟩
      simp [h1, h2] at hh
    · by_cases hf : ∃ tl, s.commit.hold = (a, v) :: tl ∧ s.commit.readyFor = none
      · obtain ⟨tl, h2, h3⟩ := hf
        have h1 : s.commit.window = false := by simpa using fun h => hh (.inl h)
        have he : s.heldEnter = (s.updCommit (fun c => { c with hold := tl })).wrSh a (r.host (s.rdSh a) v) := by
          rw [Dev.heldEnter, h1, h2]
          exact Dev.shadowPut_eq _ hr hnew h3
        refine runs_quiet (congrArg (finish s) he) hs rfl rfl rfl rfl ⟨fun h => absurd h hh, fun tl' _ h _ => ?_⟩
        obtain rfl : tl = tl' := by simpa [h2] using h
        exact ⟨rfl, fun b => Dev.rdSh_wrSh _ a b _⟩
      · exact runs_of_forall fun t => ⟨fun h => absurd h hh, fun tl _ h1 h2 => absurd ⟨tl, h1, h2⟩ hf⟩

/-- Settles O22: a low read answers by `busRead_low`, a high read by `busRead_high`. -/
theorem pairLatches : Obligations.PairLatches := by
  intro s lo hs hlo hd hd4 hp hp4
  refine ⟨fun p h => s.pairVal_counter h, ?_, ?_⟩
  · have hr : exec (.counterLowRead lo 4) s = finish s
        ((s.latchSet lo (wd (s.pairVal lo / 2 ^ 32))).emit (.readData lo (wd (s.pairVal lo)))) := by
      rw [exec_counterLowRead, Dev.busRead_low hd hp]
    refine runs_quiet hr hs rfl rfl rfl rfl ⟨rfl, ?_, fun a ha => ?_, rfl⟩
    · exact (SMap.get_set _ _ _ _ _).trans (if_pos rfl)
    · exact (SMap.get_set _ _ _ _ _).trans (if_neg ha)
  · have hr : exec (.counterLowRead (lo + 4) 4) s = finish s (s.emit (.readData (lo + 4) (SMap.get (fun _ => 0) s.latch lo))) := by
      rw [exec_counterLowRead, Dev.busRead_high hd4 hp4]
    exact runs_quiet hr hs rfl rfl rfl rfl rfl

/-- Settles O21: `busWrite_operand` for the operands, and the bank that `regVal` takes for the period rate. -/
theorem shadowView : Obligations.ShadowView := by
  refine ⟨fun s v hs a ha => ?_, fun s on stack mode hs => ⟨?_, ?_⟩⟩
  · have hw : s.busWrite true a v = s.wr a v := by
      simp only [List.mem_cons, List.not_mem_nil, or_false] at ha
      rcases ha with rfl | rfl | rfl
      · exact s.busWrite_operand v rfl (by decide) (by decide)
      · exact s.busWrite_operand v rfl (by decide) (by decide)
      · exact s.busWrite_operand v rfl (by decide) (by decide)
    exact runs_quiet ((exec_registerWrite a v s).trans (congrArg (finish s) hw)) hs rfl rfl rfl rfl
      ⟨s.rd_wr_same a v, fun b hb => s.rd_wr_ne v hb, rfl⟩
  · refine runs_beside (d := ((s.bset Reg.GLB_COMMIT_CTRL 4 on).bset Reg.GLB_COMMIT_CTRL 3 stack).bset Reg.GLB_COMMIT_CTRL 2 mode)
      rfl hs rfl ⟨⟨fun a ha _ => ?_, rfl⟩, ?_⟩
    · show Dev.rd _ a = s.rd a
      rw [Dev.rd_bset_ne _ _ _ ha, Dev.rd_bset_ne _ _ _ ha, Dev.rd_bset_ne _ _ _ ha]
    · simp [Dev.bget_bset]
  · intro a ha
    have hr : s.busRead true a = (if s.bget Reg.GLB_COMMIT_CTRL 4 then s.rdSh a else s.rd a, s.toDev) := by
      simp only [List.mem_cons, List.not_mem_nil, or_false] at ha
      rw [← s.regVal_periodRate ha]
      rcases ha with rfl | rfl
      · exact Dev.busRead_plain (by decide) (s.deadAt_below_spars (by decide)) (by decide) (by decide) (by decide)
      · exact Dev.busRead_plain (by decide) (s.deadAt_below_spars (by decide)) (by decide) (by decide) (by decide)
    have he := exec_counterLowRead a s
    rw [hr] at he
    exact runs_quiet he hs rfl rfl rfl rfl rfl

end Sys2Proof

/-!
SUPPORT. The interrupt controller by hand (R11, R374 to R384): what moderation leaves alone, which sources pend after sets and clears,
and what a mask write and the end of HOLDOFF do.
-/
namespace Sys2Proof

open Machine

namespace Machine.Dev

/-! What moderation and messages leave alone: the registers, pending words among them, and the functions' resets. -/

/-- No function is being reset. -/
def NoReset (d : Dev) : Prop := ∀ p ∈ d.host.fns, p.2.resetting = false

/-- `e` differs from `d` only in moderation, message state and outputs: no register has changed, and no reset has begun. -/
structure ModFrame (d e : Dev) : Prop where
  regs : e.regs = d.regs
  noReset : d.NoReset → e.NoReset

namespace ModFrame

theorem refl (d : Dev) : ModFrame d d := ⟨rfl, id⟩
theorem trans {d e f : Dev} (h : ModFrame d e) (g : ModFrame e f) : ModFrame d f := ⟨g.regs.trans h.regs, g.noReset ∘ h.noReset⟩
/-- A run of operations, each of which keeps the frame, keeps it. -/
theorem foldl {α : Type} (f : Dev → α → Dev) (hf : ∀ d a, ModFrame d (f d a)) : ∀ (l : List α) (d : Dev), ModFrame d (l.foldl f d)
  | [], d => refl d
  | a :: l, d => (hf d a).trans (foldl f hf l (f d a))

variable {d e : Dev} (h : ModFrame d e)
include h

theorem rd (a : Nat) : e.rd a = d.rd a := by rw [Dev.rd, Dev.rd, h.regs]
theorem pendOf (s : Nat) : e.pendOf s = d.pendOf s := by simp only [Dev.pendOf, srcBit, bget, h.rd]

end ModFrame

variable (d : Dev)

/-- A change of a function that leaves its reset alone. -/
theorem updFn_mod (f : Nat) (g : Fn → Fn) (hg : ∀ x, (g x).resetting = x.resetting) : ModFrame d (d.updFn f g) := by
  refine ⟨rfl, fun hn p hp => ?_⟩
  rcases SMap.mem_set (fun _ => ({} : Fn)) (m := d.host.fns) hp with ⟨rfl, -⟩ | hp
  · show (g (d.fn f)).resetting = false
    rw [hg]
    by_cases hx : d.fn f = {}
    · rw [hx]
    · exact hn _ (SMap.mem_of_get (fun _ => ({} : Fn)) f hx)
  · exact hn p hp

/-- A message changes its function's pending bit or wake request at most. -/
theorem msix_mod (f v : Nat) : ModFrame d (d.msix f v) := by
  have hpme : ModFrame d (d.updFn f (fun y => { y with pme := true })) := updFn_mod d f _ (fun _ => rfl)
  unfold msix
  dsimp only
  split
  · exact updFn_mod d f _ (fun _ => rfl)
  · split
    · split <;> exact ⟨rfl, id⟩
    · exact ⟨rfl, id⟩
    · split
      · exact ⟨rfl, hpme.noReset⟩
      · exact ⟨rfl, id⟩
    · split
      · exact ⟨rfl, hpme.noReset⟩
      · exact ⟨rfl, id⟩

theorem msix_irq (f v : Nat) : (d.msix f v).irq = d.irq := by
  unfold msix
  dsimp only
  repeat' split
  all_goals rfl

theorem requestOut_mod (t : Nat) (was : Bool) : ModFrame d (d.requestOut t was) := by
  unfold requestOut
  dsimp only
  repeat' split
  · exact .refl d
  · exact ⟨rfl, id⟩
  · exact msix_mod d _ _
  · exact .refl d

/-- The outputs of a request leave the moderation as it is. -/
theorem requestOut_irq (t : Nat) (was : Bool) : (d.requestOut t was).irq = d.irq := by
  unfold requestOut
  dsimp only
  repeat' split
  · rfl
  · rfl
  · exact msix_irq d _ _
  · rfl

theorem updTarget_mod (t : Nat) (f : Target → Target) : ModFrame d (d.updTarget t f) := ⟨rfl, id⟩

theorem moderate_mod (t : Nat) : ModFrame d (d.moderate t) := by
  unfold moderate
  extract_lets was cl cfg x urgent d1
  refine .trans ?_ (requestOut_mod d1 t was)
  unfold d1
  split
  · exact updTarget_mod d t _
  · split
    · exact .refl d
    · split
      · exact updTarget_mod d t _
      · exact .refl d

theorem cameToQualify_mod (s : Nat) : ModFrame d (d.cameToQualify s) := by
  unfold cameToQualify
  dsimp only
  refine .trans ?_ (moderate_mod _ _)
  split
  · exact .refl d
  · exact updTarget_mod d _ _

/-! Pending bits (R374, R375). -/

/-- A source's pending bit as it is written, every other source's as before. -/
theorem pendOf_bset (s x : Nat) (b : Bool) :
    (d.bset (Reg.IRQ_PEND (srcWord s)) (s % 32) b).pendOf x = if x = s then b else d.pendOf x := by
  unfold pendOf srcBit
  by_cases hw : srcWord x = srcWord s
  · rw [hw, bget_bset d _ _ _ _ (Nat.mod_lt _ (by decide))]
    have : x % 32 = s % 32 ↔ x = s := by
      simp only [srcWord] at hw
      omega
    simp only [this]
  · have hx : x ≠ s := fun e => hw (by rw [e])
    have ha : Reg.IRQ_PEND (srcWord x) ≠ Reg.IRQ_PEND (srcWord s) := by
      simp only [Reg.IRQ_PEND]
      omega
    rw [if_neg hx, bget_bset_ne d _ _ _ ha]

/-- PEND of a source is set, that of every other source as before. -/
theorem pendOf_pendSet {s : Nat} (hs : s < 1152) (x : Nat) : (d.pendSet s).pendOf x = (decide (x = s) || d.pendOf x) := by
  have hset : (d.bset (Reg.IRQ_PEND (srcWord s)) (s % 32) true).pendOf x = (decide (x = s) || d.pendOf x) := by
    rw [pendOf_bset]
    by_cases hx : x = s <;> simp [hx]
  unfold pendSet
  dsimp only
  split
  next h =>
    have hp : d.pendOf s = true := by simpa [Nat.not_le.mpr hs] using h
    by_cases hx : x = s <;> simp [hx, hp]
  next =>
    split
    · rw [(cameToQualify_mod _ s).pendOf, hset]
    · exact hset

/-- The sources pending after a run of sets: those set, and those pending before. -/
theorem pendOf_foldl_pendSet (x : Nat) : ∀ (l : List Nat) (d : Dev), (∀ s ∈ l, s < 1152) →
    ((l.foldl pendSet d).pendOf x = true ↔ d.pendOf x = true ∨ x ∈ l)
  | [], d, _ => by simp
  | s :: l, d, h => by
    rw [List.foldl_cons, pendOf_foldl_pendSet x l _ (fun y hy => h y (List.mem_cons_of_mem _ hy)), pendOf_pendSet d (h s (by simp))]
    simp only [Bool.or_eq_true, decide_eq_true_eq, List.mem_cons]
    tauto

/-- The pending words lie between the masks and the active words. -/
theorem not_isPend {a : Nat} (h : a < 0x102000 ∨ 0x102240 ≤ a) : ¬ isPend a := by
  rintro ⟨w, hw, rfl⟩
  simp only [Reg.IRQ_PEND] at h
  omega

/-- What the interrupt controller does leaves every level input as it is (R374). -/
theorem IrqFrame.irqInput {d e : Dev} (h : IrqFrame d e) (s : Nat) : e.irqInput s = d.irqInput s := by
  have hg : ∀ a, a < 0x102000 ∨ 0x102240 ≤ a → e.rd a = d.rd a := fun a ha => h.rd a (not_isPend ha)
  have hsp : ∀ n o, e.rd (Reg.spar n + o) = d.rd (Reg.spar n + o) := fun n o => hg _ (by simp only [Reg.spar]; omega)
  have hspar : ∀ n k, e.sparInput n k = d.sparInput n k := by
    intro n k
    unfold sparInput
    simp only [evOn, Reg.MAC_EVENT, Reg.MAC_EVENT_EN, Reg.LANE_EVENT, Reg.LANE_EVENT_EN, Reg.PRS_EVENT, Reg.PRS_EVENT_EN, Reg.BUF_EVENT,
      Reg.BUF_EVENT_EN, Reg.CORE_EVENT, Reg.CORE_EVENT_EN, Reg.EQ_EVENT, Reg.EQ_EVENT_EN, Reg.TEL_EVENT, Reg.TEL_EVENT_EN, Reg.CE_EVENT,
      Reg.CE_EVENT_EN, Reg.WALL_EVENT, Reg.WALL_EVENT_EN, Reg.mac, Reg.lane, Nat.add_assoc, hsp]
  have htf : ∀ id n k w hi lo, e.tf id n k w hi lo = d.tf id n k w hi lo := fun id n k w hi lo => by rw [tf, tf, h.tab]
  have hcq : e.pfCqPending = d.pfCqPending := by simp only [pfCqPending, h.cqs, htf]
  have hcls : ∀ c, c < 16 → e.rd (Reg.FLT_CLASS_STATE c) = d.rd (Reg.FLT_CLASS_STATE c) := fun c hc =>
    hg _ (by simp only [Reg.FLT_CLASS_STATE]; omega)
  unfold Dev.irqInput
  split
  next hs => rw [Dev.fget, Dev.fget, hcls s hs]
  next =>
    simp (disch := decide) only [hspar, hcq, evOn, Dev.fget, Dev.bget, hg, h.loader, h.island]

/-- A clear leaves the pending bit of every other source. -/
theorem pendOf_pendClear_ne {s x : Nat} (hx : x ≠ s) : (d.pendClear s).pendOf x = d.pendOf x := by
  unfold pendClear
  dsimp only
  split
  next => rfl
  next hs =>
    have h1 : ((d.bset (Reg.IRQ_PEND (srcWord s)) (s % 32) false).moderate (d.targetOf s)).pendOf x = d.pendOf x := by
      rw [(moderate_mod _ _).pendOf, pendOf_bset, if_neg hx]
    split
    · rw [pendOf_pendSet _ (Nat.not_le.mp hs), h1]
      simp [hx]
    · exact h1

/-- A clear ends the pending of a source whose input is off (R375). -/
theorem pendOf_pendClear_same {s : Nat} (hs : s < 1152) (hi : d.irqInput s = false) : (d.pendClear s).pendOf s = false := by
  have hf : IrqFrame d ((d.bset (Reg.IRQ_PEND (srcWord s)) (s % 32) false).moderate (d.targetOf s)) :=
    (pendBit_frame d _ _ _ (by simp only [srcWord]; omega)).trans (moderate_frame _ _)
  unfold pendClear
  dsimp only
  rw [if_neg (Nat.not_le.mpr hs), hf.irqInput, hi, Bool.false_and, if_neg Bool.false_ne_true, (moderate_mod _ _).pendOf, pendOf_bset,
    if_pos rfl]

/-- A run of clears leaves the pending bit of a source outside it. -/
theorem pendOf_foldl_pendClear_ne {x : Nat} : ∀ (l : List Nat) (d : Dev), x ∉ l → (l.foldl pendClear d).pendOf x = d.pendOf x
  | [], _, _ => rfl
  | s :: l, d, h => by
    rw [List.mem_cons, not_or] at h
    rw [List.foldl_cons, pendOf_foldl_pendClear_ne l _ h.2, pendOf_pendClear_ne d h.1]

/-- After a run of clears a source without an input pends no more where the run names it, and did not come to pend where it does not. -/
theorem pendOf_foldl_pendClear_off {x : Nat} (hx : x < 1152) (l : List Nat) (hi : d.irqInput x = false)
    (h : x ∈ l ∨ d.pendOf x = false) : (l.foldl pendClear d).pendOf x = false := by
  induction l generalizing d with
  | nil => exact h.resolve_left List.not_mem_nil
  | cons s l ih =>
    refine ih _ (((pendClear_frame d s).irqInput x).trans hi) ?_
    by_cases hs : x = s
    · subst hs
      exact .inr (pendOf_pendClear_same d hx hi)
    · rw [pendOf_pendClear_ne d hs]
      exact h.imp_left (fun hm => (List.mem_cons.mp hm).resolve_left hs)

/-- The sources that a write of ones names: reserved ones are left out (R374). -/
theorem mem_wordSrcs {w : Nat} {v : Word} {x : Nat} :
    x ∈ wordSrcs w v ↔ x / 32 = w ∧ wbit v (x % 32) = true ∧ x ≠ 31 ∧ ¬ (33 ≤ x ∧ x < 120) := by
  have hres : ((!(x == 31 || (decide (33 ≤ x) && decide (x < 120)))) = true) ↔ x ≠ 31 ∧ ¬ (33 ≤ x ∧ x < 120) := by
    simp only [Bool.not_eq_true', Bool.or_eq_false_iff, Bool.and_eq_false_iff, beq_eq_false_iff_ne, decide_eq_false_iff_not]
    omega
  simp only [wordSrcs, upto, List.mem_filter, List.mem_map, List.mem_range, hres]
  constructor
  · rintro ⟨⟨j, ⟨hj, hv⟩, rfl⟩, hr⟩
    have h1 : (32 * w + j) / 32 = w := by omega
    have h2 : (32 * w + j) % 32 = j := by omega
    rw [h1, h2]
    exact ⟨rfl, hv, hr⟩
  · rintro ⟨h1, hv, hr⟩
    exact ⟨⟨x % 32, ⟨Nat.mod_lt _ (by decide), hv⟩, by omega⟩, hr⟩

/-- The software interrupts that a write of ones raises (R384). -/
theorem mem_swiSrcs {v : BitVec 8} {x : Nat} :
    x ∈ ((upto 8).filter (fun j => bit v.toNat j)).map (120 + ·) ↔ 120 ≤ x ∧ x < 128 ∧ v.getLsbD (x - 120) = true := by
  have hb : ∀ j, bit v.toNat j = v.getLsbD j := fun j => by
    rw [bit, BitVec.getLsbD, Nat.testBit_eq_decide_div_mod_eq, Nat.shiftRight_eq_div_pow]
    rfl
  simp only [upto, List.mem_map, List.mem_filter, List.mem_range, hb]
  constructor
  · rintro ⟨j, ⟨hj, hv⟩, rfl⟩
    exact ⟨by omega, by omega, by rwa [Nat.add_sub_cancel_left]⟩
  · rintro ⟨h1, h2, hv⟩
    exact ⟨x - 120, ⟨by omega, hv⟩, by omega⟩

theorem swi_eq_foldl_pendSet (v : Nat) : d.swi v = (((upto 8).filter (fun j => bit v j)).map (120 + ·)).foldl pendSet d := by
  rw [List.foldl_map]
  rfl

/-! Masks and moderation (R377, R380). -/

/-- What the interrupt controller leaves alone holds no register. -/
theorem beside_wr (a : Nat) (v : Word) : (d.wr a v).beside = d.beside := rfl

/-- A mask write qualifies and moderates once the mask word is written. -/
theorem maskWrite_frame (w form : Nat) (v : Word) :
    IrqFrame (d.wr (Reg.IRQ_MASK w) (maskNext (d.rd (Reg.IRQ_MASK w)) v form)) (d.maskWrite w form v) :=
  (foldl_frame _ cameToQualify_frame _ _).trans (foldl_frame _ moderate_frame _ _)
theorem maskWrite_mod (w form : Nat) (v : Word) :
    ModFrame (d.wr (Reg.IRQ_MASK w) (maskNext (d.rd (Reg.IRQ_MASK w)) v form)) (d.maskWrite w form v) :=
  (ModFrame.foldl _ cameToQualify_mod _ _).trans (ModFrame.foldl _ moderate_mod _ _)
theorem beside_maskWrite (w form : Nat) (v : Word) : (d.maskWrite w form v).beside = d.beside :=
  (maskWrite_frame d w form v).beside.trans (beside_wr d _ _)
/-- A mask write changes the mask word and no other register. -/
theorem rd_maskWrite (w form a : Nat) (v : Word) :
    (d.maskWrite w form v).rd a = if a = Reg.IRQ_MASK w then maskNext (d.rd (Reg.IRQ_MASK w)) v form else d.rd a :=
  ((maskWrite_mod d w form v).rd a).trans (rd_wr d _ _ _)
/-- A mask write leaves every pending bit. -/
theorem pendOf_maskWrite {w : Nat} (hw : w < 36) (form x : Nat) (v : Word) : (d.maskWrite w form v).pendOf x = d.pendOf x := by
  have ha : Reg.IRQ_PEND (srcWord x) ≠ Reg.IRQ_MASK w := by
    simp only [Reg.IRQ_PEND, Reg.IRQ_MASK]
    omega
  rw [(maskWrite_mod d w form v).pendOf]
  exact bget_wr_ne d _ _ ha

/-- D rises as HOLDOFF has passed, where a source is counted and claimable (R380). -/
theorem holdoffRise_target {t : Nat} (hc : (d.target t).counting = true) (hd : (d.target t).d = false) (hl : d.claimables t ≠ []) :
    (d.holdoffRise t).target t = { u := 0, d := true, counting := false } := by
  have h : ((d.target t).counting && !(d.target t).d && !(d.claimables t).isEmpty) = true := by simp [hc, hd, hl]
  rw [holdoffRise, if_pos h, target, requestOut_irq]
  exact (target_updTarget d t t _).trans (if_pos rfl)
/-- Without a source counted and claimable HOLDOFF passes in vain. -/
theorem holdoffRise_same {t : Nat} (h : (d.target t).counting = false ∨ (d.target t).d = true ∨ d.claimables t = []) :
    d.holdoffRise t = d := by
  rw [holdoffRise, if_neg]
  rcases h with h | h | h <;> simp [h]
theorem holdoffRise_mod (t : Nat) : ModFrame d (d.holdoffRise t) := by
  unfold holdoffRise
  split
  · exact (updTarget_mod d t _).trans (requestOut_mod _ t _)
  · exact .refl d

end Machine.Dev

open Machine.Dev

/-- What the interrupt controller does by itself changes no register and nothing beside it. -/
theorem onlyRegs_of_irqFrame {s t : State} {own : Nat → Prop} (h : IrqFrame s.toDev t.toDev) : OnlyRegs own s t :=
  ⟨fun a _ ha => h.rd a ha, h.beside⟩

/-- A command of the interrupt controller. -/
theorem runs_irq {c : Instr} {s : State} {d : Dev} {post : State → Prop} (he : exec c s = finish s d) (hs : Safe s)
    (hf : IrqFrame s.toDev d) (hp : post { toDev := d, pending := s.pending }) : Runs c s post := runs_beside he hs hf.beside hp

/-- A mask write of any form: the mask word, and nothing else but moderation. -/
theorem runs_irqMaskWrite {s : State} (hs : Safe s) (w : Fin 36) (form : Fin 3) (v : Word) :
    Runs (.irqMaskWrite w form v) s (fun u => u.rd (Reg.IRQ_MASK w) = maskNext (s.rd (Reg.IRQ_MASK w)) v form ∧
      OnlyRegs (fun a => a = Reg.IRQ_MASK w) s u ∧ ∀ x, u.pendOf x = s.pendOf x) := by
  have hb := beside_maskWrite s.toDev w form v
  have hr := fun a => rd_maskWrite s.toDev w form a v
  have hx := fun x => pendOf_maskWrite s.toDev w.isLt form x v
  have he : exec (.irqMaskWrite w form v) s = finish s (s.maskWrite w form v) := rfl
  generalize s.maskWrite w form v = d at hb hr hx he
  exact runs_beside he hs hb ⟨(hr _).trans (if_pos rfl), ⟨fun a ha _ => (hr a).trans (if_neg ha), hb⟩, hx⟩

/-- Settles O17: pending bits by hand from the laws of `pendSet` and `pendClear` over the sources a word names, masks and HOLDOFF from
`ModFrame`. -/
theorem interruptWrites : Obligations.InterruptWrites := by
  refine ⟨fun s w v edges hs => ⟨?_, ?_, ?_⟩, fun s w v t hs => ⟨?_, ?_, ?_, ?_⟩⟩
  · have hf := pendSetWord_frame s.toDev w v
    refine runs_irq rfl hs hf ⟨onlyRegs_of_irqFrame hf, fun x _ => ?_⟩
    refine (pendOf_foldl_pendSet x _ s.toDev (fun y hy => ?_)).trans (or_congr Iff.rfl mem_wordSrcs)
    have := (mem_wordSrcs.mp hy).1
    omega
  · have hf := pendClearWord_frame s.toDev w v
    refine runs_irq rfl hs hf ⟨onlyRegs_of_irqFrame hf, fun x hx => ?_⟩
    exact ⟨fun h => pendOf_foldl_pendClear_ne _ _ (fun hm => h (mem_wordSrcs.mp hm)),
      fun h hi => pendOf_foldl_pendClear_off _ hx _ hi (.inl (mem_wordSrcs.mpr h))⟩
  · have hf := swi_frame s.toDev edges.toNat
    refine runs_irq rfl hs hf ⟨onlyRegs_of_irqFrame hf, fun x _ => ?_⟩
    show (s.swi edges.toNat).pendOf x = true ↔ _
    rw [swi_eq_foldl_pendSet]
    refine (pendOf_foldl_pendSet x _ s.toDev (fun y hy => ?_)).trans (or_congr Iff.rfl mem_swiSrcs)
    have := mem_swiSrcs.mp hy
    omega
  · obtain ⟨u, he, hp, h1, h2, h3⟩ := runs_irqMaskWrite hs w 0 v
    exact ⟨u, he, hp, h1, h2, fun x _ => h3 x⟩
  · obtain ⟨u, he, hp, h1, h2, -⟩ := runs_irqMaskWrite hs w 1 v
    exact ⟨u, he, hp, h1, h2⟩
  · obtain ⟨u, he, hp, h1, h2, -⟩ := runs_irqMaskWrite hs w 2 v
    exact ⟨u, he, hp, h1, h2⟩
  · have hf := holdoffRise_frame s.toDev t
    refine runs_irq rfl hs hf ⟨(holdoffRise_mod s.toDev t).regs, hf.beside, fun hc hd hl => ?_, fun h => ?_⟩
    · have ht := holdoffRise_target s.toDev hc hd hl
      exact ⟨congrArg Target.d ht, congrArg Target.u ht⟩
    · exact congrArg (fun d => ({ toDev := d, pending := s.pending } : State)) (holdoffRise_same s.toDev h)

end Sys2Proof

/-!
SUPPORT. The pools of buffers, the occupancy peak and the leak audit (R160 to R167, R174): what each operation of them leaves, and what it
leaves alone.
-/
namespace Sys2Proof

open Machine

namespace Machine

/-! Bytes and words. -/

/-- A number cut into bytes, least significant first, reads back cut to their width. -/
theorem leNat_leBytes : ∀ n x, leNat (leBytes n x) = x % 2 ^ (8 * n)
  | 0, x => by simp [leBytes, leNat, Nat.mod_one]
  | n + 1, x => by
    have hb : (by8 x).toNat = x % 256 := rfl
    have hp : 2 ^ (8 * (n + 1)) = 256 * 2 ^ (8 * n) := by
      rw [Nat.mul_succ, pow_add, Nat.mul_comm]
      rfl
    rw [leBytes, leNat, leNat_leBytes n, hb, hp, Nat.shiftRight_eq_div_pow, Nat.mod_mul]
theorem length_leBytes : ∀ n x, (leBytes n x).length = n
  | 0, _ => rfl
  | n + 1, x => by rw [leBytes, List.length_cons, length_leBytes n]
/-- A word of a number that a word holds. -/
theorem wd_toNat (v : Word) : wd v.toNat = v := (BitVec.ofNat_toNat 32 v).trans (BitVec.setWidth_eq v)

namespace Dev

variable (d : Dev)

/-! Stores of a settled command. -/

/-- A command that stored one run of bytes leaves it in frame memory, every other byte as before. -/
theorem fmByte_settle_put {d0 : Dev} {b : Nat} {bs : Bytes} (h : d.stores = .put b bs :: d0.stores) (a : Nat) :
    (settle d0 d).fmByte a = if b ≤ a ∧ a < b + bs.length then bs.getD (a - b) 0 else d0.fmByte a := by
  rw [fmByte_settle, h]
  rfl

/-- A word stored reads back. -/
theorem fmWord_settle_put {d0 : Dev} {b : Nat} {v : Word} (h : d.stores = .put b (leBytes 4 v.toNat) :: d0.stores) :
    (settle d0 d).fmWord b = v := by
  have hr : (settle d0 d).fmRead b 4 = leBytes 4 v.toNat := by
    refine List.ext_getElem (by simp [fmRead, upto, length_leBytes]) (fun i h1 h2 => ?_)
    have hi : b ≤ b + i ∧ b + i < b + (leBytes 4 v.toNat).length := ⟨by omega, by omega⟩
    simp only [fmRead, upto, List.getElem_map, List.getElem_range]
    rw [fmByte_settle_put d h, if_pos hi, Nat.add_sub_cancel_left, List.getD_eq_getElem _ _ h2]
  rw [fmWord, hr, leNat_leBytes, Nat.mod_eq_of_lt v.isLt, wd_toNat]

/-- A command that changed the host queues and stored: nothing else is changed once it is settled. -/
theorem settle_host_stores {d0 : Dev} (h : d = { d0 with host := d.host, fmem := d.fmem, stores := d.stores }) (hs : d0.stores = []) :
    settle d0 d = { d0 with host := d.host, fmem := (settle d0 d).fmem } := by
  cases d0
  cases d
  simp only [Dev.mk.injEq] at h
  simp only at hs
  simp [settle, h, hs]

/-! Pool buffers (R165 to R167). -/

/-- The first pool from `k` on that has a buffer gives it (R166). -/
theorem poolTake_eq {k j : Nat} (hj : j < 4) (hk : k ≤ j) (hd : d.poolDepth j ≠ 0) (h0 : ∀ i, k ≤ i → i < j → d.poolDepth i = 0) :
    d.poolTake k = d.poolPop j := by
  have hsome : (d.poolPop j).isSome = true := by rw [poolPop, if_neg hd]; rfl
  have hsplit : ∀ i < 4, upto 4 = upto i ++ i :: (upto 4).drop (i + 1) := by decide
  have hnone : ((upto j).filter (fun i => decide (k ≤ i))).findSome? d.poolPop = none := by
    rw [List.findSome?_eq_none_iff]
    intro i hi
    obtain ⟨h1, h2⟩ := List.mem_filter.mp hi
    exact if_pos (h0 i (of_decide_eq_true h2) (List.mem_range.mp h1))
  rw [poolTake, hsplit j hj, List.filter_append, List.findSome?_append, hnone, Option.none_or,
    List.filter_cons_of_pos (by exact decide_eq_true hk), List.findSome?_cons_of_isSome hsome]

/-- The buffer taken is the handle at the top of a stack, and only the pools' own state changes. -/
theorem poolPop_eq {j h : Nat} {e : Dev} (hp : d.poolPop j = some (h, e)) :
    h = (d.fmWord (d.poolStack j + 4 * (d.poolDepth j - 1))).toNat ∧ e = d.updHost (fun x => { x with
      inUse := x.inUse ++ [h], poolDepth := SMap.set (fun _ => 0) x.poolDepth j (d.poolDepth j - 1) }) := by
  unfold poolPop at hp
  split at hp
  · cases hp
  · cases hp
    exact ⟨rfl, rfl⟩
/-- A handle pushed makes its pool's stack one deeper. -/
theorem poolDepth_poolPush (h : Nat) : (d.poolPush h).poolDepth (h / 2 ^ 30) = d.poolDepth (h / 2 ^ 30) + 1 := by
  show SMap.get (fun _ => 0) (SMap.set (fun _ => 0) d.host.poolDepth (h / 2 ^ 30) (d.poolDepth (h / 2 ^ 30) + 1)) (h / 2 ^ 30) = _
  rw [SMap.get_set, if_pos rfl]
/-- A buffer taken changes nothing outside the host queues' state. -/
theorem poolTake_host {k h : Nat} {e : Dev} (hp : d.poolTake k = some (h, e)) : ∃ g, e = d.updHost g := by
  obtain ⟨j, -, hj⟩ := List.exists_of_findSome?_eq_some hp
  exact ⟨_, (d.poolPop_eq hj).2⟩

/-! The audit's question (R163). -/

/-- A question changes registers and the audit's own state. -/
theorem auditAsk_go (o : Nat) : d.auditAsk o true = { d with regs := (d.auditAsk o true).regs, audit := 2, auditOf := o } := by
  unfold auditAsk bset fset wr
  rfl
/-- BUF_AUDIT_CTRL takes the owner with BUSY set and ZERO clear; no other register changes. -/
theorem rd_auditAsk (o a : Nat) : (d.auditAsk o true).rd a =
    (((d.fset Reg.BUF_AUDIT_CTRL 11 0 o).bset Reg.BUF_AUDIT_CTRL 30 true).bset Reg.BUF_AUDIT_CTRL 29 false).rd a := by
  simp only [auditAsk, if_true, rd]
theorem fget_auditAsk (o : Nat) : (d.auditAsk o true).fget Reg.BUF_AUDIT_CTRL 11 0 = o % 2 ^ 12 := by
  rw [fget, rd_auditAsk, ← fget, fget_bset_other _ _ _ _ _ _ (by decide) (by decide),
    fget_bset_other _ _ _ _ _ _ (by decide) (by decide), fget_fset _ _ _ _ _ (by decide) (by decide)]
theorem bget_auditAsk (o : Nat) {i : Nat} (hi : i = 29 ∨ i = 30) : (d.auditAsk o true).bget Reg.BUF_AUDIT_CTRL i = decide (i = 30) := by
  rw [bget, rd_auditAsk, ← bget]
  rcases hi with rfl | rfl <;> simp [bget_bset]
theorem rd_auditAsk_ne (o : Nat) {a : Nat} (ha : a ≠ Reg.BUF_AUDIT_CTRL) : (d.auditAsk o true).rd a = d.rd a := by
  rw [rd_auditAsk, rd_bset_ne _ _ _ ha, rd_bset_ne _ _ _ ha, rd_fset_ne _ _ _ _ ha]

end Dev

section Pools
open Dev

theorem not_isPend_bufEvent (n : Nat) : ¬ isPend (Reg.BUF_EVENT n) := not_isPend (.inr (by simp only [Reg.BUF_EVENT, Reg.spar]; omega))

/-- A read of BUF_POOL_GET with a buffer to give. -/
theorem runs_poolGet_take {s : State} (hs : Safe s) {k : Fin 4} (hm : s.poolMode = true) {h : Nat} {e : Dev} (ht : s.poolTake k = some (h, e)) :
    Runs (.poolGet k) s (fun t => ∀ j < 4, (k : Nat) ≤ j → s.poolDepth j ≠ 0 → (∀ i, (k : Nat) ≤ i → i < j → s.poolDepth i = 0) →
      let b := s.fmWord (s.poolStack j + 4 * (s.poolDepth j - 1))
      t.host.inUse = s.host.inUse ++ [b.toNat] ∧ t.poolDepth j = s.poolDepth j - 1 ∧ (∀ i, i ≠ j → t.poolDepth i = s.poolDepth i) ∧
      t = { s with host := t.host, outs := s.outs ++ [.readData (Reg.BUF_POOL_GET k) b] }) := by
  have hr : s.poolRead k = e.emit (.readData (Reg.BUF_POOL_GET k) (wd h)) := by rw [poolRead, if_pos hm, ht]
  obtain ⟨g, rfl⟩ := s.poolTake_host ht
  refine runs_quiet (congrArg (finish s) hr) hs rfl rfl rfl rfl (fun j hj hk hd h0 => ?_)
  obtain ⟨rfl, he⟩ := s.poolPop_eq ((s.poolTake_eq hj hk hd h0).symm.trans ht)
  rw [he, wd_toNat]
  exact ⟨rfl, (SMap.get_set _ _ _ _ _).trans (if_pos rfl), fun i hi => (SMap.get_set _ _ _ _ _).trans (if_neg hi), rfl⟩

/-- A read of BUF_POOL_GET with every pool empty. -/
theorem runs_poolGet_none {s : State} (hs : Safe s) {k : Fin 4} (hm : s.poolMode = true) (ht : s.poolTake k = none) :
    Runs (.poolGet k) s (fun t => (∃ more, t.outs = s.outs ++ more ++ [.readData (Reg.BUF_POOL_GET k) 0xFFFFFFFF]) ∧
      t.bget (Reg.BUF_EVENT 0) 5 = true ∧ OnlyRegs (fun a => a = Reg.BUF_EVENT 0) s t) := by
  have hr : s.poolRead k = (s.bufEvent 0 5).emit (.readData (Reg.BUF_POOL_GET k) 0xFFFFFFFF) := by rw [poolRead, if_pos hm, ht]
  have hf : IrqFrame (s.bset (Reg.BUF_EVENT 0) 5 true) (s.bufEvent 0 5) := event_frame _ _ _ _
  obtain ⟨more, ho⟩ := hf.outs
  rw [show (s.bset (Reg.BUF_EVENT 0) 5 true).outs = s.outs from wr_outs _ _ _] at ho
  have hb : (s.bufEvent 0 5).beside = s.beside := hf.beside.trans (beside_wr _ _ _)
  have hbit : (s.bufEvent 0 5).bget (Reg.BUF_EVENT 0) 5 = true :=
    (bget_event s.toDev _ 5 5 _ (by decide) (not_isPend_bufEvent 0)).trans (if_pos rfl)
  have hrd : ∀ a, a ≠ Reg.BUF_EVENT 0 → ¬ isPend a → (s.bufEvent 0 5).rd a = s.rd a := fun a ha hp => rd_event_ne s.toDev _ _ _ ha hp
  generalize s.bufEvent 0 5 = e at hr ho hb hbit hrd
  exact runs_beside (congrArg (finish s) hr) hs hb ⟨⟨more, congrArg (· ++ _) ho⟩, hbit, hrd, hb⟩

/-- A free of a buffer in use pushes its handle on its pool's stack (R167). -/
theorem runs_poolFree_give {s : State} (hs : Safe s) {h : Word} (hm : s.poolMode = true) (hu : h.toNat ∈ s.host.inUse) :
    Runs (.poolFree h) s (fun t => let top := s.poolStack (h.toNat / 2 ^ 30) + 4 * s.poolDepth (h.toNat / 2 ^ 30)
      t = { s with host := t.host, fmem := t.fmem } ∧ t.host.inUse = s.host.inUse.erase h.toNat ∧ t.fmWord top = h ∧
      (∀ a, a < top ∨ top + 4 ≤ a → t.fmByte a = s.fmByte a) ∧
      t.poolDepth (h.toNat / 2 ^ 30) = s.poolDepth (h.toNat / 2 ^ 30) + 1) := by
  let d := (s.updHost (fun x => { x with inUse := x.inUse.erase h.toNat })).poolPush h.toNat
  have hd : s.poolWrite h.toNat = d := by
    rw [poolWrite, if_pos hm, poolGive, if_pos (by simpa using hu)]
  have hst : d.stores = .put (s.poolStack (h.toNat / 2 ^ 30) + 4 * s.poolDepth (h.toNat / 2 ^ 30)) (leBytes 4 h.toNat) :: s.stores := rfl
  refine ⟨{ toDev := settle s.toDev d, pending := s.pending }, ?_, rfl, ?_, rfl, ?_, fun a ha => ?_, ?_⟩
  · exact (congrArg (finish s) hd).trans (finish_none s d hs.2.2)
  · have ht := settle_host_stores (d0 := s.toDev) d rfl hs.2.1
    exact congrArg (fun e => ({ toDev := e, pending := s.pending } : State)) ht
  · exact fmWord_settle_put d hst
  · refine (fmByte_settle_put d hst a).trans (if_neg ?_)
    rw [length_leBytes]
    omega
  · exact poolDepth_poolPush (s.updHost (fun x => { x with inUse := x.inUse.erase h.toNat })) h.toNat

/-- A free of a handle that is not in use is counted (R167). -/
theorem runs_poolFree_bad {s : State} (hs : Safe s) {h : Word} (hm : s.poolMode = true) (hu : h.toNat ∉ s.host.inUse) :
    Runs (.poolFree h) s (fun t => t.cnt Reg.C_BUF_POOL_BAD_FREE = addSat (s.cnt Reg.C_BUF_POOL_BAD_FREE) 1 ∧
      t.bget (Reg.BUF_EVENT 0) 6 = true ∧ t.host.inUse = s.host.inUse ∧ SameRegs (fun a => a = Reg.BUF_EVENT 0) s t) := by
  have hr : s.poolWrite h.toNat = (s.inc Reg.C_BUF_POOL_BAD_FREE).bufEvent 0 6 := by
    rw [poolWrite, if_pos hm, poolGive, if_neg (by simpa using hu)]
  have hf : IrqFrame ((s.inc Reg.C_BUF_POOL_BAD_FREE).bset (Reg.BUF_EVENT 0) 6 true) ((s.inc Reg.C_BUF_POOL_BAD_FREE).bufEvent 0 6) :=
    event_frame _ _ _ _
  refine runs_quiet (congrArg (finish s) hr) hs hf.fault hf.fmem hf.stores hf.fuses ⟨?_, ?_, hf.inUse, fun a ha hp => ?_⟩
  · exact (hf.cnt _).trans ((cnt_cntAdd s.toDev _ 1 _).trans (if_pos rfl))
  · exact (bget_event _ _ 6 6 _ (by decide) (not_isPend_bufEvent 0)).trans (if_pos rfl)
  · exact rd_event_ne _ _ _ _ ha hp

/-- A question to the audit: the owner named, BUSY, and the answer due from the next pass that starts (R163). -/
theorem runs_auditQuery {s : State} (hs : Safe s) (owner : BitVec 12) :
    Runs (.auditQuery owner) s (fun t => t.fget Reg.BUF_AUDIT_CTRL 11 0 = owner.toNat ∧ t.bget Reg.BUF_AUDIT_CTRL 30 = true ∧
      t.bget Reg.BUF_AUDIT_CTRL 29 = false ∧ t.audit = 2 ∧ t.auditOf = owner.toNat ∧ (∀ a, a ≠ Reg.BUF_AUDIT_CTRL → t.rd a = s.rd a) ∧
      t = { s with regs := t.regs, audit := t.audit, auditOf := t.auditOf }) := by
  have he : exec (.auditQuery owner) s = finish s (s.auditAsk owner.toNat true) := rfl
  have hg := s.auditAsk_go owner.toNat
  have ho := (s.fget_auditAsk owner.toNat).trans (Nat.mod_eq_of_lt owner.isLt)
  have hbusy := s.bget_auditAsk owner.toNat (.inr rfl)
  have hzero := s.bget_auditAsk owner.toNat (.inl rfl)
  have hrd := fun a => s.rd_auditAsk_ne owner.toNat (a := a)
  generalize s.auditAsk owner.toNat true = d at he hg ho hbusy hzero hrd
  refine runs_quiet he hs (congrArg Dev.fault hg :) (congrArg Dev.fmem hg :) (congrArg Dev.stores hg :) (congrArg Dev.fuses hg :)
    ⟨ho, hbusy, hzero, (congrArg Dev.audit hg :), (congrArg Dev.auditOf hg :), hrd, ?_⟩
  have ha : d.audit = 2 := congrArg Dev.audit hg
  have hof : d.auditOf = owner.toNat := congrArg Dev.auditOf hg
  exact congrArg (fun e => ({ toDev := e, pending := s.pending } : State)) (by rw [ha, hof]; exact hg)

end Pools
end Machine
end Sys2Proof

/-!
SUPPORT. A pass of the leak audit (R160 to R164): what it publishes of each owner, what it answers, and what it leaves alone.
-/
namespace Sys2Proof

open Machine

namespace Machine.Dev

/-! No function's reset begins with an event. -/

section
variable {d : Dev} (hn : d.NoReset)
include hn

theorem wr_noReset (a : Nat) (v : Word) : (d.wr a v).NoReset := hn
theorem bset_noReset (a i : Nat) (b : Bool) : (d.bset a i b).NoReset := hn
theorem pendSet_noReset (s : Nat) : (d.pendSet s).NoReset := by
  unfold pendSet
  dsimp only
  split
  · exact hn
  · split
    · exact (cameToQualify_mod (d.bset _ _ true) s).noReset (bset_noReset hn _ _ _)
    · exact bset_noReset hn _ _ _
theorem event_noReset (ev i src : Nat) : (d.event ev i src).NoReset := by
  unfold event irqSync
  split
  · exact pendSet_noReset (bset_noReset hn ev i true) src
  · exact bset_noReset hn ev i true

end

/-- `e` differs from `d` by what the audit does as it publishes: entries of its table, leak events, and interrupts. -/
structure AuditFrame (d e : Dev) : Prop where
  beside : { e.beside with tabs := [] } = { d.beside with tabs := [] }
  rd : ∀ a, ¬ isPend a → (∀ n, a ≠ Reg.BUF_EVENT n) → e.rd a = d.rd a
  noReset : d.NoReset → e.NoReset

namespace AuditFrame

theorem refl (d : Dev) : AuditFrame d d := ⟨rfl, fun _ _ _ => rfl, id⟩
theorem trans {d e f : Dev} (h : AuditFrame d e) (g : AuditFrame e f) : AuditFrame d f :=
  ⟨g.beside.trans h.beside, fun a h1 h2 => (g.rd a h1 h2).trans (h.rd a h1 h2), g.noReset ∘ h.noReset⟩

end AuditFrame

variable (d : Dev)

theorem tabSet_audit_frame (id n k : Nat) (ws : List Word) : AuditFrame d (d.tabSet id n k ws) :=
  ⟨rfl, fun _ _ _ => rfl, fun h => h⟩
theorem bufEvent_audit_frame (n i : Nat) : AuditFrame d (d.bufEvent n i) := by
  have hf : IrqFrame (d.bset (Reg.BUF_EVENT n) i true) (d.bufEvent n i) := event_frame _ _ _ _
  refine ⟨congrArg (fun x : Dev => { x with tabs := [] }) (hf.beside.trans (beside_wr d _ _)), fun a ha he => rd_event_ne d _ _ _ (he n) ha, fun hn => ?_⟩
  exact event_noReset hn _ _ _

/-- The cells that the audit's table shows for an owner (R160). -/
def auditShown (d : Dev) (o : Nat) : Nat := fld ((d.tab 0x0602 0 o).getD 0 0) 30 0

/-- A count beside a flag in bit 31 reads back, cut to the field. -/
theorem fld_count (n : Nat) (b : Bool) : fld (wd (n + b2n b * 2 ^ 31)) 30 0 = n % 2 ^ 31 := by
  have hb : b2n b = 0 ∨ b2n b = 1 := by cases b <;> simp [b2n]
  simp only [fld, bits, wd, BitVec.toNat_ofNat, Nat.shiftRight_zero]
  omega

theorem auditOwner_frame (o : Nat) (ages : List Nat) : AuditFrame d (d.auditOwner o ages) := by
  unfold auditOwner
  extract_lets lim age old leak d1
  split
  · exact (tabSet_audit_frame d _ _ _ _).trans (bufEvent_audit_frame d1 _ _)
  · exact tabSet_audit_frame d _ _ _ _

/-- An owner's entry published shows its cells, every other owner's as before. -/
theorem auditShown_auditOwner (o o' : Nat) (ages : List Nat) :
    (d.auditOwner o ages).auditShown o' = if o' = o then ages.length % 2 ^ 31 else d.auditShown o' := by
  unfold auditOwner
  extract_lets lim age old leak d1
  have h1 : d1.auditShown o' = if o' = o then ages.length % 2 ^ 31 else d.auditShown o' := by
    have hk : tkey 0x0602 0 o' = tkey 0x0602 0 o ↔ o' = o := by
      simp only [tkey]
      omega
    simp only [auditShown, d1, tab_tabSet, hk]
    split
    · exact fld_count _ _
    · rfl
  split
  · have hf : IrqFrame (d1.bset (Reg.BUF_EVENT (homeSpar o)) 3 true) (d1.bufEvent (homeSpar o) 3) := event_frame _ _ _ _
    rw [auditShown, hf.tab, bset, fset, tab_wr]
    exact h1
  · exact h1

/-- A run of owners published. -/
theorem foldl_auditOwner_frame (f : Nat → List Nat) : ∀ (l : List Nat) (d : Dev),
    AuditFrame d (l.foldl (fun x o => x.auditOwner o (f o)) d)
  | [], d => .refl d
  | o :: l, d => (auditOwner_frame d o (f o)).trans (foldl_auditOwner_frame f l _)
theorem auditShown_foldl (f : Nat → List Nat) (o : Nat) (l : List Nat) :
    (l.foldl (fun x k => x.auditOwner k (f k)) d).auditShown o = if o ∈ l then (f o).length % 2 ^ 31 else d.auditShown o := by
  induction l generalizing d with
  | nil => simp
  | cons k l ih =>
    rw [List.foldl_cons, ih, auditShown_auditOwner]
    by_cases hl : o ∈ l
    · simp [hl]
    · by_cases hk : o = k <;> simp [hl, hk]

/-! Counts of cells. -/

/-- The cells of every slice. -/
def auditCells (d : Dev) : List Cell := d.slices.flatMap (fun p => p.2.cells.map (·.2))

/-- An owner's cells, counted over the cells of every slice. -/
theorem ownerCount_eq (o : Nat) : d.ownerCount o = (d.auditCells.filter (fun c => c.owner == o)).length := by
  have h : ∀ (l : SMap Slice) (n : Nat), l.foldl (fun a p => a + (p.2.cells.filter (fun c => c.2.owner == o)).length) n =
      n + ((l.flatMap (fun p => p.2.cells.map (·.2))).filter (fun c => c.owner == o)).length := by
    intro l
    induction l with
    | nil => simp
    | cons p l ih =>
      intro n
      have hp : ((p.2.cells.map (·.2)).filter (fun c => c.owner == o)).length = (p.2.cells.filter (fun c => c.2.owner == o)).length := by
        rw [List.filter_map, List.length_map]
        rfl
      rw [List.foldl_cons, ih, List.flatMap_cons, List.filter_append, List.length_append, hp, Nat.add_assoc]
  exact (h d.slices 0).trans (Nat.zero_add _)

/-- The slices with OLD set where a pass finds it. -/
def markedOld (us : Nat) (l : SMap Slice) : SMap Slice := l.map (fun p => (p.1, p.2.markOld us))

/-- OLD changes no count. -/
theorem ownerCount_markedOld {e : Dev} (us o : Nat) (h : e.slices = markedOld us d.slices) : e.ownerCount o = d.ownerCount o := by
  have hc : ∀ x : Slice, ((x.markOld us).cells.filter (fun c => c.2.owner == o)).length =
      (x.cells.filter (fun c => c.2.owner == o)).length := by
    intro x
    rw [Slice.markOld, List.filter_map, List.length_map]
    rfl
  unfold ownerCount
  rw [h, markedOld, List.foldl_map]
  simp only [hc]

/-! A whole pass. -/

/-- The owners that have an entry in the audit's table. -/
def auditListed (d : Dev) : List Nat :=
  (d.tabs.filter (fun p => decide (tkey 0x0602 0 0 ≤ p.1) && decide (p.1 < tkey 0x0602 0 4096))).map (fun p => p.1 % 2 ^ 20)

/-- An owner without an entry shows no cell. -/
theorem auditShown_unlisted {o : Nat} (ho : o < 4096) (h : o ∉ d.auditListed) : d.auditShown o = 0 := by
  have hid : tkey 0x0602 0 o / 2 ^ 28 = 0x0602 := by
    simp only [tkey]
    omega
  have hdef : tabDefault (tkey 0x0602 0 o) = [0, 0] := by
    unfold tabDefault
    rw [hid]
    rfl
  have hget : d.tab 0x0602 0 o = tabDefault (tkey 0x0602 0 o) := by
    by_contra hne
    have hm := SMap.mem_of_get tabDefault (tkey 0x0602 0 o) hne
    refine h (List.mem_map.mpr ⟨_, List.mem_filter.mpr ⟨hm, ?_⟩, ?_⟩)
    · rw [Bool.and_eq_true, decide_eq_true_eq, decide_eq_true_eq]
      simp only [tkey]
      omega
    · simp only [tkey]
      omega
  rw [auditShown, hget, hdef]
  rfl

/-- The ages that a pass finds for an owner's cells. -/
def auditAges (d : Dev) (o : Nat) : List Nat := (d.auditCells.filter (fun c => c.owner == o)).map (cellAge (d.usCount % 2 ^ 24))
/-- The owners that a pass publishes: those that hold a cell or have an entry. -/
def auditOwners (d : Dev) : List Nat := (d.auditCells.map (·.owner) ++ d.auditListed).eraseDups
/-- The device with every owner's entry published. -/
def auditPublished (d : Dev) : Dev := d.auditOwners.foldl (fun x o => x.auditOwner o (d.auditAges o)) d

theorem auditPublished_frame : AuditFrame d d.auditPublished := foldl_auditOwner_frame d.auditAges _ d

/-- Each owner's entry shows the cells that it holds (R160). -/
theorem auditShown_auditPublished {o : Nat} (ho : o < 4096) : d.auditPublished.auditShown o = d.ownerCount o % 2 ^ 31 := by
  rw [auditPublished, auditShown_foldl, auditAges, List.length_map, ← ownerCount_eq]
  split
  next => rfl
  next h =>
    rw [auditOwners, List.mem_eraseDups, List.mem_append, not_or] at h
    obtain ⟨hcells, htabs⟩ := h
    have hz : d.ownerCount o = 0 := by
      rw [ownerCount_eq, List.length_eq_zero_iff, List.filter_eq_nil_iff]
      intro c hc he
      exact hcells (List.mem_map.mpr ⟨c, hc, by simpa using he⟩)
    rw [auditShown_unlisted d ho htabs, hz, Nat.zero_mod]

/-- A run of steps none of which changes the device. -/
theorem foldl_same {α : Type} (f : Dev → α → Dev) : ∀ l : List α, (∀ a ∈ l, f d a = d) → l.foldl f d = d
  | [], _ => rfl
  | a :: l, h => by
    rw [List.foldl_cons, h a List.mem_cons_self, foldl_same f l (fun b hb => h b (List.mem_cons_of_mem _ hb))]

/-- The device with its slices replaced. -/
def withSlices (d : Dev) (l : SMap Slice) : Dev := { d with slices := l }
/-- The device with the audit's turn replaced. -/
def withAudit (d : Dev) (n : Nat) : Dev := { d with audit := n }
/-- The device without registers, outputs, interrupts, tables, slices and the audit's turn: what a pass of the audit leaves alone. -/
def outsideAudit (d : Dev) : Dev := { d.beside with tabs := [], slices := [], audit := 0 }

@[simp] theorem rd_withSlices (l : SMap Slice) (a : Nat) : (d.withSlices l).rd a = d.rd a := rfl
@[simp] theorem auditShown_withSlices (l : SMap Slice) (o : Nat) : (d.withSlices l).auditShown o = d.auditShown o := rfl
@[simp] theorem audit_withSlices (l : SMap Slice) : (d.withSlices l).audit = d.audit := rfl
@[simp] theorem auditOf_withSlices (l : SMap Slice) : (d.withSlices l).auditOf = d.auditOf := rfl
@[simp] theorem outsideAudit_withSlices (l : SMap Slice) : (d.withSlices l).outsideAudit = d.outsideAudit := rfl
@[simp] theorem auditShown_wr (a : Nat) (v : Word) (o : Nat) : (d.wr a v).auditShown o = d.auditShown o := rfl
@[simp] theorem outsideAudit_wr (a : Nat) (v : Word) : (d.wr a v).outsideAudit = d.outsideAudit := rfl
@[simp] theorem rd_withAudit (n a : Nat) : (d.withAudit n).rd a = d.rd a := rfl
@[simp] theorem bget_withAudit (n a i : Nat) : (d.withAudit n).bget a i = d.bget a i := rfl
@[simp] theorem auditShown_withAudit (n o : Nat) : (d.withAudit n).auditShown o = d.auditShown o := rfl
@[simp] theorem audit_withAudit (n : Nat) : (d.withAudit n).audit = n := rfl
@[simp] theorem outsideAudit_withAudit (n : Nat) : (d.withAudit n).outsideAudit = d.outsideAudit := rfl
theorem withSlices_noReset {d : Dev} (hn : d.NoReset) (l : SMap Slice) : (d.withSlices l).NoReset := hn
theorem withAudit_noReset {d : Dev} (hn : d.NoReset) (n : Nat) : (d.withAudit n).NoReset := hn
theorem outsideAudit_of_beside {d e : Dev} (h : e.beside = d.beside) : e.outsideAudit = d.outsideAudit := by
  rw [outsideAudit, h, ← outsideAudit]

namespace AuditFrame

variable {d e : Dev} (h : AuditFrame d e)
include h

theorem slices : e.slices = d.slices := (congrArg Dev.slices h.beside :)
theorem audit : e.audit = d.audit := (congrArg Dev.audit h.beside :)
theorem auditOf : e.auditOf = d.auditOf := (congrArg Dev.auditOf h.beside :)
theorem outsideAudit : e.outsideAudit = d.outsideAudit := congrArg (fun x : Dev => { x with slices := [], audit := 0 }) h.beside

end AuditFrame

/-- The device with OLD set in what a pass has published. -/
def auditMarked (d : Dev) : Dev := d.auditPublished.withSlices (markedOld (d.usCount % 2 ^ 24) d.slices)

/-- A pass over slices that lose no cell publishes, marks OLD and counts itself (R160 to R164). -/
theorem auditPass_eq (hw : ∀ p ∈ d.slices, p.2.genAvail + p.2.mgmtAvail + p.2.cells.length = 8192) :
    d.auditPass = d.auditMarked.wr Reg.BUF_AUDIT_PASS (d.auditMarked.rd Reg.BUF_AUDIT_PASS + 1) := by
  have hm : d.auditMarked = d.auditPublished.withSlices (markedOld (d.usCount % 2 ^ 24) d.auditPublished.slices) := by
    rw [auditMarked, d.auditPublished_frame.slices]
  have h3 : d.auditMarked.slices.foldl (fun x p =>
      if p.2.genAvail + p.2.mgmtAvail + p.2.cells.length ≠ 8192 then x.flag (65 + 3 * p.1) p.1 else x) d.auditMarked = d.auditMarked := by
    refine foldl_same _ _ _ (fun p hp => if_neg (not_not.mpr ?_))
    obtain ⟨q, hq, rfl⟩ := List.mem_map.mp hp
    have hl : (q.2.markOld (d.usCount % 2 ^ 24)).cells.length = q.2.cells.length := List.length_map _
    exact (congrArg (_ + ·) hl).trans (hw q hq)
  have hp := congrArg (fun x : Dev => x.wr Reg.BUF_AUDIT_PASS (x.rd Reg.BUF_AUDIT_PASS + 1)) h3
  rw [hm] at hp ⊢
  exact hp

/-! What a pass and its answer leave (R160, R163). -/

section
variable {d : Dev} (hw : ∀ p ∈ d.slices, p.2.genAvail + p.2.mgmtAvail + p.2.cells.length = 8192)
include hw

theorem outsideAudit_auditPass : d.auditPass.outsideAudit = d.outsideAudit := by
  rw [auditPass_eq d hw, outsideAudit_wr, auditMarked, outsideAudit_withSlices, d.auditPublished_frame.outsideAudit]
theorem audit_auditPass : d.auditPass.audit = d.audit := by
  rw [auditPass_eq d hw, wr_audit, auditMarked, audit_withSlices, d.auditPublished_frame.audit]
theorem auditOf_auditPass : d.auditPass.auditOf = d.auditOf := by
  rw [auditPass_eq d hw, wr_auditOf, auditMarked, auditOf_withSlices, d.auditPublished_frame.auditOf]
theorem auditPass_noReset (hn : d.NoReset) : d.auditPass.NoReset := by
  rw [auditPass_eq d hw]
  exact wr_noReset (withSlices_noReset (d.auditPublished_frame.noReset hn) _) _ _
/-- A pass counts itself. -/
theorem rd_auditPass_count : d.auditPass.rd Reg.BUF_AUDIT_PASS = d.rd Reg.BUF_AUDIT_PASS + 1 := by
  have hne : ∀ n, Reg.BUF_AUDIT_PASS ≠ Reg.BUF_EVENT n := fun n => by
    unfold Reg.BUF_AUDIT_PASS Reg.BUF_EVENT Reg.spar
    omega
  rw [auditPass_eq d hw, rd_wr_same, auditMarked, rd_withSlices, d.auditPublished_frame.rd _ (not_isPend (by decide)) hne]
/-- A pass leaves the question as it stands. -/
theorem rd_auditPass_ctrl : d.auditPass.rd Reg.BUF_AUDIT_CTRL = d.rd Reg.BUF_AUDIT_CTRL := by
  have hne : ∀ n, Reg.BUF_AUDIT_CTRL ≠ Reg.BUF_EVENT n := fun n => by
    unfold Reg.BUF_AUDIT_CTRL Reg.BUF_EVENT Reg.spar
    omega
  rw [auditPass_eq d hw, rd_wr_ne _ _ (by decide), auditMarked, rd_withSlices, d.auditPublished_frame.rd _ (not_isPend (by decide)) hne]
theorem auditShown_auditPass {o : Nat} (ho : o < 4096) : d.auditPass.auditShown o = d.ownerCount o % 2 ^ 31 := by
  rw [auditPass_eq d hw, auditShown_wr, auditMarked, auditShown_withSlices, auditShown_auditPublished d ho]
theorem ownerCount_auditPass (o : Nat) : d.auditPass.ownerCount o = d.ownerCount o := by
  refine ownerCount_markedOld d (d.usCount % 2 ^ 24) o ?_
  rw [auditPass_eq d hw, wr_slices]
  rfl

end

/-- The question answered: BUSY ends, ZERO tells whether the owner holds no cell, and the event comes. -/
def auditAnswered (d : Dev) : Dev :=
  ((d.bset Reg.BUF_AUDIT_CTRL 30 false).bset Reg.BUF_AUDIT_CTRL 29 (d.ownerCount d.auditOf == 0)).bufEvent 0 4

theorem auditAnswered_frame : IrqFrame (((d.bset Reg.BUF_AUDIT_CTRL 30 false).bset Reg.BUF_AUDIT_CTRL 29
    (d.ownerCount d.auditOf == 0)).bset (Reg.BUF_EVENT 0) 4 true) d.auditAnswered := event_frame _ _ _ _
theorem beside_auditAnswered : d.auditAnswered.beside = d.beside :=
  (d.auditAnswered_frame.beside.trans (beside_wr _ _ _)).trans ((beside_wr _ _ _).trans (beside_wr _ _ _))
theorem auditAnswered_noReset (hn : d.NoReset) : d.auditAnswered.NoReset :=
  event_noReset (bset_noReset (bset_noReset hn _ _ _) _ _ _) _ _ _
theorem auditShown_auditAnswered (o : Nat) : d.auditAnswered.auditShown o = d.auditShown o := by
  rw [auditShown, d.auditAnswered_frame.tab, ← auditShown, bset, fset, auditShown_wr, bset, fset, auditShown_wr, bset, fset, auditShown_wr]
theorem rd_auditAnswered {a : Nat} (hp : ¬ isPend a) (hc : a ≠ Reg.BUF_AUDIT_CTRL) (he : a ≠ Reg.BUF_EVENT 0) :
    d.auditAnswered.rd a = d.rd a := by
  rw [d.auditAnswered_frame.rd a hp, rd_bset_ne _ _ _ he, rd_bset_ne _ _ _ hc, rd_bset_ne _ _ _ hc]
/-- BUSY reads 0 and ZERO tells whether the owner holds no cell. -/
theorem bget_auditAnswered {i : Nat} (hi : i = 29 ∨ i = 30) :
    d.auditAnswered.bget Reg.BUF_AUDIT_CTRL i = (decide (i = 29) && d.ownerCount d.auditOf == 0) := by
  have hne : Reg.BUF_AUDIT_CTRL ≠ Reg.BUF_EVENT 0 := by decide
  rw [d.auditAnswered_frame.bget _ _ (not_isPend (by decide)), bget_bset_ne _ _ _ _ hne]
  rcases hi with rfl | rfl <;> simp [bget_bset]
theorem bget_auditAnswered_event : d.auditAnswered.bget (Reg.BUF_EVENT 0) 4 = true := by
  rw [d.auditAnswered_frame.bget _ _ (not_isPend_bufEvent 0), bget_bset_same _ _ _ _ (by decide)]

/-- An answer is due from the first whole pass after the question; before it only the turn counts down. -/
theorem auditAnswer_cases : (d.audit = 1 ∧ d.auditAnswer = d.auditAnswered.withAudit 0) ∨
    (d.audit ≠ 1 ∧ d.auditAnswer = d.withAudit (d.audit - 1)) := by
  unfold auditAnswer
  split
  next h =>
    refine .inr ⟨by omega, ?_⟩
    rw [show d.audit - 1 = d.audit by omega]
    rfl
  next =>
    split
    next h => exact .inl ⟨h, rfl⟩
    next h => exact .inr ⟨h, rfl⟩

theorem outsideAudit_auditAnswer : d.auditAnswer.outsideAudit = d.outsideAudit := by
  rcases d.auditAnswer_cases with ⟨-, h⟩ | ⟨-, h⟩
  · rw [h, outsideAudit_withAudit, outsideAudit_of_beside d.beside_auditAnswered]
  · rw [h, outsideAudit_withAudit]
theorem auditAnswer_noReset {d : Dev} (hn : d.NoReset) : d.auditAnswer.NoReset := by
  rcases d.auditAnswer_cases with ⟨-, h⟩ | ⟨-, h⟩
  · rw [h]
    exact withAudit_noReset (d.auditAnswered_noReset hn) 0
  · rw [h]
    exact withAudit_noReset hn _
theorem auditShown_auditAnswer (o : Nat) : d.auditAnswer.auditShown o = d.auditShown o := by
  rcases d.auditAnswer_cases with ⟨-, h⟩ | ⟨-, h⟩
  · rw [h, auditShown_withAudit, auditShown_auditAnswered]
  · rw [h, auditShown_withAudit]
theorem rd_auditAnswer {a : Nat} (hp : ¬ isPend a) (hc : a ≠ Reg.BUF_AUDIT_CTRL) (he : a ≠ Reg.BUF_EVENT 0) :
    d.auditAnswer.rd a = d.rd a := by
  rcases d.auditAnswer_cases with ⟨-, h⟩ | ⟨-, h⟩
  · rw [h, rd_withAudit, d.rd_auditAnswered hp hc he]
  · rw [h, rd_withAudit]

/-- Without a reset under way the audit of functions does nothing (R363). -/
theorem tenantAudit_same (hn : d.NoReset) : d.tenantAudit = d := by
  have h : d.host.fns.filter (fun p => p.2.resetting) = [] := by
    rw [List.filter_eq_nil_iff]
    intro p hp
    rw [hn p hp]
    exact Bool.false_ne_true
  rw [tenantAudit, h]
  rfl

/-- What a device shows after a pass of the audit that began at `d` (R160, R163). -/
structure AuditPassed (d e : Dev) : Prop where
  outside : e.outsideAudit = d.outsideAudit
  count : e.rd Reg.BUF_AUDIT_PASS = d.rd Reg.BUF_AUDIT_PASS + 1
  shown : ∀ o < 4096, e.auditShown o = d.ownerCount o % 2 ^ 31
  waits : d.audit = 2 → e.audit = 1 ∧ e.rd Reg.BUF_AUDIT_CTRL = d.rd Reg.BUF_AUDIT_CTRL
  answers : d.audit = 1 → e.audit = 0 ∧ e.bget Reg.BUF_AUDIT_CTRL 30 = false ∧
    e.bget Reg.BUF_AUDIT_CTRL 29 = decide (d.ownerCount d.auditOf = 0) ∧ e.bget (Reg.BUF_EVENT 0) 4 = true

/-- A pass that finds no cell lost publishes, counts itself, and answers in its turn. -/
theorem auditPassed {d : Dev} (hw : ∀ p ∈ d.slices, p.2.genAvail + p.2.mgmtAvail + p.2.cells.length = 8192) :
    AuditPassed d d.auditPass.auditAnswer where
  outside := (outsideAudit_auditAnswer _).trans (outsideAudit_auditPass hw)
  count := (rd_auditAnswer _ (not_isPend (by decide)) (by decide) (by decide)).trans (rd_auditPass_count hw)
  shown o ho := (auditShown_auditAnswer _ o).trans (auditShown_auditPass hw ho)
  waits h2 := by
    have ha : d.auditPass.audit = 2 := (audit_auditPass hw).trans h2
    rcases d.auditPass.auditAnswer_cases with ⟨h1, -⟩ | ⟨-, h⟩
    · omega
    · rw [h, ha, rd_withAudit]
      exact ⟨audit_withAudit _ _, rd_auditPass_ctrl hw⟩
  answers h1 := by
    have ha : d.auditPass.audit = 1 := (audit_auditPass hw).trans h1
    rcases d.auditPass.auditAnswer_cases with ⟨-, h⟩ | ⟨h2, -⟩
    · rw [h, audit_withAudit, bget_withAudit, bget_withAudit, bget_withAudit, bget_auditAnswered _ (.inr rfl),
        bget_auditAnswered _ (.inl rfl), bget_auditAnswered_event, auditOf_auditPass hw, ownerCount_auditPass hw]
      exact ⟨rfl, rfl, rfl, rfl⟩
    · exact absurd ha h2

end Machine.Dev

open Machine.Dev

/-- A pass of the audit that finds no cell lost, with no function being reset. -/
theorem runs_auditPassEnd {s : State} (hs : Safe s) (hn : s.NoReset)
    (hw : ∀ p ∈ s.slices, p.2.genAvail + p.2.mgmtAvail + p.2.cells.length = 8192) :
    Runs .auditPassEnd s (fun t => AuditPassed s.toDev t.toDev) := by
  have hx : s.auditPass.auditAnswer.tenantAudit = s.auditPass.auditAnswer :=
    tenantAudit_same _ (auditAnswer_noReset (auditPass_noReset hw hn))
  have he : exec .auditPassEnd s = finish s s.auditPass.auditAnswer := congrArg (finish s) hx
  have hd := auditPassed hw
  generalize s.auditPass.auditAnswer = d at he hd
  have ho := hd.outside
  exact runs_quiet he hs (congrArg Dev.fault ho :) (congrArg Dev.fmem ho :) (congrArg Dev.stores ho :) (congrArg Dev.fuses ho :) hd

/-- A register read and cleared (R6). -/
theorem runs_readClear {c : Instr} {s : State} (hs : Safe s) (a : Nat)
    (he : exec c s = finish s ((s.emit (.readData a (s.rd a))).wr a 0)) :
    Runs c s (fun t => t.outs = s.outs ++ [.readData a (s.rd a)] ∧ t.rd a = 0 ∧ (∀ b, b ≠ a → t.rd b = s.rd b) ∧
      t = { s with regs := t.regs, outs := t.outs }) :=
  runs_quiet he hs rfl rfl rfl rfl ⟨rfl, rd_wr_same _ _ _, fun _ hb => rd_wr_ne _ _ hb, rfl⟩

/-- Settles O34: one lemma for each command and outcome. -/
theorem bufferCommands : Obligations.BufferCommands := by
  intro s k h n owner hs
  refine ⟨?_, ?_, runs_readClear hs _ rfl, runs_auditQuery hs owner, fun hn hw _ => ?_⟩
  · by_cases hm : s.poolMode = true
    · have hoff : s.poolMode ≠ false := by simp [hm]
      cases ht : s.poolTake k with
      | none =>
        obtain ⟨t, he, hp, hpost⟩ := runs_poolGet_none hs hm ht
        refine ⟨t, he, hp, fun h0 => absurd h0 hoff, fun _ _ => hpost, fun _ j hj hk hd h0 => ?_⟩
        rw [s.poolTake_eq hj hk hd h0, poolPop, if_neg hd] at ht
        cases ht
      | some p =>
        obtain ⟨b, e⟩ := p
        obtain ⟨t, he, hp, hpost⟩ := runs_poolGet_take hs hm ht
        exact ⟨t, he, hp, fun h0 => absurd h0 hoff, fun _ h0 => absurd h0 (by simp), fun _ => hpost⟩
    · have hr : s.poolRead k = s.emit (.readData (Reg.BUF_POOL_GET k) 0) := if_neg hm
      exact runs_quiet (congrArg (finish s) hr) hs rfl rfl rfl rfl ⟨fun _ => rfl, fun h0 => absurd h0 hm, fun h0 => absurd h0 hm⟩
  · by_cases hm : s.poolMode = true
    · have hoff : s.poolMode ≠ false := by simp [hm]
      by_cases hu : h.toNat ∈ s.host.inUse
      · obtain ⟨t, he, hp, hpost⟩ := runs_poolFree_give hs hm hu
        exact ⟨t, he, hp, fun h0 => absurd h0 hoff, fun _ _ => hpost, fun _ h0 => absurd hu h0⟩
      · obtain ⟨t, he, hp, hpost⟩ := runs_poolFree_bad hs hm hu
        exact ⟨t, he, hp, fun h0 => absurd h0 hoff, fun _ h0 => absurd h0 hu, fun _ _ => hpost⟩
    · exact runs_same (congrArg (finish s) (if_neg hm)) hs ⟨fun _ => rfl, fun h0 => absurd h0 hm, fun h0 => absurd h0 hm⟩
  · obtain ⟨t, he, hp, hd⟩ := runs_auditPassEnd hs hn hw
    exact ⟨t, he, hp, hd.count, hd.shown, hd.waits, hd.answers⟩

end Sys2Proof

/-!
SUPPORT. The time base and the clock gates (R26, R27, R58 to R64): which registers each operation writes, what following the lock leaves in
the period's status, and what a request line raises.
-/
namespace Sys2Proof

open Machine

namespace Machine.Dev

/-! Registers and events alone. -/

/-- `e` differs from `d` in registers of `own` and in what the interrupt controller does on events. -/
structure RegFrame (own : Nat → Prop) (d e : Dev) : Prop where
  rd : ∀ a, ¬ own a → ¬ isPend a → e.rd a = d.rd a
  beside : e.beside = d.beside

namespace RegFrame

variable {own : Nat → Prop}

theorem refl (d : Dev) : RegFrame own d d := ⟨fun _ _ _ => rfl, rfl⟩
theorem trans {d e f : Dev} (h : RegFrame own d e) (g : RegFrame own e f) : RegFrame own d f :=
  ⟨fun a h1 h2 => (g.rd a h1 h2).trans (h.rd a h1 h2), g.beside.trans h.beside⟩
theorem mono {own' : Nat → Prop} {d e : Dev} (h : RegFrame own d e) (hm : ∀ a, own a → own' a) : RegFrame own' d e :=
  ⟨fun a h1 h2 => h.rd a (h1 ∘ hm a) h2, h.beside⟩
theorem of_irq {d e : Dev} (h : IrqFrame d e) : RegFrame own d e := ⟨fun a _ h2 => h.rd a h2, h.beside⟩
theorem bget {d e : Dev} (h : RegFrame own d e) {a : Nat} (i : Nat) (h1 : ¬ own a) (h2 : ¬ isPend a) : e.bget a i = d.bget a i := by
  rw [Dev.bget, Dev.bget, h.rd a h1 h2]

end RegFrame

variable (d : Dev)

section
variable {own : Nat → Prop} {a : Nat} (h : own a)
include h

theorem wr_regFrame (v : Word) : RegFrame own d (d.wr a v) := ⟨fun _ hb _ => rd_wr_ne d v (fun e => hb (e ▸ h)), rfl⟩
theorem bset_regFrame (i : Nat) (b : Bool) : RegFrame own d (d.bset a i b) := wr_regFrame d h _
theorem event_regFrame (i src : Nat) : RegFrame own d (d.event a i src) := (bset_regFrame d h i true).trans (.of_irq (event_frame d a i src))

end

theorem bset_regFrame_self (a i : Nat) (b : Bool) : RegFrame (fun x => x = a) d (d.bset a i b) :=
  bset_regFrame d (own := fun x => x = a) rfl i b
theorem event_regFrame_self (a i src : Nat) : RegFrame (fun x => x = a) d (d.event a i src) :=
  event_regFrame d (own := fun x => x = a) rfl i src

/-! The status of the period (R58, R62). -/

theorem not_isPend_periodStatus : ¬ isPend Reg.GLB_PERIOD_STATUS := not_isPend (.inl (by decide))
theorem not_isPend_ptp {a : Nat} (h : 0x580000 ≤ a) : ¬ isPend a := not_isPend (.inr (by omega))

theorem setHoldover_regFrame (b : Bool) : RegFrame (fun a => a = Reg.GLB_PERIOD_STATUS) d (d.setHoldover b) := by
  unfold setHoldover
  split
  · exact .refl d
  · exact (bset_regFrame_self d _ _ _).trans (event_regFrame_self _ _ _ _)

/-- HOLDOVER takes the value, HOLD_CHG is set where that is a change, and every other bit stays. -/
theorem bget_setHoldover (b : Bool) (j : Nat) : (d.setHoldover b).bget Reg.GLB_PERIOD_STATUS j =
    if j = 1 then b else if j = 4 ∧ d.bget Reg.GLB_PERIOD_STATUS 1 ≠ b then true else d.bget Reg.GLB_PERIOD_STATUS j := by
  unfold setHoldover
  split
  next h =>
    subst h
    by_cases hj : j = 1 <;> simp [hj]
  next h =>
    rw [periodEvent, bget_event _ _ _ _ _ (by decide) not_isPend_periodStatus, bget_bset _ _ _ _ _ (by decide)]
    by_cases hj : j = 4 <;> simp [hj, h]

theorem followLock_regFrame : RegFrame (fun a => a = Reg.GLB_PERIOD_STATUS) d d.followLock := by
  unfold followLock
  split
  · exact (bset_regFrame_self d _ _ _).trans (setHoldover_regFrame _ _)
  · exact .refl d

/-- Under the PTP source LOCK and HOLDOVER follow the lock, with HOLD_CHG at a change (R62). -/
theorem followLock_ptp {d : Dev} (h : d.periodSrc = 0) {lock : Bool} (hl : d.bget Reg.PTP_STATUS 0 = lock) :
    d.followLock.bget Reg.GLB_PERIOD_STATUS 0 = lock ∧ d.followLock.bget Reg.GLB_PERIOD_STATUS 1 = !lock ∧
      (d.bget Reg.GLB_PERIOD_STATUS 1 = lock → d.followLock.bget Reg.GLB_PERIOD_STATUS 4 = true) := by
  have hb := fun j => bget_bset d Reg.GLB_PERIOD_STATUS 0 j lock (by decide)
  rw [followLock, if_pos h, hl]
  simp only [bget_setHoldover, hb]
  refine ⟨by simp, by simp, fun h1 => ?_⟩
  cases lock <;> simp [h1]

/-- Under another source the period's status does not follow the lock. -/
theorem followLock_other {d : Dev} (h : d.periodSrc ≠ 0) : d.followLock = d := if_neg h

theorem periodSrc_of_regFrame {own : Nat → Prop} {e : Dev} (h : RegFrame own d e) (ho : ¬ own Reg.GLB_PERIOD_CTRL) :
    e.periodSrc = d.periodSrc := by
  rw [periodSrc, periodSrc, fget, fget, h.rd _ ho (not_isPend (.inl (by decide)))]

/-! The pulse that comes in (R64, R367). -/

/-- The device without the host's queues and channels, the counters, and what an event changes: what a request line leaves alone. -/
def outsideHost (d : Dev) : Dev := { d.beside with host := {}, cnts := [] }

/-- `e` differs from `d` by requests at DMA channels: their registers, the host's state, counters and interrupts. -/
structure LineFrame (d e : Dev) : Prop where
  rd : ∀ a, 0x381000 ≤ a → e.rd a = d.rd a
  outside : e.outsideHost = d.outsideHost

namespace LineFrame

theorem refl (d : Dev) : LineFrame d d := ⟨fun _ _ => rfl, rfl⟩
theorem trans {d e f : Dev} (h : LineFrame d e) (g : LineFrame e f) : LineFrame d f :=
  ⟨fun a ha => (g.rd a ha).trans (h.rd a ha), g.outside.trans h.outside⟩
theorem foldl {α : Type} (f : Dev → α → Dev) (hf : ∀ d a, LineFrame d (f d a)) : ∀ (l : List α) (d : Dev), LineFrame d (l.foldl f d)
  | [], d => refl d
  | a :: l, d => (hf d a).trans (foldl f hf l (f d a))

end LineFrame

theorem dmaRequest_lineFrame (k : Nat) : LineFrame d (d.dmaRequest k) := by
  unfold dmaRequest
  split
  · refine ⟨fun a ha => rd_fset_ne _ _ _ _ ?_, rfl⟩
    simp only [Reg.DMA_CH_STATUS]
    omega
  · have he : RegFrame (fun a => a = Reg.DMA_EVENT) (d.inc Reg.C_HQ_REQ_OVF) ((d.inc Reg.C_HQ_REQ_OVF).dmaEvent 1) :=
      event_regFrame_self _ _ _ _
    refine ⟨fun a ha => he.rd a ?_ (not_isPend (.inr (by omega))), ?_⟩
    · simp only [Reg.DMA_EVENT]
      omega
    · exact (congrArg (fun x : Dev => { x with host := {}, cnts := [] }) he.beside :)
theorem lineRaise_lineFrame (l : Nat) : LineFrame d (d.lineRaise l) := LineFrame.foldl _ dmaRequest_lineFrame _ d

/-! Clock gating (R26, R27). -/

/-- A block is gated unless the wall schedule keeps it ungated. -/
theorem mem_gate (b x : Block) : x ∈ (d.gate b).gated ↔ x ∈ d.gated ∨ (x = b ∧ d.keptUngated b = false) := by
  unfold gate
  split
  next h =>
    rw [Bool.or_eq_true, List.contains_iff_mem] at h
    refine ⟨.inl, fun hx => hx.elim id (fun ⟨he, hk⟩ => ?_)⟩
    rw [he]
    exact h.resolve_left (by simp [hk])
  next h =>
    have hk : d.keptUngated b = false := by
      rw [Bool.or_eq_true, not_or] at h
      exact Bool.eq_false_iff.mpr h.1
    simp [hk]
theorem gate_same (b : Block) : d.gate b = { d with gated := (d.gate b).gated } := by
  unfold gate
  split <;> rfl
/-- A block ungated leaves the gated ones, which keep their gates. -/
theorem mem_ungate (b x : Block) : x ∈ (d.ungate b).gated ↔ x ∈ d.gated ∧ x ≠ b := by
  simp [ungate, ungateIf]

/-! The correction of the frequency (R60). -/

/-- The frequency that a write leaves: clamped at ±500 ppm. -/
theorem sgn_setFreq (v : Word) : sgn 32 ((d.setFreq v).rd Reg.PTP_FREQ).toNat = max (-32768000) (min 32768000 (sgn 32 v.toNat)) := by
  have hev : ∀ w : Word, ((d.wr Reg.PTP_FREQ w).ptpEvent 2).rd Reg.PTP_FREQ = w := fun w => by
    rw [ptpEvent, rd_event_ne _ _ _ _ (by decide) (not_isPend_ptp (by decide)), rd_wr_same]
  have hhi : sgn 32 (wd (unsgn 32 freqMax)).toNat = 32768000 := by decide
  have hlo : sgn 32 (wd (unsgn 32 (-freqMax))).toNat = -32768000 := by decide
  unfold setFreq
  dsimp only
  split
  next h =>
    rw [freqMax] at h
    rw [hev, hhi]
    omega
  next h =>
    split
    next h2 =>
      rw [freqMax] at h2
      rw [hev, hlo]
      omega
    next h2 =>
      rw [freqMax] at h h2
      rw [rd_wr_same]
      omega

/-- A write beyond ±500 ppm sets the event, one inside leaves the events. -/
theorem setFreq_event (v : Word) :
    (sgn 32 v.toNat < -32768000 ∨ 32768000 < sgn 32 v.toNat → (d.setFreq v).bget Reg.PTP_EVENT 2 = true) ∧
      (-32768000 ≤ sgn 32 v.toNat → sgn 32 v.toNat ≤ 32768000 → (d.setFreq v).rd Reg.PTP_EVENT = d.rd Reg.PTP_EVENT) := by
  have hev : ∀ e : Dev, (e.ptpEvent 2).bget Reg.PTP_EVENT 2 = true := fun e =>
    (bget_event e _ 2 2 _ (by decide) (not_isPend_ptp (by decide))).trans (if_pos rfl)
  unfold setFreq freqMax
  dsimp only
  split
  next h => exact ⟨fun _ => hev _, fun _ h2 => absurd h (by omega)⟩
  next h =>
    split
    next h2 => exact ⟨fun _ => hev _, fun h1 _ => absurd h2 (by omega)⟩
    next h2 => exact ⟨fun hx => hx.elim (fun x => absurd x h2) (fun x => absurd x h), fun _ _ => rd_wr_ne _ _ (by decide)⟩

theorem setFreq_regFrame (v : Word) : RegFrame (fun a => a = Reg.PTP_FREQ ∨ a = Reg.PTP_EVENT) d (d.setFreq v) := by
  have hw := fun w => wr_regFrame d (own := fun a => a = Reg.PTP_FREQ ∨ a = Reg.PTP_EVENT) (.inl rfl) w
  unfold setFreq
  dsimp only
  split
  · exact (hw _).trans (event_regFrame _ (.inr rfl) _ _)
  · split
    · exact (hw _).trans (event_regFrame _ (.inr rfl) _ _)
    · exact hw _

/-! The step (R63). -/

/-- A step that is allowed moves the time by the offset, and changes the time base alone. -/
theorem stepTime_allowed {d : Dev} (v : Word) (h : d.bget Reg.PTP_STATUS 2 = true) :
    (d.stepTime v).time.ticks = d.time.ticks + signed64 v d.time.stepLo * (timeUnit : Int) ∧
      d.stepTime v = { d with time := (d.stepTime v).time } := by
  unfold stepTime
  rw [if_pos h]
  dsimp only
  split <;> exact ⟨rfl, rfl⟩

end Machine.Dev

open Machine.Dev

/-- A command that changes registers of its own and takes events. -/
theorem runs_regFrame {c : Instr} {s : State} {d : Dev} {post : State → Prop} {own : Nat → Prop} (he : exec c s = finish s d) (hs : Safe s)
    (hf : RegFrame own s.toDev d) (hp : OnlyRegs own s { toDev := d, pending := s.pending } → post { toDev := d, pending := s.pending }) :
    Runs c s post := runs_beside he hs hf.beside (hp ⟨hf.rd, hf.beside⟩)

/-- The registers that a change of the lock writes. -/
def lockRegs (a : Nat) : Prop := a = Reg.PTP_STATUS ∨ a = Reg.GLB_PERIOD_STATUS ∨ a = Reg.PTP_EVENT

theorem followLock_lockRegs (d : Dev) : RegFrame lockRegs d d.followLock := (followLock_regFrame d).mono (fun _ h => .inr (.inl h))
theorem bget_ptpStatus_followLock (d : Dev) (i : Nat) : d.followLock.bget Reg.PTP_STATUS i = d.bget Reg.PTP_STATUS i :=
  (followLock_regFrame d).bget i (by decide) (not_isPend_ptp (by decide))

/-- The lock gained (R62, R63). -/
theorem runs_ptpLock {s : State} (hs : Safe s) : Runs .ptpLock s (fun t => OnlyRegs lockRegs s t ∧ t.bget Reg.PTP_STATUS 0 = true ∧
    t.bget Reg.PTP_STATUS 2 = false ∧
    (s.periodSrc = 0 → t.bget Reg.GLB_PERIOD_STATUS 0 = true ∧ t.bget Reg.GLB_PERIOD_STATUS 1 = false ∧
      (s.bget Reg.GLB_PERIOD_STATUS 1 = true → t.bget Reg.GLB_PERIOD_STATUS 4 = true)) ∧
    (s.periodSrc ≠ 0 → t.rd Reg.GLB_PERIOD_STATUS = s.rd Reg.GLB_PERIOD_STATUS)) := by
  let d := (s.bset Reg.PTP_STATUS 0 true).bset Reg.PTP_STATUS 2 false
  have hd : RegFrame (fun a => a = Reg.PTP_STATUS) s.toDev d :=
    (bset_regFrame_self s.toDev _ 0 true).trans (bset_regFrame_self _ _ 2 false)
  have hsrc := periodSrc_of_regFrame s.toDev hd (by decide)
  have hper := fun i => hd.bget i (a := Reg.GLB_PERIOD_STATUS) (by decide) not_isPend_periodStatus
  have hlock : d.bget Reg.PTP_STATUS 0 = true := by simp [d, bget_bset]
  refine runs_regFrame (d := d.followLock) rfl hs ((hd.mono (fun _ h => .inl h)).trans (followLock_lockRegs d)) (fun ho => ⟨ho, ?_, ?_, ?_, ?_⟩)
  · exact (bget_ptpStatus_followLock d 0).trans hlock
  · exact (bget_ptpStatus_followLock d 2).trans (bget_bset_same _ _ _ _ (by decide))
  · intro h
    obtain ⟨h0, h1, h4⟩ := followLock_ptp (hsrc.trans h) hlock
    exact ⟨h0, h1, fun hold => h4 ((hper 1).trans hold)⟩
  · intro h
    have hk : d.followLock = d := followLock_other (fun e => h (hsrc.symm.trans e))
    exact (congrArg (Dev.rd · Reg.GLB_PERIOD_STATUS) hk).trans (hd.rd _ (by decide) not_isPend_periodStatus)

/-- What the loss of the lock leaves (R62). -/
theorem ptpLockOff_post (d : Dev) : RegFrame lockRegs d d.ptpLockOff ∧ d.ptpLockOff.bget Reg.PTP_STATUS 0 = false ∧
    (d.periodSrc = 0 → d.ptpLockOff.bget Reg.GLB_PERIOD_STATUS 0 = false ∧ d.ptpLockOff.bget Reg.GLB_PERIOD_STATUS 1 = true ∧
      (d.bget Reg.GLB_PERIOD_STATUS 1 = false → d.ptpLockOff.bget Reg.GLB_PERIOD_STATUS 4 = true)) ∧
    (d.periodSrc ≠ 0 → d.ptpLockOff.rd Reg.GLB_PERIOD_STATUS = d.rd Reg.GLB_PERIOD_STATUS) := by
  have hd : RegFrame (fun a => a = Reg.PTP_STATUS) d (d.bset Reg.PTP_STATUS 0 false) := bset_regFrame_self d _ 0 false
  have hsrc := periodSrc_of_regFrame d hd (by decide)
  have hper := fun i => hd.bget i (a := Reg.GLB_PERIOD_STATUS) (by decide) not_isPend_periodStatus
  have hlock := bget_bset_same d Reg.PTP_STATUS 0 false (by decide)
  refine ⟨(hd.mono (fun _ h => .inl h)).trans (followLock_lockRegs _), (bget_ptpStatus_followLock _ 0).trans hlock, fun h => ?_, fun h => ?_⟩
  · obtain ⟨h0, h1, h4⟩ := followLock_ptp (hsrc.trans h) hlock
    exact ⟨h0, h1, fun hold => h4 ((hper 1).trans hold)⟩
  · rw [ptpLockOff, followLock_other (fun e => h (hsrc.symm.trans e))]
    exact hd.rd _ (by decide) not_isPend_periodStatus

/-- The watchdog of the lock: nothing while unlocked, else its event and the loss of the lock (R62). -/
theorem runs_lockWatchdogExpire {s : State} (hs : Safe s) : Runs .lockWatchdogExpire s (fun t => OnlyRegs lockRegs s t ∧
    (s.bget Reg.PTP_STATUS 0 = false → t = s) ∧
    (s.bget Reg.PTP_STATUS 0 = true → t.bget Reg.PTP_EVENT 0 = true ∧ t.bget Reg.PTP_STATUS 0 = false ∧
      (s.periodSrc = 0 → t.bget Reg.GLB_PERIOD_STATUS 1 = true))) := by
  by_cases h : s.bget Reg.PTP_STATUS 0 = true
  · have hev : RegFrame (fun a => a = Reg.PTP_EVENT) s.toDev (s.ptpEvent 0) := event_regFrame_self s.toDev _ 0 23
    have hbit : (s.ptpEvent 0).bget Reg.PTP_EVENT 0 = true :=
      (bget_event s.toDev _ 0 0 _ (by decide) (not_isPend_ptp (by decide))).trans (if_pos rfl)
    have hsrc := periodSrc_of_regFrame s.toDev hev (by decide)
    obtain ⟨hf, hoff, hper, -⟩ := ptpLockOff_post (s.ptpEvent 0)
    have hkeep : (s.ptpEvent 0).ptpLockOff.bget Reg.PTP_EVENT 0 = (s.ptpEvent 0).bget Reg.PTP_EVENT 0 := by
      rw [ptpLockOff, (followLock_regFrame _).bget 0 (by decide) (not_isPend_ptp (by decide)), bget_bset_ne _ _ _ _ (by decide)]
    refine runs_regFrame (congrArg (finish s) (if_pos h)) hs ((hev.mono (fun _ h => .inr (.inr h))).trans hf) (fun ho => ⟨ho, ?_, fun _ => ?_⟩)
    · exact fun h0 => absurd (h.symm.trans h0) (by decide)
    · exact ⟨hkeep.trans hbit, hoff, fun h0 => (hper (hsrc.trans h0)).2.1⟩
  · exact runs_same (congrArg (finish s) (if_neg h)) hs ⟨⟨fun _ _ _ => rfl, rfl⟩, fun _ => rfl, fun h1 => absurd h1 h⟩

/-- A write of the frequency (R60). -/
theorem runs_ptpFreqWrite {s : State} (hs : Safe s) (v : Word) : Runs (.ptpFreqWrite v) s (fun t =>
    OnlyRegs (fun a => a = Reg.PTP_FREQ ∨ a = Reg.PTP_EVENT) s t ∧
    sgn 32 (t.rd Reg.PTP_FREQ).toNat = max (-32768000) (min 32768000 (sgn 32 v.toNat)) ∧
    (sgn 32 v.toNat < -32768000 ∨ 32768000 < sgn 32 v.toNat → t.bget Reg.PTP_EVENT 2 = true) ∧
    (-32768000 ≤ sgn 32 v.toNat → sgn 32 v.toNat ≤ 32768000 → t.rd Reg.PTP_EVENT = s.rd Reg.PTP_EVENT)) :=
  runs_regFrame rfl hs (setFreq_regFrame s.toDev v) (fun ho => ⟨ho, sgn_setFreq s.toDev v, setFreq_event s.toDev v⟩)

/-- A write of the offset's high word, whatever the offset that it makes (R61). -/
theorem runs_slew {c : Instr} {s : State} (hs : Safe s) {off : Int}
    (he : exec c s = finish s ((s.updTime (fun t => { t with slew := off * (timeUnit : Int) })).bset Reg.PTP_STATUS 1 (off != 0))) :
    Runs c s (fun t => SameRegs (fun a => a = Reg.PTP_STATUS) s t ∧ t.time = { s.time with slew := off * (timeUnit : Int) } ∧
      { t.beside with time := {} } = { s.beside with time := {} } ∧ (t.bget Reg.PTP_STATUS 1 = true ↔ off ≠ 0)) := by
  refine runs_quiet he hs rfl rfl rfl rfl ⟨fun a ha _ => rd_bset_ne _ _ _ ha, rfl, rfl, ?_⟩
  exact (Bool.eq_iff_iff.mp (bget_bset_same _ _ _ _ (by decide))).trans bne_iff_ne

/-- The end of an offset (R61). -/
theorem runs_offsetSlewDone {s : State} (hs : Safe s) : Runs .offsetSlewDone s (fun t => SameRegs (fun a => a = Reg.PTP_STATUS) s t ∧
    t.time = { s.time with ticks := s.time.ticks + s.time.slew, slew := 0 } ∧ { t.beside with time := {} } = { s.beside with time := {} } ∧
    t.bget Reg.PTP_STATUS 1 = false) :=
  runs_quiet rfl hs rfl rfl rfl rfl ⟨fun _ ha _ => rd_bset_ne _ _ _ ha, rfl, rfl, bget_bset_same _ _ _ _ (by decide)⟩

/-- A step, refused with its event where stepping is not allowed (R63). -/
theorem runs_ptpStep {s : State} (hs : Safe s) (v : Word) : Runs (.ptpStep v) s (fun t =>
    (s.bget Reg.PTP_STATUS 2 = false → t.bget Reg.PTP_EVENT 1 = true ∧ OnlyRegs (fun a => a = Reg.PTP_EVENT) s t) ∧
    (s.bget Reg.PTP_STATUS 2 = true → t.time.ticks = s.time.ticks + signed64 v s.time.stepLo * (timeUnit : Int) ∧
      t.regs = s.regs ∧ t = { s with time := t.time })) := by
  by_cases h : s.bget Reg.PTP_STATUS 2 = true
  · obtain ⟨ht, hd⟩ := stepTime_allowed v h
    have he : exec (.ptpStep v) s = finish s (s.stepTime v) := rfl
    generalize s.stepTime v = d at he ht hd
    refine runs_quiet he hs (congrArg Dev.fault hd :) (congrArg Dev.fmem hd :) (congrArg Dev.stores hd :) (congrArg Dev.fuses hd :)
      ⟨fun h0 => absurd (h.symm.trans h0) (by decide), fun _ => ⟨ht, (congrArg Dev.regs hd :), ?_⟩⟩
    exact congrArg (fun e => ({ toDev := e, pending := s.pending } : State)) hd
  · have he : s.stepTime v = s.ptpEvent 1 := if_neg h
    refine runs_regFrame (congrArg (finish s) he) hs (event_regFrame_self s.toDev _ 1 23) (fun ho => ⟨fun _ => ⟨?_, ho⟩, fun h1 => absurd h1 h⟩)
    exact (bget_event s.toDev _ 1 1 _ (by decide) (not_isPend_ptp (by decide))).trans (if_pos rfl)

/-- The pin driven to a level: an output where that is a change. -/
theorem ppsDrive_eq (d : Dev) (b : Bool) : d.ppsDrive b =
    { d with time := { d.time with ppsOut := b }, outs := if d.time.ppsOut = b then d.outs else d.outs ++ [.pps b] } := by
  unfold ppsDrive
  split
  next h =>
    subst h
    rfl
  next => rfl

/-- The pin driven: the time base's level of it and the output. -/
theorem runs_ppsDrive {c : Instr} {s : State} (hs : Safe s) {b : Bool} (he : exec c s = finish s (s.ppsDrive b)) : Runs c s (fun t =>
    t.time = { s.time with ppsOut := b } ∧ t = { s with time := t.time, outs := t.outs } ∧
      t.outs = if s.time.ppsOut = b then s.outs else s.outs ++ [.pps b]) := by
  rw [ppsDrive_eq] at he
  exact runs_quiet he hs rfl rfl rfl rfl ⟨rfl, rfl, rfl⟩

/-- A rising edge on the input: stamped, with its event, and a request at the channels of its line (R64, R367). -/
theorem runs_ppsInEdge {s : State} (hs : Safe s) : Runs .ppsInEdge s (fun t => t.rd Reg.PTP_PPS_IN_TS_LO = wd s.nowU ∧
    t.rd Reg.PTP_PPS_IN_TS_HI = wd (s.nowU / 2 ^ 32) ∧ t.bget Reg.PTP_EVENT 3 = true ∧ t.time = s.time ∧ SameMem s t) := by
  let d := (s.wr Reg.PTP_PPS_IN_TS_LO (wd s.nowU)).wr Reg.PTP_PPS_IN_TS_HI (wd (s.nowU >>> 32))
  have he : exec .ppsInEdge s = finish s ((d.ptpEvent 3).lineRaise 17) := rfl
  have hev : RegFrame (fun a => a = Reg.PTP_EVENT) d (d.ptpEvent 3) := event_regFrame_self d _ 3 23
  have hbit : (d.ptpEvent 3).bget Reg.PTP_EVENT 3 = true := (bget_event d _ 3 3 _ (by decide) (not_isPend_ptp (by decide))).trans (if_pos rfl)
  have hl := lineRaise_lineFrame (d.ptpEvent 3) 17
  have ho : ((d.ptpEvent 3).lineRaise 17).outsideHost = s.outsideHost :=
    hl.outside.trans (congrArg (fun x : Dev => { x with host := {}, cnts := [] }) hev.beside :)
  have hrd : ∀ a, 0x580000 ≤ a → a ≠ Reg.PTP_EVENT → ((d.ptpEvent 3).lineRaise 17).rd a = d.rd a := fun a ha hne =>
    (hl.rd a (by omega)).trans (hev.rd a hne (not_isPend_ptp ha))
  have hbit' : ((d.ptpEvent 3).lineRaise 17).bget Reg.PTP_EVENT 3 = true := by
    rw [bget, hl.rd _ (by decide), ← bget, hbit]
  generalize (d.ptpEvent 3).lineRaise 17 = e at he ho hrd hbit'
  refine runs_quiet he hs (congrArg Dev.fault ho :) (congrArg Dev.fmem ho :) (congrArg Dev.stores ho :) (congrArg Dev.fuses ho :)
    ⟨?_, ?_, hbit', (congrArg Dev.time ho :), fun a => ?_⟩
  · exact (hrd _ (by decide) (by decide)).trans ((rd_wr_ne _ _ (by decide)).trans (rd_wr_same _ _ _))
  · refine (hrd _ (by decide) (by decide)).trans ((rd_wr_same _ _ _).trans ?_)
    rw [Nat.shiftRight_eq_div_pow]
  · have hm : e.fmem = s.fmem := (congrArg Dev.fmem ho :)
    have ht : e.stores = s.stores := (congrArg Dev.stores ho :)
    show e.fmByte a = s.fmByte a
    rw [fmByte, fmByte, hm, ht]

/-- Settles O15: one lemma for each command. -/
theorem timeAndClocks : Obligations.TimeAndClocks := by
  refine ⟨⟨fun s v hs => ⟨runs_ptpFreqWrite hs v, runs_slew hs rfl, runs_offsetSlewDone hs, runs_ptpStep hs v⟩,
    fun s hs => ⟨runs_ptpLock hs, ?_, runs_lockWatchdogExpire hs⟩⟩, fun s b hs => ⟨?_, ?_⟩, fun s hs => ⟨?_, ?_, runs_ppsInEdge hs⟩⟩
  · obtain ⟨hf, hoff, hptp, hother⟩ := ptpLockOff_post s.toDev
    exact runs_regFrame rfl hs hf (fun ho => ⟨ho, hoff, hptp, hother⟩)
  · have hg := s.gate_same b
    refine runs_quiet rfl hs (congrArg Dev.fault hg :) (congrArg Dev.fmem hg :) (congrArg Dev.stores hg :) (congrArg Dev.fuses hg :)
      ⟨congrArg (fun e => ({ toDev := e, pending := s.pending } : State)) hg, s.mem_gate b⟩
  · exact runs_quiet rfl hs rfl rfl rfl rfl ⟨rfl, s.mem_ungate b⟩
  · obtain ⟨t, he, hp, htime, hsame, -⟩ := runs_ppsDrive hs (c := .ppsOutRise) rfl
    exact ⟨t, he, hp, htime, hsame⟩
  · obtain ⟨t, he, hp, htime, hsame, hout⟩ := runs_ppsDrive hs (c := .ppsOutFall) rfl
    refine ⟨t, he, hp, htime, hsame, hout.trans ?_⟩
    cases s.time.ppsOut <;> rfl

end Sys2Proof

/-!
SUPPORT. Reception (R97, R98, R102, R103, R112, R138): what a received frame can change, and where each kind of frame goes.
-/
namespace Sys2Proof

open Machine

namespace Machine.Dev

/-- The device without what a received frame can change beside registers and interrupts. -/
def outsideRx (d : Dev) : Dev := { d.beside with cnts := [], ports := [], spars := [], gated := [] }

/-- `e` differs from `d` by what a frame received on port `p` does: the port's status and events, those of its parse engine, counters, the
port, its spar and clock gates. -/
structure RxFrame (p : Nat) (d e : Dev) : Prop where
  rd : ∀ a, a ≠ Reg.MAC_EVENT p → a ≠ Reg.MAC_STATUS p → a ≠ Reg.PRS_EVENT (p / 8) → ¬ isPend a → e.rd a = d.rd a
  outside : e.outsideRx = d.outsideRx
  spar : ∀ k, k ≠ p / 8 → e.spar k = d.spar k

/-- What a frame does after its codewords are counted: their counters and the clock gates stay. -/
structure RxStep (p : Nat) (d e : Dev) : Prop extends RxFrame p d e where
  gated : e.gated = d.gated
  fec : ∀ a, Reg.C_MAC_FEC_CORR_CW p ≤ a → a ≤ Reg.C_MAC_FEC_UNCORR_CW p → e.cnt a = d.cnt a

theorem RxFrame.trans {p : Nat} {d e f : Dev} (h : RxFrame p d e) (g : RxFrame p e f) : RxFrame p d f :=
  ⟨fun a h1 h2 h3 h4 => (g.rd a h1 h2 h3 h4).trans (h.rd a h1 h2 h3 h4), g.outside.trans h.outside,
    fun k hk => (g.spar k hk).trans (h.spar k hk)⟩

namespace RxStep

theorem refl (p : Nat) (d : Dev) : RxStep p d d := ⟨⟨fun _ _ _ _ _ => rfl, rfl, fun _ _ => rfl⟩, rfl, fun _ _ _ => rfl⟩
theorem trans {p : Nat} {d e f : Dev} (h : RxStep p d e) (g : RxStep p e f) : RxStep p d f :=
  ⟨h.toRxFrame.trans g.toRxFrame, g.gated.trans h.gated, fun a h1 h2 => (g.fec a h1 h2).trans (h.fec a h1 h2)⟩
theorem foldl {α : Type} {p : Nat} (f : Dev → α → Dev) (hf : ∀ d a, RxStep p d (f d a)) : ∀ (l : List α) (d : Dev), RxStep p d (l.foldl f d)
  | [], d => refl p d
  | a :: l, d => (hf d a).trans (foldl f hf l (f d a))
theorem of_regFrame {p : Nat} {own : Nat → Prop} {d e : Dev} (h : RegFrame own d e)
    (ho : ∀ a, own a → a = Reg.MAC_EVENT p ∨ a = Reg.MAC_STATUS p ∨ a = Reg.PRS_EVENT (p / 8)) : RxStep p d e where
  rd a h1 h2 h3 h4 := h.rd a (fun hx => (ho a hx).elim h1 (fun hy => hy.elim h2 h3)) h4
  outside := congrArg (fun x : Dev => { x with cnts := [], ports := [], spars := [], gated := [] }) h.beside
  spar k _ := congrArg (SMap.get (fun _ => ({} : Spar)) · k) (congrArg Dev.spars h.beside :)
  gated := (congrArg Dev.gated h.beside :)
  fec a _ _ := congrArg (SMap.get (fun _ => (0 : BitVec 64)) · a) (congrArg Dev.cnts h.beside :)

end RxStep

variable (d : Dev) (p : Nat)

theorem cnt_inc_same (a : Nat) : (d.inc a).cnt a = addSat (d.cnt a) 1 := (cnt_cntAdd d a 1 a).trans (if_pos rfl)
theorem cnt_inc_ne {a b : Nat} (h : b ≠ a) : (d.inc a).cnt b = d.cnt b := (cnt_cntAdd d a 1 b).trans (if_neg h)
theorem cnt_of_beside {d e : Dev} (h : e.beside = d.beside) (a : Nat) : e.cnt a = d.cnt a :=
  congrArg (SMap.get (fun _ => (0 : BitVec 64)) · a) (congrArg Dev.cnts h :)

/-- A counter outside those of the codewords advanced. -/
theorem cntAdd_rxStep {a : Nat} (n : Nat) (ha : a < Reg.C_MAC_FEC_CORR_CW p ∨ Reg.C_MAC_FEC_UNCORR_CW p < a) : RxStep p d (d.cntAdd a n) :=
  ⟨⟨fun _ _ _ _ _ => rfl, rfl, fun _ _ => rfl⟩, rfl, fun b h1 h2 => (cnt_cntAdd d a n b).trans (if_neg (by omega))⟩
/-- A counter of frames of the port advanced. -/
theorem macCnt_rxStep {o : Nat} (n : Nat) (ho : o < 0x170) : RxStep p d (d.cntAdd (Reg.mac p + o) n) :=
  cntAdd_rxStep d p n (.inl (by simp only [Reg.C_MAC_FEC_CORR_CW]; omega))
theorem memErrDrop_rxStep : RxStep p d (d.memErrDrop (p / 8) p) :=
  (cntAdd_rxStep d p 1 (.inr (by simp only [Reg.C_MAC_FEC_UNCORR_CW, Reg.C_PRS_MEM_ERR_DROP, Reg.mac]; omega))).trans
    (.of_regFrame (event_regFrame_self _ (Reg.PRS_EVENT (p / 8)) 4 _) (fun _ h => .inr (.inr h)))

/-! A control frame (R110). -/

theorem macControl_rxStep (f : Bytes) (good : Bool) : RxStep p d (d.macControl p f good) := by
  unfold macControl
  dsimp only
  split
  · exact macCnt_rxStep d p 1 (by decide)
  · split
    · refine (macCnt_rxStep d p 1 (by decide)).trans (RxStep.foldl _ (fun x c => ?_) _ _)
      split
      · exact .of_regFrame (bset_regFrame_self x (Reg.MAC_STATUS p) _ _) (fun _ h => .inr (.inl h))
      · exact .refl p x
    · split
      · exact macCnt_rxStep d p 1 (by decide)
      · exact .refl p d

/-! The codewords (R97). -/

/-- The device with the frame's codewords counted, and the parse engine that the frame ungates. -/
def rxCounted (errs : List Nat) : Dev := (d.ungateParse (p / 8)).fecCount p errs

/-- The device with the codewords in their counters alone. -/
def fecCounters (errs : List Nat) : Dev :=
  ((d.cntAdd (Reg.C_MAC_FEC_CORR_CW p) (errs.filter (fun e => decide (0 < e) && decide (e ≤ 15))).length).cntAdd (Reg.C_MAC_FEC_CORR_SYM p)
    (errs.filter (fun e => decide (0 < e) && decide (e ≤ 15))).sum).cntAdd (Reg.C_MAC_FEC_UNCORR_CW p)
      (errs.filter (fun e => decide (15 < e))).length

/-- Codewords are counted, kept in the port's window, and set an event at its threshold (R100). -/
theorem fecCount_regFrame (errs : List Nat) : ∃ g, RegFrame (fun a => a = Reg.MAC_EVENT p) ((d.fecCounters p errs).updPort p g) (d.fecCount p errs) := by
  unfold fecCount
  dsimp only
  split
  · exact ⟨_, event_regFrame_self _ _ _ _⟩
  · exact ⟨_, .refl _⟩

section
variable (errs : List Nat)

theorem rxCounted_rxFrame : RxFrame p d (d.rxCounted p errs) := by
  obtain ⟨g, h⟩ := fecCount_regFrame (d.ungateParse (p / 8)) p errs
  have h0 : RxFrame p d (((d.ungateParse (p / 8)).fecCounters p errs).updPort p g) := ⟨fun _ _ _ _ _ => rfl, rfl, fun _ _ => rfl⟩
  exact h0.trans (RxStep.of_regFrame h (fun _ => .inl)).toRxFrame
theorem rxCounted_spars : (d.rxCounted p errs).spars = d.spars := by
  obtain ⟨g, h⟩ := fecCount_regFrame (d.ungateParse (p / 8)) p errs
  exact (congrArg Dev.spars h.beside :)
theorem rxCounted_gated : (d.rxCounted p errs).gated = (d.ungateParse (p / 8)).gated := by
  obtain ⟨g, h⟩ := fecCount_regFrame (d.ungateParse (p / 8)) p errs
  exact (congrArg Dev.gated h.beside :)
theorem cnt_rxCounted (a : Nat) : (d.rxCounted p errs).cnt a = (d.fecCounters p errs).cnt a := by
  obtain ⟨g, h⟩ := fecCount_regFrame (d.ungateParse (p / 8)) p errs
  exact cnt_of_beside h.beside a
/-- Every counter but those of the codewords is as before. -/
theorem cnt_rxCounted_ne {a : Nat} (ha : a < Reg.C_MAC_FEC_CORR_CW p ∨ Reg.C_MAC_FEC_UNCORR_CW p < a) : (d.rxCounted p errs).cnt a = d.cnt a := by
  simp only [Reg.C_MAC_FEC_CORR_CW, Reg.C_MAC_FEC_UNCORR_CW] at ha
  rw [cnt_rxCounted, fecCounters, cnt_cntAdd, if_neg (by simp only [Reg.C_MAC_FEC_UNCORR_CW]; omega), cnt_cntAdd,
    if_neg (by simp only [Reg.C_MAC_FEC_CORR_SYM]; omega), cnt_cntAdd, if_neg (by simp only [Reg.C_MAC_FEC_CORR_CW]; omega)]
/-- The counters of the codewords take them by their symbol errors (R97). -/
theorem cnt_fecCounters :
    (d.fecCounters p errs).cnt (Reg.C_MAC_FEC_UNCORR_CW p) = addSat (d.cnt (Reg.C_MAC_FEC_UNCORR_CW p)) (errs.filter (fun e => decide (15 < e))).length ∧
    (d.fecCounters p errs).cnt (Reg.C_MAC_FEC_CORR_CW p) =
      addSat (d.cnt (Reg.C_MAC_FEC_CORR_CW p)) (errs.filter (fun e => decide (0 < e) && decide (e ≤ 15))).length ∧
    (d.fecCounters p errs).cnt (Reg.C_MAC_FEC_CORR_SYM p) =
      addSat (d.cnt (Reg.C_MAC_FEC_CORR_SYM p)) (errs.filter (fun e => decide (0 < e) && decide (e ≤ 15))).sum := by
  simp [fecCounters, cnt_cntAdd, addSat, Reg.C_MAC_FEC_UNCORR_CW, Reg.C_MAC_FEC_CORR_CW, Reg.C_MAC_FEC_CORR_SYM]

end

/-- The frame ungates its parse engine (R26). -/
theorem not_gated_rxCounted (errs : List Nat) {k : Fin 128} (h : (.parse k : Block) ∈ (d.rxCounted p errs).gated) : (k : Nat) ≠ p / 8 := by
  rw [rxCounted_gated, ungateParse, ungateIf, List.mem_filter] at h
  simpa using h.2

/-! Handing a frame to the parse engine (R138). -/

/-- A frame handed to its spar's parse engine, dropped while that reloads. -/
def rxTake (f : Frame) : Dev :=
  if (d.spar (p / 8)).reloading then d.memErrDrop (p / 8) p else d.updSpar (p / 8) (fun y => { y with rx := y.rx ++ [f] })

theorem rxTake_rxStep (f : Frame) : RxStep p d (d.rxTake p f) := by
  unfold rxTake
  split
  · exact memErrDrop_rxStep d p
  · exact ⟨⟨fun _ _ _ _ _ => rfl, rfl, fun k hk => (spar_updSpar d _ k _).trans (if_neg hk)⟩, rfl, fun _ _ _ => rfl⟩
theorem cnt_memErrDrop (n a : Nat) : (d.memErrDrop n p).cnt a = (d.inc (Reg.C_PRS_MEM_ERR_DROP p)).cnt a :=
  cnt_of_beside (event_regFrame_self (d.inc (Reg.C_PRS_MEM_ERR_DROP p)) (Reg.PRS_EVENT n) 4 _).beside a
/-- A counter of frames of the port is as before a frame is handed on. -/
theorem cnt_rxTake (f : Frame) {o : Nat} (ho : o < 0x170) : (d.rxTake p f).cnt (Reg.mac p + o) = d.cnt (Reg.mac p + o) := by
  unfold rxTake
  split
  · exact (cnt_memErrDrop d p _ _).trans (cnt_inc_ne d (by simp only [Reg.C_PRS_MEM_ERR_DROP, Reg.mac]; omega))
  · rfl
/-- A parse engine that does not reload takes the frame. -/
theorem rx_rxTake (f : Frame) (h : (d.spar (p / 8)).reloading = false) : ((d.rxTake p f).spar (p / 8)).rx = (d.spar (p / 8)).rx ++ [f] := by
  rw [rxTake, if_neg (by simp [h]), spar_updSpar, if_pos rfl]
/-- One that reloads drops it, with its event and its counter. -/
theorem rxTake_reloading (f : Frame) (h : (d.spar (p / 8)).reloading = true) : (d.rxTake p f).spars = d.spars ∧
    (d.rxTake p f).bget (Reg.PRS_EVENT (p / 8)) 4 = true ∧
    (d.rxTake p f).cnt (Reg.C_PRS_MEM_ERR_DROP p) = addSat (d.cnt (Reg.C_PRS_MEM_ERR_DROP p)) 1 := by
  rw [rxTake, if_pos h]
  refine ⟨?_, ?_, (cnt_memErrDrop d p _ _).trans (cnt_inc_same d _)⟩
  · exact (congrArg Dev.spars (event_regFrame_self (d.inc (Reg.C_PRS_MEM_ERR_DROP p)) (Reg.PRS_EVENT (p / 8)) 4 (sparSrc (p / 8) 2)).beside :)
  · refine (bget_event _ _ 4 4 _ (by decide) (not_isPend (.inr ?_))).trans (if_pos rfl)
    simp only [Reg.PRS_EVENT, Reg.spar]
    omega

/-! The kinds of frames (R98, R102, R103, R112). -/

/-- Does an uncorrectable codeword reach into the frame (R97)? -/
def rxHit (cws : List Codeword) (shared : Bool) : Bool :=
  cws.any (fun c => c.touches && decide (15 < c.errors)) || (shared && (d.port p).cwBad)

section
variable {d : Dev} {p : Nat} (f : Bytes) (late : Bool) (cws : List Codeword) (shared : Bool)

/-- A port that is down or that no breakout names takes nothing. -/
theorem frameIn_down (h : (d.named p && d.linkUp p) = false) : d.frameIn p f late cws shared = d :=
  if_pos (by rw [← Bool.not_and, h]; rfl)

variable (hu : (d.named p && d.linkUp p) = true)
include hu

theorem not_rxDown : ¬ (!d.named p || !d.linkUp p) = true := by
  rw [← Bool.not_and, hu]
  decide

theorem frameIn_fenced (hf : d.rxFenced p = true) :
    d.frameIn p f late cws shared = (d.rxCounted p (cws.map (·.errors))).inc (Reg.C_MAC_RX_FENCE_DROP p) :=
  (if_neg (not_rxDown hu)).trans (if_pos hf)

variable (hf : d.rxFenced p = false)
include hf

theorem frameIn_runt (hl : f.length < 64) :
    d.frameIn p f late cws shared = (d.rxCounted p (cws.map (·.errors))).inc (Reg.C_MAC_RX_RUNT p) :=
  (if_neg (not_rxDown hu)).trans ((if_neg (Bool.eq_false_iff.mp hf)).trans (if_pos hl))

variable (hl : 64 ≤ f.length)
include hl

theorem frameIn_control (hc : isControl f = true) (hb : f.length ≤ d.maxFrame p) :
    d.frameIn p f late cws shared = (d.rxCounted p (cws.map (·.errors))).macControl p f (fcsGood f && !d.rxHit p cws shared) :=
  (if_neg (not_rxDown hu)).trans ((if_neg (Bool.eq_false_iff.mp hf)).trans ((if_neg (Nat.not_lt.mpr hl)).trans
    (if_pos (by simp [hc, hb]))))

/-- A frame beyond MAX_FRAME is counted; one that cut-through may have begun with goes on, cut. -/
theorem frameIn_big (hb : d.maxFrame p < f.length) :
    let d2 := (d.rxCounted p (cws.map (·.errors))).inc (Reg.C_MAC_RX_OVERSIZE p)
    d.frameIn p f late cws shared = d2 ∨ ∃ x, d.frameIn p f late cws shared = d2.rxTake p x := by
  by_cases hs : (late && decide (256 < f.length) && !isControl f) = true
  · exact .inr ⟨_, (if_neg (not_rxDown hu)).trans ((if_neg (Bool.eq_false_iff.mp hf)).trans ((if_neg (Nat.not_lt.mpr hl)).trans
      ((if_neg (by simp [hb])).trans ((if_pos (decide_eq_true hb)).trans (if_pos hs)))))⟩
  · exact .inl ((if_neg (not_rxDown hu)).trans ((if_neg (Bool.eq_false_iff.mp hf)).trans ((if_neg (Nat.not_lt.mpr hl)).trans
      ((if_neg (by simp [hb])).trans ((if_pos (decide_eq_true hb)).trans (if_neg hs))))))

variable (hb : f.length ≤ d.maxFrame p) (hc : isControl f = false)
include hb hc

/-- A bad frame is counted; one that cut-through may have begun with goes on. -/
theorem frameIn_bad (hg : (fcsGood f && !d.rxHit p cws shared) = false) :
    let d2 := (d.rxCounted p (cws.map (·.errors))).inc (Reg.C_MAC_RX_FCS_ERR p)
    d.frameIn p f late cws shared = d2 ∨ ∃ x, d.frameIn p f late cws shared = d2.rxTake p x := by
  have hbad : (!(fcsGood f && !d.rxHit p cws shared)) = true := congrArg not hg
  by_cases hs : (late && decide (256 < f.length)) = true
  · exact .inr ⟨_, (if_neg (not_rxDown hu)).trans ((if_neg (Bool.eq_false_iff.mp hf)).trans ((if_neg (Nat.not_lt.mpr hl)).trans
      ((if_neg (by simp [hc])).trans ((if_neg (by simp [hb])).trans ((if_pos hbad).trans (if_pos hs))))))⟩
  · exact .inl ((if_neg (not_rxDown hu)).trans ((if_neg (Bool.eq_false_iff.mp hf)).trans ((if_neg (Nat.not_lt.mpr hl)).trans
      ((if_neg (by simp [hc])).trans ((if_neg (by simp [hb])).trans ((if_pos hbad).trans (if_neg hs)))))))

/-- A good frame is counted with its bytes and handed on with its arrival time. -/
theorem frameIn_good (hg : (fcsGood f && !d.rxHit p cws shared) = true) : d.frameIn p f late cws shared =
    (((d.rxCounted p (cws.map (·.errors))).inc (Reg.C_MAC_RX_FRAMES_OK p)).cntAdd (Reg.C_MAC_RX_BYTES_OK p) f.length).rxTake p
      { bytes := f, port := p, stamp := d.nowU, bad := false, res := {} } :=
  (if_neg (not_rxDown hu)).trans ((if_neg (Bool.eq_false_iff.mp hf)).trans ((if_neg (Nat.not_lt.mpr hl)).trans
    ((if_neg (by simp [hc])).trans ((if_neg (by simp [hb])).trans (if_neg (Bool.eq_false_iff.mp (congrArg not hg)))))))

end

/-! What a frame leaves, whatever its kind. -/

section
variable (f : Bytes) (late : Bool) (cws : List Codeword) (shared : Bool)

/-- After the codewords are counted a frame moves counters of frames, the port's status, the parse engine's queue and its event alone. -/
theorem frameIn_rxStep {d : Dev} {p : Nat} (hu : (d.named p && d.linkUp p) = true) :
    RxStep p (d.rxCounted p (cws.map (·.errors))) (d.frameIn p f late cws shared) := by
  by_cases hf : d.rxFenced p = true
  · rw [frameIn_fenced f late cws shared hu hf]
    exact macCnt_rxStep _ p 1 (by decide)
  rw [Bool.not_eq_true] at hf
  by_cases hl : f.length < 64
  · rw [frameIn_runt f late cws shared hu hf hl]
    exact macCnt_rxStep _ p 1 (by decide)
  rw [Nat.not_lt] at hl
  by_cases hb : d.maxFrame p < f.length
  · have h2 : RxStep p (d.rxCounted p (cws.map (·.errors))) ((d.rxCounted p (cws.map (·.errors))).inc (Reg.C_MAC_RX_OVERSIZE p)) :=
      macCnt_rxStep _ p 1 (by decide)
    rcases frameIn_big f late cws shared hu hf hl hb with h | ⟨x, h⟩ <;> rw [h]
    · exact h2
    · exact h2.trans (rxTake_rxStep _ p x)
  rw [Nat.not_lt] at hb
  by_cases hc : isControl f = true
  · rw [frameIn_control f late cws shared hu hf hl hc hb]
    exact macControl_rxStep _ p f _
  rw [Bool.not_eq_true] at hc
  by_cases hg : (fcsGood f && !d.rxHit p cws shared) = true
  · rw [frameIn_good f late cws shared hu hf hl hb hc hg]
    exact ((macCnt_rxStep _ p 1 (by decide)).trans (macCnt_rxStep _ p f.length (by decide))).trans (rxTake_rxStep _ p _)
  · have h2 : RxStep p (d.rxCounted p (cws.map (·.errors))) ((d.rxCounted p (cws.map (·.errors))).inc (Reg.C_MAC_RX_FCS_ERR p)) :=
      macCnt_rxStep _ p 1 (by decide)
    rcases frameIn_bad f late cws shared hu hf hl hb hc (Bool.not_eq_true _ ▸ hg) with h | ⟨x, h⟩ <;> rw [h]
    · exact h2
    · exact h2.trans (rxTake_rxStep _ p x)

theorem frameIn_rxFrame : RxFrame p d (d.frameIn p f late cws shared) := by
  by_cases hu : (d.named p && d.linkUp p) = true
  · exact (rxCounted_rxFrame d p _).trans (frameIn_rxStep f late cws shared hu).toRxFrame
  · rw [frameIn_down f late cws shared (Bool.not_eq_true _ ▸ hu)]
    exact (RxStep.refl p d).toRxFrame

end

/-- A counter of frames advances by one over what it was before the codewords were counted. -/
theorem cnt_rxCounted_inc (errs : List Nat) {o : Nat} (ho : o < 0x170) :
    ((d.rxCounted p errs).inc (Reg.mac p + o)).cnt (Reg.mac p + o) = addSat (d.cnt (Reg.mac p + o)) 1 := by
  rw [cnt_inc_same, cnt_rxCounted_ne d p errs (.inl (by simp only [Reg.C_MAC_FEC_CORR_CW]; omega))]
/-- So it does where the frame is handed on after that. -/
theorem cnt_of_counted_or_taken {e : Dev} (errs : List Nat) {o : Nat} (ho : o < 0x170)
    (h : e = (d.rxCounted p errs).inc (Reg.mac p + o) ∨ ∃ x, e = ((d.rxCounted p errs).inc (Reg.mac p + o)).rxTake p x) :
    e.cnt (Reg.mac p + o) = addSat (d.cnt (Reg.mac p + o)) 1 := by
  rcases h with h | ⟨x, h⟩
  · rw [h, cnt_rxCounted_inc d p errs ho]
  · rw [h, cnt_rxTake _ p x ho, cnt_rxCounted_inc d p errs ho]

/-- What a good frame leaves: its counters, and its place in the receive queue, or its drop while that reloads (R102, R138). -/
theorem rxTake_good (errs : List Nat) (n : Nat) (x : Frame) :
    let e := (((d.rxCounted p errs).inc (Reg.C_MAC_RX_FRAMES_OK p)).cntAdd (Reg.C_MAC_RX_BYTES_OK p) n).rxTake p x
    e.cnt (Reg.C_MAC_RX_FRAMES_OK p) = addSat (d.cnt (Reg.C_MAC_RX_FRAMES_OK p)) 1 ∧
      e.cnt (Reg.C_MAC_RX_BYTES_OK p) = addSat (d.cnt (Reg.C_MAC_RX_BYTES_OK p)) n ∧
      ((d.spar (p / 8)).reloading = false → (e.spar (p / 8)).rx = (d.spar (p / 8)).rx ++ [x]) ∧
      ((d.spar (p / 8)).reloading = true → e.spars = d.spars ∧ e.bget (Reg.PRS_EVENT (p / 8)) 4 = true ∧
        e.cnt (Reg.C_PRS_MEM_ERR_DROP p) = addSat (d.cnt (Reg.C_PRS_MEM_ERR_DROP p)) 1) := by
  intro e
  let d2 := ((d.rxCounted p errs).inc (Reg.C_MAC_RX_FRAMES_OK p)).cntAdd (Reg.C_MAC_RX_BYTES_OK p) n
  have hs : d2.spars = d.spars := rxCounted_spars d p errs
  have hsp : d2.spar (p / 8) = d.spar (p / 8) := congrArg (SMap.get (fun _ => ({} : Spar)) · (p / 8)) hs
  have hne : Reg.C_MAC_RX_BYTES_OK p ≠ Reg.C_MAC_RX_FRAMES_OK p := by simp [Reg.C_MAC_RX_BYTES_OK, Reg.C_MAC_RX_FRAMES_OK]
  have hcnt : ∀ {a : Nat}, a < Reg.C_MAC_FEC_CORR_CW p ∨ Reg.C_MAC_FEC_UNCORR_CW p < a → a ≠ Reg.C_MAC_RX_BYTES_OK p →
      a ≠ Reg.C_MAC_RX_FRAMES_OK p → d2.cnt a = d.cnt a := fun ha h1 h2 =>
    (cnt_cntAdd _ _ _ _).trans ((if_neg h1).trans ((cnt_inc_ne _ h2).trans (cnt_rxCounted_ne d p errs ha)))
  refine ⟨?_, ?_, fun hr => ?_, fun hr => ?_⟩
  · exact (cnt_rxTake d2 p x (o := 0x100) (by decide)).trans
      ((cnt_cntAdd _ _ _ _).trans ((if_neg hne.symm).trans (cnt_rxCounted_inc d p errs (by decide))))
  · refine (cnt_rxTake d2 p x (o := 0x108) (by decide)).trans ((cnt_cntAdd _ _ _ _).trans ((if_pos rfl).trans ?_))
    have hold : (d.rxCounted p errs).cnt (Reg.C_MAC_RX_BYTES_OK p) = d.cnt (Reg.C_MAC_RX_BYTES_OK p) :=
      cnt_rxCounted_ne d p errs (.inl (by simp [Reg.C_MAC_RX_BYTES_OK, Reg.C_MAC_FEC_CORR_CW]))
    rw [cnt_inc_ne _ hne, hold, addSat]
  · exact (rx_rxTake d2 p x (by rw [hsp, hr])).trans (by rw [hsp])
  · obtain ⟨h1, h2, h3⟩ := rxTake_reloading d2 p x (by rw [hsp, hr])
    refine ⟨h1.trans hs, h2, h3.trans (congrArg (addSat · 1) (hcnt (.inr ?_) ?_ ?_))⟩ <;>
    · simp only [Reg.C_PRS_MEM_ERR_DROP, Reg.C_MAC_FEC_UNCORR_CW, Reg.C_MAC_RX_BYTES_OK, Reg.C_MAC_RX_FRAMES_OK, Reg.mac]
      omega

end Machine.Dev

open Machine.Dev

/-- Settles O12: the frame of a reception, the counters of the codewords, and one equation for each kind of frame. -/
theorem frameReception : Obligations.FrameReception := by
  intro s p f late cws shared hs n errs fixed hit good up taken
  have hf := frameIn_rxFrame s.toDev p f late cws shared
  have hup : up = true → (s.named p && s.linkUp p) = true := id
  have htaken : taken = true → (s.named p && s.linkUp p) = true ∧ s.rxFenced p = false := fun h => by
    simpa [taken, up] using h
  refine runs_quiet (d := s.frameIn p f late cws shared) rfl hs (congrArg Dev.fault hf.outside :) (congrArg Dev.fmem hf.outside :)
    (congrArg Dev.stores hf.outside :) (congrArg Dev.fuses hf.outside :)
    ⟨hf.rd, hf.outside, hf.spar, fun h => ?_, fun h => ?_, fun h h1 => ?_, fun h h1 => ?_, fun h h1 h2 => ?_, fun h h1 h2 h3 h4 => ?_,
      fun h h1 h2 h3 h4 => ?_⟩
  · exact congrArg (fun d => ({ toDev := d, pending := s.pending } : State)) (frameIn_down f late cws shared h)
  · have hstep := frameIn_rxStep f late cws shared (hup h)
    obtain ⟨hunc, hcorr, hsym⟩ := cnt_fecCounters s.toDev p errs
    have hc := fun a h1 h2 => (hstep.fec a h1 h2).trans (cnt_rxCounted s.toDev p errs a)
    refine ⟨(hc _ ?_ (le_refl _)).trans hunc, (hc _ (le_refl _) ?_).trans hcorr, (hc _ ?_ ?_).trans hsym, fun k hk => ?_⟩
    · simp [Reg.C_MAC_FEC_CORR_CW, Reg.C_MAC_FEC_UNCORR_CW]
    · simp [Reg.C_MAC_FEC_CORR_CW, Reg.C_MAC_FEC_UNCORR_CW]
    · simp [Reg.C_MAC_FEC_CORR_CW, Reg.C_MAC_FEC_CORR_SYM]
    · simp [Reg.C_MAC_FEC_CORR_SYM, Reg.C_MAC_FEC_UNCORR_CW]
    · exact not_gated_rxCounted s.toDev p errs (hstep.gated ▸ hk)
  · have he := frameIn_fenced f late cws shared (hup h) h1
    exact ⟨(congrArg Dev.spars he).trans (rxCounted_spars s.toDev p errs),
      (congrArg (Dev.cnt · _) he).trans (cnt_rxCounted_inc s.toDev p errs (by decide))⟩
  · obtain ⟨hu, hnf⟩ := htaken h
    have he := frameIn_runt f late cws shared hu hnf h1
    exact ⟨(congrArg Dev.spars he).trans (rxCounted_spars s.toDev p errs),
      (congrArg (Dev.cnt · _) he).trans (cnt_rxCounted_inc s.toDev p errs (by decide))⟩
  · obtain ⟨hu, hnf⟩ := htaken h
    exact cnt_of_counted_or_taken s.toDev p errs (by decide) (frameIn_big f late cws shared hu hnf h1 h2)
  · obtain ⟨hu, hnf⟩ := htaken h
    exact cnt_of_counted_or_taken s.toDev p errs (by decide) (frameIn_bad f late cws shared hu hnf h1 h3 h2 h4)
  · obtain ⟨hu, hnf⟩ := htaken h
    have he := frameIn_good f late cws shared hu hnf h1 h3 h2 h4
    have hgood := rxTake_good s.toDev p errs f.length { bytes := f, port := p, stamp := s.nowU, bad := false, res := {} }
    rw [← he] at hgood
    exact hgood

end Sys2Proof

/-!
SUPPORT. The transmitter of a port (R24, R109, R201, R202, R211): what is selected, and a frame that is sent as it is.
-/
namespace Sys2Proof

open Machine

namespace Machine

/-! An empty edit profile (R211). -/

/-- A mark stays where no tag is popped or pushed. -/
theorem moveMark_zero (m : Nat) : moveMark 0 0 m = m := by
  unfold moveMark
  split
  next h => exact h.symm
  next => rfl

/-- A list of zero words reads 0 everywhere. -/
theorem getD_zero {e : List Word} (he : ∀ w ∈ e, w = 0) (k : Nat) : e.getD k 0 = 0 := by
  rw [List.getD_eq_getElem?_getD]
  cases hk : e[k]? with
  | none => rfl
  | some w => exact he w (List.mem_of_getElem? hk)

/-- A profile of zero words edits nothing. -/
theorem editFrame_empty {e : List Word} (he : ∀ w ∈ e, w = 0) (b : Bytes) (marks : List Nat) :
    editFrame e b marks = { body := b, marks := marks, ttlBad := false } := by
  have hb : ∀ i, wbit 0 i = false := fun i => BitVec.getLsbD_zero
  have hpops : tagCount b (fld 0 4 3) = 0 := rfl
  have hmarks : marks.map (moveMark 0 (b2n false)) = marks := (List.map_congr_left (fun m _ => moveMark_zero m)).trans (List.map_id marks)
  simp only [editFrame, getD_zero he, hb, hpops, hmarks, Bool.false_and, Bool.false_eq_true, if_false, Nat.mul_zero, Nat.add_zero, List.take_append_drop]

namespace Dev

variable (d : Dev)

/-! A frame sent as it is. -/

/-- Telemetry counts a frame in its tables, and its charge changes the port. -/
theorem charged_eq (p q s n sent : Nat) : ∃ ts g, (d.telCount p q s).chargeFrame p q n sent = ({ d with tabs := ts } : Dev).updPort p g := by
  have ht : ∃ i j k ws i' j' k' ws', d.telCount p q s = (d.tabSet i j k ws).tabSet i' j' k' ws' := ⟨_, _, _, _, _, _, _, _, rfl⟩
  obtain ⟨i, j, k, ws, i', j', k', ws', ht⟩ := ht
  rw [ht]
  exact ⟨_, _, rfl⟩

/-- What a frame sent as it is changes outside counters, tables and the port. -/
def outsideTx (d : Dev) : Dev := { d with outs := [], cnts := [], tabs := [], ports := [] }

theorem regs_of_outsideTx {d e : Dev} (h : e.outsideTx = d.outsideTx) : e.regs = d.regs := (congrArg Dev.regs h :)
theorem spar_of_outsideTx {d e : Dev} (h : e.outsideTx = d.outsideTx) (n : Nat) : e.spar n = d.spar n :=
  congrArg (SMap.get (fun _ => ({} : Spar)) · n) (congrArg Dev.spars h :)
theorem bget_of_regs {d e : Dev} (h : e.regs = d.regs) (a i : Nat) : e.bget a i = d.bget a i := by
  rw [bget, bget, rd, rd, h]

/-- What a command leaves alone that sends one frame from the queues. -/
theorem quiet_of_outsideTx {d e : Dev} {n : Nat} {f : Spar → Spar} (h : e.outsideTx = (d.updSpar n f).outsideTx) :
    e.fault = d.fault ∧ e.fmem = d.fmem ∧ e.stores = d.stores ∧ e.fuses = d.fuses ∧ e.regs = d.regs ∧ e.slices = d.slices :=
  ⟨(congrArg Dev.fault h :), (congrArg Dev.fmem h :), (congrArg Dev.stores h :), (congrArg Dev.fuses h :), (congrArg Dev.regs h :),
    (congrArg Dev.slices h :)⟩

theorem charged_outside (p q s n sent : Nat) : ((d.telCount p q s).chargeFrame p q n sent).outsideTx = d.outsideTx ∧
    ((d.telCount p q s).chargeFrame p q n sent).outs = d.outs ∧ ((d.telCount p q s).chargeFrame p q n sent).cnts = d.cnts := by
  obtain ⟨ts, g, h⟩ := charged_eq d p q s n sent
  rw [h]
  exact ⟨rfl, rfl, rfl⟩

theorem bget_charged (p q s n sent a i : Nat) : ((d.telCount p q s).chargeFrame p q n sent).bget a i = d.bget a i :=
  bget_of_regs (regs_of_outsideTx (charged_outside d p q s n sent).1) a i

/-- The device once a frame has left, before it is charged and counted by telemetry: its counters. -/
def frameOut (p q : Nat) (out : Bytes) : Dev :=
  let x := ((d.emit (.frame p out)).inc (Reg.C_MAC_TX_FRAMES p)).cntAdd (Reg.C_MAC_TX_BYTES p) out.length
  if q % 9 = 8 then x.inc (Reg.C_EQ_MGMT_TX (p / 8)) else x

theorem frameOut_outside (p q : Nat) (out : Bytes) : (d.frameOut p q out).outsideTx = d.outsideTx ∧
    (d.frameOut p q out).outs = d.outs ++ [.frame p out] := by
  unfold frameOut
  split <;> exact ⟨rfl, rfl⟩

/-- With an empty profile, no event message, inside MAX_FRAME and with postcards off, a frame is sent as it is, with a fresh FCS (R211). -/
theorem sendFrame_plain {p q : Nat} {cells : List Cell} (cut : Bool) (tx sent : Nat) {r : Result} (hr : (cells.head?.map (·.res)).getD {} = r)
    {body : Bytes} (hb : (cells.flatMap (·.data)).take ((cells.flatMap (·.data)).length - 4) = body)
    (he : ∀ w ∈ d.tab 0x0803 (p / 8) r.edit, w = 0) (hm : r.marks.getD 8 255 = 255) (hi : r.inPort < 1024)
    (hl : body.length + 4 ≤ d.maxFrame p) (hpc : d.bget (Reg.TEL_PC_CFG (p / 8)) 0 = false) :
    d.sendFrame p q cells cut false tx sent = ((d.frameOut p q (body ++ fcsBytes body)).telCount p q
      (min 0xFFFFFFFF (unsgn 64 ((tx : Int) - r.stamp) / 4))).chargeFrame p q (body ++ fcsBytes body).length sent := by
  have hbit : ∀ i, wbit 0 i = false := fun i => BitVec.getLsbD_zero
  have hown : decide (1024 ≤ r.inPort) = false := decide_eq_false (Nat.not_le.mpr hi)
  have hbig : decide (d.maxFrame p < body.length + 4) = false := decide_eq_false (Nat.not_lt.mpr hl)
  have htake : body.take (d.maxFrame p - 4) = body := List.take_of_length_le (by omega)
  have hptp : ∀ (x : Dev) (b : Bytes), x.ptpEgress p tx r r.marks b = (b, x) := fun x b => by
    simp only [ptpEgress, hown, ptpAt, hm, ne_eq, not_true, Bool.false_eq_true, if_false]
  have hpost : ∀ (x : Dev) s marked c bad, x.bget (Reg.TEL_PC_CFG (p / 8)) 0 = false → x.postcard p q s tx r marked c bad = x :=
    fun x s marked c bad h => if_pos (by rw [h]; rfl)
  simp only [sendFrame, frameOut, hr, hb, getD_zero he, editFrame_empty he, hbit, hbig, htake, hptp, Bool.false_and, Bool.or_self, Bool.false_eq_true, if_false]
  refine hpost _ _ _ _ _ ?_
  rw [bget_charged]
  split
  · exact hpc
  · exact hpc

theorem cnt_frameOut (p q : Nat) (out : Bytes) : (d.frameOut p q out).cnt (Reg.C_MAC_TX_FRAMES p) = addSat (d.cnt (Reg.C_MAC_TX_FRAMES p)) 1 := by
  have hb : Reg.C_MAC_TX_FRAMES p ≠ Reg.C_MAC_TX_BYTES p := by simp [Reg.C_MAC_TX_FRAMES, Reg.C_MAC_TX_BYTES]
  have hm : Reg.C_MAC_TX_FRAMES p ≠ Reg.C_EQ_MGMT_TX (p / 8) := by
    simp only [Reg.C_MAC_TX_FRAMES, Reg.C_EQ_MGMT_TX, Reg.mac]
    omega
  have hx : (((d.emit (.frame p out)).inc (Reg.C_MAC_TX_FRAMES p)).cntAdd (Reg.C_MAC_TX_BYTES p) out.length).cnt (Reg.C_MAC_TX_FRAMES p) =
      addSat (d.cnt (Reg.C_MAC_TX_FRAMES p)) 1 := (cnt_cntAdd _ _ _ _).trans ((if_neg hb).trans (cnt_inc_same _ _))
  unfold frameOut
  split
  · exact (cnt_inc_ne _ hm).trans hx
  · exact hx

/-! The selection (R202). -/

/-- The class whose head frame is sent next: management, then strict classes, then the rotation. -/
def txPick (p : Nat) : Option Nat :=
  if d.headReady (portQ p 8) then some 8
  else match [7, 6, 5, 4, 3, 2, 1, 0].find? (fun k => d.strict p k && d.eligible p k) with
    | some k => some k
    | none => if (upto 8).any (fun k => !d.strict p k && d.eligible p k) then (d.roundRobin p 4400 (d.port p)).1 else none

/-- An up port's management queue is held by a fence, but under Black alone by one of its own. -/
theorem outDown_mgmt {p : Nat} (hp : p < 1024) (hu : d.linkUp p = true) :
    d.outDown (portQ p 8) = (d.portFenced p && !(d.inBlack && !d.bget (Reg.MAC_CMD p) 0)) := by
  have hq : isPortQ (portQ p 8) = true := decide_eq_true (by simp only [portQ]; omega)
  have hd : portQ p 8 / 9 = p := by simp only [portQ]; omega
  have hm : portQ p 8 % 9 = 8 := by simp only [portQ]; omega
  simp [outDown, hq, hd, hm, hu]

section
variable {d : Dev} {p : Nat}

/-- A port that is down or cuts a frame through selects nothing. -/
theorem portSelect_busy (h : d.linkUp p = false ∨ (d.port p).cut.isSome = true) : d.portSelect p = d :=
  if_pos (by rcases h with h | h <;> simp [h])

variable (hu : d.linkUp p = true) (hc : (d.port p).cut = none)
include hu hc

theorem portSelect_pfc {c timer : Nat} {more : List (Nat × Nat)} (hd : (d.port p).pfcDue = (c, timer) :: more) :
    d.portSelect p = (d.updPort p (fun x => { x with pfcDue := more })).pfcOut p c timer := by
  simp [portSelect, hu, hc, hd]

variable (hd : (d.port p).pfcDue = [])
include hd

theorem portSelect_tabled {f rest : List TabCell}
    (ht : (if d.outDown (portQ p 8) then none else tabFrame p (d.spar (p / 8)).tabLane) = some (f, rest)) :
    d.portSelect p = d.sendTabled p f rest := by
  simp [portSelect, hu, hc, hd, ht]

variable (ht : (if d.outDown (portQ p 8) then none else tabFrame p (d.spar (p / 8)).tabLane) = none)
include ht

/-- With no class to be sent the rotation alone may move. -/
theorem portSelect_none (hk : d.txPick p = none) : d.portSelect p = d ∨ ∃ x, d.portSelect p = d.updPort p (fun _ => x) := by
  by_cases h1 : d.headReady (portQ p 8) = true
  · simp [txPick, h1] at hk
  cases h2 : [7, 6, 5, 4, 3, 2, 1, 0].find? (fun k => d.strict p k && d.eligible p k) with
  | some c => simp [txPick, h1, h2] at hk
  | none =>
    simp only [txPick, portSelect, hu, hc, hd, ht, h1, h2, Option.isSome_none, Bool.not_true, Bool.or_self, Bool.false_eq_true, if_false] at hk ⊢
    split at hk
    next h3 =>
      rw [if_pos h3]
      generalize d.roundRobin p 4400 (d.port p) = r at hk
      obtain ⟨c, x⟩ := r
      simp only at hk
      subst hk
      exact .inr ⟨x, rfl⟩
    next h3 => exact .inl (if_neg h3)

/-- The head frame of the class that is picked is sent, from the port's place in the rotation. -/
theorem portSelect_some {c : Nat} (hk : d.txPick p = some c) :
    ∃ ps, d.portSelect p = ({ d with ports := ps } : Dev).sendHead p (portQ p c) := by
  by_cases h1 : d.headReady (portQ p 8) = true
  · simp only [txPick, portSelect, hu, hc, hd, ht, h1, Option.isSome_none, Bool.not_true, Bool.or_self, Bool.false_eq_true, if_false, if_true] at hk ⊢
    cases hk
    exact ⟨_, rfl⟩
  cases h2 : [7, 6, 5, 4, 3, 2, 1, 0].find? (fun k => d.strict p k && d.eligible p k) with
  | some c' =>
    simp only [txPick, portSelect, hu, hc, hd, ht, h1, h2, Option.isSome_none, Bool.not_true, Bool.or_self, Bool.false_eq_true, if_false] at hk ⊢
    cases hk
    exact ⟨_, rfl⟩
  | none =>
    simp only [txPick, portSelect, hu, hc, hd, ht, h1, h2, Option.isSome_none, Bool.not_true, Bool.or_self, Bool.false_eq_true, if_false] at hk ⊢
    split at hk
    next h3 =>
      rw [if_pos h3]
      generalize d.roundRobin p 4400 (d.port p) = r at hk
      obtain ⟨c', x⟩ := r
      simp only at hk
      subst hk
      exact ⟨_, rfl⟩
    next => cases hk

end

/-- A whole head frame leaves its staging FIFO and is sent. -/
theorem sendHead_whole {p q : Nat} {g more : List Cell} (hh : d.headFrame q = (g, more)) (hw : wholeFrame g = true) :
    d.sendHead p q = (d.updSpar (outSpar q) (fun y => { y with staging := SMap.set (fun _ => []) y.staging q more })).sendFrame p q g
      ((g.head?.map (·.ct)).getD false) false d.nowU 0 := by
  simp only [sendHead, hh, hw, if_true]

end Dev
end Machine

open Machine.Dev

/-- What a whole head frame leaves that is sent as it is (R201, R202, R211). -/
theorem sendHead_plain {d : Dev} {p c : Nat} {g more : List Cell} (hp : p < 1024) (hc : c < 9) (hh : d.headFrame (portQ p c) = (g, more))
    (hw : wholeFrame g = true) {r : Result} (hr : (g.head?.map (·.res)).getD {} = r) {body : Bytes}
    (hb : (g.flatMap (·.data)).take ((g.flatMap (·.data)).length - 4) = body) (he : ∀ w ∈ d.tab 0x0803 (p / 8) r.edit, w = 0)
    (hm : r.marks.getD 8 255 = 255) (hi : r.inPort < 1024) (hl : body.length + 4 ≤ d.maxFrame p)
    (hpc : d.bget (Reg.TEL_PC_CFG (p / 8)) 0 = false) :
    (d.sendHead p (portQ p c)).outs = d.outs ++ [.frame p (body ++ fcsBytes body)] ∧
      SMap.get (fun _ => []) ((d.sendHead p (portQ p c)).spar (p / 8)).staging (portQ p c) = more ∧
      (d.sendHead p (portQ p c)).cnt (Reg.C_MAC_TX_FRAMES p) = addSat (d.cnt (Reg.C_MAC_TX_FRAMES p)) 1 ∧
      (d.sendHead p (portQ p c)).outsideTx =
        (d.updSpar (p / 8) (fun y => { y with staging := SMap.set (fun _ => []) y.staging (portQ p c) more })).outsideTx := by
  have hq : outSpar (portQ p c) = p / 8 := by
    unfold outSpar portQ
    rw [if_pos (by omega)]
    omega
  let e := d.updSpar (p / 8) (fun y => { y with staging := SMap.set (fun _ => []) y.staging (portQ p c) more })
  have hsend := sendFrame_plain e (p := p) (q := portQ p c) ((g.head?.map (·.ct)).getD false) d.nowU 0 hr hb he hm hi hl hpc
  obtain ⟨ho, hout⟩ := frameOut_outside e p (portQ p c) (body ++ fcsBytes body)
  have hcnt := cnt_frameOut e p (portQ p c) (body ++ fcsBytes body)
  obtain ⟨ho', hout', hcnt'⟩ := charged_outside (e.frameOut p (portQ p c) (body ++ fcsBytes body)) p (portQ p c)
    (min 0xFFFFFFFF (unsgn 64 ((d.nowU : Int) - r.stamp) / 4)) (body ++ fcsBytes body).length 0
  rw [← hsend] at ho' hout' hcnt'
  rw [sendHead_whole d hh hw, hq]
  generalize e.sendFrame p (portQ p c) g ((g.head?.map (·.ct)).getD false) false d.nowU 0 = x at ho' hout' hcnt'
  replace ho := ho'.trans ho
  refine ⟨hout'.trans hout, ?_, (congrArg (SMap.get (fun _ => 0) · _) hcnt').trans hcnt, ho⟩
  rw [spar_of_outsideTx ho, spar_updSpar, if_pos rfl]
  exact (SMap.get_set _ _ _ _ _).trans (if_pos rfl)

/-- What a PFC frame sent leaves (R109). -/
theorem pfcOut_post (d : Dev) (p c timer : Nat) (more : List (Nat × Nat)) :
    let e := (d.updPort p (fun x => { x with pfcDue := more })).pfcOut p c timer
    (∃ cs ps, e = { d with outs := d.outs ++ [.pfc p (pfcBytes c timer)], cnts := cs, ports := ps }) ∧ (e.port p).pfcDue = more ∧
      e.cnt (Reg.C_MAC_TX_PFC p) = addSat (d.cnt (Reg.C_MAC_TX_PFC p)) 1 :=
  ⟨⟨_, _, rfl⟩, congrArg Port.pfcDue ((port_updPort d p p (fun x => { x with pfcDue := more })).trans (if_pos rfl)),
    cnt_inc_same (d.updPort p (fun x => { x with pfcDue := more })) _⟩

/-- The counters of a tabled frame (R24). -/
theorem cnt_tabledCounters (d : Dev) (p n : Nat) :
    let e := ((d.inc (Reg.C_MAC_TX_FRAMES p)).cntAdd (Reg.C_MAC_TX_BYTES p) n).inc (Reg.C_EQ_TAB_TX (p / 8))
    e.cnt (Reg.C_MAC_TX_FRAMES p) = addSat (d.cnt (Reg.C_MAC_TX_FRAMES p)) 1 ∧
      e.cnt (Reg.C_MAC_TX_BYTES p) = addSat (d.cnt (Reg.C_MAC_TX_BYTES p)) n ∧
      e.cnt (Reg.C_EQ_TAB_TX (p / 8)) = addSat (d.cnt (Reg.C_EQ_TAB_TX (p / 8))) 1 := by
  have hfb : Reg.C_MAC_TX_FRAMES p ≠ Reg.C_MAC_TX_BYTES p := by simp [Reg.C_MAC_TX_FRAMES, Reg.C_MAC_TX_BYTES]
  have hft : Reg.C_MAC_TX_FRAMES p ≠ Reg.C_EQ_TAB_TX (p / 8) := by
    simp only [Reg.C_MAC_TX_FRAMES, Reg.C_EQ_TAB_TX, Reg.mac]
    omega
  have hbt : Reg.C_MAC_TX_BYTES p ≠ Reg.C_EQ_TAB_TX (p / 8) := by
    simp only [Reg.C_MAC_TX_BYTES, Reg.C_EQ_TAB_TX, Reg.mac]
    omega
  refine ⟨?_, ?_, ?_⟩
  · rw [cnt_inc_ne _ hft, cnt_cntAdd, if_neg hfb, cnt_inc_same]
  · rw [cnt_inc_ne _ hbt, cnt_cntAdd, if_pos rfl, cnt_inc_ne _ hfb.symm, addSat]
  · rw [cnt_inc_same, cnt_cntAdd, if_neg hbt.symm, cnt_inc_ne _ hft.symm]

/-- A tabled frame leaves the lane of its spar and is counted. -/
theorem sendTabled_eq (d : Dev) (p : Nat) (f rest : List TabCell) : d.sendTabled p f rest =
    ((((d.updSpar (p / 8) (fun y => { y with tabLane := rest })).emit (.frame p (f.flatMap (·.data)))).inc (Reg.C_MAC_TX_FRAMES p)).cntAdd
      (Reg.C_MAC_TX_BYTES p) (f.flatMap (·.data)).length).inc (Reg.C_EQ_TAB_TX (p / 8)) := by
  rw [sendTabled]

/-- Counting a tabled frame changes counters alone. -/
theorem tabledCounters_same (d : Dev) (a b c n : Nat) : ∃ cs, ((d.inc a).cntAdd b n).inc c = { d with cnts := cs } := ⟨_, rfl⟩

/-- A tabled frame sent changes outputs, counters and its spar (R24). -/
theorem sendTabled_same (d : Dev) (p : Nat) (f rest : List TabCell) : ∃ cs ss,
    d.sendTabled p f rest = { d with outs := d.outs ++ [.frame p (f.flatMap (·.data))], cnts := cs, spars := ss } := by
  obtain ⟨cs, h⟩ := tabledCounters_same ((d.updSpar (p / 8) (fun y => { y with tabLane := rest })).emit (.frame p (f.flatMap (·.data))))
    (Reg.C_MAC_TX_FRAMES p) (Reg.C_MAC_TX_BYTES p) (Reg.C_EQ_TAB_TX (p / 8)) (f.flatMap (·.data)).length
  rw [sendTabled_eq, h]
  exact ⟨cs, _, rfl⟩

/-- The lane holds the frames after the one that is sent. -/
theorem sendTabled_lane (d : Dev) (p : Nat) (f rest : List TabCell) : ((d.sendTabled p f rest).spar (p / 8)).tabLane = rest := by
  have h : (d.sendTabled p f rest).spars = (d.updSpar (p / 8) (fun y => { y with tabLane := rest })).spars := by
    rw [sendTabled_eq]
    rfl
  rw [spar, h, ← spar, spar_updSpar, if_pos rfl]

/-- A tabled frame sent is counted by its port and its spar. -/
theorem cnt_sendTabled (d : Dev) (p : Nat) (f rest : List TabCell) :
    (d.sendTabled p f rest).cnt (Reg.C_MAC_TX_FRAMES p) = addSat (d.cnt (Reg.C_MAC_TX_FRAMES p)) 1 ∧
      (d.sendTabled p f rest).cnt (Reg.C_MAC_TX_BYTES p) = addSat (d.cnt (Reg.C_MAC_TX_BYTES p)) (f.flatMap (·.data)).length ∧
      (d.sendTabled p f rest).cnt (Reg.C_EQ_TAB_TX (p / 8)) = addSat (d.cnt (Reg.C_EQ_TAB_TX (p / 8))) 1 := by
  have hcnt : ∀ a, ((d.updSpar (p / 8) (fun y => { y with tabLane := rest })).emit (.frame p (f.flatMap (·.data)))).cnt a = d.cnt a :=
    fun _ => rfl
  rw [sendTabled_eq]
  generalize (d.updSpar (p / 8) (fun y => { y with tabLane := rest })).emit (.frame p (f.flatMap (·.data))) = e at hcnt
  simp only [← hcnt]
  exact cnt_tabledCounters e p _

/-- Settles O35: one lemma for each thing that the transmitter can do next. -/
theorem portTransmit : Obligations.PortTransmit := by
  intro s p f rest g more c hs n held tabled free pick r raw body
  by_cases hbusy : s.linkUp p = false ∨ (s.port p).cut.isSome = true
  · refine runs_same (congrArg (finish s) (portSelect_busy hbusy)) hs ⟨fun _ => rfl, fun hu hc => ?_, fun hf => ?_, fun hf => ?_, fun hf => ?_⟩
    · simp [hu, hc] at hbusy
    · simp [hf.1, hf.2.1] at hbusy
    · simp [hf.1, hf.2.1] at hbusy
    · simp [hf.1, hf.2.1] at hbusy
  obtain ⟨hu, hc⟩ : s.linkUp p = true ∧ (s.port p).cut = none := by simpa using hbusy
  cases hd : (s.port p).pfcDue with
  | cons x due =>
    obtain ⟨k, timer⟩ := x
    have hfree : ¬ free := fun hf => by simp [hf.2.2] at hd
    have he := congrArg (finish s) (portSelect_pfc hu hc hd)
    obtain ⟨⟨cs, ps, hsame⟩, hdue, hcnt⟩ := pfcOut_post s.toDev p k timer due
    rw [hsame] at he hdue hcnt
    refine runs_quiet he hs rfl rfl rfl rfl ⟨fun h => absurd h hbusy, fun _ _ k' timer' due' h => ?_,
      fun hf => absurd hf hfree, fun hf => absurd hf hfree, fun hf => absurd hf hfree⟩
    cases h
    exact ⟨rfl, hdue, hcnt⟩
  | nil =>
    have hheld : (if s.outDown (portQ p 8) then none else tabFrame p (s.spar (p / 8)).tabLane) = tabled := by
      rw [outDown_mgmt s.toDev p.isLt hu]
    have hpfc : ∀ k timer due, ([] : List (Nat × Nat)) ≠ (k, timer) :: due := fun _ _ _ => (List.cons_ne_nil _ _).symm
    cases ht : tabled with
    | some x =>
      obtain ⟨f', rest'⟩ := x
      have he := congrArg (finish s) (portSelect_tabled hu hc hd (hheld.trans ht))
      have hlane := sendTabled_lane s.toDev p f' rest'
      have hcnt := cnt_sendTabled s.toDev p f' rest'
      obtain ⟨cs, ss, hsame⟩ := sendTabled_same s.toDev p f' rest'
      rw [hsame] at he hlane hcnt
      refine runs_quiet he hs rfl rfl rfl rfl ⟨fun h => absurd h hbusy, fun _ _ k timer due h => absurd h (hpfc k timer due),
        fun _ h => ?_, fun _ h => absurd h (by simp), fun _ h => absurd h (by simp)⟩
      cases h
      exact ⟨rfl, hlane, hcnt⟩
    | none =>
      have htab := hheld.trans ht
      have hpick : pick = s.txPick p := rfl
      cases hk : s.txPick p with
      | none =>
        have he : ∃ ps, s.portSelect p = { s.toDev with ports := ps } := by
          rcases portSelect_none hu hc hd htab hk with h | ⟨x, h⟩
          · exact ⟨_, h⟩
          · exact ⟨_, h⟩
        obtain ⟨ps, he⟩ := he
        refine runs_quiet (congrArg (finish s) he) hs rfl rfl rfl rfl ⟨fun h => absurd h hbusy,
          fun _ _ k timer due h => absurd h (hpfc k timer due), fun _ h => absurd h (by simp), fun _ _ _ => rfl, fun _ _ h => ?_⟩
        rw [hpick, hk] at h
        cases h
      | some c' =>
        by_cases hplain : c' = c ∧ c < 9 ∧ s.headFrame (portQ p c) = (g, more) ∧ wholeFrame g = true ∧ (∀ w ∈ s.tab 0x0803 n r.edit, w = 0) ∧
            r.marks.getD 8 255 = 255 ∧ r.inPort < 1024 ∧ body.length + 4 ≤ s.maxFrame p ∧ s.bget (Reg.TEL_PC_CFG n) 0 = false
        · obtain ⟨rfl, hc9, hh, hw, hedit, hmark, hin, hlen, hpc⟩ := hplain
          obtain ⟨ps, he⟩ := portSelect_some hu hc hd htab hk
          obtain ⟨hout, hstage, hcnt, hside⟩ := sendHead_plain (d := { s.toDev with ports := ps }) p.isLt hc9 hh hw rfl rfl hedit hmark hin hlen hpc
          obtain ⟨hfault, hmem, hstores, hfuses, hregs, hslices⟩ := quiet_of_outsideTx hside
          generalize ({ s.toDev with ports := ps } : Dev).sendHead p (portQ p c') = e at he hout hstage hcnt hfault hmem hstores hfuses hregs hslices
          refine runs_quiet (congrArg (finish s) he) hs hfault hmem hstores hfuses ⟨fun h => absurd h hbusy,
            fun _ _ k timer due h => absurd h (hpfc k timer due), fun _ h => absurd h (by simp), fun _ _ h => ?_,
            fun _ _ _ _ _ _ _ _ _ _ _ => ⟨hout, hstage, hcnt, hregs, hslices⟩⟩
          rw [hpick, hk] at h
          cases h
        · refine runs_of_forall fun t => ⟨fun h => absurd h hbusy, fun _ _ k timer due h => absurd h (hpfc k timer due),
            fun _ h => absurd h (by simp), fun _ _ h => ?_, fun _ _ h h1 h2 h3 h4 h5 h6 h7 h8 => absurd ⟨?_, h1, h2, h3, h4, h5, h6, h7, h8⟩ hplain⟩
          · rw [hpick, hk] at h
            cases h
          · rw [hpick, hk] at h
            exact Option.some.inj h

end Sys2Proof

/-!
SUPPORT. The double-bit error under the host's image (R37, R393): a state in which what it reports changes a table.
-/
namespace Sys2Proof

open Machine

/-- A host image is read whose bytes hold a double-bit error, and source 29 is programmed Black. The copies in spar 0 of a multicast
cell that its slice has lost are released as Black flushes port 0, whose accounting error is a report of its own; the core flush that
answers it ends the frame that port 3 cuts through, which no breakout names, and telemetry counts that frame in its tables. -/
def imageErrorFlush : State :=
  { Tests.st [(Reg.MAC_SPAR_MODE 0, 1)] with
    loader := { job := some {}, reading := true }
    fmem := { bad := [0] }
    tabs := [(tkey 0x1001 0 29, [3])]
    spars := [(0, { rxTurn := 1, arriving := [{ mc := true, left := [0], home := 1 }] })]
    ports := [(3, { cut := some { queue := portQ 3 0, stream := 0, cells := [] } })] }

theorem safe_imageErrorFlush : Safe imageErrorFlush := Tests.safe_of _ rfl rfl rfl

/-- The read of the image finds the error. -/
theorem bad_imageErrorFlush : (imageErrorFlush.memRead 257 ((imageErrorFlush.rd Reg.GLB_IMG_ADDR).toNat * 32) 32 false).2.1 = true := by
  decide +kernel

set_option maxRecDepth 4000 in
/-- Telemetry has written two entries once every report is handled. -/
theorem tabs_imageErrorFlush : imageErrorFlush.hostRead.raiseDue.tabs.length = 3 := by decide +kernel

/-- A command's tables are those of its device once every report is handled. -/
theorem tabs_of_finish {s t : State} {d : Dev} (h : finish s d = .next t) : t.tabs = d.raiseDue.tabs := by
  rw [finish_next] at h
  cases h
  rfl

/-- Refutes O28: the refusal of a host image for a double-bit error can change a table, in `imageErrorFlush`, where the error's report
enters Black. -/
theorem not_imageLoads : ¬ Obligations.ImageLoads := by
  unfold Obligations.ImageLoads
  intro h
  obtain ⟨-, ⟨t, he, -, -, -, hpost⟩, -⟩ := h.1 imageErrorFlush false {} {} {} safe_imageErrorFlush
  rw [bad_imageErrorFlush] at hpost
  obtain ⟨-, -, -, -, hkept, -⟩ := (hpost rfl rfl rfl).1 (by decide)
  have hlen := congrArg List.length ((tabs_of_finish he).symm.trans hkept)
  rw [tabs_imageErrorFlush] at hlen
  exact absurd hlen (by decide)

end Sys2Proof

/-!
SUPPORT. Table access windows (R45, R450 to R453): the reset values of a window's registers, how an operation is refused, what a READ puts
into the data words, and how a WRITE and the end of an operation change the tables.
-/
namespace Sys2Proof

open Machine

namespace Machine

/-- A map filtered by its keys reads as before at a key that is kept, and the default at every other. -/
theorem SMap.get_filter_key {α : Type} (d : Nat → α) (q : Nat → Bool) (a : Nat) (m : SMap α) :
    SMap.get d (m.filter (fun p => q p.1)) a = if q a then SMap.get d m a else d a := by
  induction m with
  | nil => simp
  | cons p m ih =>
    obtain ⟨k, v⟩ := p
    rw [List.filter_cons, SMap.get]
    by_cases ha : k = a
    · subst ha
      cases hk : q k <;> simp [SMap.get, ih, hk]
    · cases hk : q k <;> simp [SMap.get, ih, ha]

/-- A window's registers are zero at reset. -/
theorem resetVal_window {a : Nat} (h1 : 0x600000 ≤ a) (h2 : a < 0x800000) : Reg.resetVal a = 0 := by
  have hb : Reg.blockOf a = some (Reg.twDefs, Reg.win ((a - 0x00600000) / 0x40000)) := by
    simp only [Reg.blockOf]
    repeat rw [if_neg (by omega)]
    rw [if_pos h2]
  have hall : ∀ r ∈ Reg.twDefs, r.reset = 0 := by decide
  unfold Reg.resetVal
  split
  next r hr =>
    rw [Reg.at?, hb] at hr
    split at hr
    · cases hr
    · rw [hall r (List.mem_of_find?_eq_some hr)]
      rfl
  next => rfl

/-- Every table has entries. -/
theorem entries_pos {id : Nat} {t : TabDef} (h : tab? id = some t) : 0 < t.entries ∧ t.entries ≤ 2 ^ 20 := by
  have hall : ∀ x ∈ tabDefs, 0 < x.entries ∧ x.entries ≤ 2 ^ 20 := by decide
  exact hall t (List.mem_of_find?_eq_some h)

namespace Dev

variable (d : Dev) (w : Nat)

/-! Registers alone. -/

theorem wr_same (a : Nat) (v : Word) : d.wr a v = { d with regs := (d.wr a v).regs } := rfl
/-- Two changes of registers alone are one. -/
theorem regsOnly_trans {d e f : Dev} (h : e = { d with regs := e.regs }) (g : f = { e with regs := f.regs }) : f = { d with regs := f.regs } :=
  g.trans (congrArg (fun x : Dev => { x with regs := f.regs }) h :)

/-! Refusals (R452). -/

theorem winErr_same (c : Nat) : d.winErr w c = { d with regs := (d.winErr w c).regs } := wr_same d _ _
theorem rd_winErr_ne {a : Nat} (c : Nat) (h : a ≠ Reg.GLB_TW_CTRL w) : (d.winErr w c).rd a = d.rd a := rd_fset_ne d _ _ _ h
theorem fget_winErr {c : Nat} (h : c < 16) : (d.winErr w c).fget (Reg.GLB_TW_CTRL w) 7 4 = c := by
  rw [winErr, fget_fset _ _ _ _ _ (by decide) (by decide)]
  exact Nat.mod_eq_of_lt h
theorem bget_winErr {c i : Nat} (hi : i < 32) (h : i < 4 ∨ 7 < i) : (d.winErr w c).bget (Reg.GLB_TW_CTRL w) i = d.bget (Reg.GLB_TW_CTRL w) i :=
  bget_fset_other _ _ _ _ _ _ (by decide) hi h

/-- ERR of a window that names no table. -/
theorem winCode_none {write : Bool} (h : d.winTab? w = none) : d.winCode w write = 1 := by rw [winCode, h]
/-- ERR past the end of a table. -/
theorem winCode_past {write : Bool} {t : TabDef} (h : d.winTab? w = some t) (hi : t.entries ≤ d.winIndex w) : d.winCode w write = 2 := by
  rw [winCode, h]
  exact if_pos hi
/-- ERR of an operation on an entry that is there. -/
theorem winCode_within {write : Bool} {t : TabDef} (h : d.winTab? w = some t) (hi : d.winIndex w < t.entries) :
    d.winCode w write = if write && t.cls == .ro then 3 else if write && t.cls == .L && !d.noImage then 4 else 0 := by
  rw [winCode, h]
  exact if_neg (Nat.not_le.mpr hi)

/-- A refusal's code is that of its reason. -/
theorem winCode_lt (write : Bool) : d.winCode w write < 16 := by
  unfold winCode
  repeat' split
  all_goals decide

/-! The data words (R451). -/

/-- A data word of a window is one of its own registers. -/
theorem winData_range {w k : Nat} (hw : w < 8) (hk : k < 2048) : 0x600000 ≤ Reg.GLB_TW_DATA w k ∧ Reg.GLB_TW_DATA w k < 0x800000 := by
  simp only [Reg.GLB_TW_DATA, Reg.win]
  omega
theorem winData_inj {j k : Nat} : Reg.GLB_TW_DATA w j = Reg.GLB_TW_DATA w k ↔ j = k := by
  simp only [Reg.GLB_TW_DATA]
  omega

/-- The first `n` data words written. -/
def winPut (v : Nat → Word) (n : Nat) : Dev := (upto n).foldl (fun x k => x.wr (Reg.GLB_TW_DATA w k) (v k)) d

theorem winPut_succ (v : Nat → Word) (n : Nat) : d.winPut w v (n + 1) = (d.winPut w v n).wr (Reg.GLB_TW_DATA w n) (v n) := by
  simp [winPut, upto, List.range_succ]
theorem winPut_same (v : Nat → Word) (n : Nat) : d.winPut w v n = { d with regs := (d.winPut w v n).regs } := by
  induction n with
  | zero => rfl
  | succ n ih =>
    rw [winPut_succ, ih]
    rfl
theorem rd_winPut (v : Nat → Word) (n k : Nat) : (d.winPut w v n).rd (Reg.GLB_TW_DATA w k) = if k < n then v k else d.rd (Reg.GLB_TW_DATA w k) := by
  induction n with
  | zero => rfl
  | succ n ih =>
    rw [winPut_succ, rd_wr, ih]
    simp only [winData_inj]
    by_cases hk : k = n
    · simp [hk]
    · have : k < n + 1 ↔ k < n := by omega
      simp [hk, this]
theorem rd_winPut_ne (v : Nat → Word) {n a : Nat} (h : ∀ k < n, a ≠ Reg.GLB_TW_DATA w k) : (d.winPut w v n).rd a = d.rd a := by
  induction n with
  | zero => rfl
  | succ n ih => rw [winPut_succ, rd_wr_ne _ _ (h n (by omega)), ih (fun k hk => h k (by omega))]

/-- The data words cleared. -/
def winCleared : Dev :=
  let lo := Reg.GLB_TW_DATA w 0
  { d with regs := d.regs.filter (fun p => !(decide (lo ≤ p.1) && decide (p.1 < lo + 8192))) }

theorem rd_winCleared (a : Nat) : (d.winCleared w).rd a =
    if Reg.GLB_TW_DATA w 0 ≤ a ∧ a < Reg.GLB_TW_DATA w 0 + 8192 then Reg.resetVal a else d.rd a := by
  refine (SMap.get_filter_key Reg.resetVal (fun k => !(decide (Reg.GLB_TW_DATA w 0 ≤ k) && decide (k < Reg.GLB_TW_DATA w 0 + 8192))) a
    d.regs).trans ?_
  by_cases h : Reg.GLB_TW_DATA w 0 ≤ a ∧ a < Reg.GLB_TW_DATA w 0 + 8192 <;> simp [h, rd]

/-- A fill clears the data words and writes the list. -/
theorem winFill_eq (ws : List Word) : d.winFill w ws = (d.winCleared w).winPut w (fun k => ws.getD k 0) ws.length := rfl

/-- The data words hold a list, and zero past it. -/
theorem rd_winFill {w k : Nat} (hw : w < 8) (hk : k < 2048) (ws : List Word) : (d.winFill w ws).rd (Reg.GLB_TW_DATA w k) = ws.getD k 0 := by
  obtain ⟨h1, h2⟩ := winData_range hw hk
  rw [winFill_eq, rd_winPut]
  split
  next => rfl
  next h =>
    rw [rd_winCleared, if_pos (by simp only [Reg.GLB_TW_DATA]; omega), resetVal_window h1 h2, List.getD_eq_default _ _ (Nat.not_lt.mp h)]
/-- Every register but the data words reads as before. -/
theorem rd_winFill_ne {w a : Nat} {ws : List Word} (hl : ws.length ≤ 2048) (h : a < Reg.GLB_TW_DATA w 0 ∨ Reg.GLB_TW_DATA w 2048 ≤ a) :
    (d.winFill w ws).rd a = d.rd a := by
  simp only [Reg.GLB_TW_DATA] at h
  rw [winFill_eq, rd_winPut_ne, rd_winCleared, if_neg]
  · simp only [Reg.GLB_TW_DATA]
    omega
  · intro k hk
    simp only [Reg.GLB_TW_DATA]
    omega
theorem winFill_same (ws : List Word) : d.winFill w ws = { d with regs := (d.winFill w ws).regs } := by
  rw [winFill_eq, winPut_same]
  rfl

/-- The words that a READ takes, of a table kept in the tables. -/
theorem winWords_eq {t : TabDef} (h : t.id ≠ 0x0301) : d.winWords w t =
    SMap.get tabDefault (if t.cls = .B ∧ d.bget Reg.GLB_COMMIT_CTRL 4 = true then d.shTabs else d.tabs) (d.winKey w t) := by
  by_cases hb : t.cls = .B ∧ d.bget Reg.GLB_COMMIT_CTRL 4 = true
  · simp [winWords, h, hb]
  · rw [winWords, if_neg h, if_neg hb, if_neg (by simpa using hb)]

/-- BUSY set with ERR 0: the state of a window once its operation is taken. -/
def winTaken : Dev := (d.winErr w 0).bset (Reg.GLB_TW_CTRL w) 2 true

theorem winTaken_same : d.winTaken w = { d with regs := (d.winTaken w).regs } := regsOnly_trans (winErr_same d w 0) (wr_same _ _ _)
theorem winTaken_post : (d.winTaken w).fget (Reg.GLB_TW_CTRL w) 7 4 = 0 ∧ (d.winTaken w).bget (Reg.GLB_TW_CTRL w) 2 = true ∧
    (∀ a, a ≠ Reg.GLB_TW_CTRL w → (d.winTaken w).rd a = d.rd a) := by
  refine ⟨?_, bget_bset_same _ _ _ _ (by decide), fun a ha => (rd_bset_ne _ _ _ ha).trans (rd_winErr_ne d w 0 ha)⟩
  rw [winTaken, fget_bset_other _ _ _ _ _ _ (by decide) (by decide), fget_winErr d w (by decide)]

/-- A READ that is not refused takes the entry into the data words; one of 0x0810 clears its peaks. -/
theorem winRead_taken {t : TabDef} (hb : d.winBusy w = false) (ht : d.winTab? w = some t) (hi : d.winIndex w < t.entries) :
    d.winRead w = { d with regs := (d.winRead w).regs, tabs := (d.winRead w).tabs } ∧
      (d.winRead w).regs = ((d.winFill w (d.winWords w t)).winTaken w).regs ∧ (t.id ≠ 0x0810 → (d.winRead w).tabs = d.tabs) := by
  have hc : d.winCode w false = 0 := (winCode_within d w ht hi).trans rfl
  obtain ⟨ts, he⟩ : ∃ ts, d.winRead w = if t.id = 0x0810 then { (d.winFill w (d.winWords w t)).winTaken w with tabs := ts }
      else (d.winFill w (d.winWords w t)).winTaken w := by
    simp only [winRead, hb, ht, hc, Bool.false_eq_true, if_false, ne_eq, not_true_eq_false]
    exact ⟨_, rfl⟩
  have hsame := regsOnly_trans (winFill_same d w (d.winWords w t)) (winTaken_same _ w)
  rw [he]
  generalize (d.winFill w (d.winWords w t)).winTaken w = e at hsame
  split
  next h => exact ⟨(congrArg (fun x : Dev => { x with tabs := ts }) hsame :), rfl, fun hne => absurd h hne⟩
  next =>
    have htabs : e.tabs = d.tabs := (congrArg Dev.tabs hsame :)
    exact ⟨hsame.trans (congrArg (fun x => ({ d with regs := e.regs, tabs := x } : Dev)) htabs.symm), rfl, fun _ => htabs⟩

/-! WRITE and the end of an operation (R451). -/

/-- A WRITE that is not refused: discarded while a full image is expanded, where its table is of class B, else waiting for its end. -/
theorem winWrite_taken {t : TabDef} (hb : d.winBusy w = false) (ht : d.winTab? w = some t) (hc : d.winCode w true = 0) :
    (d.winWrite w).regs = (d.winTaken w).regs ∧
      d.winWrite w = { d with regs := (d.winWrite w).regs, winPend := (d.winWrite w).winPend } ∧
      (d.winWrite w).winPend = if d.fullExpanding = true ∧ t.cls = .B then d.winPend else d.winPend ++ [w] := by
  have he : d.winWrite w = if d.fullExpanding = true ∧ t.cls = .B then d.winTaken w else { d.winTaken w with winPend := d.winPend ++ [w] } := by
    simp only [winWrite, hb, hc, ht, Bool.false_eq_true, if_false, ne_eq, not_true_eq_false, Bool.and_eq_true, beq_iff_eq]
    rfl
  have hsame := winTaken_same d w
  rw [he]
  generalize d.winTaken w = e at hsame
  split
  · have hp : e.winPend = d.winPend := (congrArg Dev.winPend hsame :)
    exact ⟨rfl, hsame.trans (congrArg (fun x => ({ d with regs := e.regs, winPend := x } : Dev)) hp.symm), hp⟩
  · exact ⟨rfl, (congrArg (fun x : Dev => { x with winPend := d.winPend ++ [w] }) hsame :), rfl⟩

/-- A WRITE waits alone: it is the one applied. -/
theorem winDone_alone (hb : d.winBusy w = true) (hp : d.winPend = [w]) (hw : d.commit.window = false) :
    d.winDone w = (({ d with winPend := [] } : Dev).winApply w).winIdle w := by
  simp [winDone, hb, hp, hw, splitAfter]

/-- A WRITE to a class B table applied, where no READY is held: the shadow bank takes the entry, and parity errors of it are gone. -/
theorem winApply_classB {t : TabDef} (ht : d.winTab? w = some t) (hc : t.cls = .B) (hr : d.commit.readyFor = none) :
    d.winApply w = (d.shTabPut (d.winKey w t) ((upto t.words).map (fun k => d.rd (Reg.GLB_TW_DATA w k)))).entryRewritten (d.winKey w t) := by
  simp only [winApply, ht, hc]
  exact readyAgain_none _ hr

/-- A WRITE to a class L table applied in NO_IMAGE. -/
theorem winApply_classL {t : TabDef} (ht : d.winTab? w = some t) (hc : t.cls = .L) (hn : d.noImage = true) :
    d.winApply w = { d with tabs := SMap.set tabDefault d.tabs (d.winKey w t) ((upto t.words).map (fun k => d.rd (Reg.GLB_TW_DATA w k))) } := by
  simp [winApply, ht, hc, hn]

theorem winIdle_same : d.winIdle w = { d with regs := (d.winIdle w).regs } := by
  have hb := wr_same d (Reg.GLB_TW_CTRL w) (setFld (d.rd (Reg.GLB_TW_CTRL w)) 2 2 (b2n false))
  unfold winIdle
  dsimp only
  repeat' split
  · exact regsOnly_trans hb (wr_same _ _ _)
  · exact hb
  · exact hb
/-- The end of an operation changes the control register and INDEX alone. -/
theorem rd_winIdle_ne {a : Nat} (h1 : a ≠ Reg.GLB_TW_CTRL w) (h2 : a ≠ Reg.GLB_TW_INDEX w) : (d.winIdle w).rd a = d.rd a := by
  have hb := rd_bset_ne d 2 false h1
  unfold winIdle
  dsimp only
  repeat' split
  · exact (rd_fset_ne _ _ _ _ h2).trans hb
  · exact hb
  · exact hb

/-- BUSY falls, and INDEX advances after an operation that succeeded where AUTOINC says so. -/
theorem winIdle_post {t : TabDef} (ht : d.winTab? w = some t) : (d.winIdle w).bget (Reg.GLB_TW_CTRL w) 2 = false ∧
    (d.winIdle w).fget (Reg.GLB_TW_INDEX w) 19 0 =
      if d.bget (Reg.GLB_TW_CTRL w) 8 = true ∧ (d.fget (Reg.GLB_TW_CTRL w) 7 4 = 0 ∨ d.fget (Reg.GLB_TW_CTRL w) 7 4 = 5) then
        (d.winIndex w + 1) % t.entries else d.winIndex w := by
  have hne : Reg.GLB_TW_CTRL w ≠ Reg.GLB_TW_INDEX w := by simp [Reg.GLB_TW_CTRL, Reg.GLB_TW_INDEX]
  have hsel : Reg.GLB_TW_SEL w ≠ Reg.GLB_TW_CTRL w := by simp [Reg.GLB_TW_CTRL, Reg.GLB_TW_SEL]
  obtain ⟨h0, h20⟩ := entries_pos ht
  have h1 : atLeast1 t.entries = t.entries := if_neg (Nat.pos_iff_ne_zero.mp h0)
  have hidx : (d.bset (Reg.GLB_TW_CTRL w) 2 false).winIndex w = d.winIndex w := fget_bset_ne _ _ _ _ _ hne.symm
  have htab : (d.bset (Reg.GLB_TW_CTRL w) 2 false).winTab? w = some t := by rw [winTab?, fget_bset_ne _ _ _ _ _ hsel]; exact ht
  have h2 : (d.bset (Reg.GLB_TW_CTRL w) 2 false).bget (Reg.GLB_TW_CTRL w) 2 = false := bget_bset_same _ _ _ _ (by decide)
  have h8 : (d.bset (Reg.GLB_TW_CTRL w) 2 false).bget (Reg.GLB_TW_CTRL w) 8 = d.bget (Reg.GLB_TW_CTRL w) 8 := bget_bset _ _ _ _ _ (by decide)
  have h74 := fget_bset_other d (Reg.GLB_TW_CTRL w) 2 7 4 false (by decide) (by decide)
  unfold winIdle
  dsimp only
  rw [h8, h74, htab]
  by_cases h : d.bget (Reg.GLB_TW_CTRL w) 8 = true ∧ (d.fget (Reg.GLB_TW_CTRL w) 7 4 = 0 ∨ d.fget (Reg.GLB_TW_CTRL w) 7 4 = 5)
  · rw [if_pos h, if_pos (by simpa using h)]
    dsimp only
    rw [hidx, h1]
    refine ⟨(bget_fset_ne _ _ _ _ _ hne).trans h2, (fget_fset _ _ _ _ _ (by decide) (by decide)).trans (Nat.mod_eq_of_lt ?_)⟩
    exact lt_of_lt_of_le (Nat.mod_lt _ h0) h20
  · rw [if_neg h, if_neg (by simpa using h)]
    exact ⟨h2, hidx⟩

/-- The end of an operation whose WRITE was applied without a change of the registers. -/
theorem winIdle_applied {d e e' : Dev} {w : Nat} {t : TabDef} (ha : e = e') (ht : d.winTab? w = some t) (hr : e'.regs = d.regs := by rfl) :
    ((e.winIdle w).bget (Reg.GLB_TW_CTRL w) 2 = false ∧ (e.winIdle w).fget (Reg.GLB_TW_INDEX w) 19 0 =
      if d.bget (Reg.GLB_TW_CTRL w) 8 = true ∧ (d.fget (Reg.GLB_TW_CTRL w) 7 4 = 0 ∨ d.fget (Reg.GLB_TW_CTRL w) 7 4 = 5) then
        (d.winIndex w + 1) % t.entries else d.winIndex w) ∧
    (∀ a, a ≠ Reg.GLB_TW_CTRL w → a ≠ Reg.GLB_TW_INDEX w → (e.winIdle w).rd a = d.rd a) ∧
    e.winIdle w = { e' with regs := (e.winIdle w).regs } := by
  subst ha
  have hrd : ∀ a, e.rd a = d.rd a := fun a => by rw [rd, rd, hr]
  have ht' : e.winTab? w = some t := by rw [winTab?, fget, hrd]; exact ht
  have hpost := winIdle_post e w ht'
  simp only [winIndex, bget, fget, hrd] at hpost
  exact ⟨hpost, fun a h1 h2 => (rd_winIdle_ne e w h1 h2).trans (hrd a), winIdle_same e w⟩

end Dev
end Machine

open Machine.Dev

/-- Window `w` answers an operation with a code in ERR, and does nothing else (R452). -/
def WinRefused (w code : Nat) (s t : State) : Prop :=
  t.fget (Reg.GLB_TW_CTRL w) 7 4 = code ∧ t.bget (Reg.GLB_TW_CTRL w) 2 = s.bget (Reg.GLB_TW_CTRL w) 2 ∧
    t.bget (Reg.GLB_TW_CTRL w) 8 = s.bget (Reg.GLB_TW_CTRL w) 8 ∧ (∀ a, a ≠ Reg.GLB_TW_CTRL w → t.rd a = s.rd a) ∧ t = { s with regs := t.regs }

theorem winRefused_winErr (s : State) (w : Nat) {c : Nat} (h : c < 16) :
    WinRefused w c s { toDev := s.winErr w c, pending := s.pending } :=
  ⟨fget_winErr _ w h, bget_winErr _ w (by decide) (by decide), bget_winErr _ w (by decide) (by decide),
    fun _ ha => rd_winErr_ne _ w c ha, congrArg (fun x => ({ toDev := x, pending := s.pending } : State)) (winErr_same _ w c)⟩

/-- Each reason to refuse an operation of a window with its ERR: while BUSY, without a table, past its end, and a WRITE to a table that
may not be written. -/
def WinRefusals (w : Nat) (write : Bool) (s t : State) : Prop :=
  (s.winBusy w = true → WinRefused w 5 s t) ∧ (s.winBusy w = false → (s.winTab? w = none → WinRefused w 1 s t) ∧
    ∀ d, s.winTab? w = some d → (d.entries ≤ s.winIndex w → WinRefused w 2 s t) ∧ (s.winIndex w < d.entries → write = true →
      (d.cls = .ro → WinRefused w 3 s t) ∧ (d.cls = .L → s.noImage = false → WinRefused w 4 s t)))

/-- A state that answers the code of the operation meets every reason. -/
theorem winRefusals_of {s t : State} {w : Nat} {write : Bool} (hb : s.winBusy w = true → WinRefused w 5 s t)
    (hc : s.winBusy w = false → s.winCode w write ≠ 0 → WinRefused w (s.winCode w write) s t) : WinRefusals w write s t := by
  have hcode : ∀ {c}, s.winBusy w = false → s.winCode w write = c → c ≠ 0 → WinRefused w c s t := fun h1 h2 h3 => h2 ▸ hc h1 (h2 ▸ h3)
  refine ⟨hb, fun h => ⟨fun ht => hcode h (winCode_none _ w ht) (by decide), fun d ht => ⟨fun hi => hcode h (winCode_past _ w ht hi) (by decide),
    fun hi hw => ⟨fun hr => hcode h ?_ (by decide), fun hl hn => hcode h ?_ (by decide)⟩⟩⟩⟩
  · rw [winCode_within _ w ht hi, hw, hr]
    rfl
  · rw [winCode_within _ w ht hi, hw, hl, hn]
    rfl

/-- A command whose meaning changes registers alone. -/
theorem runs_regsOnly {c : Instr} {s : State} {d : Dev} {post : State → Prop} (he : exec c s = finish s d) (hs : Safe s)
    (hd : d = { s.toDev with regs := d.regs }) (hp : post { toDev := d, pending := s.pending }) : Runs c s post :=
  runs_quiet he hs (congrArg Dev.fault hd :) (congrArg Dev.fmem hd :) (congrArg Dev.stores hd :) (congrArg Dev.fuses hd :) hp

/-- An operation whose meaning is a refusal with the code that applies. -/
theorem runs_winRefused {c : Instr} {s : State} {w : Nat} {write : Bool} {post : State → Prop} (hs : Safe s) {code : Nat}
    (he : exec c s = finish s (s.winErr w code)) (hc : s.winBusy w = true ∧ code = 5 ∨ s.winBusy w = false ∧ code = s.winCode w write ∧ code ≠ 0)
    (hp : ∀ t, WinRefusals w write s t → post t) : Runs c s post := by
  have h16 : code < 16 := by
    rcases hc with ⟨-, rfl⟩ | ⟨-, rfl, -⟩
    · decide
    · exact winCode_lt _ w write
  have hr := winRefused_winErr s w h16
  have hsame := winErr_same s.toDev w code
  generalize s.winErr w code = e at he hr hsame
  refine runs_regsOnly he hs hsame (hp _ (winRefusals_of ?_ ?_))
  · rintro hb
    rcases hc with ⟨-, rfl⟩ | ⟨h, -⟩
    · exact hr
    · rw [hb] at h
      cases h
  · rintro hb -
    rcases hc with ⟨h, -⟩ | ⟨-, rfl, -⟩
    · rw [hb] at h
      cases h
    · exact hr

/-- Without a code there is an entry that a window names. -/
theorem winTab_of_code {d : Dev} {w : Nat} {write : Bool} (h : d.winCode w write = 0) :
    ∃ t, d.winTab? w = some t ∧ d.winIndex w < t.entries := by
  cases ht : d.winTab? w with
  | none => exact absurd ((winCode_none d w ht).symm.trans h) (by decide)
  | some t =>
    refine ⟨t, rfl, Nat.lt_of_not_le fun hi => ?_⟩
    exact absurd ((winCode_past d w ht hi).symm.trans h) (by decide)

/-- A state in which an operation of the window is neither refused for BUSY nor by its code meets every reason. -/
theorem winRefusals_none {s t : State} {w : Nat} {write : Bool} (hb : s.winBusy w = false) (hc : s.winCode w write = 0) :
    WinRefusals w write s t :=
  winRefusals_of (fun h => absurd (hb.symm.trans h) (by decide)) (fun _ h => absurd hc h)

/-- A READ (R45, R451, R452). -/
theorem runs_tableWindowRead {s : State} (w : Fin 8) (hs : Safe s) : Runs (.tableWindowRead w) s (fun t => WinRefusals w false s t ∧
    (s.winBusy w = false → ∀ d, s.winTab? w = some d → s.winIndex w < d.entries →
      t.fget (Reg.GLB_TW_CTRL w) 7 4 = 0 ∧ t.bget (Reg.GLB_TW_CTRL w) 2 = true ∧ t = { s with regs := t.regs, tabs := t.tabs } ∧
      (d.id ≠ 0x0810 → t.tabs = s.tabs) ∧ (d.id ≠ 0x0301 → (s.winWords w d).length ≤ 2048 →
        (∀ k < 2048, t.rd (Reg.GLB_TW_DATA w k) = (s.winWords w d).getD k 0) ∧
        ∀ a, a ≠ Reg.GLB_TW_CTRL w → a < Reg.GLB_TW_DATA w 0 ∨ Reg.GLB_TW_DATA w 2048 ≤ a → t.rd a = s.rd a))) := by
  have he : exec (.tableWindowRead w) s = finish s (s.winRead w) := rfl
  cases hb : s.winBusy w with
  | true =>
    refine runs_winRefused (write := false) hs (he.trans (congrArg (finish s) ?_)) (.inl ⟨hb, rfl⟩) (fun t ht => ⟨ht, fun h => absurd h (by decide)⟩)
    simp [winRead, hb]
  | false =>
    by_cases hc : s.winCode w false = 0
    · obtain ⟨d, ht, hi⟩ := winTab_of_code hc
      obtain ⟨hsame, hregs, htabs⟩ := winRead_taken s.toDev w hb ht hi
      obtain ⟨h74, h2, hrd⟩ := winTaken_post (s.winFill w (s.winWords w d)) w
      generalize s.winRead w = e at he hsame hregs htabs
      have hrd' : ∀ a, e.rd a = ((s.winFill w (s.winWords w d)).winTaken w).rd a := fun a => by rw [rd, rd, hregs]
      refine runs_quiet he hs (congrArg Dev.fault hsame :) (congrArg Dev.fmem hsame :) (congrArg Dev.stores hsame :) (congrArg Dev.fuses hsame :)
        ⟨winRefusals_none hb hc, fun _ d' ht' _ => ?_⟩
      obtain rfl : d = d' := Option.some.inj (ht.symm.trans ht')
      refine ⟨(congrArg (fld · 7 4) (hrd' _)).trans h74, (congrArg (wbit · 2) (hrd' _)).trans h2,
        congrArg (fun x => ({ toDev := x, pending := s.pending } : State)) hsame, htabs, fun _ hl => ⟨fun k hk => ?_, fun a ha hout => ?_⟩⟩
      · refine (hrd' _).trans ((hrd _ ?_).trans (rd_winFill _ w.isLt hk _))
        simp only [Reg.GLB_TW_DATA, Reg.GLB_TW_CTRL]
        omega
      · exact (hrd' a).trans ((hrd a ha).trans (rd_winFill_ne _ hl hout))
    · refine runs_winRefused (write := false) hs (he.trans (congrArg (finish s) ?_)) (.inr ⟨hb, rfl, hc⟩)
        (fun t ht => ⟨ht, fun _ d hd hi => absurd ((winCode_within _ w hd hi).trans rfl) hc⟩)
      unfold winRead
      rw [if_neg (by simp [hb])]
      cases ht : s.winTab? w with
      | none => rw [winCode_none _ w ht]
      | some t => exact if_pos hc

/-- A WRITE (R42, R451, R452). -/
theorem runs_tableWindowWrite {s : State} (w : Fin 8) (hs : Safe s) : Runs (.tableWindowWrite w) s (fun t => WinRefusals w true s t ∧
    (s.winBusy w = false → ∀ d, s.winTab? w = some d → s.winIndex w < d.entries →
      (d.cls = .B → s.fullExpanding = true → t.fget (Reg.GLB_TW_CTRL w) 7 4 = 0 ∧ t.bget (Reg.GLB_TW_CTRL w) 2 = true ∧
        (∀ a, a ≠ Reg.GLB_TW_CTRL w → t.rd a = s.rd a) ∧ t = { s with regs := t.regs }) ∧
      ((d.cls = .B ∧ s.fullExpanding = false) ∨ (d.cls = .L ∧ s.noImage = true) → t.fget (Reg.GLB_TW_CTRL w) 7 4 = 0 ∧
        t.bget (Reg.GLB_TW_CTRL w) 2 = true ∧ t.winPend = s.winPend ++ [(w : Nat)] ∧ (∀ a, a ≠ Reg.GLB_TW_CTRL w → t.rd a = s.rd a) ∧
        t = { s with regs := t.regs, winPend := t.winPend }))) := by
  have he : exec (.tableWindowWrite w) s = finish s (s.winWrite w) := rfl
  cases hb : s.winBusy w with
  | true =>
    refine runs_winRefused (write := true) hs (he.trans (congrArg (finish s) ?_)) (.inl ⟨hb, rfl⟩) (fun t ht => ⟨ht, fun h => absurd h (by decide)⟩)
    simp [winWrite, hb]
  | false =>
    by_cases hc : s.winCode w true = 0
    · obtain ⟨d, ht, hi⟩ := winTab_of_code hc
      obtain ⟨h74, h2, hrd⟩ := winTaken_post s.toDev w
      obtain ⟨hregs, hsame, hpend⟩ := winWrite_taken s.toDev w hb ht hc
      generalize s.winWrite w = e at he hregs hsame hpend
      have hrd' : ∀ a, e.rd a = (s.winTaken w).rd a := fun a => by rw [rd, rd, hregs]
      have h74' := (congrArg (fld · 7 4) (hrd' _)).trans h74
      have h2' := (congrArg (wbit · 2) (hrd' _)).trans h2
      have hother := fun a ha => (hrd' a).trans (hrd a ha)
      have hstate := congrArg (fun x => ({ toDev := x, pending := s.pending } : State)) hsame
      refine runs_quiet he hs (congrArg Dev.fault hsame :) (congrArg Dev.fmem hsame :) (congrArg Dev.stores hsame :)
        (congrArg Dev.fuses hsame :) ⟨winRefusals_none hb hc, fun _ d' ht' _ => ?_⟩
      obtain rfl : d = d' := Option.some.inj (ht.symm.trans ht')
      refine ⟨fun h1 h3 => ⟨h74', h2', hother, ?_⟩, fun h => ⟨h74', h2', ?_, hother, hstate⟩⟩
      · rw [if_pos ⟨h3, h1⟩] at hpend
        rw [hpend] at hstate
        exact hstate
      · refine hpend.trans (if_neg fun hx => ?_)
        simp [hx] at h
    · refine runs_winRefused (write := true) hs (he.trans (congrArg (finish s) ?_)) (.inr ⟨hb, rfl, hc⟩)
        (fun t ht => ⟨ht, fun _ d hd hi => ?_⟩)
      · rw [winWrite, if_neg (by simp [hb]), if_pos hc]
      · rw [winCode_within _ w hd hi] at hc
        refine ⟨fun h => absurd ?_ hc, fun h => absurd ?_ hc⟩
        · simp [h]
        · rcases h with ⟨h, -⟩ | ⟨h, hn⟩
          · simp [h]
          · simp [h, hn]

/-- The end of an operation (R451): nothing without one or in a commit window, and the WRITE that waits alone applied whole. -/
theorem runs_tableWindowDone {s : State} (w : Fin 8) (hs : Safe s) : Runs (.tableWindowDone w) s (fun t =>
    (s.winBusy w = false → t = s) ∧ ((w : Nat) ∈ s.winPend → s.commit.window = true → t = s) ∧
    (s.winBusy w = true → ∀ d, s.winTab? w = some d →
      let idle := t.bget (Reg.GLB_TW_CTRL w) 2 = false ∧ t.fget (Reg.GLB_TW_INDEX w) 19 0 =
        if s.bget (Reg.GLB_TW_CTRL w) 8 = true ∧ (s.fget (Reg.GLB_TW_CTRL w) 7 4 = 0 ∨ s.fget (Reg.GLB_TW_CTRL w) 7 4 = 5) then
          (s.winIndex w + 1) % d.entries else s.winIndex w
      let ws := (upto d.words).map (fun j => s.rd (Reg.GLB_TW_DATA w j))
      let rest := ∀ a, a ≠ Reg.GLB_TW_CTRL w → a ≠ Reg.GLB_TW_INDEX w → t.rd a = s.rd a
      ((w : Nat) ∉ s.winPend → idle ∧ rest ∧ t = { s with regs := t.regs }) ∧
      (s.winPend = [(w : Nat)] → s.commit.window = false → d.cls = .B → s.commit.readyFor = none →
        idle ∧ t.winPend = [] ∧ t.tabs = s.tabs ∧ rest ∧
        ∀ k, SMap.get tabDefault t.shTabs k = if k = s.winKey w d then ws else SMap.get tabDefault s.shTabs k) ∧
      (s.winPend = [(w : Nat)] → s.commit.window = false → d.cls = .L → s.noImage = true →
        idle ∧ t.winPend = [] ∧ t.shTabs = s.shTabs ∧
        ∀ k, SMap.get tabDefault t.tabs k = if k = s.winKey w d then ws else SMap.get tabDefault s.tabs k))) := by
  have he : exec (.tableWindowDone w) s = finish s (s.winDone w) := rfl
  cases hb : s.winBusy w with
  | false =>
    exact runs_same (he.trans (congrArg (finish s) (by simp [winDone, hb]))) hs
      ⟨fun _ => rfl, fun _ _ => rfl, fun h => absurd h (by decide)⟩
  | true =>
    by_cases hmem : (w : Nat) ∈ s.winPend
    · by_cases hwin : s.commit.window = true
      · refine runs_same (he.trans (congrArg (finish s) (by simp [winDone, hb, hmem, hwin]))) hs
          ⟨fun _ => rfl, fun _ _ => rfl, fun _ d hd => ⟨fun h => absurd hmem h, fun _ h => ?_, fun _ h => ?_⟩⟩
        · simp [hwin] at h
        · simp [hwin] at h
      · have hwin' : s.commit.window = false := by simpa using hwin
        by_cases hcase : s.winPend = [(w : Nat)] ∧ ∃ d, s.winTab? w = some d ∧
            (d.cls = .B ∧ s.commit.readyFor = none ∨ d.cls = .L ∧ s.noImage = true)
        · obtain ⟨hp, d, ht, hcase⟩ := hcase
          rw [winDone_alone s.toDev w hb hp hwin'] at he
          have hother : ∀ {c : TabCls} {d'}, d.cls = c → s.winTab? w = some d' → d'.cls = c := fun hc ht' =>
            (congrArg TabDef.cls (Option.some.inj (ht'.symm.trans ht))).trans hc
          rcases hcase with ⟨hB, hready⟩ | ⟨hL, hn⟩
          · have happ := winApply_classB { s.toDev with winPend := [] } w ht hB hready
            obtain ⟨hid, hrd, hsame⟩ := winIdle_applied happ ht
            generalize (({ s.toDev with winPend := [] } : Dev).winApply w).winIdle w = e at he hid hrd hsame
            refine runs_quiet he hs (congrArg Dev.fault hsame :) (congrArg Dev.fmem hsame :) (congrArg Dev.stores hsame :)
              (congrArg Dev.fuses hsame :) ⟨fun h => absurd h (by decide), fun _ h => absurd h hwin, fun _ d' ht' =>
              ⟨fun h => absurd hmem h, fun _ _ _ _ => ?_, fun _ _ h => ?_⟩⟩
            · obtain rfl : d = d' := Option.some.inj (ht.symm.trans ht')
              refine ⟨hid, (congrArg Dev.winPend hsame :), (congrArg Dev.tabs hsame :), hrd, fun k => ?_⟩
              exact (congrArg (SMap.get tabDefault · k) (congrArg Dev.shTabs hsame :)).trans (SMap.get_set _ _ _ _ _)
            · rw [hother hB ht'] at h
              cases h
          · have happ := winApply_classL { s.toDev with winPend := [] } w ht hL hn
            obtain ⟨hid, -, hsame⟩ := winIdle_applied happ ht
            generalize (({ s.toDev with winPend := [] } : Dev).winApply w).winIdle w = e at he hid hsame
            refine runs_quiet he hs (congrArg Dev.fault hsame :) (congrArg Dev.fmem hsame :) (congrArg Dev.stores hsame :)
              (congrArg Dev.fuses hsame :) ⟨fun h => absurd h (by decide), fun _ h => absurd h hwin, fun _ d' ht' =>
              ⟨fun h => absurd hmem h, fun _ _ h => ?_, fun _ _ _ _ => ?_⟩⟩
            · rw [hother hL ht'] at h
              cases h
            · obtain rfl : d = d' := Option.some.inj (ht.symm.trans ht')
              refine ⟨hid, (congrArg Dev.winPend hsame :), (congrArg Dev.shTabs hsame :), fun k => ?_⟩
              exact (congrArg (SMap.get tabDefault · k) (congrArg Dev.tabs hsame :)).trans (SMap.get_set _ _ _ _ _)
        · exact runs_of_forall fun t => ⟨fun h => absurd h (by decide), fun _ h => absurd h hwin, fun _ d hd =>
            ⟨fun h => absurd hmem h, fun h1 _ h3 h4 => absurd ⟨h1, d, hd, .inl ⟨h3, h4⟩⟩ hcase,
              fun h1 _ h3 h4 => absurd ⟨h1, d, hd, .inr ⟨h3, h4⟩⟩ hcase⟩⟩
    · have hd : s.winDone w = s.winIdle w := by simp [winDone, hb, hmem]
      have hrd := fun a => rd_winIdle_ne s.toDev w (a := a)
      have hidle := fun t => winIdle_post s.toDev w (t := t)
      have hsame := winIdle_same s.toDev w
      rw [hd] at he
      generalize s.winIdle w = e at he hidle hrd hsame
      have hne : s.winPend ≠ [(w : Nat)] := fun h => hmem (by simp [h])
      exact runs_regsOnly he hs hsame ⟨fun h => absurd h (by decide), fun h => absurd h hmem, fun _ d ht =>
        ⟨fun _ => ⟨hidle d ht, fun a h1 h2 => hrd a h1 h2, congrArg (fun x => ({ toDev := x, pending := s.pending } : State)) hsame⟩,
          fun h => absurd h hne, fun h => absurd h hne⟩⟩

/-- Settles O60: one lemma for each command. -/
theorem tableWindows : Obligations.TableWindows := by
  intro s w hs ctl sel inx i d? err key entry refused idle
  refine ⟨?_, runs_tableWindowWrite w hs, ?_⟩
  · obtain ⟨t, he, hp, hr, ht⟩ := runs_tableWindowRead w hs
    refine ⟨t, he, hp, hr, fun hb d hd hi => ?_⟩
    obtain ⟨h74, h2, hsame, htabs, hdata⟩ := ht hb d hd hi
    refine ⟨h74, h2, hsame, htabs, fun hid hl => ?_⟩
    have hw : s.winWords w d = entry d := winWords_eq s.toDev w hid
    rw [hw] at hdata
    exact hdata hid hl
  · obtain ⟨t, he, hp, hidle, hwin, hdone⟩ := runs_tableWindowDone w hs
    refine ⟨t, he, hp, hidle, hwin, fun hb d hd => ?_⟩
    obtain ⟨h1, h2, h3⟩ := hdone hb d hd
    exact ⟨h1, fun a b c _ e => h2 a b c e, h3⟩

end Sys2Proof

/-!
SUPPORT. Boundary commit (R46 to R48, R52, R431): what a message to the stack changes, what an arm set, moved or refused leaves alone, and
what the judgement of an arm decides.
-/
namespace Sys2Proof

open Machine

namespace Machine.Dev

/-! Messages of the stack (R427). -/

/-- The device without registers, outputs and links: what a message sent leaves alone. -/
def outsideStack (d : Dev) : Dev := { d with regs := [], stack := {}, outs := [] }

/-- `e` differs from `d` by messages sent on Halyard links. -/
structure MsgFrame (d e : Dev) : Prop where
  rd : ∀ a, a < 0x500400 → e.rd a = d.rd a
  outside : e.outsideStack = d.outsideStack

namespace MsgFrame

theorem refl (d : Dev) : MsgFrame d d := ⟨fun _ _ => rfl, rfl⟩
theorem trans {d e f : Dev} (h : MsgFrame d e) (g : MsgFrame e f) : MsgFrame d f :=
  ⟨fun a ha => (g.rd a ha).trans (h.rd a ha), g.outside.trans h.outside⟩
theorem foldl {α : Type} (f : Dev → α → Dev) (hf : ∀ d a, MsgFrame d (f d a)) : ∀ (l : List α) (d : Dev), MsgFrame d (l.foldl f d)
  | [], d => refl d
  | a :: l, d => (hf d a).trans (foldl f hf l (f d a))

end MsgFrame

variable (d : Dev)

theorem hlSend_msgFrame (n kind ncell : Nat) (body : Bytes) : MsgFrame d (d.hlSend n kind ncell body) := by
  refine ⟨fun a ha => rd_fset_ne _ _ _ _ ?_, rfl⟩
  simp only [Reg.STK_HL_STATUS]
  omega
theorem hlMsg_msgFrame (n : Nat) (m : Msg) : MsgFrame d (d.hlMsg n m) := by
  unfold hlMsg
  split
  · exact hlSend_msgFrame d n _ _ _
  · exact .refl d
theorem msgSend_msgFrame (m : Msg) (o : Option Nat) : MsgFrame d (d.msgSend m o) := by
  unfold msgSend
  split
  · exact .foldl _ (fun x n => hlMsg_msgFrame x n m) _ d
  · split
    · exact hlMsg_msgFrame d _ m
    · exact .refl d

/-! Arms (R46, R47). -/

/-- The device without registers, outputs, interrupts and the commit machinery: what a change of an arm leaves alone. -/
def besideCommit (d : Dev) : Dev := { d.beside with commit := {} }

/-- `e` differs from `d` by a change of an arm: bit 0 of GLB_COMMIT_CTRL, the commit's status and machinery, and interrupts. -/
structure ArmFrame (d e : Dev) : Prop where
  rd : ∀ a, ¬ (a = Reg.GLB_COMMIT_CTRL ∨ a = Reg.GLB_COMMIT_STATUS) → ¬ isPend a → e.rd a = d.rd a
  ctrl : ∀ i, i ≠ 0 → e.bget Reg.GLB_COMMIT_CTRL i = d.bget Reg.GLB_COMMIT_CTRL i
  beside : e.besideCommit = d.besideCommit

namespace ArmFrame

theorem refl (d : Dev) : ArmFrame d d := ⟨fun _ _ _ => rfl, fun _ _ => rfl, rfl⟩
theorem trans {d e f : Dev} (h : ArmFrame d e) (g : ArmFrame e f) : ArmFrame d f :=
  ⟨fun a h1 h2 => (g.rd a h1 h2).trans (h.rd a h1 h2), fun i hi => (g.ctrl i hi).trans (h.ctrl i hi), g.beside.trans h.beside⟩

end ArmFrame

theorem not_isPend_glb {a : Nat} (h : a < 0x1000) : ¬ isPend a := not_isPend (.inl (by omega))

theorem updCommit_armFrame (f : Commit → Commit) : ArmFrame d (d.updCommit f) := ⟨fun _ _ _ => rfl, fun _ _ => rfl, rfl⟩
theorem armBit_armFrame (b : Bool) : ArmFrame d (d.bset Reg.GLB_COMMIT_CTRL 0 b) :=
  ⟨fun _ h _ => rd_bset_ne d _ _ (fun e => h (.inl e)), fun _ hi => (bget_bset d _ _ _ _ (by decide)).trans (if_neg hi), rfl⟩
theorem armSet_armFrame (a : Option Arm) : ArmFrame d (d.armSet a) := (updCommit_armFrame d _).trans (armBit_armFrame _ _)
theorem commitEvent_armFrame (i : Nat) : ArmFrame d (d.commitEvent i) := by
  have h := event_frame d Reg.GLB_COMMIT_STATUS i 17
  refine ⟨fun a h1 h2 => rd_event_ne d _ _ _ (fun e => h1 (.inr e)) h2, fun j _ => ?_,
    (congrArg (fun x : Dev => { x with commit := {} }) h.beside :)⟩
  exact (h.bget _ j (not_isPend_glb (by decide))).trans (bget_bset_ne d _ _ _ (by decide))

theorem armSet_commit (a : Option Arm) : (d.armSet a).commit = { d.commit with arm := a, decided := false } := rfl
theorem bget_armSet (a : Option Arm) : (d.armSet a).bget Reg.GLB_COMMIT_CTRL 0 = (a.isSome || (d.commit.window && d.commit.swap)) :=
  bget_bset_same _ _ _ _ (by decide)
theorem rd_armSet_ne (a : Option Arm) {b : Nat} (h : b ≠ Reg.GLB_COMMIT_CTRL) : (d.armSet a).rd b = d.rd b := rd_bset_ne _ _ _ h

theorem commitEvent_commit (i : Nat) : (d.commitEvent i).commit = d.commit := (event_frame d Reg.GLB_COMMIT_STATUS i 17).commit
/-- An event of the commit sets its bit. -/
theorem bget_commitEvent {i : Nat} (hi : i < 32) : (d.commitEvent i).bget Reg.GLB_COMMIT_STATUS i = true :=
  (bget_event d _ _ _ _ hi (not_isPend_glb (by decide))).trans (if_pos rfl)
theorem rd_commitEvent_ne (i : Nat) {a : Nat} (h : a < 0x1000) (hne : a ≠ Reg.GLB_COMMIT_STATUS) : (d.commitEvent i).rd a = d.rd a :=
  rd_event_ne d _ _ _ hne (not_isPend_glb h)

/-- A target sent to the members: their reports cleared, and messages sent. -/
theorem armSend_msgFrame (target : Nat) : MsgFrame (d.fset Reg.STK_STATUS 15 8 0) (d.armSend target) := msgSend_msgFrame _ _ _
theorem armSend_commit (target : Nat) : (d.armSend target).commit = d.commit :=
  (congrArg Dev.commit (armSend_msgFrame d target).outside :)
theorem rd_armSend_ne (target : Nat) {a : Nat} (h : a < 0x1000) : (d.armSend target).rd a = d.rd a :=
  ((armSend_msgFrame d target).rd a (by omega)).trans (rd_fset_ne d _ _ _ (by simp only [Reg.STK_STATUS]; omega))
/-- No member has reported for the target. -/
theorem bget_armSend (target : Nat) {i : Nat} (hi : i < 8) : (d.armSend target).bget Reg.STK_STATUS (8 + i) = false := by
  rw [bget, (armSend_msgFrame d target).rd _ (by decide), fset, rd_wr_same, wbit_setFld _ _ _ _ _ (by decide) (by omega), if_pos (by omega)]
  exact Nat.zero_testBit _

/-- An arm cancelled, unless it has been announced. -/
def cancelled (c : Commit) : Commit := if c.decided then c else { c with arm := none, decided := false }

theorem disarmDo_armFrame : ArmFrame d d.disarmDo := by
  unfold disarmDo
  split
  · exact .refl d
  · exact armSet_armFrame d none
theorem disarmDo_commit : d.disarmDo.commit = cancelled d.commit := by
  unfold disarmDo cancelled
  split
  · rfl
  · rfl

/-! A write of GLB_COMMIT_CTRL (R45, R46). -/

/-- The settings of the commit written. -/
def commitSettings (view stack mode : Bool) : Dev :=
  ((d.bset Reg.GLB_COMMIT_CTRL 4 view).bset Reg.GLB_COMMIT_CTRL 3 stack).bset Reg.GLB_COMMIT_CTRL 2 mode

section
variable (view stack mode : Bool)

theorem commitSettings_same : d.commitSettings view stack mode = { d with regs := (d.commitSettings view stack mode).regs } :=
  regsOnly_trans (regsOnly_trans (wr_same d _ _) (wr_same _ _ _)) (wr_same _ _ _)
theorem rd_commitSettings_ne {a : Nat} (h : a ≠ Reg.GLB_COMMIT_CTRL) : (d.commitSettings view stack mode).rd a = d.rd a :=
  (rd_bset_ne _ _ _ h).trans ((rd_bset_ne _ _ _ h).trans (rd_bset_ne _ _ _ h))
theorem bget_commitSettings (i : Nat) : (d.commitSettings view stack mode).bget Reg.GLB_COMMIT_CTRL i =
    if i = 2 then mode else if i = 3 then stack else if i = 4 then view else d.bget Reg.GLB_COMMIT_CTRL i := by
  simp only [commitSettings, bget_bset _ _ 2 _ _ (show 2 < 32 by decide), bget_bset _ _ 3 _ _ (show 3 < 32 by decide),
    bget_bset _ _ 4 _ _ (show 4 < 32 by decide)]

/-- A write that disarms, and arms where `arm`, is the settings, then DISARM, then ARM. -/
theorem commitWrite_eq (disarm arm : Bool) : d.commitWrite view stack mode disarm arm =
    (if arm then (if disarm then (d.commitSettings view stack mode).disarmDo else d.commitSettings view stack mode).armDo
      else if disarm then (d.commitSettings view stack mode).disarmDo else d.commitSettings view stack mode) := rfl

end

/-- What an ARM looks at is as in `s`. -/
structure ArmView (s d : Dev) (stack mode : Bool) : Prop where
  stack : d.bget Reg.GLB_COMMIT_CTRL 3 = stack
  mode : d.bget Reg.GLB_COMMIT_CTRL 2 = mode
  size : d.stackSize = s.stackSize
  target : d.rd Reg.GLB_COMMIT_TARGET = s.rd Reg.GLB_COMMIT_TARGET
  count : d.nextCount = s.nextCount
  black : d.inBlack = s.inBlack
  power : d.powered .entering = s.powered .entering
  fuses : d.fuses = s.fuses

/-- The count of the coming boundary is that of the time base and the active rate. -/
theorem comingCount_congr {d s : Dev} (ht : d.time = s.time) (hn : d.rd Reg.GLB_RATE_N = s.rd Reg.GLB_RATE_N)
    (hd : d.rd Reg.GLB_RATE_D = s.rd Reg.GLB_RATE_D) (hc : d.rd Reg.GLB_PERIOD_COUNT = s.rd Reg.GLB_PERIOD_COUNT) :
    d.comingCount = s.comingCount := by
  rw [comingCount, comingCount, rateN, rateN, rateD, rateD, fget, fget, fget, fget, ht, hn, hd, hc]

/-- A device that agrees outside the commit and interrupts, and in the window, is looked at as before. -/
theorem armView_of {s d : Dev} {stack mode : Bool} (h3 : d.bget Reg.GLB_COMMIT_CTRL 3 = stack) (h2 : d.bget Reg.GLB_COMMIT_CTRL 2 = mode)
    (hrd : ∀ a, ¬ (a = Reg.GLB_COMMIT_CTRL ∨ a = Reg.GLB_COMMIT_STATUS) → ¬ isPend a → d.rd a = s.rd a)
    (hb : d.besideCommit = s.besideCommit) (hw : d.commit.window = s.commit.window) : ArmView s d stack mode := by
  have ht : d.time = s.time := (congrArg Dev.time hb :)
  have hg : ∀ a, a < 0x1000 → ¬ (a = Reg.GLB_COMMIT_CTRL ∨ a = Reg.GLB_COMMIT_STATUS) → d.rd a = s.rd a := fun a h1 h2 =>
    hrd a h2 (not_isPend_glb h1)
  refine ⟨h3, h2, ?_, hg _ (by decide) (by decide), ?_, ?_, ?_, (congrArg Dev.fuses hb :)⟩
  · rw [stackSize, stackSize, fget, fget, hrd _ (by decide) (not_isPend (.inr (by decide)))]
  · rw [nextCount, nextCount, comingCount_congr ht (hg _ (by decide) (by decide)) (hg _ (by decide) (by decide)) (hg _ (by decide) (by decide)), hw]
  · rw [inBlack, inBlack, bget, bget, hrd _ (by decide) (not_isPend (.inr (by decide)))]
  · exact (congrArg (fun x : Dev => x.island.power == .entering) hb :)

/-- The target of an ARM in mode `mode`. -/
def armTarget (s : Dev) (mode : Bool) : Nat := if mode then (s.rd Reg.GLB_COMMIT_TARGET).toNat else s.nextCount
/-- May an ARM be taken: by a device alone, and in a stack by the master with STACK and MODE (R52)? -/
def armMay (s : Dev) (stack mode : Bool) : Bool := !decide (1 < s.stackSize) || (s.fuses.master && stack && mode)
/-- Is an ARM refused with LATE (R46, R393, R405)? -/
def armLate (s : Dev) (mode : Bool) : Bool := (mode && s.targetPassed (s.armTarget mode)) || s.inBlack || s.powered .entering

/-- An ARM: nothing where it may not be, LATE where it is refused, else the arm set, in a stack sent to the members. -/
theorem armDo_eq {s d : Dev} {stack mode : Bool} (h : ArmView s d stack mode) : d.armDo =
    if s.armMay stack mode = false then d
    else if s.armLate mode = true then d.commitEvent 0
    else if 1 < s.stackSize then
      (d.armSet (some { target := s.armTarget mode, stack := true, next := !mode })).armSend (s.armTarget mode)
    else d.armSet (some { target := s.armTarget mode, stack := false, next := !mode }) := by
  obtain ⟨h3, h2, hsize, htarget, hcount, hblack, hpower, hfuses⟩ := h
  have hmay : (decide (1 < s.stackSize) && !(s.fuses.master && stack && mode)) = !s.armMay stack mode := by
    simp [armMay]
  unfold armDo
  simp only [h3, h2, hsize, htarget, hcount, hblack, hpower, hfuses, targetPassed, hmay, Bool.not_eq_true', decide_eq_true_eq]
  refine if_congr Iff.rfl rfl (if_congr ?_ rfl ?_)
  · exact Iff.rfl
  · by_cases hm : 1 < s.stackSize <;> simp [hm, armTarget]

end Machine.Dev

open Machine.Dev

/-- A command that changes an arm, its own registers and interrupts alone. -/
theorem runs_besideCommit {c : Instr} {s : State} {d : Dev} {post : State → Prop} (he : exec c s = finish s d) (hs : Safe s)
    (hd : d.besideCommit = s.besideCommit) (hp : post { toDev := d, pending := s.pending }) : Runs c s post :=
  runs_quiet he hs (congrArg Dev.fault hd :) (congrArg Dev.fmem hd :) (congrArg Dev.stores hd :) (congrArg Dev.fuses hd :) hp

/-- The device after the settings and DISARM of a write. -/
def disarmed (s : State) (view stack mode disarm : Bool) : Dev :=
  if disarm then (s.commitSettings view stack mode).disarmDo else s.commitSettings view stack mode

/-- The settings and DISARM: the settings as written, an arm cancelled unless it was announced, and nothing else. -/
theorem disarmed_post (s : State) (view stack mode disarm : Bool) : let d := disarmed s view stack mode disarm
    (∀ i, i ≠ 0 → d.bget Reg.GLB_COMMIT_CTRL i = (s.commitSettings view stack mode).bget Reg.GLB_COMMIT_CTRL i) ∧
      (∀ a, a ≠ Reg.GLB_COMMIT_CTRL → d.rd a = s.rd a) ∧ d.besideCommit = s.besideCommit ∧
      d.commit = if disarm then cancelled s.commit else s.commit := by
  have hsame := commitSettings_same s.toDev view stack mode
  have hrd := fun a => rd_commitSettings_ne s.toDev view stack mode (a := a)
  unfold disarmed
  generalize s.commitSettings view stack mode = e at hsame hrd
  have hb : e.besideCommit = s.besideCommit := (congrArg Dev.besideCommit hsame :)
  have hc : e.commit = s.commit := (congrArg Dev.commit hsame :)
  cases disarm with
  | false => exact ⟨fun _ _ => rfl, hrd, hb, hc⟩
  | true =>
    refine ⟨(disarmDo_armFrame e).ctrl, fun a ha => ?_, (disarmDo_armFrame e).beside.trans hb, ?_⟩
    · refine Eq.trans ?_ (hrd a ha)
      simp only [if_true, disarmDo]
      split
      · rfl
      · exact rd_armSet_ne e none ha
    · rw [← hc]
      exact disarmDo_commit e

/-- Settles O23: the settings and DISARM by `disarmed_post`, then what `armDo_eq` says of each case of an ARM. -/
theorem commitArming : Obligations.CommitArming := by
  intro s view stack mode disarm hs ctrl many target may late cancelled' before written alone
  have hsettings := bget_commitSettings s.toDev view stack mode
  constructor
  · obtain ⟨hctrl, hrd, hb, hc⟩ := disarmed_post s view stack mode disarm
    have he : exec (.commitArm view stack mode disarm) s = finish s (disarmed s view stack mode disarm).armDo :=
      congrArg (finish s) (commitWrite_eq s.toDev view stack mode disarm true)
    have hbits := fun i hi => (hctrl i hi).trans (hsettings i)
    generalize disarmed s view stack mode disarm = d at he hctrl hrd hb hc hbits
    have hbefore : d.commit = before := hc
    have hwindow : d.commit.window = s.commit.window := by
      rw [hc]
      unfold cancelled
      split_ifs <;> rfl
    have hview : ArmView s.toDev d stack mode := armView_of ((hbits 3 (by decide)).trans (by simp)) ((hbits 2 (by decide)).trans (by simp))
      (fun a ha _ => hrd a (fun e => ha (.inl e))) hb hwindow
    have harm : ∀ e, ArmFrame d e → written { toDev := e, pending := s.pending } ∧ alone { toDev := e, pending := s.pending } := fun e hf =>
      ⟨⟨(hf.ctrl 4 (by decide)).trans ((hbits 4 (by decide)).trans (by simp)), (hf.ctrl 3 (by decide)).trans hview.stack,
        (hf.ctrl 2 (by decide)).trans hview.mode⟩, fun a h1 h2 => (hf.rd a h1 h2).trans (hrd a (fun e => h1 (.inl e))), hf.beside.trans hb⟩
    have hmany : many = decide (1 < s.stackSize) := rfl
    rw [armDo_eq hview] at he
    by_cases hmay : s.armMay stack mode = false
    · rw [if_pos hmay] at he
      obtain ⟨hw, ha⟩ := harm d (.refl d)
      have hm : may = false := hmay
      exact runs_besideCommit he hs hb ⟨hw, fun _ => ha, fun _ => ⟨ha, hbefore⟩, fun h => absurd (h.symm.trans hm) (by decide),
        fun h => absurd (h.symm.trans hm) (by decide)⟩
    rw [if_neg hmay] at he
    have hm : may ≠ false := hmay
    by_cases hlate : s.armLate mode = true
    · rw [if_pos hlate] at he
      have hf := commitEvent_armFrame d 0
      obtain ⟨hw, ha⟩ := harm _ hf
      have hl : late = true := hlate
      exact runs_besideCommit he hs (hf.beside.trans hb) ⟨hw, fun _ => ha, fun h => absurd h hm,
        fun _ _ => ⟨ha, (commitEvent_commit d 0).trans hbefore, bget_commitEvent d (by decide)⟩,
        fun _ h => absurd (h.symm.trans hl) (by decide)⟩
    rw [if_neg hlate] at he
    have hl : late ≠ true := hlate
    have harmed : ∀ a, (d.armSet a).commit = { s.commit with arm := a, decided := false } := fun a => by
      rw [armSet_commit, hc]
      unfold cancelled
      split_ifs <;> rfl
    by_cases hsize : 1 < s.stackSize
    · rw [if_pos hsize] at he
      have hone : many = true := decide_eq_true hsize
      obtain ⟨hw, -⟩ := harm _ (armSet_armFrame d (some { target := s.armTarget mode, stack := true, next := !mode }))
      have hbase := (armSet_armFrame d (some { target := s.armTarget mode, stack := true, next := !mode })).beside.trans hb
      have hbit := bget_armSet d (some { target := s.armTarget mode, stack := true, next := !mode })
      have hcommit := harmed (some { target := s.armTarget mode, stack := true, next := !mode })
      generalize d.armSet (some { target := s.armTarget mode, stack := true, next := !mode }) = e at he hw hbase hbit hcommit
      have hmsg := (armSend_msgFrame e (s.armTarget mode)).outside
      have hc' := armSend_commit e (s.armTarget mode)
      have hctl : ∀ i, (e.armSend (s.armTarget mode)).bget Reg.GLB_COMMIT_CTRL i = e.bget Reg.GLB_COMMIT_CTRL i := fun i => by
        rw [bget, rd_armSend_ne e _ (by decide), ← bget]
      have hsts := fun i => bget_armSend e (s.armTarget mode) (i := i)
      generalize e.armSend (s.armTarget mode) = f at he hmsg hc' hctl hsts
      refine runs_quiet he hs ((congrArg Dev.fault hmsg :).trans (congrArg Dev.fault hbase :)) ((congrArg Dev.fmem hmsg :).trans (congrArg Dev.fmem hbase :))
        ((congrArg Dev.stores hmsg :).trans (congrArg Dev.stores hbase :)) ((congrArg Dev.fuses hmsg :).trans (congrArg Dev.fuses hbase :))
        ⟨?_, fun h => absurd (h.symm.trans hone) (by decide), fun h => absurd h hm, fun _ h => absurd h hl, fun _ _ => ⟨?_, ?_, fun _ => hsts⟩⟩
      · exact ⟨(hctl 4).trans hw.1, (hctl 3).trans hw.2.1, (hctl 2).trans hw.2.2⟩
      · rw [hone]
        exact hc'.trans hcommit
      · exact (hctl 0).trans hbit
    · rw [if_neg hsize] at he
      have hone : many = false := decide_eq_false hsize
      have hf := armSet_armFrame d (some { target := s.armTarget mode, stack := false, next := !mode })
      obtain ⟨hw, ha⟩ := harm _ hf
      refine runs_besideCommit he hs (hf.beside.trans hb) ⟨hw, fun _ => ha, fun h => absurd h hm, fun _ h => absurd h hl, fun _ _ => ⟨?_, ?_, fun h => ?_⟩⟩
      · rw [hone]
        exact harmed _
      · exact bget_armSet d _
      · rw [hone] at h
        cases h
  · obtain ⟨hctrl, hrd, hb, hc⟩ := disarmed_post s view stack mode true
    have he : exec (.commitDisarm view stack mode) s = finish s (disarmed s view stack mode true) :=
      congrArg (finish s) (commitWrite_eq s.toDev view stack mode true false)
    have hbit : s.commit.decided = false →
        (disarmed s view stack mode true).bget Reg.GLB_COMMIT_CTRL 0 = (s.commit.window && s.commit.swap) := fun hd => by
      have hsame := commitSettings_same s.toDev view stack mode
      unfold disarmed
      generalize s.commitSettings view stack mode = e at hsame
      have hce : e.commit = s.commit := (congrArg Dev.commit hsame :)
      rw [if_pos rfl, disarmDo, hce, hd, if_neg (by decide), bget_armSet, hce]
      rfl
    have hbits := fun i hi => (hctrl i hi).trans (hsettings i)
    generalize disarmed s view stack mode true = d at he hctrl hrd hb hc hbit hbits
    exact runs_besideCommit he hs hb ⟨⟨(hbits 4 (by decide)).trans (by simp), (hbits 3 (by decide)).trans (by simp),
      (hbits 2 (by decide)).trans (by simp)⟩, ⟨fun a ha _ => hrd a (fun e => ha (.inl e)), hb⟩, hc, hrd _ (by decide), hbit⟩


namespace Machine.Dev

variable (d : Dev)

/-! The judgement of an arm (R47, R48, R52, R431). -/

/-- The device without what the judgement of an arm can change: registers, outputs, interrupts, links and the commit machinery. -/
def besideJudge (d : Dev) : Dev := { d.beside with stack := {}, commit := {} }

/-- `e` differs from `d` by the judgement of an arm, which leaves the window and the held writes. -/
structure JudgeFrame (d e : Dev) : Prop where
  beside : e.besideJudge = d.besideJudge
  window : e.commit.window = d.commit.window
  hold : e.commit.hold = d.commit.hold

theorem JudgeFrame.of_arm {d e : Dev} (h : ArmFrame d e) (hw : e.commit.window = d.commit.window) (hh : e.commit.hold = d.commit.hold) :
    JudgeFrame d e := ⟨(congrArg (fun x : Dev => { x with stack := {} }) h.beside :), hw, hh⟩
theorem JudgeFrame.of_msg {d e f : Dev} (h : JudgeFrame d e) (g : f.outsideStack = e.outsideStack) : JudgeFrame d f := by
  have hc : f.commit = e.commit := (congrArg Dev.commit g :)
  exact ⟨(congrArg besideJudge g :).trans h.beside, (congrArg Commit.window hc :).trans h.window, (congrArg Commit.hold hc :).trans h.hold⟩

/-- A swap of the coming boundary decided: the arm is used, and ARM reads 1 until the boundary. -/
def SwapDecided (e : Dev) : Prop := e.commit.swap = true ∧ e.commit.arm = none ∧ e.bget Reg.GLB_COMMIT_CTRL 0 = true
/-- An arm moved to the next boundary, with DEFERRED. -/
def ArmDeferred (a : Arm) (d e : Dev) : Prop :=
  e.commit.swap = d.commit.swap ∧ e.commit.arm = some { a with target := (a.target + 1) % 2 ^ 32 } ∧ e.bget Reg.GLB_COMMIT_STATUS 1 = true
/-- An arm refused, with INVALID. -/
def ArmInvalid (d e : Dev) : Prop := e.commit.swap = d.commit.swap ∧ e.commit.arm = none ∧ e.bget Reg.GLB_COMMIT_STATUS 2 = true

theorem swapDecide_post : JudgeFrame d d.swapDecide ∧ SwapDecided d.swapDecide :=
  ⟨.of_arm ((updCommit_armFrame d _).trans (armBit_armFrame _ _)) rfl rfl, rfl, rfl, bget_bset_same _ _ _ _ (by decide)⟩

theorem armInvalid_post : JudgeFrame d d.armInvalid ∧ ArmInvalid d d.armInvalid := by
  have hf := (armSet_armFrame d none).trans (commitEvent_armFrame _ 2)
  have hc := (commitEvent_commit (d.armSet none) 2).trans (armSet_commit d none)
  have hbit := bget_commitEvent (d.armSet none) (show 2 < 32 by decide)
  unfold armInvalid
  generalize (d.armSet none).commitEvent 2 = e at hf hc hbit
  exact ⟨.of_arm hf (congrArg Commit.window hc :) (congrArg Commit.hold hc :), (congrArg Commit.swap hc :), (congrArg Commit.arm hc :), hbit⟩

theorem armDefer_post (a : Arm) : JudgeFrame d (d.armDefer a) ∧ ArmDeferred a d (d.armDefer a) := by
  let arm : Option Arm := some { a with target := (a.target + 1) % 2 ^ 32 }
  have hf := (armSet_armFrame d arm).trans (commitEvent_armFrame _ 1)
  have hc := (commitEvent_commit (d.armSet arm) 1).trans (armSet_commit d arm)
  have hbit := bget_commitEvent (d.armSet arm) (show 1 < 32 by decide)
  have he : d.armDefer a = if a.stack then ((d.armSet arm).commitEvent 1).armSend ((a.target + 1) % 2 ^ 32) else (d.armSet arm).commitEvent 1 :=
    rfl
  rw [he]
  generalize (d.armSet arm).commitEvent 1 = e at hf hc hbit
  have hj : JudgeFrame d e := .of_arm hf (congrArg Commit.window hc :) (congrArg Commit.hold hc :)
  split
  · have hc' := (armSend_commit e ((a.target + 1) % 2 ^ 32)).trans hc
    refine ⟨hj.of_msg (armSend_msgFrame e _).outside, (congrArg Commit.swap hc' :), (congrArg Commit.arm hc' :), ?_⟩
    rw [bget, rd_armSend_ne e _ (by decide)]
    exact hbit
  · exact ⟨hj, (congrArg Commit.swap hc :), (congrArg Commit.arm hc :), hbit⟩

/-- The window opened, with an armed entry to Furled. -/
def windowOpened : Dev :=
  let d1 := d.updCommit (fun c => { c with window := true })
  if d.island.entryArmed then d1.updIsland (fun x => { x with entryOpen := true }) else d1

theorem windowOpened_same : d.windowOpened = { d with commit := { d.commit with window := true }, island := d.windowOpened.island } := by
  unfold windowOpened
  dsimp only
  split <;> rfl

/-- An arm judged at the opening of its window (R47), by what stood before it. -/
def judge (a : Arm) : Dev :=
  if d.commit.decided then d.windowOpened.swapDecide
  else if d.deltaLoading || a.stack then d.windowOpened.armDefer a
  else if d.shadowOk then d.windowOpened.swapDecide
  else d.windowOpened.armInvalid

/-- Is an arm that of the boundary whose window opens next (R46)? -/
def ArmDue (a : Arm) : Prop := a.next = true ∨ a.target = d.nextCount

/-- Nothing is judged without an arm of this boundary. -/
theorem windowOpen_undue (hw : d.commit.window = false)
    (h : d.commit.arm = none ∨ ∃ b, d.commit.arm = some b ∧ b.next = false ∧ b.target ≠ d.nextCount) : d.windowOpen = d.windowOpened := by
  unfold windowOpen
  rw [if_neg (by simp [hw])]
  rcases h with h | ⟨b, h, hn, ht⟩
  · rw [h]
    rfl
  · rw [h]
    exact if_pos (by simp [hn, ht])
theorem windowOpen_due (hw : d.commit.window = false) {a : Arm} (h : d.commit.arm = some a) (hd : d.ArmDue a) : d.windowOpen = d.judge a := by
  unfold windowOpen
  rw [if_neg (by simp [hw]), h]
  refine if_neg ?_
  rcases hd with h1 | h1 <;> simp [h1]

/-- The verdict of R47: a swap where the master has decided one or the shadow is well formed, DEFERRED under a delta load or without the
members' readiness, INVALID else. -/
theorem judge_post (a : Arm) : JudgeFrame d.windowOpened (d.judge a) ∧ (d.commit.decided = true → SwapDecided (d.judge a)) ∧
    (d.commit.decided = false → d.deltaLoading = true ∨ a.stack = true → ArmDeferred a d.windowOpened (d.judge a)) ∧
    (d.commit.decided = false → d.deltaLoading = false → a.stack = false →
      (d.shadowOk = true → SwapDecided (d.judge a)) ∧ (d.shadowOk = false → ArmInvalid d.windowOpened (d.judge a))) := by
  obtain ⟨hswapF, hswap⟩ := swapDecide_post d.windowOpened
  obtain ⟨hdefF, hdef⟩ := armDefer_post d.windowOpened a
  obtain ⟨hinvF, hinv⟩ := armInvalid_post d.windowOpened
  unfold judge
  cases d.commit.decided with
  | true => exact ⟨hswapF, fun _ => hswap, fun h => absurd h (by decide), fun h => absurd h (by decide)⟩
  | false =>
    rw [if_neg (by decide)]
    by_cases hd : d.deltaLoading = true ∨ a.stack = true
    · rw [if_pos (by simpa using hd)]
      exact ⟨hdefF, fun h => absurd h (by decide), fun _ _ => hdef, fun _ h1 h2 => by simp [h1, h2] at hd⟩
    · rw [if_neg (by simpa using hd)]
      cases d.shadowOk with
      | true => exact ⟨hswapF, fun h => absurd h (by decide), fun _ h => absurd h hd, fun _ _ _ => ⟨fun _ => hswap, fun h => absurd h (by decide)⟩⟩
      | false => exact ⟨hinvF, fun h => absurd h (by decide), fun _ h => absurd h hd, fun _ _ _ => ⟨fun h => absurd h (by decide), fun _ => hinv⟩⟩

/-- Are all members of the stack ready, the master itself aside (R431)? -/
def allReady : Bool := (upto d.stackSize).all (fun i => i == d.fuses.stackId || d.bget Reg.STK_STATUS (8 + i))

/-- Does the stack master decide on an arm: announced, of this boundary, not decided yet, and before its window opens? -/
def Decides (a : Arm) : Prop :=
  d.ArmDue a ∧ a.stack = true ∧ d.fuses.master = true ∧ d.commit.decided = false ∧ d.commit.window = false

theorem stackDecide_decides {a : Arm} (h : d.commit.arm = some a) (hd : d.Decides a) : d.stackDecide =
    if d.deltaLoading then d.armDefer a else if !d.shadowOk then d.armInvalid
    else if d.allReady then d.updCommit (fun c => { c with decided := true }) else d.armDefer a := by
  obtain ⟨hdue, h1, h2, h3, h4⟩ := hd
  unfold stackDecide
  rw [h]
  refine if_neg ?_
  rcases hdue with hd | hd <;> simp [h1, h2, h3, h4, hd]
theorem stackDecide_same {a : Arm} (h : d.commit.arm = some a) (hd : ¬ d.Decides a) : d.stackDecide = d := by
  unfold stackDecide
  rw [h]
  refine if_pos ?_
  by_contra hn
  simp only [Bool.or_eq_true, Bool.not_eq_true', Bool.and_eq_true, decide_eq_true_eq, not_or, Bool.and_eq_false_iff,
    Bool.not_eq_true] at hn
  obtain ⟨⟨⟨h1, h2⟩, h3⟩, h4⟩ := hn
  refine hd ⟨?_, by simpa using h1.1, by simpa using h1.2, h2, h3⟩
  cases hnext : a.next with
  | true => exact .inl hnext
  | false => exact .inr (by simpa [hnext] using h4)

end Machine.Dev

/-- A command that judges an arm. -/
theorem runs_judged {c : Instr} {s : State} {d : Dev} {post : State → Prop} (he : exec c s = finish s d) (hs : Safe s)
    (hd : d.besideJudge = s.besideJudge) (hp : post { toDev := d, pending := s.pending }) : Runs c s post :=
  runs_quiet he hs (congrArg Dev.fault hd :) (congrArg Dev.fmem hd :) (congrArg Dev.stores hd :) (congrArg Dev.fuses hd :) hp

/-- The opening of the window (R47, R48). -/
theorem runs_commitWindowOpen {s : State} (hs : Safe s) (a : Arm) : Runs .commitWindowOpen s (fun t =>
    t.commit.window = true ∧ t.commit.hold = s.commit.hold ∧ t.shadow = s.shadow ∧ (s.commit.window = true → t = s) ∧
    (s.commit.window = false → (s.commit.arm = none ∨ ∃ b, s.commit.arm = some b ∧ b.next = false ∧ b.target ≠ s.nextCount) →
      t = { s with commit := { s.commit with window := true }, island := t.island }) ∧
    (s.commit.window = false → s.commit.arm = some a ∧ s.ArmDue a → s.commit.decided = true → SwapDecided t.toDev) ∧
    (s.commit.window = false → s.commit.arm = some a ∧ s.ArmDue a → s.commit.decided = false → s.deltaLoading = true ∨ a.stack = true →
      ArmDeferred a s.toDev t.toDev) ∧
    (s.commit.window = false → s.commit.arm = some a ∧ s.ArmDue a → s.commit.decided = false → s.deltaLoading = false → a.stack = false →
      (s.shadowOk = true → SwapDecided t.toDev) ∧ (s.shadowOk = false → ArmInvalid s.toDev t.toDev))) := by
  have he : exec .commitWindowOpen s = finish s s.windowOpen := rfl
  have hsame := windowOpened_same s.toDev
  cases hw : s.commit.window with
  | true =>
    refine runs_same (he.trans (congrArg (finish s) (if_pos hw))) hs ⟨hw, rfl, rfl, fun _ => rfl, fun h => absurd h (by decide),
      fun h => absurd h (by decide), fun h => absurd h (by decide), fun h => absurd h (by decide)⟩
  | false =>
    by_cases hu : s.commit.arm = none ∨ ∃ b, s.commit.arm = some b ∧ b.next = false ∧ b.target ≠ s.nextCount
    · rw [windowOpen_undue s.toDev hw hu] at he
      generalize s.windowOpened = e at he hsame
      have hnd : ¬ (s.commit.arm = some a ∧ s.ArmDue a) := by
        rintro ⟨ha, hd⟩
        rcases hu with hu | ⟨b, hb, h1, h2⟩
        · rw [hu] at ha
          cases ha
        · obtain rfl : a = b := Option.some.inj (ha.symm.trans hb)
          rcases hd with hd | hd
          · rw [h1] at hd
            cases hd
          · exact h2 hd
      exact runs_quiet he hs (congrArg Dev.fault hsame :) (congrArg Dev.fmem hsame :) (congrArg Dev.stores hsame :) (congrArg Dev.fuses hsame :)
        ⟨(congrArg (fun x : Dev => x.commit.window) hsame :), (congrArg (fun x : Dev => x.commit.hold) hsame :),
          (congrArg Dev.shadow hsame :), fun h => absurd h (by decide),
          fun _ _ => congrArg (fun x => ({ toDev := x, pending := s.pending } : State)) hsame,
          fun _ h => absurd h hnd, fun _ h => absurd h hnd, fun _ h => absurd h hnd⟩
    · obtain ⟨b, hb⟩ : ∃ b, s.commit.arm = some b := Option.ne_none_iff_exists'.mp (fun h => hu (.inl h))
      have hd : s.ArmDue b := by
        by_contra hn
        simp only [ArmDue, not_or, Bool.not_eq_true] at hn
        exact hu (.inr ⟨b, hb, hn⟩)
      rw [windowOpen_due s.toDev hw hb hd] at he
      obtain ⟨hf, h1, h2, h3⟩ := judge_post s.toDev b
      obtain ⟨hbes, hwin, hhold⟩ := hf
      generalize s.judge b = e at he h1 h2 h3 hbes hwin hhold
      have hc : s.windowOpened.commit = { s.commit with window := true } := (congrArg Dev.commit hsame :)
      have hb' : s.windowOpened.besideJudge = { s.besideJudge with island := s.windowOpened.island } := (congrArg besideJudge hsame :)
      have hbes' := hbes.trans hb'
      simp only [ArmDeferred, ArmInvalid, hc] at hwin hhold h2 h3
      refine runs_quiet he hs (congrArg Dev.fault hbes' :) (congrArg Dev.fmem hbes' :) (congrArg Dev.stores hbes' :) (congrArg Dev.fuses hbes' :)
        ⟨hwin, hhold, (congrArg Dev.shadow hbes' :), fun h => absurd h (by decide), fun _ h => absurd h hu, ?_⟩
      have hab : s.commit.arm = some a ∧ s.ArmDue a → a = b := fun h => Option.some.inj (h.1.symm.trans hb)
      exact ⟨fun _ _ => h1, fun _ h => hab h ▸ h2, fun _ h => hab h ▸ h3⟩

/-- The stack master's decision (R52, R431). -/
theorem runs_stackCommitDecide {s : State} (hs : Safe s) (a : Arm) : Runs .stackCommitDecide s (fun t => (s.commit.arm = none → t = s) ∧
    (s.commit.arm = some a → ¬ s.Decides a → t = s) ∧
    (s.commit.arm = some a → s.Decides a →
      (s.deltaLoading = true → ArmDeferred a s.toDev t.toDev) ∧ (s.deltaLoading = false → s.shadowOk = false → ArmInvalid s.toDev t.toDev) ∧
      (s.deltaLoading = false → s.shadowOk = true → s.allReady = true → t = { s with commit := { s.commit with decided := true } }) ∧
      (s.deltaLoading = false → s.shadowOk = true → s.allReady = false → ArmDeferred a s.toDev t.toDev))) := by
  have he : exec .stackCommitDecide s = finish s s.stackDecide := rfl
  cases ha : s.commit.arm with
  | none =>
    have h : s.stackDecide = s.toDev := by
      unfold stackDecide
      rw [ha]
    exact runs_same (he.trans (congrArg (finish s) h)) hs ⟨fun _ => rfl, fun h => absurd h (by simp), fun h => absurd h (by simp)⟩
  | some b =>
    by_cases hd : s.Decides b
    · rw [stackDecide_decides s.toDev ha hd] at he
      obtain ⟨hdefF, hdef⟩ := armDefer_post s.toDev b
      obtain ⟨hinvF, hinv⟩ := armInvalid_post s.toDev
      have hab : some b = some a → b = a := Option.some.inj
      have habd : some b = some a → ¬ s.Decides a →
          False := fun h hn => hn (hab h ▸ hd)
      cases hl : s.deltaLoading with
      | true =>
        rw [if_pos hl] at he
        exact runs_judged he hs hdefF.beside ⟨fun h => absurd h (by simp), fun h hn => (habd h hn).elim, fun h _ => ⟨fun _ => hab h ▸ hdef,
          fun h => absurd h (by decide), fun h => absurd h (by decide), fun h => absurd h (by decide)⟩⟩
      | false =>
        rw [if_neg (by simp [hl])] at he
        cases hok : s.shadowOk with
        | false =>
          rw [if_pos (by simp [hok])] at he
          exact runs_judged he hs hinvF.beside ⟨fun h => absurd h (by simp), fun h hn => (habd h hn).elim, fun h _ =>
            ⟨fun h => absurd h (by decide), fun _ _ => hinv, fun _ h => absurd h (by decide), fun _ h => absurd h (by decide)⟩⟩
        | true =>
          rw [if_neg (by simp [hok])] at he
          cases hr : s.allReady with
          | true =>
            rw [if_pos hr] at he
            exact runs_quiet he hs rfl rfl rfl rfl ⟨fun h => absurd h (by simp), fun h hn => (habd h hn).elim, fun h _ =>
              ⟨fun h => absurd h (by decide), fun _ h => absurd h (by decide), fun _ _ _ => rfl, fun _ _ h => absurd h (by decide)⟩⟩
          | false =>
            rw [if_neg (by simp [hr])] at he
            exact runs_judged he hs hdefF.beside ⟨fun h => absurd h (by simp), fun h hn => (habd h hn).elim, fun h _ =>
              ⟨fun h => absurd h (by decide), fun _ h => absurd h (by decide), fun _ _ h => absurd h (by decide), fun _ _ _ => hab h ▸ hdef⟩⟩
    · rw [stackDecide_same s.toDev ha hd] at he
      exact runs_same he hs ⟨fun _ => rfl, fun _ _ => rfl, fun h h2 => absurd (Option.some.inj h ▸ h2) hd⟩

/-- Settles O24: `judge_post` gives the verdict at the window's opening, `stackDecide_decides` the master's decision. -/
theorem commitJudged : Obligations.CommitJudged := by
  intro s a hs due decides ready swaps deferred invalid
  refine ⟨runs_commitWindowOpen hs a, ?_⟩
  obtain ⟨t, he, hp, hnone, hsame, hdec⟩ := runs_stackCommitDecide hs a
  exact ⟨t, he, hp, hnone, fun h hn => hsame h (fun hd => hn ⟨⟨h, hd.1⟩, hd.2⟩), fun h hd => hdec h.1 ⟨h.2, hd⟩⟩

end Sys2Proof

/-!
SUPPORT. Boundary marks under BOUNDARY_IN on the stack master itself (R53, R59): the model looks at the period source alone.
-/
namespace Sys2Proof

open Machine

/-- A stack master, alone in its stack, whose period source is BOUNDARY_IN. -/
def masterOnBoundaryIn : State := Tests.st [(Reg.GLB_PERIOD_CTRL, 1)]

theorem not_member_masterOnBoundaryIn : (!masterOnBoundaryIn.fuses.master && masterOnBoundaryIn.periodSrc == 1) = false := by decide

/-- The timeout of its source enters holdover. -/
theorem holdover_masterOnBoundaryIn :
    masterOnBoundaryIn.markLate.bget Reg.GLB_PERIOD_STATUS 1 = true ∧ masterOnBoundaryIn.bget Reg.GLB_PERIOD_STATUS 1 = false ∧
      masterOnBoundaryIn.markLate.fault.due = [] := by decide

/-- A command's registers are those of its device once every report is handled. -/
theorem regs_of_finish {s t : State} {d : Dev} (h : finish s d = .next t) : t.regs = d.raiseDue.regs := by
  rw [finish_next] at h
  cases h
  rfl

/-- Refutes O27: BOUNDARY_IN_TIMEOUT changes a device that is no member, in `masterOnBoundaryIn`, since nothing but the period source is
asked. -/
theorem not_boundaryMarks : ¬ Obligations.BoundaryMarks := by
  unfold Obligations.BoundaryMarks
  intro h
  obtain ⟨hon, hoff, hdue⟩ := holdover_masterOnBoundaryIn
  have hsafe : Safe masterOnBoundaryIn := Tests.safe_st _
  have hmember := not_member_masterOnBoundaryIn
  generalize masterOnBoundaryIn = s at *
  obtain ⟨t, he, -, -, hsame, -⟩ := (h s 0 0 hsafe).2.2
  have hregs := regs_of_finish he
  rw [hsame hmember, Dev.raiseDue_none _ hdue] at hregs
  have hbit : s.markLate.bget Reg.GLB_PERIOD_STATUS 1 = s.bget Reg.GLB_PERIOD_STATUS 1 := by
    rw [Dev.bget, Dev.bget, Dev.rd, Dev.rd, hregs]
  exact absurd (hon.symm.trans (hbit.trans hoff)) (by decide)

end Sys2Proof

/-!
SUPPORT. The boundary (R54 to R58): the count and the time that it stamps, the next boundary that it places, and what the start of a
period leaves unchanged at the wall stages, the clock gates, the DMA channels and the interrupt controller.
-/
namespace Sys2Proof

open Machine

namespace Machine.Dev

/-! What the start of a period can change. -/

/-- The device without what the start of a period changes: spars, frame memory, tables, gating, the host, counters and the held pictures
of the wall, besides what an event changes. -/
def outsidePeriod (d : Dev) : Dev :=
  { d.beside with spars := [], fmem := {}, stores := [], tabs := [], gated := [], host := {}, cnts := [], wallHeld := [] }

/-- `e` differs from `d` by what the start of a period changes; registers of block 0 and tables at the keys of `kept` stay. -/
structure WallFrame (kept : Nat → Prop) (d e : Dev) : Prop where
  rd : ∀ a, a < 0x1000 → e.rd a = d.rd a
  tabs : ∀ k, kept k → SMap.get tabDefault e.tabs k = SMap.get tabDefault d.tabs k
  outside : e.outsidePeriod = d.outsidePeriod

namespace WallFrame

variable {kept : Nat → Prop}

theorem refl (d : Dev) : WallFrame kept d d := ⟨fun _ _ => rfl, fun _ _ => rfl, rfl⟩
theorem trans {d e f : Dev} (h : WallFrame kept d e) (g : WallFrame kept e f) : WallFrame kept d f :=
  ⟨fun a ha => (g.rd a ha).trans (h.rd a ha), fun k hk => (g.tabs k hk).trans (h.tabs k hk), g.outside.trans h.outside⟩
theorem foldl {α : Type} (f : Dev → α → Dev) (hf : ∀ d a, WallFrame kept d (f d a)) : ∀ (l : List α) (d : Dev), WallFrame kept d (l.foldl f d)
  | [], d => refl d
  | a :: l, d => (hf d a).trans (foldl f hf l (f d a))
theorem of_regFrame {own : Nat → Prop} {d e : Dev} (h : RegFrame own d e) (ho : ∀ a, own a → 0x1000 ≤ a) : WallFrame kept d e := by
  have htabs : e.tabs = d.tabs := (congrArg Dev.tabs h.beside :)
  exact ⟨fun a ha => h.rd a (fun h1 => absurd (ho a h1) (by omega)) (not_isPend_glb ha), fun _ _ => by rw [htabs],
    (congrArg outsidePeriod h.beside :)⟩
theorem of_irq {d e : Dev} (h : IrqFrame d e) : WallFrame kept d e := of_regFrame (own := fun _ => False) (.of_irq h) (fun _ h => h.elim)

end WallFrame

variable (d : Dev) {kept : Nat → Prop}

theorem wr_wallFrame {a : Nat} (h : 0x1000 ≤ a) (v : Word) : WallFrame kept d (d.wr a v) :=
  .of_regFrame (wr_regFrame d (own := fun x => x = a) rfl v) (fun _ e => e ▸ h)
theorem bset_wallFrame {a : Nat} (h : 0x1000 ≤ a) (i : Nat) (b : Bool) : WallFrame kept d (d.bset a i b) := wr_wallFrame d h _
theorem event_wallFrame {a : Nat} (h : 0x1000 ≤ a) (i src : Nat) : WallFrame kept d (d.event a i src) :=
  .of_regFrame (event_regFrame_self d a i src) (fun _ e => e ▸ h)
theorem updSpar_wallFrame (n : Nat) (f : Spar → Spar) : WallFrame kept d (d.updSpar n f) := ⟨fun _ _ => rfl, fun _ _ => rfl, rfl⟩
theorem fmWrite_wallFrame (a : Nat) (bs : Bytes) : WallFrame kept d (d.fmWrite a bs) := ⟨fun _ _ => rfl, fun _ _ => rfl, rfl⟩

/-- Every register of a spar lies past block 0. -/
theorem spar_past (n r : Nat) : 0x1000 ≤ Reg.spar n + r := by
  rw [Reg.spar]
  omega

/-! The wall stages at a boundary (R277, R285, R287). -/

theorem slotFlags_wallFrame (slot : Nat) (on off : List Nat) : WallFrame kept d (d.slotFlags slot on off) := by
  unfold slotFlags
  dsimp only
  split
  · exact .refl d
  · exact fmWrite_wallFrame d _ _
theorem hold_wallFrame (m : SMap Nat) : WallFrame kept d { d with wallHeld := m } := ⟨fun _ _ => rfl, fun _ _ => rfl, rfl⟩
theorem pubRotate_wallFrame (pub : Nat) (slots : List Nat) : WallFrame kept d (d.pubRotate pub slots) := by
  unfold pubRotate
  dsimp only
  split
  · exact .refl d
  · have hclear (l : List Nat) (new : Nat) : WallFrame kept d (l.foldl (fun x s => if s = new then x else x.slotFlags s [] [4, 5]) d) := by
      refine .foldl _ (fun x s => ?_) l d
      split
      · exact .refl x
      · exact slotFlags_wallFrame x s _ _
    exact (hclear _ _).trans ((slotFlags_wallFrame _ _ _ _).trans (hold_wallFrame _ _))

/-- The publications of the schedules and of the decoder sessions, which a boundary rotates. -/
def boundaryPubs : List Nat := (d.wallSpars.flatMap d.schedulePubs ++ d.sessionPubs.map (·.1)).eraseDups
/-- One publication rotated, with the slots that the decoder sessions `sess` hold of it. -/
def pubTurn (sess : List (Nat × List Nat)) (x : Dev) (pub : Nat) : Dev := x.pubRotate pub ((sess.filter (fun p => p.1 == pub)).flatMap (·.2))
theorem wallMark_eq : d.wallMark = d.boundaryPubs.foldl (pubTurn d.sessionPubs) d := rfl
theorem wallMark_wallFrame : WallFrame kept d d.wallMark := by
  rw [wallMark_eq]
  exact .foldl _ (fun x pub => pubRotate_wallFrame x pub _) _ d

/-- A run of operations, each of which keeps the frame, keeps it. -/
theorem RegFrame.foldl {own : Nat → Prop} {α : Type} (f : Dev → α → Dev) (hf : ∀ d a, RegFrame own d (f d a)) : ∀ (l : List α) (d : Dev),
    RegFrame own d (l.foldl f d)
  | [], d => .refl d
  | a :: l, d => (hf d a).trans (foldl f hf l (f d a))

theorem wallSafe_regFrame : RegFrame (fun a => 0x1000 ≤ a) d d.wallSafe := by
  unfold wallSafe
  dsimp only
  have hset (b : Bool) : RegFrame (fun a => 0x1000 ≤ a) d
      ((upto 128).foldl (fun x n => x.bset (Reg.WALL_STATUS n) 16 b) (d.bset Reg.FLT_STATUS 2 b)) :=
    (bset_regFrame d (by decide) 2 b).trans (.foldl _ (fun x n => bset_regFrame x (spar_past n _) 16 b) _ _)
  split
  · exact .refl d
  split
  · exact hset _
  · exact (hset _).trans (.foldl _ (fun x n => event_regFrame x (spar_past n _) 4 _) _ _)
theorem wallSafe_wallFrame : WallFrame kept d d.wallSafe := .of_regFrame (wallSafe_regFrame d) (fun _ => id)
theorem wallSafe_spars : d.wallSafe.spars = d.spars := (congrArg Dev.spars (wallSafe_regFrame d).beside :)
theorem wallFix_wallFrame (n : Nat) : WallFrame kept d (d.wallFix n) := by
  unfold wallFix
  dsimp only
  exact (updSpar_wallFrame d n _).trans ((updSpar_wallFrame _ n _).trans ((wr_wallFrame _ (spar_past n _) _).trans
    ((bset_wallFrame _ (spar_past n _) 17 _).trans (bset_wallFrame _ (spar_past n _) 18 false))))


/-! The counts of the wall stages go to their status table, 0x0C10 (R287). -/

/-- A fold of operations that each keep a part of the device keeps it. -/
theorem foldl_keeps {α β : Type} (g : Dev → β) (f : Dev → α → Dev) (hf : ∀ d a, g (f d a) = g d) : ∀ (l : List α) (d : Dev),
    g (l.foldl f d) = g d
  | [], _ => rfl
  | a :: l, d => (foldl_keeps g f hf l (f d a)).trans (hf d a)

theorem slotFlags_spars (slot : Nat) (on off : List Nat) : (d.slotFlags slot on off).spars = d.spars := by
  unfold slotFlags
  dsimp only
  split <;> rfl
theorem pubRotate_spars (pub : Nat) (slots : List Nat) : (d.pubRotate pub slots).spars = d.spars := by
  unfold pubRotate
  dsimp only
  split
  · rfl
  · have hstep (new : Nat) (x : Dev) (s : Nat) : (if s = new then x else x.slotFlags s [] [4, 5]).spars = x.spars := by
      by_cases h : s = new
      · rw [if_pos h]
      · rw [if_neg h, slotFlags_spars]
    rw [slotFlags_spars]
    exact foldl_keeps Dev.spars _ (hstep _) _ d
theorem wallMark_spars : d.wallMark.spars = d.spars := by
  rw [wallMark_eq]
  exact foldl_keeps Dev.spars _ (fun x pub => pubRotate_spars x pub _) _ d

/-- The status table's entries that the counts of spar `n` can reach are outside `kept`. -/
def StatsApart (kept : Nat → Prop) (n : Nat) (d : Dev) : Prop :=
  ∀ i, i < 2 ^ 20 ∨ (∃ f ∈ (d.spar n).frameStats, f.1 = i) → ¬ kept (tkey 0x0C10 n i)

/-- The entries of the status table that are written for spar `n`: those it holds and those counted. -/
def statIndices (n : Nat) : List Nat :=
  let had := (d.tabs.filter (fun p => decide (tkey 0x0C10 n 0 ≤ p.1) && decide (p.1 < tkey 0x0C10 n 4096))).map (fun p => p.1 % 2 ^ 20)
  (had ++ (d.spar n).frameStats.map (·.1)).eraseDups

/-- An entry of the status table with the frames sent and skipped of spar `n`, which is `x`, in its third word. -/
def statPut (n : Nat) (x : Spar) (y : Dev) (i : Nat) : Dev :=
  let c := SMap.get (fun _ => (0, 0)) x.frameStats i
  y.tabSet 0x0C10 n i ((y.tab 0x0C10 n i).set 2 (wd (min 65535 c.1 + min 65535 c.2 * 65536)))

theorem wallStats_eq (n : Nat) : d.wallStats n = ((d.statIndices n).foldl (statPut n (d.spar n)) d).updSpar n (fun y =>
    { y with frameStats := [], underrun := y.underrun.filter (fun u => decide (d.time.perSeq ≤ u.1 + 1)) }) := rfl

theorem statPut_spars (n : Nat) (x : Spar) (d : Dev) (i : Nat) : (statPut n x d i).spars = d.spars := rfl
theorem statPut_wallFrame {n i : Nat} (x : Spar) (h : ¬ kept (tkey 0x0C10 n i)) : WallFrame kept d (statPut n x d i) := by
  refine ⟨fun _ _ => rfl, fun k hk => ?_, rfl⟩
  refine (SMap.get_set _ _ _ _ _).trans (if_neg (fun e => ?_))
  exact h (e ▸ hk)
theorem foldl_statPut_wallFrame (n : Nat) (x : Spar) : ∀ {l : List Nat} (d : Dev), (∀ i ∈ l, ¬ kept (tkey 0x0C10 n i)) →
    WallFrame kept d (l.foldl (statPut n x) d)
  | [], d, _ => .refl d
  | i :: _, d, h => (statPut_wallFrame d x (h i List.mem_cons_self)).trans
      (foldl_statPut_wallFrame n x _ (fun j hj => h j (List.mem_cons_of_mem _ hj)))

theorem wallStats_wallFrame {n : Nat} (h : StatsApart kept n d) : WallFrame kept d (d.wallStats n) := by
  rw [wallStats_eq]
  refine (foldl_statPut_wallFrame n _ d (fun i hi => h i ?_)).trans (updSpar_wallFrame _ n _)
  rw [statIndices, List.mem_eraseDups, List.mem_append, List.mem_map, List.mem_map] at hi
  refine hi.imp ?_ id
  rintro ⟨p, -, rfl⟩
  exact Nat.mod_lt _ (by decide)

/-- The counts of a spar are cleared, those of another spar stay. -/
theorem frameStats_wallStats (m n : Nat) : ((d.wallStats m).spar n).frameStats = if n = m then [] else (d.spar n).frameStats := by
  have hspars : ((d.statIndices m).foldl (statPut m (d.spar m)) d).spars = d.spars :=
    foldl_keeps Dev.spars (statPut m (d.spar m)) (statPut_spars m _) _ d
  rw [wallStats_eq, spar_updSpar]
  split
  · rfl
  · rw [spar, hspars, ← spar]

/-- The start of a period at the wall stages. -/
theorem wallPeriod_wallFrame (h : ∀ n ∈ d.spars.map (·.1), StatsApart kept n d) : WallFrame kept d d.wallPeriod := by
  have hstats : ∀ (l : List Nat) (x : Dev), (∀ n ∈ l, StatsApart kept n x) → WallFrame kept x (l.foldl wallStats x) := by
    intro l
    induction l with
    | nil => exact fun x _ => .refl x
    | cons m l ih =>
      intro x hx
      refine (wallStats_wallFrame x (hx m List.mem_cons_self)).trans (ih _ (fun n hn i hi => ?_))
      rw [frameStats_wallStats] at hi
      refine hx n (List.mem_cons_of_mem _ hn) i (hi.imp id (fun ⟨f, hf, he⟩ => ⟨f, ?_, he⟩))
      split at hf
      · cases hf
      · exact hf
  have hspars : d.wallMark.wallSafe.spars = d.spars := (wallSafe_spars _).trans (wallMark_spars d)
  unfold wallPeriod
  dsimp only
  refine ((wallMark_wallFrame d).trans (wallSafe_wallFrame _)).trans (.trans (hstats _ _ (fun n hn i hi => ?_)) (.foldl _ (fun x n => wallFix_wallFrame x n) _ _))
  rw [spar, hspars] at hi
  exact h n hn i hi

/-! The rest of a boundary (R26, R54, R365, R374). -/

theorem keepUngated_wallFrame : WallFrame kept d d.keepUngated := ⟨fun _ _ => rfl, fun _ _ => rfl, rfl⟩
theorem lineRaise_wallFrame (l : Nat) : WallFrame kept d (d.lineRaise l) := by
  refine .foldl _ (fun x k => ?_) _ d
  unfold dmaRequest
  split
  · refine ⟨fun a ha => rd_fset_ne _ _ _ _ ?_, fun _ _ => rfl, rfl⟩
    simp only [Reg.DMA_CH_STATUS]
    omega
  · have hinc : WallFrame kept x (x.inc Reg.C_HQ_REQ_OVF) := ⟨fun _ _ => rfl, fun _ _ => rfl, rfl⟩
    exact hinc.trans (event_wallFrame _ (a := Reg.DMA_EVENT) (by decide) 1 _)

theorem irqEdge_wallFrame (n : Nat) : WallFrame kept d (d.irqEdge n) := .of_irq (irqEdge_frame d n)

/-- The next boundary placed, and the marks of the stack reset. -/
def nextPlaced (changed : Bool) : Dev :=
  let next := d.after d.time.last d.rateN d.rateD changed
  d.updTime (fun t => { t with
    next := next, transition := changed, perSeq := t.perSeq + 1
    pround := if t.cclk % 128 = 0 then 0 else t.pround, freshRound := t.cclk % 128 != 0
    holdAt := d.bget Reg.GLB_PERIOD_STATUS 1
    showAt := match t.markNext with | some q => q | none => next.quarterNs
    setCount := d.periodSrc == 1 && t.firstMark, markCount := none, markSeen := false, markNext := none, stepped := false })

/-- What a boundary does after the swap. -/
def periodBegun (changed : Bool) : Dev := (((d.periodStart changed).keepUngated).lineRaise 16).irqEdge 20

theorem periodStart_eq (changed : Bool) : d.periodStart changed = (d.nextPlaced changed).wallPeriod := rfl
theorem periodBegun_wallFrame (changed : Bool) (h : ∀ n ∈ d.spars.map (·.1), StatsApart kept n d) :
    WallFrame kept (d.nextPlaced changed) (d.periodBegun changed) := by
  unfold periodBegun
  rw [periodStart_eq]
  exact (wallPeriod_wallFrame (d.nextPlaced changed) h).trans
    ((keepUngated_wallFrame _).trans ((lineRaise_wallFrame _ 16).trans (irqEdge_wallFrame _ 20)))
theorem pendOf_periodBegun (changed : Bool) : (d.periodBegun changed).pendOf 20 = true := by
  rw [periodBegun, irqEdge, pendOf_pendSet _ (by decide)]
  rfl

/-- The boundary reached: its time, the count, the step that it absorbs and the end of the window. -/
def boundaryStamped : Dev :=
  let q := d.time.next.quarterNs
  let d1 := d.updTime (fun t => { t with
    last := d.time.next, ticks := max t.ticks ((ceilDiv (d.time.next.num * 4000000000) (atLeast1 d.time.next.den) * timeUnit : Nat) : Int) })
  let d2 := ((d1.wr Reg.GLB_PERIOD_COUNT (wd d.comingCount)).wr Reg.GLB_BOUNDARY_TIME_LO (wd q)).wr Reg.GLB_BOUNDARY_TIME_HI (wd (q >>> 32))
  (if d.time.stepped then d2.periodEvent 3 else d2).updCommit (fun c => { c with window := false })

/-- With nothing that waits for the boundary, it does no more (R431, R51, R404). -/
theorem boundaryWaits_same (hr : d.commit.readyFor = none) (hj : d.loader.job = none) (he : d.island.entryOpen = false) : d.boundaryWaits = d := by
  simp [boundaryWaits, hr, hj, he]

theorem boundaryNow_eq {d : Dev} (hsrc : d.periodSrc ≠ 1) : d.boundaryNow =
    let d4 := d.boundaryStamped
    let d5 := if d4.commit.swap then d4.swapNow else d4
    (d5.periodBegun (d5.rateN != d4.rateN || d5.rateD != d4.rateD)).boundaryWaits := by
  have h0 : (decide (d.periodSrc = 1) && !d.time.firstMark && !d.time.markSeen) = false := by simp [hsrc]
  unfold boundaryNow
  rw [h0]
  rfl

/-- The device without the boundary's time, the commit and what an event changes. -/
def besideBoundary (d : Dev) : Dev := { d.beside with time := {}, commit := {} }

/-- The registers that a boundary writes. -/
def boundaryRegs (a : Nat) : Prop :=
  a = Reg.GLB_PERIOD_COUNT ∨ a = Reg.GLB_BOUNDARY_TIME_LO ∨ a = Reg.GLB_BOUNDARY_TIME_HI ∨ a = Reg.GLB_PERIOD_STATUS

/-- The time of the boundary. -/
def timeReached : Dev := d.updTime (fun t => { t with
  last := d.time.next, ticks := max t.ticks ((ceilDiv (d.time.next.num * 4000000000) (atLeast1 d.time.next.den) * timeUnit : Nat) : Int) })

/-- `boundaryStamped` before the event and the window's end. -/
def timeStamped : Dev :=
  ((d.timeReached.wr Reg.GLB_PERIOD_COUNT (wd d.comingCount)).wr Reg.GLB_BOUNDARY_TIME_LO (wd d.time.next.quarterNs)).wr
    Reg.GLB_BOUNDARY_TIME_HI (wd (d.time.next.quarterNs >>> 32))

theorem timeStamped_regFrame : RegFrame boundaryRegs d.timeReached d.timeStamped :=
  (wr_regFrame _ (.inl rfl) _).trans ((wr_regFrame _ (.inr (.inl rfl)) _).trans (wr_regFrame _ (.inr (.inr (.inl rfl))) _))

theorem boundaryStamped_eq : d.boundaryStamped =
    (if d.time.stepped then d.timeStamped.periodEvent 3 else d.timeStamped).updCommit (fun c => { c with window := false }) := rfl

/-- The step that a boundary absorbs is an event and changes no more. -/
theorem stepEvent_regFrame (e : Dev) (b : Bool) : RegFrame (fun a => a = Reg.GLB_PERIOD_STATUS) e (if b then e.periodEvent 3 else e) := by
  cases b
  · exact .refl e
  · exact event_regFrame_self e _ _ _

theorem rd_boundaryStamped {a : Nat} (h : a ≠ Reg.GLB_PERIOD_STATUS) (hp : ¬ isPend a) : d.boundaryStamped.rd a = d.timeStamped.rd a :=
  (stepEvent_regFrame d.timeStamped d.time.stepped).rd a h hp

theorem rd_boundaryStamped_ne {a : Nat} (h : ¬ boundaryRegs a) (hp : ¬ isPend a) : d.boundaryStamped.rd a = d.rd a := by
  exact (rd_boundaryStamped d (fun e => h (.inr (.inr (.inr e)))) hp).trans ((timeStamped_regFrame d).rd a h hp)

theorem boundaryStamped_post : d.boundaryStamped.rd Reg.GLB_PERIOD_COUNT = wd d.comingCount ∧
    d.boundaryStamped.rd Reg.GLB_BOUNDARY_TIME_LO = wd d.time.next.quarterNs ∧
    d.boundaryStamped.rd Reg.GLB_BOUNDARY_TIME_HI = wd (d.time.next.quarterNs / 2 ^ 32) ∧
    d.boundaryStamped.commit = { d.commit with window := false } ∧ d.boundaryStamped.time = d.timeReached.time ∧
    d.boundaryStamped.besideBoundary = d.besideBoundary := by
  have hother := (timeStamped_regFrame d).beside
  have hrd (a : Nat) (h : a ≠ Reg.GLB_PERIOD_STATUS) (ha : a < 0x1000) := rd_boundaryStamped d h (not_isPend_glb ha)
  refine ⟨(hrd _ (by decide) (by decide)).trans ?_, (hrd _ (by decide) (by decide)).trans ?_, (hrd _ (by decide) (by decide)).trans ?_, ?_⟩
  · rw [timeStamped, rd_wr_ne _ _ (by decide), rd_wr_ne _ _ (by decide), rd_wr_same]
  · rw [timeStamped, rd_wr_ne _ _ (by decide), rd_wr_same]
  · rw [timeStamped, rd_wr_same, Nat.shiftRight_eq_div_pow]
  have hframe := stepEvent_regFrame d.timeStamped d.time.stepped
  rw [boundaryStamped_eq]
  generalize d.timeStamped = e at *
  generalize (if d.time.stepped then e.periodEvent 3 else e) = f at *
  have hbeside := hframe.beside.trans hother
  refine ⟨?_, (congrArg Dev.time hbeside :), (congrArg besideBoundary hbeside :)⟩
  rw [updCommit, show f.commit = d.timeReached.commit from (congrArg Dev.commit hbeside :)]
  rfl

/-- Under a period source that is not BOUNDARY_IN the next boundary is the grid's (R54, R56). -/
theorem after_other {d : Dev} (h : d.periodSrc ≠ 1) (t : Instant) (n dd : Nat) : d.after t n dd false = gridNext t n dd := by
  simp [after, h]

/-- With spars and entries in the table's range, the status table alone is written. -/
theorem statsApart_bounded {s d : Dev} (hd : d.spars = s.spars) (h : ∀ p ∈ s.spars, p.1 < 256 ∧ ∀ f ∈ p.2.frameStats, f.1 < 2 ^ 20) {n : Nat}
    (hn : n ∈ s.spars.map (·.1)) : StatsApart (fun k => k / 2 ^ 28 ≠ 0x0C10) n d := by
  intro i hi
  obtain ⟨p, hp, rfl⟩ := List.mem_map.mp hn
  have hspar : ∀ f ∈ (d.spar p.1).frameStats, f.1 < 2 ^ 20 := by
    rw [spar, hd]
    by_cases h0 : SMap.get (fun _ => {}) s.spars p.1 = {}
    · simp [h0]
    · exact (h _ (SMap.mem_of_get (fun _ => {}) p.1 h0)).2
  have hlt : i < 2 ^ 20 := hi.elim id (fun ⟨f, hf, he⟩ => he ▸ hspar f hf)
  have h256 := (h p hp).1
  simp only [tkey, ne_eq, not_not]
  omega

end Machine.Dev
open Machine.Dev
/-- The state after a command that ends in `e`, its stores in frame memory. -/
def settled (s : State) (e : Dev) : State := ⟨Dev.settle s.toDev e, s.pending⟩
/-- A boundary that leaves no report, whatever it stored. -/
theorem runs_boundary {s : State} {e : Dev} {post : State → Prop} (hs : Safe s) (he : s.boundaryNow = e) (hf : e.fault = s.fault)
    (hp : post (settled s e)) : Runs .boundary s post := by
  have hrun : exec .boundary s = finish s s.boundaryNow := rfl
  exact ⟨settled s e, by rw [hrun, he, finish_none s e (by rw [hf]; exact hs.2.2)]; rfl, rfl, hp⟩

/-- Settles O25: the boundary stamps the count and its time, then starts the period, which keeps everything that the statement names. -/
theorem boundaryReached : Obligations.BoundaryReached := by
  unfold Obligations.BoundaryReached
  intro s hs hsrc hswap hready hjob hentry q
  obtain ⟨hcount, hlo, hhi, hcommit, htime, hbeside⟩ := boundaryStamped_post s.toDev
  have hrate {a : Nat} (ha : a < 0x1000) (h : ¬ boundaryRegs a) := rd_boundaryStamped_ne s.toDev h (not_isPend_glb ha)
  generalize hd : s.boundaryStamped = d at *
  have hframe (kept : Nat → Prop) (h : ∀ n ∈ d.spars.map (·.1), StatsApart kept n d) := periodBegun_wallFrame d false h
  obtain ⟨hrd, -, hout⟩ := hframe (fun _ => False) (fun _ _ _ _ => id)
  have hpend := pendOf_periodBegun d false
  have hnow : s.boundaryNow = (d.periodBegun false).boundaryWaits := by
    have hnoswap : d.commit.swap = false := by rw [hcommit, ← hswap]
    rw [boundaryNow_eq hsrc, hd]
    simp only [hnoswap, Bool.false_eq_true, if_false, bne_self_eq_false, Bool.or_self]
  generalize d.periodBegun false = e at *
  have hcommit' : e.commit = { s.commit with window := false } := (congrArg Dev.commit hout :).trans hcommit
  have hloader : e.loader = s.loader := (congrArg Dev.loader hout :).trans (congrArg Dev.loader hbeside :)
  have hisland : e.island = s.island := (congrArg Dev.island hout :).trans (congrArg Dev.island hbeside :)
  rw [boundaryWaits_same e (by rw [hcommit', ← hready]) (by rw [hloader, hjob]) (by rw [hisland, hentry])] at hnow
  refine runs_boundary hs hnow ((congrArg Dev.fault hout :).trans (congrArg Dev.fault hbeside :)) ?_
  have htime' : e.time = (d.nextPlaced false).time := (congrArg Dev.time hout :)
  refine ⟨(hrd _ (by decide)).trans hcount, (hrd _ (by decide)).trans hlo, (hrd _ (by decide)).trans hhi, hcommit', ?_, ?_, hpend,
    (congrArg Dev.shadow hout :).trans (congrArg Dev.shadow hbeside :), fun hbound k hk => ?_,
    (congrArg Dev.shTabs hout :).trans (congrArg Dev.shTabs hbeside :), (congrArg Dev.lanes hout :).trans (congrArg Dev.lanes hbeside :),
    (congrArg Dev.ports hout :).trans (congrArg Dev.ports hbeside :), (congrArg Dev.engines hout :).trans (congrArg Dev.engines hbeside :),
    hloader⟩
  · have hlast : d.time.last = s.time.next := by rw [htime]; rfl
    exact (congrArg TimeBase.last htime').trans hlast
  · have hnext : (d.nextPlaced false).time.next = d.after d.time.last d.rateN d.rateD false := rfl
    have hsrc' : d.periodSrc ≠ 1 := by
      rwa [periodSrc, fget, hrate (by decide) (by unfold boundaryRegs; decide), ← fget, ← periodSrc]
    have hlast : d.time.last = s.time.next := by rw [htime]; rfl
    have hn : d.rateN = s.rateN := by rw [rateN, rateN, fget, fget, hrate (by decide) (by unfold boundaryRegs; decide)]
    have hdd : d.rateD = s.rateD := by rw [rateD, rateD, fget, fget, hrate (by decide) (by unfold boundaryRegs; decide)]
    refine (congrArg TimeBase.next htime').trans (hnext.trans ?_)
    rw [after_other hsrc', hlast, hn, hdd]
  · have hspars : d.spars = s.spars := (congrArg Dev.spars hbeside :)
    have htabs : d.tabs = s.tabs := (congrArg Dev.tabs hbeside :)
    refine ((hframe (fun k => k / 2 ^ 28 ≠ 0x0C10) (fun n hn => ?_)).tabs k hk).trans (congrArg (SMap.get tabDefault · k) htabs)
    rw [hspars] at hn
    exact statsApart_bounded hspars hbound hn

end Sys2Proof

/-!
SUPPORT. The swap at a boundary (R44, R48, R54) of a device none of whose spars is in use: the class B registers after it, and what the
rest of the swap leaves to do where no spar, slice, engine or DMA channel is in use.
-/
namespace Sys2Proof

open Machine

namespace Machine

/-! A map whose entries are put over another map. -/

/-- What is listed reads as listed, and every other key as in the map below. -/
theorem SMap.get_foldl_put {α : Type} [DecidableEq α] (d : Nat → α) (a : Nat) : ∀ {o : Option Nat} {l : SMap α}, SMap.rising o l = true → ∀ m : SMap α,
    SMap.get d (l.foldl (fun m p => SMap.put m p.1 p.2) m) a = SMap.get (fun _ => SMap.get d m a) l a
  | _, [], _, _ => rfl
  | o, (k, v) :: l, hr, m => by
    have hr' : SMap.rising (some k) l = true := by cases o <;> simp_all [SMap.rising]
    rw [List.foldl_cons, SMap.get_foldl_put d a hr', SMap.get, SMap.get_put]
    by_cases h : k = a
    · have hnone : ∀ w : α, SMap.get (fun _ => w) l k = w := by
        intro w
        by_contra hne
        exact absurd (SMap.rising_gt hr' _ (SMap.mem_of_get (fun _ => w) k hne)) (lt_irrefl k)
      rw [if_pos h, if_pos h.symm, ← h, hnone]
    · rw [if_neg h, if_neg (Ne.symm h)]

/-- A map put entry by entry over another lists what either lists. -/
theorem SMap.mem_foldl_put {α : Type} (p : Nat × α) : ∀ (l m : SMap α), p ∈ l.foldl (fun m p => SMap.put m p.1 p.2) m → p ∈ l ∨ p ∈ m
  | [], _, h => .inr h
  | q :: l, m, h => by
    obtain h | h := SMap.mem_foldl_put p l _ h
    · exact .inl (List.mem_cons_of_mem _ h)
    · exact (SMap.mem_put q.2 q.1 p h).imp (fun e : p = q => e ▸ List.mem_cons_self) id

/-- Only the default at its key counts for a read. -/
theorem SMap.get_const {α : Type} (d : Nat → α) (a : Nat) (m : SMap α) : SMap.get d m a = SMap.get (fun _ => d a) m a := by
  induction m with
  | nil => rfl
  | cons p m ih => rw [SMap.get, SMap.get, ih]

/-! The classes of the registers that a boundary writes (R44, R450). -/

theorem clsAt_wallStatus : ∀ n < 128, clsAt (Reg.WALL_STATUS n) ≠ .B := by decide
theorem clsAt_irqPend : ∀ w < 36, clsAt (Reg.IRQ_PEND w) ≠ .B := by decide
theorem clsAt_fltStatus : clsAt Reg.FLT_STATUS ≠ .B := by decide
theorem not_isPend_classB {a : Nat} (h : clsAt a = .B) : ¬ Dev.isPend a := fun ⟨w, hw, e⟩ => clsAt_irqPend w hw (e ▸ h)
theorem resetVal_wallCfg : ∀ n < 128, wbit (Reg.resetVal (Reg.WALL_CFG n)) 0 = false := by decide

namespace Dev

variable (d : Dev)

/-- The registers written that are not in their reset state all lie below the spars. -/
def LowKeys (d : Dev) : Prop := ∀ p ∈ d.regs, p.1 < 0x01000000

namespace LowKeys

variable {d : Dev} (h : LowKeys d)
include h

theorem wr {a : Nat} (ha : a < 0x01000000) (v : Word) : LowKeys (d.wr a v) := by
  intro p hp
  obtain ⟨rfl, -⟩ | hp := SMap.mem_set _ hp
  · exact ha
  · exact h p hp
theorem of_regs {e : Dev} (he : e.regs = d.regs) : LowKeys e := fun p hp => h p (he ▸ hp)
theorem of_mod {e : Dev} (he : ModFrame d e) : LowKeys e := h.of_regs he.regs
theorem pendSet (s : Nat) : LowKeys (d.pendSet s) := by
  unfold Dev.pendSet
  split
  · exact h
  next hs =>
    have hw : LowKeys (d.bset (Reg.IRQ_PEND (srcWord s)) (s % 32) true) := by
      refine h.wr ?_ _
      simp only [Bool.or_eq_true, decide_eq_true_eq, not_or, not_le] at hs
      simp only [Reg.IRQ_PEND, srcWord]
      omega
    dsimp only
    split
    · exact hw.of_mod (cameToQualify_mod _ s)
    · exact hw
theorem irqSync (s : Nat) : LowKeys (d.irqSync s) := by
  unfold Dev.irqSync
  split
  · exact h.pendSet s
  · exact h
theorem event {a : Nat} (ha : a < 0x01000000) (i src : Nat) : LowKeys (d.event a i src) := (h.wr ha _).irqSync src
omit h in
theorem irqSyncL : ∀ (l : List Nat) {d : Dev}, LowKeys d → LowKeys (d.irqSyncL l)
  | [], _, h => h
  | s :: l, _, h => irqSyncL l (h.irqSync s)
theorem irqSyncAll : LowKeys d.irqSyncAll := (irqSyncL _ h).of_mod (.foldl _ moderate_mod _ _)
theorem busySpars : d.busySpars = [] := by
  have hnone : d.regs.filter (fun p => decide (0x01000000 ≤ p.1)) = [] := by
    rw [List.filter_eq_nil_iff]
    intro p hp
    have := h p hp
    simp only [decide_eq_true_eq]
    omega
  rw [Dev.busySpars, hnone]
  rfl
theorem upPorts : d.upPorts = [] := by
  unfold Dev.upPorts
  rw [List.filterMap_eq_nil_iff]
  intro p hp
  have := h p hp
  have hlow : decide (0x01000000 ≤ p.1) = false := by
    rw [decide_eq_false_iff_not]
    omega
  simp [hlow]

end LowKeys

/-! The registers after a swap. -/

/-- A class B register takes its shadow value. -/
theorem rd_swapped_classB {d : Dev} (hw : SMap.wf Reg.resetVal d.shadow = true) {a : Nat} (ha : clsAt a = .B) : d.swapped.rd a = d.rdSh a := by
  rw [rd, rdSh, swapped]
  dsimp only
  rw [SMap.get_foldl_put _ _ ((SMap.wf_iff _ _).mp hw).1, SMap.get_filter_key (q := fun k => clsAt k != .B), ha, if_neg (by decide)]
  exact (SMap.get_const Reg.resetVal a d.shadow).symm

/-- Every other register stays. -/
theorem rd_swapped_ne {d : Dev} (hw : SMap.wf Reg.resetVal d.shadow = true) (hB : ∀ p ∈ d.shadow, clsAt p.1 = .B) {a : Nat} (ha : clsAt a ≠ .B) :
    d.swapped.rd a = d.rd a := by
  rw [rd, rd, swapped]
  dsimp only
  rw [SMap.get_foldl_put _ _ ((SMap.wf_iff _ _).mp hw).1, SMap.get_filter_key (q := fun k => clsAt k != .B), if_pos (by simpa using ha)]
  by_contra hne
  exact ha (hB _ (SMap.mem_of_get (fun _ => SMap.get Reg.resetVal d.regs a) a hne))

theorem lowKeys_swapped {d : Dev} (h : LowKeys d) (hs : ∀ p ∈ d.shadow, p.1 < 0x01000000) : LowKeys d.swapped := fun p hp =>
  (SMap.mem_foldl_put p _ _ hp).elim (hs p) (fun h1 => h p (List.mem_of_mem_filter h1))


/-! The swap with no spar, slice or engine in use. -/

/-- The registers after a swap, the new identifier, and the events of the commit. -/
def swapTaken : Dev :=
  let d2 := (d.swapped.wr Reg.GLB_IMG_ACTIVE_ID (d.rd Reg.GLB_IMG_SHADOW_ID)).updCommit (fun c => { c with swap := false })
  (d2.bset Reg.GLB_COMMIT_CTRL 0 d2.commit.arm.isSome).commitEvent 3

/-- The pulse output that a swap turns off with its enable (R63). -/
def ppsSwapped (d : Dev) : Dev := if d.bget Reg.PTP_CFG 31 then d else d.ppsDrive false

theorem queueSwap_same {d : Dev} (ht : d.tabs = []) (hs : d.shTabs = []) : d.queueSwap = d := by
  have hkeys (id : Nat) : d.bothKeys id = [] := by simp [bothKeys, ht, hs]
  unfold queueSwap
  simp only [hkeys]
  rfl
theorem slotEnd_same {d : Dev} (h : d.slices = []) : d.slotEnd [] = d := by
  unfold slotEnd
  simp [h]

theorem commitEvent_low {d : Dev} (h : LowKeys d) (i : Nat) : LowKeys (d.commitEvent i) := h.event (by decide) i 17

theorem lowKeys_swapTaken {d : Dev} (h : LowKeys d) (hs : ∀ p ∈ d.shadow, p.1 < 0x01000000) : LowKeys d.swapTaken := by
  have hnew : LowKeys (d.swapped.wr Reg.GLB_IMG_ACTIVE_ID (d.rd Reg.GLB_IMG_SHADOW_ID)) := (lowKeys_swapped h hs).wr (by decide) _
  have hset : LowKeys ((d.swapped.wr Reg.GLB_IMG_ACTIVE_ID (d.rd Reg.GLB_IMG_SHADOW_ID)).updCommit (fun c => { c with swap := false })) := hnew
  exact commitEvent_low (hset.wr (by decide) _) 3

/-- The device without what a swap changes where nothing is in use. -/
def besideSwap (d : Dev) : Dev := { d.beside with time := {}, commit := {}, tabs := [] }

/-- The device whose buckets and host queues follow the swap. -/
def swapBegun : Dev :=
  let metered : List Nat := (d.tabs.filter (fun p => p.1 / 2 ^ 28 == 0x0512)).map (fun p => p.1 / 2 ^ 20 % 256)
  ((d.spars.map (·.1) ++ metered).eraseDups.foldl metersAge d).queueSwap

/-- The bad entries of the old bank forgotten. -/
def oldBadCleared (d : Dev) : Dev :=
  { d with spars := d.spars.map (fun p => (p.1, { p.2 with badEntries := p.2.badEntries.filter (fun e => !e.2) })) }

theorem oldBadCleared_same {d : Dev} (hp : d.spars = []) : d.oldBadCleared = d := by
  rw [oldBadCleared, hp, List.map_nil, ← hp]

/-- What a swap does in ports, lanes, engines, spars and the interrupt controller once the registers are taken. -/
def swapFollows (old d : Dev) : Dev :=
  let ns := (old.busySpars ++ d.busySpars).eraseDups
  let ls := ns.flatMap (fun n => (upto 8).map (fun i => 8 * n + i))
  let d4 := ls.foldl (fun x p => portSwap old x p) (ls.foldl (fun x l => laneSwap old x l) d)
  let d5 := (d4.engines.map (·.1)).foldl (fun x e => engineSwap old x e) d4
  let d6 := d5.oldBadCleared
  let d7 := (d6.spars.map (·.1)).foldl inSync (d6.slotEnd [])
  let d8 := (d7.upPorts.foldl ownerSync d7).pauseSyncAll
  (irqSwap old d8.ppsSwapped).irqSyncAll

theorem swapNow_eq : d.swapNow = swapFollows d d.swapBegun.swapTaken := rfl

theorem swapBegun_same {d : Dev} (ht : d.tabs = []) (hs : d.shTabs = []) (hp : d.spars = []) : d.swapBegun = d := by
  unfold swapBegun
  rw [ht, hp]
  exact queueSwap_same ht hs

theorem swapFollows_unused {old d : Dev} (ho : LowKeys old) (hd : LowKeys d) (hp : d.spars = []) (hs : d.slices = []) (he : d.engines = []) :
    swapFollows old d = (irqSwap old d.ppsSwapped).irqSyncAll := by
  unfold swapFollows
  simp only [ho.busySpars, hd.busySpars, List.append_nil, List.eraseDups_nil, List.flatMap_nil, List.foldl_nil, he, List.map_nil,
    oldBadCleared_same hp, hp, slotEnd_same hs, pauseSyncAll, hd.upPorts]

/-- The registers that a swap writes besides those of class B. -/
def swapRegs (a : Nat) : Prop := a = Reg.GLB_IMG_ACTIVE_ID ∨ a = Reg.GLB_COMMIT_CTRL ∨ a = Reg.GLB_COMMIT_STATUS

theorem swapTaken_regFrame : RegFrame swapRegs (d.swapped.updCommit (fun c => { c with swap := false })) d.swapTaken :=
  (wr_regFrame _ (.inl rfl) _).trans ((bset_regFrame _ (.inr (.inl rfl)) 0 _).trans (event_regFrame _ (.inr (.inr rfl)) 3 17))

theorem swapTaken_post : d.swapTaken.rd Reg.GLB_IMG_ACTIVE_ID = d.rd Reg.GLB_IMG_SHADOW_ID ∧
    d.swapTaken.bget Reg.GLB_COMMIT_CTRL 0 = d.commit.arm.isSome ∧ d.swapTaken.bget Reg.GLB_COMMIT_STATUS 3 = true := by
  unfold swapTaken
  refine ⟨?_, ?_, bget_commitEvent _ (by decide)⟩
  · dsimp only
    rw [rd_commitEvent_ne _ _ (by decide) (by decide), rd_bset_ne _ _ _ (by decide)]
    exact rd_wr_same _ _ _
  · dsimp only
    rw [bget, rd_commitEvent_ne _ _ (by decide) (by decide), ← bget, bget_bset_same _ _ _ _ (by decide)]
    rfl

theorem irqSwap_frame (old : Dev) : IrqFrame d (irqSwap old d) :=
  .trans (foldl_frame _ (fun x t => requestOut_frame x t _) _ d) (foldl_frame _ cameToQualify_frame _ _)
theorem irqSwap_mod (old : Dev) : ModFrame d (irqSwap old d) :=
  .trans (.foldl _ (fun x t => requestOut_mod x t _) _ d) (.foldl _ cameToQualify_mod _ _)

theorem ppsSwapped_same : d.ppsSwapped.regs = d.regs ∧ d.ppsSwapped.commit = d.commit ∧ d.ppsSwapped.besideSwap = d.besideSwap := by
  unfold ppsSwapped ppsDrive
  split
  · exact ⟨rfl, rfl, rfl⟩
  split <;> exact ⟨rfl, rfl, rfl⟩

/-- The device after a swap where nothing is in use. -/
theorem swapNow_post {d : Dev} (h : d.Unused) : LowKeys d.swapNow ∧
    (∀ a, ¬ swapRegs a → ¬ isPend a → d.swapNow.rd a = d.swapped.rd a) ∧ d.swapNow.rd Reg.GLB_IMG_ACTIVE_ID = d.rd Reg.GLB_IMG_SHADOW_ID ∧
    d.swapNow.bget Reg.GLB_COMMIT_CTRL 0 = d.commit.arm.isSome ∧ d.swapNow.bget Reg.GLB_COMMIT_STATUS 3 = true ∧
    d.swapNow.commit = { d.commit with swap := false } ∧ d.swapNow.besideSwap = d.besideSwap := by
  obtain ⟨hregs, hshadow, -, htabs, hshTabs, hspars, hslices, hengines, -⟩ := h
  have hlow : LowKeys d.swapTaken := lowKeys_swapTaken hregs (fun p hp => (hshadow p hp).1)
  obtain ⟨hactive, hctrl, hstatus⟩ := swapTaken_post d
  obtain ⟨hrd, hbeside⟩ := swapTaken_regFrame d
  have hbegun : (d.swapped.updCommit (fun c => { c with swap := false })).besideSwap = d.besideSwap := rfl
  have hcommit : d.swapTaken.commit = { d.commit with swap := false } := (congrArg Dev.commit hbeside :)
  have hother : d.swapTaken.besideSwap = d.besideSwap := (congrArg besideSwap hbeside :).trans hbegun
  have hnow : d.swapNow = (irqSwap d d.swapTaken.ppsSwapped).irqSyncAll := by
    rw [swapNow_eq, swapBegun_same htabs hshTabs hspars]
    exact swapFollows_unused hregs hlow ((congrArg Dev.spars hother :).trans hspars) ((congrArg Dev.slices hother :).trans hslices)
      ((congrArg Dev.engines hother :).trans hengines)
  rw [hnow]
  generalize d.swapTaken = e at *
  obtain ⟨hpregs, hpcommit, hpother⟩ := ppsSwapped_same e
  have hframe : IrqFrame e.ppsSwapped (irqSwap d e.ppsSwapped).irqSyncAll := (irqSwap_frame _ d).trans (irqSyncAll_frame _)
  have hlow' : LowKeys (irqSwap d e.ppsSwapped).irqSyncAll := ((hlow.of_regs hpregs).of_mod (irqSwap_mod _ d)).irqSyncAll
  generalize (irqSwap d e.ppsSwapped).irqSyncAll = f at *
  have hrd' (a : Nat) (ha : ¬ isPend a) : f.rd a = e.rd a := (hframe.rd a ha).trans (by rw [rd, rd, hpregs])
  have hglb (a : Nat) (ha : a < 0x1000) : f.rd a = e.rd a := hrd' a (not_isPend_glb ha)
  refine ⟨hlow', fun a h1 h2 => (hrd' a h2).trans (hrd a h1 h2), (hglb _ (by decide)).trans hactive, ?_, ?_,
    hframe.commit.trans (hpcommit.trans hcommit), (congrArg besideSwap hframe.beside :).trans (hpother.trans hother)⟩
  · rw [bget, hglb _ (by decide), ← bget, hctrl]
  · rw [bget, hglb _ (by decide), ← bget, hstatus]

/-! The start of a period where no spar, engine or DMA channel is in use. -/

/-- Every register written that is not in its reset state lies below the spars or is a wall stage's status. -/
def StatusKeys (d : Dev) : Prop := ∀ p ∈ d.regs, p.1 < 0x01000000 ∨ ∃ n < 128, p.1 = Reg.WALL_STATUS n

theorem StatusKeys.wr {d : Dev} (h : StatusKeys d) {a : Nat} (ha : a < 0x01000000 ∨ ∃ n < 128, a = Reg.WALL_STATUS n) (v : Word) :
    StatusKeys (d.wr a v) := by
  intro p hp
  obtain ⟨rfl, -⟩ | hp := SMap.mem_set _ hp
  · exact ha
  · exact h p hp
theorem StatusKeys.foldl_bset (i : Nat) (b : Bool) : ∀ (l : List Nat) (d : Dev), (∀ n ∈ l, n < 128) → StatusKeys d →
    StatusKeys (l.foldl (fun x n => x.bset (Reg.WALL_STATUS n) i b) d)
  | [], _, _, h => h
  | n :: l, _, hl, h => foldl_bset i b l _ (fun m hm => hl m (List.mem_cons_of_mem _ hm)) (h.wr (.inr ⟨n, hl n List.mem_cons_self, rfl⟩) _)

/-- No wall stage is enabled. -/
theorem StatusKeys.wallSpars {d : Dev} (h : StatusKeys d) : d.wallSpars = [] := by
  unfold Dev.wallSpars
  rw [List.filter_eq_nil_iff]
  intro n hn
  rw [busySpars, List.mem_eraseDups, List.mem_map] at hn
  obtain ⟨p, hp, rfl⟩ := hn
  obtain ⟨hp, hge⟩ := List.mem_filter.mp hp
  have hge := of_decide_eq_true hge
  obtain hlt | ⟨n, hn, he⟩ := h p hp
  · omega
  have hidx : (p.1 - 0x01000000) / 0x40000 = n := by
    rw [he, Reg.WALL_STATUS, Reg.spar]
    omega
  have hreset : d.rd (Reg.WALL_CFG n) = Reg.resetVal (Reg.WALL_CFG n) := by
    by_contra hne
    obtain hlt | ⟨m, -, he⟩ := h _ (SMap.mem_of_get Reg.resetVal _ hne)
    · simp only [Reg.WALL_CFG, Reg.spar] at hlt
      omega
    · simp only [Reg.WALL_CFG, Reg.WALL_STATUS, Reg.spar] at he
      omega
  rw [hidx, bget, hreset, resetVal_wallCfg n hn]
  decide

/-- The registers that the wall stages write where none is enabled. -/
def wallIdleRegs (a : Nat) : Prop := a = Reg.FLT_STATUS ∨ ∃ n < 128, a = Reg.WALL_STATUS n

theorem foldl_wallStatus_regFrame (b : Bool) : ∀ (l : List Nat) (d : Dev), (∀ n ∈ l, n < 128) →
    RegFrame wallIdleRegs d (l.foldl (fun x n => x.bset (Reg.WALL_STATUS n) 16 b) d)
  | [], d, _ => .refl d
  | n :: l, d, h => (bset_regFrame d (.inr ⟨n, h n List.mem_cons_self, rfl⟩) 16 b).trans
      (foldl_wallStatus_regFrame b l _ (fun m hm => h m (List.mem_cons_of_mem _ hm)))

theorem wallSafe_idle {d : Dev} (h : StatusKeys d) : RegFrame wallIdleRegs d d.wallSafe ∧ StatusKeys d.wallSafe := by
  have hl : ∀ n ∈ upto 128, n < 128 := fun n hn => List.mem_range.mp hn
  have hkeys (b : Bool) : StatusKeys ((upto 128).foldl (fun x n => x.bset (Reg.WALL_STATUS n) 16 b) (d.bset Reg.FLT_STATUS 2 b)) :=
    .foldl_bset _ _ _ _ hl (h.wr (.inl (by decide)) _)
  have hframe (b : Bool) : RegFrame wallIdleRegs d
      ((upto 128).foldl (fun x n => x.bset (Reg.WALL_STATUS n) 16 b) (d.bset Reg.FLT_STATUS 2 b)) :=
    (bset_regFrame d (.inl rfl) 2 b).trans (foldl_wallStatus_regFrame b _ _ hl)
  unfold wallSafe
  dsimp only
  split
  · exact ⟨.refl d, h⟩
  split
  · exact ⟨hframe _, hkeys _⟩
  · rw [(hkeys _).wallSpars, List.foldl_nil]
    exact ⟨hframe _, hkeys _⟩

theorem wallPeriod_idle {d : Dev} (h : LowKeys d) (hp : d.spars = []) (he : d.engines = []) : RegFrame wallIdleRegs d d.wallPeriod := by
  have hkeys : StatusKeys d := fun p hp => .inl (h p hp)
  have hmark : d.wallMark = d := by
    rw [wallMark_eq, boundaryPubs, hkeys.wallSpars, sessionPubs, he]
    rfl
  obtain ⟨hframe, hsafe⟩ := wallSafe_idle hkeys
  unfold wallPeriod
  rw [hmark, hp]
  simp only [List.map_nil, List.foldl_nil, hsafe.wallSpars]
  exact hframe

theorem lineRaise_idle {d : Dev} (h : d.host.dmas = []) (l : Nat) : d.lineRaise l = d := by
  rw [lineRaise, h]
  rfl

/-- The device without the boundary's time, the gating of clocks and what an event changes. -/
def besideIdle (d : Dev) : Dev := { d.beside with time := {}, gated := [] }

theorem periodBegun_idle {d : Dev} (h : LowKeys d) (hp : d.spars = []) (he : d.engines = []) (hd : d.host.dmas = []) (changed : Bool) :
    (∀ a, ¬ wallIdleRegs a → ¬ isPend a → (d.periodBegun changed).rd a = d.rd a) ∧ (d.periodBegun changed).besideIdle = d.besideIdle := by
  have hwall := wallPeriod_idle (d := d.nextPlaced changed) h hp he
  have hdmas : ((d.nextPlaced changed).wallPeriod).keepUngated.host.dmas = [] :=
    (congrArg (fun x : Dev => x.host.dmas) hwall.beside :).trans hd
  have hframe := irqEdge_frame ((d.nextPlaced changed).wallPeriod).keepUngated 20
  unfold periodBegun
  rw [periodStart_eq, lineRaise_idle hdmas]
  refine ⟨fun a h1 h2 => (hframe.rd a h2).trans (hwall.rd a h1 h2), (congrArg besideIdle hframe.beside :).trans ?_⟩
  exact (congrArg besideIdle hwall.beside :)


theorem not_swapRegs_classB {a : Nat} (h : clsAt a = .B) : ¬ swapRegs a := by
  rintro (rfl | rfl | rfl) <;> exact absurd h (by decide)
theorem not_wallIdleRegs_classB {a : Nat} (h : clsAt a = .B) : ¬ wallIdleRegs a := by
  rintro (rfl | ⟨n, hn, rfl⟩)
  · exact clsAt_fltStatus h
  · exact clsAt_wallStatus n hn h
theorem not_wallIdleRegs_glb {a : Nat} (h : a < 0x1000) : ¬ wallIdleRegs a := by
  rintro (rfl | ⟨n, -, rfl⟩)
  · exact absurd h (by decide)
  · exact absurd (spar_past n 0x38010) (Nat.not_le.mpr h)

/-- A boundary's time and count leave a device that nothing uses as unused as it was. -/
theorem unused_boundaryStamped {d : Dev} (h : d.Unused) : d.boundaryStamped.Unused := by
  obtain ⟨hregs, hrest⟩ := h
  have hreached : LowKeys d.timeReached := LowKeys.of_regs (d := d) hregs rfl
  have hlow : LowKeys d.timeStamped := by
    unfold timeStamped
    exact ((hreached.wr (by decide) _).wr (by decide) _).wr (by decide) _
  have hbeside := (boundaryStamped_post d).2.2.2.2.2
  have hlow' : LowKeys d.boundaryStamped := by
    rw [boundaryStamped_eq]
    generalize d.timeStamped = e at *
    have hevent : LowKeys (if d.time.stepped then e.periodEvent 3 else e) := by
      split
      · exact hlow.event (by decide) _ _
      · exact hlow
    exact hevent.of_regs rfl
  refine ⟨hlow', ?_⟩
  rw [show d.boundaryStamped.shadow = d.shadow from (congrArg Dev.shadow hbeside :),
    show d.boundaryStamped.tabs = d.tabs from (congrArg Dev.tabs hbeside :),
    show d.boundaryStamped.shTabs = d.shTabs from (congrArg Dev.shTabs hbeside :),
    show d.boundaryStamped.spars = d.spars from (congrArg Dev.spars hbeside :),
    show d.boundaryStamped.slices = d.slices from (congrArg Dev.slices hbeside :),
    show d.boundaryStamped.engines = d.engines from (congrArg Dev.engines hbeside :),
    show d.boundaryStamped.host.dmas = d.host.dmas from (congrArg (fun x : Dev => x.host.dmas) hbeside :)]
  exact hrest

end Dev
end Machine

open Machine.Dev

/-- Settles O26: the swap takes the class B registers from the shadow, and what follows it writes none of class B. -/
theorem boundarySwaps : Obligations.BoundarySwaps := by
  unfold Obligations.BoundarySwaps
  intro s hs hunused hsrc hswap hready hjob hentry
  obtain ⟨hcount, -, -, hcommit, -, hbeside⟩ := boundaryStamped_post s.toDev
  have hglb {a : Nat} (ha : a < 0x1000) (h : ¬ boundaryRegs a) := rd_boundaryStamped_ne s.toDev h (not_isPend_glb ha)
  have hstamped := unused_boundaryStamped hunused
  have hnow := boundaryNow_eq hsrc
  generalize s.boundaryStamped = d at *
  have hstamped' := hstamped
  obtain ⟨-, hshadow, hwf, -, -, hspars, -, hengines, hdmas⟩ := hstamped'
  have hswapped : d.commit.swap = true := by rw [hcommit, ← hswap]
  simp only [hswapped, if_true] at hnow
  have hpost := swapNow_post hstamped
  generalize d.swapNow = e at *
  obtain ⟨hlow, hrd, hactive, hctrl, hstatus, hcommit2, hother⟩ := hpost
  have hidle := periodBegun_idle hlow ((congrArg Dev.spars hother :).trans hspars) ((congrArg Dev.engines hother :).trans hengines)
    ((congrArg (fun x : Dev => x.host.dmas) hother :).trans hdmas)
  generalize (e.rateN != d.rateN || e.rateD != d.rateD) = changed at hnow
  obtain ⟨hrd2, hother2⟩ := hidle changed
  generalize e.periodBegun changed = p at *
  have hcommit3 : p.commit = { s.commit with window := false, swap := false } :=
    (congrArg Dev.commit hother2 :).trans (hcommit2.trans (by rw [hcommit]))
  have hkeep {α : Type} (g : Dev → α) (h1 : ∀ x : Dev, g x = g x.besideIdle) (h2 : ∀ x : Dev, g x = g x.besideSwap)
      (h3 : ∀ x : Dev, g x = g x.besideBoundary) : g p = g s.toDev := by
    rw [h1, hother2, ← h1, h2, hother, ← h2, h3, hbeside, ← h3]
  have hloader : p.loader = s.loader := hkeep Dev.loader (fun _ => rfl) (fun _ => rfl) (fun _ => rfl)
  have hisland : p.island = s.island := hkeep Dev.island (fun _ => rfl) (fun _ => rfl) (fun _ => rfl)
  rw [boundaryWaits_same p (by rw [hcommit3, ← hready]) (by rw [hloader, hjob]) (by rw [hisland, hentry])] at hnow
  have hfault := hkeep Dev.fault (fun _ => rfl) (fun _ => rfl) (fun _ => rfl)
  have hsh := hkeep Dev.shadow (fun _ => rfl) (fun _ => rfl) (fun _ => rfl)
  have hshadow2 : d.shadow = s.shadow := (congrArg Dev.shadow hbeside :)
  have hglb2 {a : Nat} (ha : a < 0x1000) : p.rd a = e.rd a :=
    hrd2 a (not_wallIdleRegs_glb ha) (not_isPend_glb ha)
  have hclassB (a : Nat) (r : RegDef) (hr : Reg.at? a = some r) (hB : r.cls = .B) : p.rd a = s.rdSh a := by
    have hcls : clsAt a = .B := by rw [clsAt, hr, ← hB]
    have hpend := not_isPend_classB hcls
    rw [hrd2 a (not_wallIdleRegs_classB hcls) hpend, hrd a (not_swapRegs_classB hcls) hpend, rd_swapped_classB hwf hcls, rdSh, rdSh, hshadow2]
  have hid : p.rd Reg.GLB_IMG_ACTIVE_ID = s.rd Reg.GLB_IMG_SHADOW_ID := by
    rw [hglb2 (by decide), hactive, hglb (by decide) (by unfold boundaryRegs; decide)]
  have harm : p.bget Reg.GLB_COMMIT_CTRL 0 = s.commit.arm.isSome := by
    rw [bget, hglb2 (by decide), ← bget, hctrl, hcommit]
  have hdone : p.bget Reg.GLB_COMMIT_STATUS 3 = true := by
    rw [bget, hglb2 (by decide), ← bget, hstatus]
  have hcounted : p.rd Reg.GLB_PERIOD_COUNT = wd s.comingCount := by
    rw [hglb2 (by decide), hrd _ (by unfold swapRegs; decide) (not_isPend_glb (by decide)),
      rd_swapped_ne hwf (fun q hq => (hshadow q hq).2) (by decide), hcount]
  exact runs_boundary hs hnow hfault ⟨hclassB, hsh, hid, hcommit3, harm, hdone, hcounted⟩

end Sys2Proof

/-!
SUPPORT. A slot of the core reads the time base and the frequency word and writes neither before its last step (R60): one equation for
each operation of the slot.
-/
namespace Sys2Proof

open Machine

namespace Machine.Dev

/-- The time base and the frequency word. -/
def clock (d : Dev) : TimeBase × Word := (d.time, d.rd Reg.PTP_FREQ)

variable (d : Dev)

/-! State updates. -/

@[simp] theorem clock_updPort (p : Nat) (f : Port → Port) : (d.updPort p f).clock = d.clock := Prod.ext rfl rfl
@[simp] theorem clock_updSpar (n : Nat) (f : Spar → Spar) : (d.updSpar n f).clock = d.clock := Prod.ext rfl rfl
@[simp] theorem clock_updSlice (m : Nat) (f : Slice → Slice) : (d.updSlice m f).clock = d.clock := Prod.ext rfl rfl
@[simp] theorem clock_updLink (n : Nat) (f : Link → Link) : (d.updLink n f).clock = d.clock := Prod.ext rfl rfl
@[simp] theorem clock_emit (o : Output) : (d.emit o).clock = d.clock := Prod.ext rfl rfl
@[simp] theorem clock_cntAdd (a n : Nat) : (d.cntAdd a n).clock = d.clock := Prod.ext rfl rfl
@[simp] theorem clock_inc (a : Nat) : (d.inc a).clock = d.clock := Prod.ext rfl rfl
@[simp] theorem clock_flag (src detail : Nat) (inj grey : Bool) (aux : Nat) : (d.flag src detail inj grey aux).clock = d.clock := Prod.ext rfl rfl
@[simp] theorem clock_tabSet (id n k : Nat) (ws : List Word) : (d.tabSet id n k ws).clock = d.clock := Prod.ext rfl rfl
@[simp] theorem clock_ungateIf (p : Block → Bool) : (d.ungateIf p).clock = d.clock := Prod.ext rfl rfl
@[simp] theorem clock_ungateEgress (o : Nat) : (d.ungateEgress o).clock = d.clock := Prod.ext rfl rfl
@[simp] theorem clock_ite (c : Prop) [Decidable c] (x y : Dev) : (if c then x else y).clock = if c then x.clock else y.clock := by
  split <;> rfl
/-- Operations that each keep the clock keep it in a row. -/
@[simp] theorem clock_foldl {α : Type} {f : Dev → α → Dev} (hf : ∀ d a, (f d a).clock = d.clock) (l : List α) (d : Dev) :
    (l.foldl f d).clock = d.clock := foldl_keeps clock f hf l d

/-- The same where the list bounds what they are given. -/
theorem clock_foldl_mem {α : Type} {f : Dev → α → Dev} : ∀ {l : List α} (d : Dev), (∀ a ∈ l, ∀ d, (f d a).clock = d.clock) →
    (l.foldl f d).clock = d.clock
  | [], _, _ => rfl
  | a :: _, d, hf => (clock_foldl_mem _ (fun b hb => hf b (List.mem_cons_of_mem _ hb))).trans (hf a List.mem_cons_self d)

/-! Registers other than the frequency word, and events. -/

/-- The registers of the spars lie past the frequency word. -/
theorem ne_ptpFreq_of_le {a : Nat} (h : 0x01000000 ≤ a) : a ≠ Reg.PTP_FREQ := Nat.ne_of_gt (Nat.lt_of_lt_of_le (by decide) h)
theorem spar_ne_ptpFreq (n r : Nat) : Reg.spar n + r ≠ Reg.PTP_FREQ :=
  ne_ptpFreq_of_le (Nat.le_trans (Nat.le_add_right _ _) (Nat.le_add_right _ r))
theorem mac_ne_ptpFreq (p r : Nat) : Reg.mac p + r ≠ Reg.PTP_FREQ := by
  rw [Reg.mac, Nat.add_assoc, Nat.add_assoc]
  exact spar_ne_ptpFreq _ _
theorem halyard_ne_ptpFreq (n : Nat) : Reg.STK_HL_STATUS n ≠ Reg.PTP_FREQ := by
  simp only [Reg.STK_HL_STATUS, Reg.PTP_FREQ]
  omega

section
variable {a : Nat} (h : a ≠ Reg.PTP_FREQ)
include h

theorem clock_wr (v : Word) : (d.wr a v).clock = d.clock := Prod.ext rfl (rd_wr_ne d v h.symm)
theorem clock_event (i src : Nat) : (d.event a i src).clock = d.clock :=
  Prod.ext (event_frame d a i src).time (rd_event_ne d a i src h.symm (not_isPend_ptp (by decide)))

end

theorem clock_fset_spar (n r hi lo v : Nat) : (d.fset (Reg.spar n + r) hi lo v).clock = d.clock := clock_wr d (spar_ne_ptpFreq n r) _
@[simp] theorem clock_disarm : d.disarm.clock = d.clock := clock_wr d (by decide) _
@[simp] theorem clock_macEvent (p i : Nat) : (d.macEvent p i).clock = d.clock := clock_event d (mac_ne_ptpFreq p _) i _
@[simp] theorem clock_prsEvent (n i : Nat) : (d.prsEvent n i).clock = d.clock := clock_event d (spar_ne_ptpFreq n _) i _
@[simp] theorem clock_bufEvent (n i : Nat) : (d.bufEvent n i).clock = d.clock := clock_event d (spar_ne_ptpFreq n _) i _
@[simp] theorem clock_coreEvent (n i : Nat) : (d.coreEvent n i).clock = d.clock := clock_event d (spar_ne_ptpFreq n _) i _
@[simp] theorem clock_eqEvent (n i : Nat) : (d.eqEvent n i).clock = d.clock := clock_event d (spar_ne_ptpFreq n _) i _
@[simp] theorem clock_telEvent (n i : Nat) : (d.telEvent n i).clock = d.clock := clock_event d (spar_ne_ptpFreq n _) i _
@[simp] theorem clock_wallEvent (n i : Nat) : (d.wallEvent n i).clock = d.clock := clock_event d (spar_ne_ptpFreq n _) i _

/-! Pauses, buffers and sequence numbers (R102, R149, R150, R187). -/

@[simp] theorem clock_pfcSend (p c timer : Nat) : (d.pfcSend p c timer).clock = d.clock := by
  unfold pfcSend
  split <;> rfl
@[simp] theorem clock_pauseSync (p : Nat) : (d.pauseSync p).clock = d.clock := by
  unfold pauseSync
  simp
@[simp] theorem clock_ownerSync (o : Nat) : (d.ownerSync o).clock = d.clock := by
  unfold ownerSync
  simp
@[simp] theorem clock_sliceSettle (m : Nat) : (d.sliceSettle m).clock = d.clock := by
  unfold sliceSettle
  dsimp only
  split
  · exact clock_fset_spar _ m _ _ _ _
  · rfl
@[simp] theorem clock_slotEnd (owners : List Nat) : (d.slotEnd owners).clock = d.clock := by
  unfold slotEnd
  simp [pauseSyncAll]

/-- An injected error changes the injection register alone. -/
@[simp] theorem clock_injected (src : Nat) (e : Ecc) : (d.injected src e).2.2.clock = d.clock := by
  unfold injected
  split
  · exact clock_disarm d
  · rfl
@[simp] theorem clock_descCheck (m : Nat) : (d.descCheck m).clock = d.clock := by
  have h := clock_injected d (65 + 3 * m) .good
  unfold descCheck
  generalize d.injected (65 + 3 * m) .good = x at *
  obtain ⟨err, inj, e⟩ := x
  cases err <;> simpa using h
@[simp] theorem clock_decRef (m i n : Nat) : (d.decRef m i n).clock = d.clock := by
  unfold decRef
  dsimp only
  split <;> simp
@[simp] theorem clock_copiesGone (c : Cell) (n : Nat) : (d.copiesGone c n).clock = d.clock := by
  unfold copiesGone
  simp
@[simp] theorem clock_setExp (i q v : Nat) : (d.setExp i q v).clock = d.clock := Prod.ext rfl rfl
@[simp] theorem clock_mcPrune (m : Nat) : (d.mcPrune m).clock = d.clock := Prod.ext rfl rfl
@[simp] theorem clock_discardRest (c : Cell) : (d.discardRest c).clock = d.clock := by
  unfold discardRest
  simp
@[simp] theorem clock_countFlush (q : Nat) : (d.countFlush q).clock = d.clock := by
  unfold countFlush
  split
  · refine clock_wr d ?_ _
    rw [Reg.MAC_FLUSH_CNT, Nat.add_assoc]
    exact mac_ne_ptpFreq _ _
  · simp
@[simp] theorem clock_linkHole (m : Nat) (c : Cell) : (d.linkHole m c).clock = d.clock := by
  unfold linkHole
  simp
@[simp] theorem clock_storeCell (m i : Nat) (c : Cell) (mgmt : Bool) : (d.storeCell m i c mgmt).clock = d.clock := Prod.ext rfl rfl
@[simp] theorem clock_allocCell (m : Nat) (c : Cell) : (d.allocCell m c).clock = d.clock := by
  unfold allocCell
  dsimp only
  split
  · simp
  · split <;> simp
@[simp] theorem clock_linkArriving (m : Nat) : (d.linkArriving m).clock = d.clock := by
  unfold linkArriving
  split <;> simp
@[simp] theorem clock_linkSlot (m : Nat) : (d.linkSlot m).clock = d.clock := clock_linkArriving d m

/-! Frames that leave (R196, R199, R212, R214). -/

@[simp] theorem clock_pathLoss (row mask : Nat) : (d.pathLoss row mask).clock = d.clock := by
  unfold pathLoss
  simp
@[simp] theorem clock_puntTake (n p reason : Nat) : (d.puntTake n p reason).2.clock = d.clock := by
  unfold puntTake
  dsimp only
  split <;> simp
@[simp] theorem clock_directly (n : Nat) (r : Result) : (d.directly n r).2.clock = d.clock := by
  unfold directly
  split <;> simp
@[simp] theorem clock_punt (n : Nat) (f : Frame) (reason cls colour rule : Nat) (marks : List Nat) :
    (d.punt n f reason cls colour rule marks).clock = d.clock := by
  unfold punt
  simp
@[simp] theorem clock_ptpEgress (p tx : Nat) (r : Result) (marks : List Nat) (b : Bytes) : (d.ptpEgress p tx r marks b).2.clock = d.clock := by
  unfold ptpEgress
  dsimp only
  split
  · rfl
  · split <;> simp
@[simp] theorem clock_telCount (p q s : Nat) : (d.telCount p q s).clock = d.clock := by
  unfold telCount
  simp
@[simp] theorem clock_postcardSend (n p : Nat) (bs : Bytes) : (d.postcardSend n p bs).clock = d.clock := by
  unfold postcardSend
  dsimp only
  split <;> simp
@[simp] theorem clock_postcard (p q s tx : Nat) (r : Result) (marked cut stomp : Bool) :
    (d.postcard p q s tx r marked cut stomp).clock = d.clock := by
  have hseq (e : Dev) (v : Word) : (e.wr (Reg.TEL_PC_SEQ (p / 8)) v).clock = e.clock := clock_wr e (spar_ne_ptpFreq _ _) v
  unfold postcard
  simp [hseq]
@[simp] theorem clock_deficitSync (p q : Nat) : (d.deficitSync p q).clock = d.clock := by
  unfold deficitSync
  simp
@[simp] theorem clock_chargeFrame (p q len sent : Nat) : (d.chargeFrame p q len sent).clock = d.clock := by
  unfold chargeFrame
  simp
@[simp] theorem clock_sendFrame (p q : Nat) (cells : List Cell) (cut stomp : Bool) (tx sent : Nat) :
    (d.sendFrame p q cells cut stomp tx sent).clock = d.clock := by
  unfold sendFrame
  simp
@[simp] theorem clock_cutEnd (p : Nat) (off : Bool) : (d.cutEnd p off).clock = d.clock := by
  unfold cutEnd
  split <;> simp
@[simp] theorem clock_stageIn (q : Nat) (c : Cell) : (d.stageIn q c).clock = d.clock := by
  unfold stageIn
  simp
@[simp] theorem clock_shaperTick (p : Nat) : (d.shaperTick p).clock = d.clock := by
  unfold shaperTick
  simp

/-! Halyard links (R427). -/

@[simp] theorem clock_hlSend (n kind ncell : Nat) (body : Bytes) : (d.hlSend n kind ncell body).clock = d.clock := by
  have hstatus (e : Dev) (v : Nat) : (e.fset (Reg.STK_HL_STATUS n) 6 0 v).clock = e.clock := clock_wr e (halyard_ne_ptpFreq n) _
  simp [hlSend, hstatus]
@[simp] theorem clock_linkSend (n : Nat) : (d.linkSend n).clock = d.clock := by
  unfold linkSend
  simp

/-! The output stage (R187, R192 to R195). -/

@[simp] theorem clock_toChecked (o : Nat) (c : Cell) : (d.toChecked o c).clock = d.clock := Prod.ext rfl rfl
@[simp] theorem clock_copyCell (o : Nat) (c : Cell) : (d.copyCell o c).clock = d.clock := by
  unfold copyCell
  simp
@[simp] theorem clock_checkCell (o : Nat) (c : Cell) : (d.checkCell o c).clock = d.clock := by
  unfold checkCell
  simp
@[simp] theorem clock_releaseHeld (o : Nat) : (d.releaseHeld o).clock = d.clock := by
  unfold releaseHeld
  dsimp only
  split <;> simp
@[simp] theorem clock_tabFrameDrop (o i : Nat) : (d.tabFrameDrop o i).clock = d.clock := Prod.ext rfl rfl
@[simp] theorem clock_tabGap (o : Nat) : (d.tabGap o).clock = d.clock := by
  unfold tabGap
  simp
@[simp] theorem clock_checkTab (o : Nat) (c : TabCell) : (d.checkTab o c).clock = d.clock := by
  unfold checkTab
  simp
@[simp] theorem clock_laneTab (o : Nat) (c : TabCell) : (d.laneTab o c).clock = d.clock := by
  unfold laneTab
  simp
@[simp] theorem clock_outputSlot (o : Nat) : (d.outputSlot o).clock = d.clock := by
  unfold outputSlot
  simp

/-! Stage two (R178, R182 to R186). -/

@[simp] theorem clock_cellRead (m : Nat) (c : Cell) : (d.cellRead m c).2.clock = d.clock := by
  have h := clock_injected d 26 .good
  unfold cellRead
  generalize d.injected 26 .good = x at *
  obtain ⟨err, inj, e⟩ := x
  cases err <;> simpa using h
@[simp] theorem clock_crossVoq (m o q : Nat) (e : VEntry) (c : Cell) : (d.crossVoq m o q e c).clock = d.clock := by
  cases e <;> simp [crossVoq]
@[simp] theorem clock_crossMc (m o k : Nat) (e : VEntry) (c : Cell) : (d.crossMc m o k e c).clock = d.clock := by
  cases e <;> simp [crossMc]
@[simp] theorem clock_stageTwo (t m : Nat) : (d.stageTwo t m).clock = d.clock := by
  unfold stageTwo
  dsimp only
  repeat' split
  all_goals simp

/-! Stage one (R176 to R181). -/

@[simp] theorem clock_inSync (n : Nat) : (d.inSync n).clock = d.clock := by
  unfold inSync
  simp
@[simp] theorem clock_cross (i m src : Nat) (c : Cell) : (d.cross i m src c).clock = d.clock := by
  unfold cross
  simp
@[simp] theorem clock_crossIn (i m : Nat) (c : Cell) : (d.crossIn i m c).clock = d.clock := by
  unfold crossIn
  simp
@[simp] theorem clock_outletResult (n : Nat) (w : BitVec 64) : (d.outletResult n w).2.clock = d.clock := by
  unfold outletResult
  dsimp only
  split
  · rfl
  · exact clock_directly d n _
@[simp] theorem clock_outletOpen (i : Nat) : (d.outletOpen i).clock = d.clock := by
  unfold outletOpen
  dsimp only
  split
  next w ws _ _ =>
    have h := clock_outletResult d i w.data
    split <;> simp_all
  · rfl
@[simp] theorem clock_crossOut (i m : Nat) (c : Cell) : (d.crossOut i m c).clock = d.clock := clock_cross _ i m 2 _
@[simp] theorem clock_crossInject (i m : Nat) (c : Cell) : (d.crossInject i m c).clock = d.clock := clock_cross _ i m 3 _
@[simp] theorem clock_takeUntabled (i m : Nat) : (d.takeUntabled i m).clock = d.clock := by
  unfold takeUntabled
  dsimp only
  repeat' split
  all_goals simp
@[simp] theorem clock_enterCells (i : Nat) : (d.enterCells i).clock = d.clock := by
  unfold enterCells
  simp
@[simp] theorem clock_stallCount (i : Nat) : (d.stallCount i).clock = d.clock := by
  unfold stallCount
  simp
@[simp] theorem clock_stageOne (t i : Nat) : (d.stageOne t i).clock = d.clock := by
  unfold stageOne
  dsimp only
  split <;> simp

/-! The wall's cells (R192, R193). -/

@[simp] theorem clock_tileUnderrun (n per e : Nat) : (d.tileUnderrun n per e).clock = d.clock := by
  unfold tileUnderrun
  simp
@[simp] theorem clock_wallLate (n : Nat) (c : TabCell) : (d.wallLate n c).clock = d.clock := by
  unfold wallLate
  simp
@[simp] theorem clock_wallExamine (n k : Nat) : (d.wallExamine n k).clock = d.clock := by
  induction k generalizing d with
  | zero => rfl
  | succ k ih =>
    unfold wallExamine
    split
    · rfl
    · simp [ih]

/-- What a slot does before the time base advances. -/
def slotMoved : Dev :=
  let t := d.slot
  let owners := d.slices.filterMap (fun p => p.2.arriving.map (·.owner))
  let d1 := (d.spars.map (·.1)).foldl outputSlot d
  let d2 := (d1.slices.map (·.1)).foldl (fun x m => x.stageTwo t m) d1
  let d3 := ((d2.slices.map (·.1)).foldl linkSlot d2).slotEnd owners
  let d4 := (d3.spars.map (·.1)).foldl (fun x i => (x.stageOne t i).enterCells i) d3
  let d5 := (d4.spars.map (·.1)).foldl (fun x n => x.wallExamine n 8) d4
  d5.namedPorts.foldl shaperTick d5

theorem coreSlot_eq : d.coreSlot = d.slotMoved.tickTime.roundTick := rfl
theorem clock_slotMoved : d.slotMoved.clock = d.clock := by
  unfold slotMoved
  simp

/-! The handling of reports (R386 to R399) keeps the clock as well. -/

@[simp] theorem clock_updLane (l : Nat) (f : Lane → Lane) : (d.updLane l f).clock = d.clock := Prod.ext rfl rfl
@[simp] theorem clock_updEngine (e : Nat) (f : Engine → Engine) : (d.updEngine e f).clock = d.clock := Prod.ext rfl rfl
@[simp] theorem clock_updCtx (e c : Nat) (f : Ctx → Ctx) : (d.updCtx e c f).clock = d.clock := Prod.ext rfl rfl
@[simp] theorem clock_updHost (f : HostQ → HostQ) : (d.updHost f).clock = d.clock := Prod.ext rfl rfl
@[simp] theorem clock_updSq (q : Nat) (f : Sq → Sq) : (d.updSq q f).clock = d.clock := Prod.ext rfl rfl
@[simp] theorem clock_updCq (c : Nat) (f : Cq → Cq) : (d.updCq c f).clock = d.clock := Prod.ext rfl rfl
@[simp] theorem clock_updFn (n : Nat) (f : Fn → Fn) : (d.updFn n f).clock = d.clock := Prod.ext rfl rfl
@[simp] theorem clock_updDma (k : Nat) (f : Dma → Dma) : (d.updDma k f).clock = d.clock := Prod.ext rfl rfl
@[simp] theorem clock_updFault (f : Faults → Faults) : (d.updFault f).clock = d.clock := Prod.ext rfl rfl

theorem clock_irqFrame {d e : Dev} (h : IrqFrame d e) : e.clock = d.clock := Prod.ext h.time (h.rd _ (not_isPend_ptp (by decide)))
@[simp] theorem clock_irqSync (n : Nat) : (d.irqSync n).clock = d.clock := clock_irqFrame (irqSync_frame d n)
@[simp] theorem clock_msix (f v : Nat) : (d.msix f v).clock = d.clock := clock_irqFrame (msix_frame d f v)
@[simp] theorem clock_ceEvent (n i : Nat) : (d.ceEvent n i).clock = d.clock := clock_event d (spar_ne_ptpFreq n _) i _
@[simp] theorem clock_dmaEvent (i : Nat) : (d.dmaEvent i).clock = d.clock := clock_event d (by decide) i _
@[simp] theorem clock_stkEvent (i : Nat) : (d.stkEvent i).clock = d.clock := clock_event d (by decide) i _
@[simp] theorem clock_commitEvent (i : Nat) : (d.commitEvent i).clock = d.clock := clock_event d (by decide) i _

/-- The registers of the other blocks that a report writes lie below the frequency word. -/
theorem ne_ptpFreq_of_lt {a : Nat} (h : a < 0x580008) : a ≠ Reg.PTP_FREQ := Nat.ne_of_lt h

/-! Ports, lanes and links that fall or rise. -/

@[simp] theorem clock_countFlushN (q n : Nat) : (d.countFlushN q n).clock = d.clock := by
  induction n generalizing d with
  | zero => rfl
  | succ n ih =>
    rw [countFlushN, ih, clock_countFlush]
@[simp] theorem clock_mcSkip (q m i : Nat) : (mcSkip q d m i).clock = d.clock := by
  unfold mcSkip
  split <;> simp
@[simp] theorem clock_unlinkQ (m q : Nat) : (d.unlinkQ m q).clock = d.clock := by
  unfold unlinkQ
  simp
@[simp] theorem clock_flushCopies (o q : Nat) : (d.flushCopies o q).clock = d.clock := by
  unfold flushCopies
  simp
@[simp] theorem clock_flushOutput (q : Nat) : (d.flushOutput q).clock = d.clock := by
  unfold flushOutput
  simp
@[simp] theorem clock_dropTabled (p : Nat) : (d.dropTabled p).clock = d.clock := by
  unfold dropTabled
  simp
@[simp] theorem clock_downFlush (p lo hi : Nat) : (d.downFlush p lo hi).clock = d.clock := by
  unfold downFlush
  simp
theorem clock_bset_macStatus (p i : Nat) (b : Bool) : (d.bset (Reg.MAC_STATUS p) i b).clock = d.clock := clock_wr d (mac_ne_ptpFreq p _) _
theorem clock_fset_macStatus (p hi lo v : Nat) : (d.fset (Reg.MAC_STATUS p) hi lo v).clock = d.clock := clock_wr d (mac_ne_ptpFreq p _) _
@[simp] theorem clock_portDown (p : Nat) : (d.portDown p).clock = d.clock := by
  unfold portDown
  simp [clock_bset_macStatus, clock_fset_macStatus]
@[simp] theorem clock_portUp (p : Nat) : (d.portUp p).clock = d.clock := by
  unfold portUp
  simp [clock_bset_macStatus]
@[simp] theorem clock_portEval (p : Nat) : (d.portEval p).clock = d.clock := by
  unfold portEval
  simp
@[simp] theorem clock_linkDown (n : Nat) : (d.linkDown n).clock = d.clock := by
  have hstatus (e : Dev) (v : Word) : (e.wr (Reg.STK_HL_STATUS n) v).clock = e.clock := clock_wr e (halyard_ne_ptpFreq n) v
  unfold linkDown
  simp [hstatus]
@[simp] theorem clock_linkUpH (n : Nat) : (d.linkUpH n).clock = d.clock := by
  have hstatus (e : Dev) : (e.bset (Reg.STK_HL_STATUS n) 31 true).clock = e.clock := clock_wr e (halyard_ne_ptpFreq n) _
  unfold linkUpH linkResend
  simp [hstatus]
@[simp] theorem clock_groupEval (l : Nat) : (d.groupEval l).clock = d.clock := by
  unfold groupEval
  simp
@[simp] theorem clock_laneTo (l st : Nat) : (d.laneTo l st).clock = d.clock := by
  have hstate : (d.fset (Reg.LANE_STATE l) 3 0 st).clock = d.clock := by
    refine clock_wr d ?_ _
    rw [Reg.LANE_STATE, Reg.lane, Nat.add_assoc]
    exact spar_ne_ptpFreq _ _
  rw [laneTo, clock_groupEval, hstate]
@[simp] theorem clock_laneTrain (l : Nat) : (d.laneTrain l).clock = d.clock := by
  unfold laneTrain
  simp
@[simp] theorem clock_linkRetrain (n : Nat) : (d.linkRetrain n).clock = d.clock := by
  unfold linkRetrain
  simp

/-! Completions. -/

@[simp] theorem clock_cqSignal (c : Nat) : (d.cqSignal c).clock = d.clock := by
  unfold cqSignal
  simp
@[simp] theorem clock_postNow (e : Cqe) : (d.postNow e).clock = d.clock := by
  have htail (x : Dev) (v : Word) : (x.wr (Reg.HQ_CQ_TAIL e.cq) v).clock = x.clock :=
    clock_wr x (ne_ptpFreq_of_lt (by simp only [Reg.HQ_CQ_TAIL]; omega)) v
  unfold postNow
  simp [htail]
@[simp] theorem clock_post (e : Cqe) : (d.post e).clock = d.clock := by
  unfold post
  simp
@[simp] theorem clock_sqComplete (q status : Nat) (job result : Word) : (d.sqComplete q status job result).clock = d.clock := by
  unfold sqComplete complete'
  simp
@[simp] theorem clock_sqEnd (q status : Nat) (job result : Word) : (d.sqEnd q status job result).clock = d.clock := by
  have hstopped (e : Dev) : (e.stoppedSync q).clock = e.clock :=
    clock_wr e (ne_ptpFreq_of_lt (by simp only [Reg.HQ_SQ_CTRL]; omega)) _
  unfold sqEnd
  simp [hstopped]
@[simp] theorem clock_dmaEnd (k status : Nat) : (d.dmaEnd k status).clock = d.clock := by
  have hstatus (e : Dev) (v : Word) : (e.wr (Reg.DMA_CH_STATUS k) v).clock = e.clock :=
    clock_wr e (ne_ptpFreq_of_lt (by simp only [Reg.DMA_CH_STATUS]; omega)) v
  unfold dmaEnd
  simp [hstatus]

/-! Engines. -/

@[simp] theorem clock_freeCtx (e k : Nat) : (d.freeCtx e k).clock = d.clock := Prod.ext rfl rfl
@[simp] theorem clock_gangReset (g : Nat) : (d.gangReset g).clock = d.clock := by
  have hstack (x : Stacking) : ({ d with stack := x } : Dev).clock = d.clock := Prod.ext rfl rfl
  exact hstack _
@[simp] theorem clock_jobFail (e k status : Nat) (result : Word) : (d.jobFail e k status result).clock = d.clock := by
  unfold jobFail
  dsimp only
  split <;> simp
@[simp] theorem clock_inletFail (e : Nat) : (d.inletFail e).clock = d.clock := by
  unfold inletFail inletSkip0 inletHalt
  simp
@[simp] theorem clock_routineEnd (e : Nat) : (d.routineEnd e).clock = d.clock := by
  unfold routineEnd
  split <;> simp
@[simp] theorem clock_abandon (e : Nat) (resumed : Bool) : (d.abandon e resumed).clock = d.clock := by
  unfold abandon
  split <;> simp
@[simp] theorem clock_faultAbandon (e : Nat) : (d.faultAbandon e).clock = d.clock := by
  unfold faultAbandon
  split <;> simp
@[simp] theorem clock_checkAbandon (e : Nat) : (d.checkAbandon e).clock = d.clock := by
  unfold checkAbandon
  simp

/-! The log, the classes and the stack's calibration. -/

@[simp] theorem clock_cause (src : Nat) (on : Bool) : (d.cause src on).clock = d.clock := Prod.ext rfl rfl
@[simp] theorem clock_classSync : d.classSync.clock = d.clock := by
  refine clock_foldl_mem d (fun c hc x => ?_)
  have hc : c < 16 := List.mem_range.mp hc
  have hne : Reg.FLT_CLASS_STATE c ≠ Reg.PTP_FREQ := ne_ptpFreq_of_lt (by simp only [Reg.FLT_CLASS_STATE]; omega)
  exact (clock_wr _ hne _).trans (clock_wr x hne _)
@[simp] theorem clock_flagTaken (src detail : Nat) : (d.flagTaken src detail).clock = d.clock := by
  unfold flagTaken
  simp
@[simp] theorem clock_logBroken : d.logBroken.clock = d.clock := by
  rw [logBroken, clock_flagTaken]
  exact clock_wr d (by decide) _
@[simp] theorem clock_logPut (ws : List Word) : (d.logPut ws).clock = d.clock := by
  have hstatus (e : Dev) (hi lo v : Nat) : (e.fset Reg.FLT_LOG_STATUS hi lo v).clock = e.clock := clock_wr e (by decide) _
  have hlog : ((upto 8).foldl (fun x i => x.wr (Reg.FLT_LOG (d.fget Reg.FLT_LOG_STATUS 4 0 * 8 + i)) (ws.getD i 0)) d).clock = d.clock := by
    refine clock_foldl_mem d (fun i hi x => clock_wr x (ne_ptpFreq_of_lt ?_) _)
    have hi : i < 8 := List.mem_range.mp hi
    have hpos : d.fget Reg.FLT_LOG_STATUS 4 0 < 2 ^ 5 := Nat.mod_lt _ (by decide)
    simp only [Reg.FLT_LOG]
    omega
  unfold logPut
  dsimp only
  split
  · rfl
  split
  · exact clock_logBroken d
  split
  · rw [hstatus, hstatus, hlog]
  · rw [hstatus, hlog]
@[simp] theorem clock_logEntry (ws : List Word) : (d.logEntry ws).clock = d.clock := by
  unfold logEntry
  simp
@[simp] theorem clock_endpointReset : d.endpointReset.clock = d.clock := Prod.ext rfl rfl
@[simp] theorem clock_hlMsg (n : Nat) (m : Msg) : (d.hlMsg n m).clock = d.clock := by
  unfold hlMsg
  simp
@[simp] theorem clock_msgSend (m : Msg) (o : Option Nat) : (d.msgSend m o).clock = d.clock := by
  unfold msgSend
  split
  · simp
  · split <;> simp
@[simp] theorem clock_calStart : d.calStart.clock = d.clock := by
  unfold calStart timeAsk
  split
  · rfl
  · rw [clock_msgSend]
    exact (clock_wr _ (by decide) _).trans (clock_wr d (by decide) _)

/-! The reactions. -/

@[simp] theorem clock_wallCut (n : Nat) : (d.wallCut n).clock = d.clock := clock_wr d (spar_ne_ptpFreq n _) _
@[simp] theorem clock_wallBlack : d.wallBlack.clock = d.clock := by
  unfold wallBlack
  simp

/-- The cells in the slices unlinked, and the flush begun. -/
def flushBegun : Dev :=
  { d.updFault (fun x => { x with flushing := true }) with slices := d.slices.map (fun p => (p.1, sliceUnlink p.2)) }
/-- The cells of the slice that failed are freed. -/
def failedFreed (failed : Option Nat) : Dev := match failed with
  | some m => (d.cntAdd (Reg.C_BUF_FLUSH_FREED m) (d.sliceOf m).cells.length).updSlice m (fun x =>
      { x with cells := [], unlinked := [], genFree := [], genFresh := 512, mgmtFree := [], mgmtFresh := 0 })
  | none => d
/-- The outputs of a spar flushed, its frames in cut-through ended. -/
def outputsFlushed (x : Dev) (o : Nat) : Dev :=
  let cuts := ((upto 8).map (fun i => 8 * o + i)).filter (fun p => (x.port p).cut.isSome)
  let y := x.updSpar o (fun z => { z with
    reorder := [], arriving := [], checked := [], mcRefused := []
    staging := (z.staging.map (fun s => (s.1, s.2.filter (fun c =>
      !(openCells c.key s.2.reverse).contains c)))).filter (fun s => !s.2.isEmpty) })
  cuts.foldl (fun w p => w.cutEnd p true) y
/-- The numbers expected from a spar are those that it gives next. -/
def expectedSynced (x : Dev) (i : Nat) : Dev :=
  (x.spar i).seqNext.foldl (fun y s => if y.seqExp i s.1 = s.2 then y else y.setExp i s.1 s.2) x

theorem coreFlush_eq (failed : Option Nat) : d.coreFlush failed =
    let d0 := ((d.spars.flatMap (fun p => p.2.arriving.filter (·.mc))).foldl (fun x c => x.copiesGone c c.left.length) d).slotEnd []
    let d2 := d0.flushBegun.failedFreed failed
    let d3 := (d2.spars.map (·.1)).foldl outputsFlushed d2
    (d3.spars.map (·.1)).foldl expectedSynced d3 := rfl

@[simp] theorem clock_flushBegun : d.flushBegun.clock = d.clock := Prod.ext rfl rfl
@[simp] theorem clock_failedFreed (failed : Option Nat) : (d.failedFreed failed).clock = d.clock := by
  cases failed <;> exact Prod.ext rfl rfl
@[simp] theorem clock_outputsFlushed (o : Nat) : (d.outputsFlushed o).clock = d.clock := by
  unfold outputsFlushed
  simp
@[simp] theorem clock_expectedSynced (i : Nat) : (d.expectedSynced i).clock = d.clock := by
  unfold expectedSynced
  simp
@[simp] theorem clock_coreFlush (failed : Option Nat) : (d.coreFlush failed).clock = d.clock := by
  rw [coreFlush_eq]
  simp
@[simp] theorem clock_chipletFence (k : Nat) : (d.chipletFence k).clock = d.clock := by
  unfold chipletFence
  simp
@[simp] theorem clock_react (c src detail aux : Nat) : (d.react c src detail aux).clock = d.clock := by
  have hstatus (e : Dev) (n : Nat) : (e.bset (Reg.PRS_STATUS n) 0 true).clock = e.clock := clock_wr e (spar_ne_ptpFreq n _) _
  unfold react
  dsimp only
  generalize (c, src, if src = 30 then aux else detail) = entry
  by_cases h8 : src < 8
  · rw [if_pos h8]
    simp
  rw [if_neg h8]
  by_cases h12 : src < 12
  · rw [if_pos h12]
    simp
  rw [if_neg h12]
  by_cases h12' : src = 12
  · rw [if_pos h12']
    simp
  rw [if_neg h12']
  by_cases h21 : src < 21
  · rw [if_pos h21]
    simp
  rw [if_neg h21]
  by_cases h26 : 22 ≤ src ∧ src < 26
  · rw [if_pos h26]
    simp
  rw [if_neg h26]
  by_cases h448 : 448 ≤ src
  · rw [if_pos h448]
  rw [if_neg h448]
  by_cases h64 : 64 ≤ src
  · rw [if_pos h64]
    split <;> simp [hstatus]
  · rw [if_neg h64]
    split <;> simp
@[simp] theorem clock_enterBlack : d.enterBlack.clock = d.clock := by
  have hbit (e : Dev) (i : Nat) (b : Bool) : (e.bset Reg.FLT_STATUS i b).clock = e.clock := clock_wr e (by decide) _
  have hcancel (e : Dev) (b : Bool) :
      ((({ e with commit := { e.commit with arm := none } } : Dev).bset Reg.GLB_COMMIT_CTRL 0 b).commitEvent 2).clock = e.clock := by
    rw [clock_commitEvent]
    exact (clock_wr _ (by decide) _).trans (Prod.ext rfl rfl)
  unfold enterBlack
  split
  · rfl
  rw [clock_irqSync, clock_wallBlack, clock_ite, hcancel]
  simp [hbit, clock_bset_macStatus]
@[simp] theorem clock_firstLatch {c : Nat} (hc : c < 16) (src eff : Nat) (esc : Bool) : (d.firstLatch c src eff esc).clock = d.clock := by
  have hne : Reg.FLT_FIRST c ≠ Reg.PTP_FREQ := ne_ptpFreq_of_lt (by simp only [Reg.FLT_FIRST]; omega)
  unfold firstLatch
  dsimp only
  split <;> exact clock_wr d hne _

/-- There are sixteen classes. -/
theorem fltClass_lt {src c : Nat} (h : fltClass? src = some c) : c < 16 := by
  unfold fltClass? at h
  repeat' split at h
  all_goals cases h
  all_goals omega
@[simp] theorem clock_report (r : Due) : (d.report r).clock = d.clock := by
  unfold report
  split
  · rfl
  next c h =>
    have hc := fltClass_lt h
    have hcount (e : Dev) : (e.regInc (Reg.FLT_COUNT c)).clock = e.clock :=
      clock_wr e (ne_ptpFreq_of_lt (by simp only [Reg.FLT_COUNT]; omega)) _
    have hstate (e : Dev) (v : Nat) : (e.fset (Reg.FLT_CLASS_STATE c) 1 0 v).clock = e.clock :=
      clock_wr e (ne_ptpFreq_of_lt (by simp only [Reg.FLT_CLASS_STATE]; omega)) _
    simp [hcount, hstate, hc]
@[simp] theorem clock_raiseRounds (k : Nat) : (d.raiseRounds k).clock = d.clock := by
  induction k generalizing d with
  | zero => rfl
  | succ k ih =>
    unfold raiseRounds
    simp [ih]
@[simp] theorem clock_raiseDue : d.raiseDue.clock = d.clock := by
  unfold raiseDue
  simp

/-! The end of a slot (R60, R178). -/

/-- One CCLK on the time base at frequency word `f`, with the part of the slew that it takes. -/
def ticked (t : TimeBase) (f : Int) : TimeBase :=
  let k : Int := if t.stretch then 10 else 8
  let sl : Int := max (-(k * 65536)) (min (k * 65536) t.slew)
  { t with cclk := t.cclk + 1, ticks := t.ticks + k * (65536 * 1000000 + f) + sl, slew := t.slew - sl }
/-- The period round after a CCLK: it follows the last CCLK of a round. -/
def rounded (t : TimeBase) : TimeBase :=
  if t.cclk % 128 = 0 then { t with pround := if t.freshRound then 0 else (t.pround + 1) % 2 ^ 20, freshRound := false } else t

theorem tickTime_time : d.tickTime.time = ticked d.time d.ptpFreq := rfl
theorem roundTick_time : d.roundTick.time = rounded d.time := by
  unfold roundTick rounded
  split
  · cases hf : d.time.freshRound <;> simp [updTime, hf]
  · rfl
theorem rounded_same (t : TimeBase) : (rounded t).cclk = t.cclk ∧ (rounded t).slew = t.slew ∧ (rounded t).ticks = t.ticks ∧
    (rounded t).last = t.last ∧ (rounded t).next = t.next := by
  unfold rounded
  split <;> exact ⟨rfl, rfl, rfl, rfl, rfl⟩
theorem rounded_inside {t : TimeBase} (h : t.cclk % 128 ≠ 0) : rounded t = t := if_neg h
theorem rounded_end {t : TimeBase} (h : t.cclk % 128 = 0) : (rounded t).freshRound = false ∧
    (rounded t).pround = if t.freshRound then 0 else (t.pround + 1) % 2 ^ 20 := by
  rw [rounded, if_pos h]
  exact ⟨rfl, rfl⟩

/-! A tabled cell that is alone in the core. -/

/-- The device without its ports: the shapers change no more. -/
def portless (d : Dev) : Dev := { d with ports := [] }
theorem shaperTick_portless (p : Nat) : (d.shaperTick p).portless = d.portless := by
  have hport (f : Port → Port) : (d.updPort p f).portless = d.portless := rfl
  unfold shaperTick
  dsimp only
  rw [apply_ite portless, hport, ite_self]

/-- The spars of a device whose only use is a tabled cell latched at the input of spar `i`. -/
def loneCell (i : Nat) (c : TabCell) : SMap Spar := [(i, { latched := some c })]

/-- Spar `i` passes its latched cell to intermediate `m`. -/
def cellCrossed (i m : Nat) (c : TabCell) : Dev :=
  (((d.ungateEgress c.outSpar).updSpar i (fun y => { y with latched := none })).updSlice m (fun y => { y with bypassNext := some c })).inc
    (Reg.C_CORE_TAB_CELLS i)

theorem cellCrossed_post (i m : Nat) (c : TabCell) : ((d.cellCrossed i m c).sliceOf m).bypassNext = some c ∧
    ((d.cellCrossed i m c).spar i).latched = none ∧
    (d.cellCrossed i m c).cnt (Reg.C_CORE_TAB_CELLS i) = addSat (d.cnt (Reg.C_CORE_TAB_CELLS i)) 1 := by
  refine ⟨congrArg Slice.bypassNext ((SMap.get_set _ _ _ _ _).trans (if_pos rfl)),
    congrArg Spar.latched ((SMap.get_set _ _ _ _ _).trans (if_pos rfl)), ?_⟩
  exact cnt_inc_same _ _

section
variable {d : Dev} {i : Nat} {c : TabCell} (h : d.spars = loneCell i c)
include h

theorem spar_loneCell : d.spar i = { latched := some c } := by
  rw [spar, h, loneCell, SMap.get, if_pos rfl]
/-- An update that leaves the lone spar as it is changes nothing. -/
theorem updSpar_loneCell {f : Spar → Spar} (hf : f { latched := some c } = { latched := some c }) : d.updSpar i f = d := by
  have hwf : SMap.wf (fun _ => ({} : Spar)) (loneCell i c) = true := by simp [SMap.wf, loneCell, SMap.rising]
  have hset : SMap.upd (fun _ => {}) d.spars i f = d.spars := by
    rw [SMap.upd, ← spar, spar_loneCell h, hf, h]
    exact SMap.set_of_mem _ hwf (p := (i, { latched := some c })) List.mem_cons_self
  rw [updSpar, hset]
/-- The output stage has nothing to do. -/
theorem outputSlot_loneCell (hn : d.isHalyard i = false) : d.outputSlot i = d := by
  unfold outputSlot
  rw [spar_loneCell h, updSpar_loneCell h rfl]
  simp [releaseHeld, spar_loneCell h, hn]

/-- Stage one takes the cell to the intermediate of the slot. -/
theorem stageOne_loneCell (t : Nat) : d.stageOne t i = d.cellCrossed i (i ^^^ t) c := by
  have hstall : d.stallCount i = d := by
    have hheads : d.ingressHeads i = [] := by rw [ingressHeads, spar_loneCell h]; rfl
    rw [stallCount, hheads]
    rfl
  unfold stageOne
  rw [hstall]
  dsimp only
  rw [spar_loneCell h]
  rfl
/-- No spar is in use any more. -/
theorem cellCrossed_spars (m : Nat) : (d.cellCrossed i m c).spars = [] := by
  have hset : SMap.upd (fun _ => {}) d.spars i (fun y : Spar => { y with latched := none }) = [] := by
    rw [SMap.upd, ← spar, spar_loneCell h, SMap.set, if_pos rfl, h]
    simp [loneCell, SMap.erase]
  exact hset

/-- A slot with the lone cell. -/
theorem slotMoved_loneCell (hs : d.slices = []) (hn : d.isHalyard i = false) : d.slotMoved =
    (d.cellCrossed i (i ^^^ d.slot) c).namedPorts.foldl shaperTick (d.cellCrossed i (i ^^^ d.slot) c) := by
  have hkeys : d.spars.map (·.1) = [i] := by rw [h]; rfl
  have hspars := cellCrossed_spars h (i ^^^ d.slot)
  have henter : (d.cellCrossed i (i ^^^ d.slot) c).enterCells i = d.cellCrossed i (i ^^^ d.slot) c := by
    rw [enterCells, spar, hspars]
    rfl
  unfold slotMoved
  simp only [hs, hkeys, outputSlot_loneCell h hn, List.foldl_cons, List.foldl_nil, List.map_nil, List.filterMap_nil, slotEnd_same hs,
    stageOne_loneCell h, henter, hspars]

end

end Machine.Dev

open Machine.Dev

/-- A command that may leave reports ends with every one handled. -/
theorem runs_settled {c : Instr} {s : State} {d : Dev} {post : State → Prop} (he : exec c s = finish s d) (hp : post (settled s d.raiseDue)) :
    Runs c s post := ⟨settled s d.raiseDue, he.trans (finish_next s d), rfl, hp⟩

/-- The clock, as the time base and as the frequency that it is read for. -/
theorem time_of_clock {d e : Dev} (h : e.clock = d.clock) : e.time = d.time := congrArg Prod.fst h
theorem ptpFreq_of_clock {d e : Dev} (h : e.clock = d.clock) : e.ptpFreq = d.ptpFreq := by
  have hword : e.rd Reg.PTP_FREQ = d.rd Reg.PTP_FREQ := congrArg Prod.snd h
  rw [ptpFreq, ptpFreq, hword]

/-- The time base after a slot. -/
theorem time_coreSlot (d : Dev) : d.coreSlot.raiseDue.time = rounded (ticked d.time d.ptpFreq) := by
  rw [time_of_clock (clock_raiseDue _), coreSlot_eq, roundTick_time, tickTime_time, time_of_clock (clock_slotMoved d),
    ptpFreq_of_clock (clock_slotMoved d)]

/-- The device without the time base and the ports. -/
def timeless (d : Dev) : Dev := { d with time := {}, ports := [] }
/-- The last step of a slot writes the time base alone. -/
theorem timeless_end (d : Dev) : timeless d.tickTime.roundTick = timeless d := by
  unfold roundTick
  split
  · split <;> rfl
  · rfl

/-- A slot with a lone cell leaves the cell crossed, ports and the time base aside. -/
theorem timeless_coreSlot {d : Dev} {i : Nat} {c : TabCell} (hdue : d.fault.due = []) (h : d.spars = loneCell i c) (hsl : d.slices = [])
    (hn : d.isHalyard i = false) : timeless d.coreSlot.raiseDue = timeless (d.cellCrossed i (i ^^^ d.slot) c) := by
  have hend : timeless d.coreSlot = timeless (d.cellCrossed i (i ^^^ d.slot) c) := by
    rw [coreSlot_eq, timeless_end, slotMoved_loneCell h hsl hn]
    have hports := foldl_keeps portless shaperTick shaperTick_portless (d.cellCrossed i (i ^^^ d.slot) c).namedPorts
      (d.cellCrossed i (i ^^^ d.slot) c)
    exact (congrArg timeless hports :)
  generalize d.coreSlot = e at *
  have hfault : e.fault = (d.cellCrossed i (i ^^^ d.slot) c).fault := (congrArg Dev.fault hend :)
  have hcross : (d.cellCrossed i (i ^^^ d.slot) c).fault = d.fault := rfl
  rw [raiseDue_none e (by rw [hfault, hcross, hdue]), hend]

/-- Settles O32: the slot leaves the clock to its last step, and a lone cell crosses stage one. -/
theorem coreSlots : Obligations.CoreSlots := by
  unfold Obligations.CoreSlots
  intro s i c hs k sl
  have hrun : exec .coreSlot s = finish s s.coreSlot := rfl
  have hafter := time_coreSlot s.toDev
  have hlone := fun h hsl hn => timeless_coreSlot (d := s.toDev) (i := i) (c := c) hs.2.2 h hsl hn
  refine runs_settled hrun ?_
  generalize s.coreSlot.raiseDue = d at *
  obtain ⟨hcclk, hslew, hticks, hlast, hnext⟩ := rounded_same (ticked s.time s.ptpFreq)
  have htime : (settled s d).time = rounded (ticked s.time s.ptpFreq) := hafter
  rw [htime]
  refine ⟨hcclk, hslew, hticks, hlast, hnext, fun h => ?_, fun h => rounded_end (t := ticked s.time s.ptpFreq) h, fun h hsl hn => ?_⟩
  · rw [rounded_inside (t := ticked s.time s.ptpFreq) h]
    exact ⟨rfl, rfl⟩
  · have hcell := hlone h hsl hn
    rw [slot] at hcell
    generalize (i : Nat) ^^^ s.time.cclk % 128 = m at *
    obtain ⟨hslice, hspar, hcnt⟩ := cellCrossed_post s.toDev i m c
    have hcross {α : Type} (g : Dev → α) (hg : ∀ x, g x = g (timeless x)) : g d = g (s.cellCrossed i m c) := by
      rw [hg, hcell, ← hg]
    exact ⟨(congrArg Slice.bypassNext (hcross (·.sliceOf m) (fun _ => rfl))).trans hslice,
      (congrArg Spar.latched (hcross (·.spar i) (fun _ => rfl))).trans hspar,
      (hcross (·.cnt (Reg.C_CORE_TAB_CELLS i)) (fun _ => rfl)).trans hcnt⟩

end Sys2Proof

/-!
SUPPORT. What a clear of counters leaves (R89, R115, R143, R174, R199, R222, R248, R327, R349, R373, R400, R436): the counters of a block
read 0, the register counters of the ports and of the fault collector too, and the histograms of a spar are empty.
-/
namespace Sys2Proof

open Machine

namespace Machine

/-- Without the keys that a predicate names, those read their defaults and every other key reads as before. -/
theorem SMap.get_filter_not {α : Type} (d : Nat → α) (f : Nat → Bool) (k : Nat) : ∀ m : SMap α,
    SMap.get d (m.filter (fun p => !f p.1)) k = if f k = true then d k else SMap.get d m k
  | [] => by simp
  | (j, v) :: m => by
    have ih := SMap.get_filter_not d f k m
    by_cases hj : f j = true
    · rw [List.filter_cons_of_neg (by simp [hj]), ih]
      by_cases hk : j = k
      · simp [← hk, hj]
      · simp [SMap.get, hk]
    · rw [List.filter_cons_of_pos (by simp [hj]), SMap.get, SMap.get, ih]
      by_cases hk : j = k
      · simp [← hk, hj]
      · simp [hk]

namespace Dev

variable (d : Dev)

/-! Registers written 0 in a row. -/

/-- The device with registers written 0. -/
def zeroed (as : List Nat) : Dev := as.foldl (fun x a => x.wr a 0) d

theorem rd_zeroed (a : Nat) (as : List Nat) : (d.zeroed as).rd a = if a ∈ as then 0 else d.rd a := by
  induction as generalizing d with
  | nil => simp [zeroed]
  | cons b as ih =>
    show ((d.wr b 0).zeroed as).rd a = _
    rw [ih, rd_wr]
    by_cases hb : a = b <;> simp [hb]
theorem zeroed_same (as : List Nat) : d.zeroed as = { d with regs := (d.zeroed as).regs } := by
  induction as generalizing d with
  | nil => rfl
  | cons b as ih => exact ih (d.wr b 0)

/-- The counts of cells flushed at a port, one for each class (R111). -/
def flushCounts (p : Nat) : List Nat := (upto 9).map (Reg.MAC_FLUSH_CNT p)
theorem mem_flushCounts (p a : Nat) : a ∈ flushCounts p ↔ ∃ c < 9, a = Reg.MAC_FLUSH_CNT p c := by
  simp [flushCounts, upto, eq_comm]

/-- The counts of faults and of recoveries, one of each for a class (R400). -/
def fltCounts : List Nat := (upto 16).flatMap (fun c => [Reg.FLT_COUNT c, Reg.FLT_RECOV c])
theorem mem_fltCounts (a : Nat) : a ∈ fltCounts ↔ ∃ c < 16, a = Reg.FLT_COUNT c ∨ a = Reg.FLT_RECOV c := by
  simp [fltCounts, upto]

/-- The clear of a port that the breakout names: its counters, and the cells flushed of each class (R115). -/
theorem macClear_named {p : Nat} (h : d.named p = true) :
    d.macClear p = (d.cntClr (Reg.C_MAC_RX_FRAMES_OK p) 18).zeroed (flushCounts p) := by
  simp [macClear, h, zeroed, flushCounts, List.foldl_map]
theorem fltClear_eq : d.fltClear = d.zeroed fltCounts := by
  simp [fltClear, zeroed, fltCounts, List.foldl_flatMap]

/-! Spans of counters. -/

/-- Spans cleared in a row: a counter of any of them reads 0, every other as before. -/
theorem cnt_foldl_cntClr (base : Nat → Nat) (n a : Nat) (l : List Nat) :
    (l.foldl (fun x i => x.cntClr (base i) n) d).cnt a =
      if l.any (fun i => decide (base i ≤ a) && decide (a < base i + 8 * n)) = true then 0 else d.cnt a := by
  induction l generalizing d with
  | nil => simp
  | cons i l ih =>
    rw [List.foldl_cons, ih, cnt_cntClr]
    by_cases hi : base i ≤ a ∧ a < base i + 8 * n <;> simp [hi]
theorem foldl_cntClr_same (base : Nat → Nat) (n : Nat) (l : List Nat) :
    l.foldl (fun x i => x.cntClr (base i) n) d = { d with cnts := (l.foldl (fun x i => x.cntClr (base i) n) d).cnts } := by
  induction l generalizing d with
  | nil => rfl
  | cons i l ih => exact ih (d.cntClr (base i) n)

/-- The clear of a slice's counters; those of the pool go with slice 0 (R174). -/
theorem cnt_bufClear (n a : Nat) : (d.bufClear n).cnt a =
    if Reg.C_BUF_REEF_DROP_RED n ≤ a ∧ a < Reg.C_BUF_REEF_DROP_RED n + 80 ∨
      (n = 0 ∧ Reg.C_BUF_POOL_EMPTY ≤ a ∧ a < Reg.C_BUF_POOL_EMPTY + 16) then 0 else d.cnt a := by
  unfold bufClear
  split
  next h => rw [cnt_cntClr, cnt_cntClr, ← ite_or]; simp [h, or_comm]
  next h => rw [cnt_cntClr]; simp [h]
theorem bufClear_same (n : Nat) : d.bufClear n = { d with cnts := (d.bufClear n).cnts } := by
  unfold bufClear
  split <;> rfl

/-- The clear of an engine's counters, its encoder's and its decoder's (R248). -/
theorem cnt_ceClear (e a : Nat) : (d.ceClear e).cnt a =
    if (Reg.C_CE_COMMANDS e ≤ a ∧ a < Reg.C_CE_COMMANDS e + 88) ∨ (Reg.C_CE_ENC_PICTURES e ≤ a ∧ a < Reg.C_CE_ENC_PICTURES e + 48) ∨
      (Reg.C_CE_DEC_PICTURES e ≤ a ∧ a < Reg.C_CE_DEC_PICTURES e + 64) then 0 else d.cnt a := by
  rw [ceClear, cnt_cntClr, cnt_cntClr, cnt_cntClr, ← ite_or, ← ite_or]
  simp only [or_comm]

/-! Histograms (R222). -/

/-- The keys of a spar's histograms are empty, every other key reads as before. -/
theorem get_histClear (n k : Nat) : SMap.get tabDefault (d.histClear n).tabs k =
    if tkey 0x0811 n 0 ≤ k ∧ k < tkey 0x0811 n 1152 then tabDefault k else SMap.get tabDefault d.tabs k := by
  have h := SMap.get_filter_not tabDefault (fun j => decide (tkey 0x0811 n 0 ≤ j) && decide (j < tkey 0x0811 n 1152)) k d.tabs
  simpa [histClear] using h

end Dev
end Machine

open Machine.Dev

/-- A span of counters cleared. -/
theorem runs_cntClr {c : Instr} {s : State} {base n : Nat} (he : exec c s = finish s (s.cntClr base n)) (hs : Safe s) :
    Runs c s (fun t => (∀ a, t.cnt a = if base ≤ a ∧ a < base + 8 * n then 0 else s.cnt a) ∧ t = { s with cnts := t.cnts }) :=
  runs_quiet he hs rfl rfl rfl rfl ⟨fun a => s.cnt_cntClr base n a, rfl⟩

/-- A clear that changes counters alone. -/
theorem runs_cnts {c : Instr} {s : State} {d : Dev} {v : Nat → BitVec 64} (he : exec c s = finish s d) (hs : Safe s)
    (hd : d = { s.toDev with cnts := d.cnts }) (hv : ∀ a, d.cnt a = v a) :
    Runs c s (fun t => t = { s with cnts := t.cnts } ∧ ∀ a, t.cnt a = v a) :=
  runs_quiet he hs (congrArg Dev.fault hd :) (congrArg Dev.fmem hd :) (congrArg Dev.stores hd :) (congrArg Dev.fuses hd :)
    ⟨congrArg (fun x : Dev => (⟨x, s.pending⟩ : State)) hd, hv⟩

/-- A clear that writes registers 0 after a span of counters. -/
theorem runs_zeroed {c : Instr} {s : State} {base n : Nat} {as : List Nat} (he : exec c s = finish s ((s.cntClr base n).zeroed as))
    (hs : Safe s) : Runs c s (fun t => (∀ a, t.cnt a = if base ≤ a ∧ a < base + 8 * n then 0 else s.cnt a) ∧
      (∀ a ∈ as, t.rd a = 0) ∧ (∀ a, a ∉ as → t.rd a = s.rd a) ∧ t = { s with cnts := t.cnts, regs := t.regs }) := by
  have hrd := fun a => (s.cntClr base n).rd_zeroed a as
  have hsame := (s.cntClr base n).zeroed_same as
  generalize (s.cntClr base n).zeroed as = d at *
  have hcnts : d.cnts = (s.cntClr base n).cnts := (congrArg Dev.cnts hsame :)
  refine runs_quiet he hs (congrArg Dev.fault hsame :) (congrArg Dev.fmem hsame :) (congrArg Dev.stores hsame :)
    (congrArg Dev.fuses hsame :) ⟨fun a => ?_, fun a ha => (hrd a).trans (if_pos ha), fun a ha => (hrd a).trans (if_neg ha), ?_⟩
  · exact (congrArg (SMap.get (fun _ => 0) · a) hcnts).trans (s.cnt_cntClr _ n a)
  · refine congrArg (fun x : Dev => (⟨x, s.pending⟩ : State)) (hsame.trans ?_)
    rw [hcnts]
    rfl

/-- The clear of the collector's counts (R400). -/
theorem runs_fltClear {s : State} (hs : Safe s) : Runs .fltCntClr s (fun t => t = { s with regs := t.regs } ∧
    (∀ a ∈ fltCounts, t.rd a = 0) ∧ ∀ a, a ∉ fltCounts → t.rd a = s.rd a) := by
  have hsame := s.zeroed_same fltCounts
  exact runs_quiet (congrArg (finish s) s.fltClear_eq) hs (congrArg Dev.fault hsame :) (congrArg Dev.fmem hsame :)
    (congrArg Dev.stores hsame :) (congrArg Dev.fuses hsame :) ⟨congrArg (fun x : Dev => (⟨x, s.pending⟩ : State)) hsame,
      fun a ha => (s.rd_zeroed a _).trans (if_pos ha), fun a ha => (s.rd_zeroed a _).trans (if_neg ha)⟩

/-- Settles O18: one clear for each block. -/
theorem counterClears : Obligations.CounterClears := by
  unfold Obligations.CounterClears
  intro s n p hs
  refine ⟨?mac, runs_cntClr rfl hs, runs_cntClr rfl hs, runs_cntClr rfl hs, runs_cntClr rfl hs, runs_cntClr rfl hs,
    runs_cntClr rfl hs, runs_cntClr rfl hs, ?prs, ?buf, ?ce, ?flt, ?hist⟩
  case mac =>
    by_cases hn : s.named p = true
    · have he : exec (.macCntClr p) s = finish s _ := congrArg (finish s) (s.macClear_named hn)
      obtain ⟨t, hx, hq, hcnt, hzero, hrd, ht⟩ := runs_zeroed he hs
      refine ⟨t, hx, hq, fun h => absurd hn (by simp [h]), fun _ => ⟨hcnt, fun c hc => ?_, fun a ha => hrd a fun h => ?_, ht⟩⟩
      · exact hzero _ ((mem_flushCounts p _).2 ⟨c, hc, rfl⟩)
      · obtain ⟨c, hc, e⟩ := (mem_flushCounts p a).1 h
        exact ha c hc e
    · exact runs_same (congrArg (finish s) (if_pos (by simpa using hn))) hs ⟨fun _ => rfl, fun h => absurd h hn⟩
  case prs => exact runs_cnts rfl hs (s.foldl_cntClr_same _ 10 _) (fun a => s.cnt_foldl_cntClr _ 10 a _)
  case buf => exact runs_cnts rfl hs (s.bufClear_same n) (s.cnt_bufClear n)
  case ce => exact runs_cnts rfl hs rfl (s.cnt_ceClear n)
  case flt =>
    obtain ⟨t, he, hq, ht, hzero, hrd⟩ := runs_fltClear hs
    refine ⟨t, he, hq, ht, fun c hc => ⟨?_, ?_⟩, fun a ha => hrd a fun h => ?_⟩
    · exact hzero _ ((mem_fltCounts _).2 ⟨c, hc, .inl rfl⟩)
    · exact hzero _ ((mem_fltCounts _).2 ⟨c, hc, .inr rfl⟩)
    · obtain ⟨c, hc, e⟩ := (mem_fltCounts a).1 h
      exact e.elim (ha c hc).1 (ha c hc).2
  case hist =>
    refine runs_quiet rfl hs rfl rfl rfl rfl ⟨rfl, fun i hi => ?_, fun k hk => ?_⟩
    · exact (s.get_histClear n _).trans (if_pos (by simp only [tkey]; omega))
    · exact (s.get_histClear n k).trans (if_neg (by omega))

end Sys2Proof

/-!
SUPPORT. The registers of a lane, and the answers to a partner's training requests (R80): which taps a request leaves, and what is answered.
-/
namespace Sys2Proof

open Machine

namespace Machine.Dev

/-! The registers of a lane lie apart (R93). -/

theorem laneReg_own (l : Nat) {o : Nat} (h : o < 0x1000) : ofLane l (Reg.lane l + o) := ⟨Nat.le_add_right _ _, Nat.add_lt_add_left h _⟩
theorem laneReg_ne (l : Nat) {o o' : Nat} (h : o ≠ o') : Reg.lane l + o ≠ Reg.lane l + o' := fun e => h (Nat.add_left_cancel e)
theorem not_isPend_lane (l o : Nat) : ¬ isPend (Reg.lane l + o) := not_isPend (.inr (by simp only [Reg.lane, Reg.spar]; omega))

/-! What a register write leaves, and one with a message after it. -/

theorem lane_fset (d : Dev) (a hi lo v k : Nat) : (d.fset a hi lo v).lane k = d.lane k := lane_wr d a _ k
theorem lane_bset (d : Dev) (a i : Nat) (b : Bool) (k : Nat) : (d.bset a i b).lane k = d.lane k := lane_wr d a _ k
theorem wr_emit_post (d : Dev) (a : Nat) (v : Word) (o : Output) : ((d.wr a v).emit o).beside = d.beside ∧
    (∀ b, b ≠ a → ((d.wr a v).emit o).rd b = d.rd b) ∧ ((d.wr a v).emit o).rd a = v ∧ ((d.wr a v).emit o).outs = d.outs ++ [o] :=
  ⟨rfl, fun _ h => d.rd_wr_ne v h, d.rd_wr_same a v, rfl⟩

/-! Training requests. -/

section
variable {d : Dev} {l : Nat}

/-- With TRAIN_EN = 0 no request is answered. -/
theorem trainAnswer_off (h : d.bget (Reg.LANE_TRAIN_CTRL l) 0 = false) (r : TrainReq) : d.trainAnswer l r = d := by
  simp [trainAnswer, h]
/-- Under the override no request is applied. -/
theorem trainAnswer_override (h : d.bget (Reg.LANE_TRAIN_CTRL l) 0 = true) (ho : d.bget (Reg.LANE_TX_OVR l) 31 = true) (r : TrainReq) :
    d.trainAnswer l r = d.emit (.answer l 2) := by
  simp [trainAnswer, h, ho]

variable (h : d.bget (Reg.LANE_TRAIN_CTRL l) 0 = true) (ho : d.bget (Reg.LANE_TX_OVR l) 31 = false)
include h ho

theorem trainAnswer_preset (k : Fin 3) :
    d.trainAnswer l (.preset k) = (d.wr (Reg.LANE_TX_TAPS l) (tapsWord (presetTaps (k + 1)))).emit (.answer l 0) := by
  simp [trainAnswer, h, ho]
theorem trainAnswer_hold (i : Fin 5) : d.trainAnswer l (.hold i) = d.emit (.answer l 0) := by
  simp [trainAnswer, h, ho]
theorem trainAnswer_inc (i : Fin 5) : d.trainAnswer l (.inc i) =
    if tapsOk (tapMove (tapsOf (d.rd (Reg.LANE_TX_TAPS l))) i 1) = true then
      (d.wr (Reg.LANE_TX_TAPS l) (tapsWord (tapMove (tapsOf (d.rd (Reg.LANE_TX_TAPS l))) i 1))).emit (.answer l 0)
    else d.emit (.answer l 1) := by
  simp [trainAnswer, h, ho]
theorem trainAnswer_dec (i : Fin 5) : d.trainAnswer l (.dec i) =
    if tapsOk (tapMove (tapsOf (d.rd (Reg.LANE_TX_TAPS l))) i (-1)) = true then
      (d.wr (Reg.LANE_TX_TAPS l) (tapsWord (tapMove (tapsOf (d.rd (Reg.LANE_TX_TAPS l))) i (-1)))).emit (.answer l 0)
    else d.emit (.answer l 1) := by
  simp [trainAnswer, h, ho]

end

end Machine.Dev

open Machine.Dev

section
variable {s : State} {l : Fin 1024} {r : TrainReq} {n : Nat} (hs : Safe s)
include hs

/-- An answer that leaves the taps. -/
theorem runs_tapsKept (hd : s.trainAnswer l r = s.emit (.answer l n)) : Runs (.trainingRequest l r) s (fun t =>
    t.beside = s.beside ∧ (∀ a, t.rd a = s.rd a) ∧ t.outs = s.outs ++ [.answer l n]) :=
  runs_beside (congrArg (finish s) hd) hs rfl ⟨rfl, fun _ => rfl, rfl⟩
/-- An answer with new taps. -/
theorem runs_tapsMoved {w : Word} (hd : s.trainAnswer l r = (s.wr (Reg.LANE_TX_TAPS l) w).emit (.answer l n)) :
    Runs (.trainingRequest l r) s (fun t => t.beside = s.beside ∧ (∀ a, a ≠ Reg.LANE_TX_TAPS l → t.rd a = s.rd a) ∧
      t.rd (Reg.LANE_TX_TAPS l) = w ∧ t.outs = s.outs ++ [.answer l n]) :=
  have hpost := wr_emit_post s.toDev (Reg.LANE_TX_TAPS l) w (.answer l n)
  runs_beside (congrArg (finish s) hd) hs hpost.1 hpost

/-- A step of a tap: the taps that `ts` gives where they are legal, else the old ones (R71, R80). -/
theorem runs_tapStep {ts : List Int} (hd : s.trainAnswer l r = if tapsOk ts = true then
      (s.wr (Reg.LANE_TX_TAPS l) (tapsWord ts)).emit (.answer l 0) else s.emit (.answer l 1)) :
    Runs (.trainingRequest l r) s (fun t => t.beside = s.beside ∧ (∀ a, a ≠ Reg.LANE_TX_TAPS l → t.rd a = s.rd a) ∧
      if tapsOk ts = true then t.rd (Reg.LANE_TX_TAPS l) = tapsWord ts ∧ t.outs = s.outs ++ [.answer l 0]
      else t.rd (Reg.LANE_TX_TAPS l) = s.rd (Reg.LANE_TX_TAPS l) ∧ t.outs = s.outs ++ [.answer l 1]) := by
  by_cases hok : tapsOk ts = true
  · simp only [hok, if_true] at hd ⊢
    exact runs_tapsMoved hs hd
  · simp only [hok] at hd ⊢
    obtain ⟨t, hx, hq, hb, hr, ho⟩ := runs_tapsKept hs hd
    exact ⟨t, hx, hq, hb, fun a _ => hr a, hr _, ho⟩

end

/-- Settles O7: one equation for each request, and for the two settings under which none is applied. -/
theorem trainingAnswers : Obligations.TrainingAnswers := by
  unfold Obligations.TrainingAnswers
  intro s l r hs ts
  cases hen : s.bget (Reg.LANE_TRAIN_CTRL l) 0 with
  | false => exact runs_same (congrArg (finish s) (trainAnswer_off hen r)) hs (by simp)
  | true =>
    cases hov : s.bget (Reg.LANE_TX_OVR l) 31 with
    | true =>
      obtain ⟨t, hx, hq, hb, hr, ho⟩ := runs_tapsKept hs (trainAnswer_override hen hov r)
      exact ⟨t, hx, hq, hb, fun a _ => hr a, nofun, fun _ _ => ⟨hr _, ho⟩, nofun⟩
    | false =>
      cases r with
      | preset k =>
        obtain ⟨t, hx, hq, hb, hr, hpost⟩ := runs_tapsMoved hs (trainAnswer_preset hen hov k)
        exact ⟨t, hx, hq, hb, hr, nofun, nofun, fun _ _ => hpost⟩
      | inc i =>
        obtain ⟨t, hx, hq, hb, hr, hpost⟩ := runs_tapStep hs (trainAnswer_inc hen hov i)
        exact ⟨t, hx, hq, hb, hr, nofun, nofun, fun _ _ => hpost⟩
      | dec i =>
        obtain ⟨t, hx, hq, hb, hr, hpost⟩ := runs_tapStep hs (trainAnswer_dec hen hov i)
        exact ⟨t, hx, hq, hb, hr, nofun, nofun, fun _ _ => hpost⟩
      | hold i =>
        obtain ⟨t, hx, hq, hb, hr, ho⟩ := runs_tapsKept hs (trainAnswer_hold hen hov i)
        exact ⟨t, hx, hq, hb, fun a _ => hr a, nofun, nofun, fun _ _ => ⟨hr _, ho⟩⟩

end Sys2Proof

/-!
SUPPORT. Outputs are only ever added to (R99, R109, R111, R423): one lemma for each operation by which a port or link follows its lanes.
-/
namespace Sys2Proof

open Machine

namespace Machine.Dev

/-- What had left the device when it was `d` has left it, in that order, when it is `e`. -/
structure Sends (d e : Dev) : Prop where
  outs : d.outs <+: e.outs

namespace Sends

theorem refl (d : Dev) : Sends d d := ⟨List.prefix_rfl⟩
theorem trans {d e f : Dev} (h : Sends d e) (g : Sends e f) : Sends d f := ⟨h.outs.trans g.outs⟩
theorem of_eq {d e : Dev} (h : e.outs = d.outs) : Sends d e := ⟨h ▸ List.prefix_rfl⟩
theorem of_irq {d e : Dev} (h : IrqFrame d e) : Sends d e := by
  obtain ⟨os, h⟩ := h.outs
  exact ⟨os, h.symm⟩
theorem foldl {α : Type} {f : Dev → α → Dev} (hf : ∀ d a, Sends d (f d a)) : ∀ (l : List α) (d : Dev), Sends d (l.foldl f d)
  | [], d => refl d
  | a :: l, d => (hf d a).trans (foldl hf l (f d a))
theorem ite {d x y : Dev} {c : Prop} [Decidable c] (hx : Sends d x) (hy : Sends d y) : Sends d (if c then x else y) := by
  split
  · exact hx
  · exact hy

end Sends

variable (d : Dev)

theorem wr_sends (a : Nat) (v : Word) : Sends d (d.wr a v) := .of_eq (wr_outs d a v)
theorem cntAdd_sends (a n : Nat) : Sends d (d.cntAdd a n) := .of_eq (cntSet_outs d a _)
theorem updPort_sends (p : Nat) (f : Port → Port) : Sends d (d.updPort p f) := .of_eq (updPort_outs d p f)
theorem updSpar_sends (n : Nat) (f : Spar → Spar) : Sends d (d.updSpar n f) := .of_eq (updSpar_outs d n f)
theorem updSlice_sends (m : Nat) (f : Slice → Slice) : Sends d (d.updSlice m f) := .of_eq (updSlice_outs d m f)
theorem updLink_sends (n : Nat) (f : Link → Link) : Sends d (d.updLink n f) := .of_eq (updLink_outs d n f)
theorem flag_sends (src detail : Nat) (inj grey : Bool) (aux : Nat) : Sends d (d.flag src detail inj grey aux) :=
  .of_eq (flag_outs d src detail inj grey aux)
theorem emit_sends (o : Output) : Sends d (d.emit o) := .of_irq (emit_frame d o)
theorem event_sends (a i src : Nat) : Sends d (d.event a i src) := (wr_sends d a _).trans (.of_irq (event_frame d a i src))

/-! Buffers (R149, R150, R172). -/

theorem injected_sends (src : Nat) (e : Ecc) : Sends d (d.injected src e).2.2 := by
  unfold injected
  split
  · exact wr_sends d _ _
  · exact .refl d
theorem descCheck_sends (m : Nat) : Sends d (d.descCheck m) := by
  have h := injected_sends d (65 + 3 * m) .good
  unfold descCheck
  generalize d.injected (65 + 3 * m) .good = x at *
  obtain ⟨err, inj, e⟩ := x
  cases err with
  | good => exact h
  | single => exact (h.trans (cntAdd_sends _ _ 1)).trans (flag_sends _ _ _ _ _ _)
  | double => exact h.trans (flag_sends _ _ _ _ _ _)
theorem decRef_sends (m i n : Nat) : Sends d (d.decRef m i n) := by
  have h := descCheck_sends d m
  unfold decRef
  generalize d.descCheck m = e at *
  dsimp only
  split
  · exact h.trans (flag_sends _ _ _ _ _ _)
  · next c _ =>
    have h1 : Sends d (if c.ref < n then e.flag (65 + 3 * m) m else e) := .ite (h.trans (flag_sends _ _ _ _ _ _)) h
    exact .ite ((h1.trans (updSlice_sends _ m _)).trans (cntAdd_sends _ _ 1)) (h1.trans (updSlice_sends _ m _))
theorem countFlush_sends (q : Nat) : Sends d (d.countFlush q) :=
  .ite (wr_sends d _ _) (.ite (cntAdd_sends d _ 1) (.refl d))
theorem countFlushN_sends (q n : Nat) : Sends d (d.countFlushN q n) := by
  induction n generalizing d with
  | zero => exact .refl d
  | succ n ih => exact (countFlush_sends d q).trans (ih _)
theorem copiesGone_sends (c : Cell) (n : Nat) : Sends d (d.copiesGone c n) := .ite (.refl d) (decRef_sends d _ _ n)
theorem mcSkip_sends (q m i : Nat) : Sends d (mcSkip q d m i) := by
  unfold mcSkip
  split
  · exact .refl d
  · exact .ite (((updSlice_sends d m _).trans (decRef_sends _ m i 1)).trans (countFlush_sends _ q)) (.refl d)
theorem unlinkQ_sends (m q : Nat) : Sends d (d.unlinkQ m q) :=
  (((updSlice_sends d m _).trans (countFlushN_sends _ q _)).trans (updSlice_sends _ m _)).trans
    (.foldl (fun z i => mcSkip_sends z q m i) _ _)
theorem flushCopies_sends (o q : Nat) : Sends d (d.flushCopies o q) :=
  (Sends.foldl (fun z c => Sends.trans (.ite (.refl z) (countFlush_sends z q)) (copiesGone_sends _ c 1)) _ d).trans (updSpar_sends _ o _)

/-! Pauses and the end of a CCLK (R109, R147, R152, R156). -/

theorem pfcSend_sends (p c t : Nat) : Sends d (d.pfcSend p c t) :=
  .ite (updPort_sends d p _) ((cntAdd_sends d _ 1).trans (emit_sends _ _))
theorem pauseSync_sends (p : Nat) : Sends d (d.pauseSync p) :=
  .ite (.refl d) (.ite (.refl d) ((updPort_sends d p _).trans
    (.foldl (fun x c => .ite (pfcSend_sends x p c _) (.ite (pfcSend_sends x p c 0) (.refl x))) _ _)))
theorem ownerSync_sends (o : Nat) : Sends d (d.ownerSync o) :=
  .ite (.refl d) (.ite (.refl d) ((updPort_sends d o _).trans (pauseSync_sends _ o)))
theorem sliceSettle_sends (m : Nat) : Sends d (d.sliceSettle m) :=
  .ite ((updSlice_sends d m _).trans (wr_sends _ _ _)) (updSlice_sends d m _)
theorem slotEnd_sends (owners : List Nat) : Sends d (d.slotEnd owners) := by
  have hsettle := Sends.foldl sliceSettle_sends (d.slices.map (·.1)) d
  unfold slotEnd
  generalize (d.slices.map (·.1)).foldl sliceSettle d = d1 at *
  dsimp only
  refine .trans (.ite hsettle (hsettle.trans (.trans ?_ (.foldl pauseSync_sends _ _)))) (.foldl ownerSync_sends _ _)
  exact .foldl (fun y n => .ite (event_sends y _ _ _) (.refl y)) _ d1

/-! Ports and links that fall or rise (R99, R111, R423). -/

theorem flushOutput_sends (q : Nat) : Sends d (d.flushOutput q) := by
  unfold flushOutput
  have hunlink (l : List Nat) (x : Dev) : Sends x (l.foldl (fun z m => (z.unlinkQ m q).mcPrune m) x) :=
    .foldl (fun z m => (unlinkQ_sends z m q).trans (updSlice_sends _ m _)) l x
  have hexpect (l : List Nat) (x : Dev) :
      Sends x (l.foldl (fun z i => if z.seqExp i q = z.seqNext i q then z else z.setExp i q (z.seqNext i q)) x) :=
    .foldl (fun z _ => .ite (.refl z) (updSpar_sends z _ _)) l x
  exact (((((updSpar_sends d _ _).trans (flushCopies_sends _ _ q)).trans (countFlushN_sends _ q _)).trans (hunlink _ _)).trans
    (hexpect _ _)).trans (slotEnd_sends _ [])
theorem downFlush_sends (p lo hi : Nat) : Sends d (d.downFlush p lo hi) :=
  (Sends.foldl (fun z c => flushOutput_sends z (portQ p (lo + c))) (upto (hi + 1 - lo)) d).trans (updPort_sends _ p _)
theorem portDown_sends (p : Nat) : Sends d (d.portDown p) := by
  unfold portDown
  exact (((((wr_sends d _ _).trans (wr_sends _ _ _)).trans (updPort_sends _ p _)).trans (event_sends _ _ _ _)).trans
    (downFlush_sends _ p 0 8)).trans ((cntAdd_sends _ _ _).trans (updSpar_sends _ _ _))
theorem portUp_sends (p : Nat) : Sends d (d.portUp p) := by
  unfold portUp
  exact ((((wr_sends d _ _).trans (updPort_sends _ p _)).trans (event_sends _ _ _ _)).trans (ownerSync_sends _ p)).trans (pauseSync_sends _ p)
theorem portEval_sends (p : Nat) : Sends d (d.portEval p) := .ite (portUp_sends d p) (.ite (portDown_sends d p) (.refl d))
theorem linkDown_sends (n : Nat) : Sends d (d.linkDown n) := by
  unfold linkDown
  exact .ite (.refl d) (((((updLink_sends d n _).trans (wr_sends _ _ 0)).trans (cntAdd_sends _ _ _)).trans (event_sends _ _ _ _)).trans
    (flushOutput_sends _ _))
theorem linkUpH_sends (n : Nat) : Sends d (d.linkUpH n) :=
  .ite (.foldl (fun x _ => emit_sends x _) _ d) (.ite (.refl d) ((updLink_sends d n _).trans (wr_sends _ _ _)))
theorem groupEval_sends (l : Nat) : Sends d (d.groupEval l) :=
  .ite (.ite (linkUpH_sends d _) (.ite (linkDown_sends d _) (.refl d))) (.ite (portEval_sends d _) (.refl d))

end Machine.Dev

end Sys2Proof

/-!
SUPPORT. The walk of a lane (R78): a step of it writes the state code, sets events and lets the port or link follow; every other register
of the lane stays.
-/
namespace Sys2Proof

open Machine

namespace Machine.Dev

theorem bget_of_rd {d e : Dev} {a : Nat} (h : e.rd a = d.rd a) (i : Nat) : e.bget a i = d.bget a i := by rw [bget, bget, h]
theorem fget_of_rd {d e : Dev} {a : Nat} (h : e.rd a = d.rd a) (hi lo : Nat) : e.fget a hi lo = d.fget a hi lo := by rw [fget, fget, h]

/-- `e` differs from `d` by steps of lane `l`'s walk: of the lane's registers only the state code and events, which are only set. -/
structure Walk (l : Nat) (d e : Dev) : Prop extends LaneStep l d e, Sends d e where
  reg : ∀ o < 0x1000, o ≠ 0x14 → o ≠ 0x40 → e.rd (Reg.lane l + o) = d.rd (Reg.lane l + o)
  event : ∀ i, d.bget (Reg.LANE_EVENT l) i = true → e.bget (Reg.LANE_EVENT l) i = true

namespace Walk

variable {l : Nat} {d e f : Dev}

theorem refl (l : Nat) (d : Dev) : Walk l d d := ⟨.refl l d, .refl d, fun _ _ _ _ => rfl, fun _ => id⟩
theorem trans (h : Walk l d e) (g : Walk l e f) : Walk l d f :=
  ⟨h.toLaneStep.trans g.toLaneStep, h.toSends.trans g.toSends, fun o h1 h2 h3 => (g.reg o h1 h2 h3).trans (h.reg o h1 h2 h3),
    fun i hi => g.event i (h.event i hi)⟩
/-- A step that leaves every register of the lane. -/
theorem of_same (h : LaneStep l d e) (g : Sends d e) (hr : ∀ a, ofLane l a → e.rd a = d.rd a) : Walk l d e :=
  ⟨h, g, fun _ ho _ _ => hr _ (laneReg_own l ho), fun i hi => (bget_of_rd (hr _ (laneReg_own l (by decide))) i).trans hi⟩

variable (h : Walk l d e)
include h
theorem trainStatus : e.rd (Reg.LANE_TRAIN_STATUS l) = d.rd (Reg.LANE_TRAIN_STATUS l) := h.reg 0x10 (by decide) (by decide) (by decide)
theorem rxStatus : e.rd (Reg.LANE_RX_STATUS l) = d.rd (Reg.LANE_RX_STATUS l) := h.reg 0x18 (by decide) (by decide) (by decide)
theorem lpCtrl : e.rd (Reg.LANE_LP_CTRL l) = d.rd (Reg.LANE_LP_CTRL l) := h.reg 0x24 (by decide) (by decide) (by decide)

end Walk

variable (d : Dev) {l : Nat}

/-- The ports and links that follow leave what every lane keeps. -/
theorem PortFrame.lane {d e : Dev} (h : PortFrame d e) (k : Nat) : e.lane k = d.lane k := by
  have hlanes : e.lanes = d.lanes := (congrArg Dev.lanes h.around :)
  rw [Dev.lane, Dev.lane, hlanes]

/-! Events. -/

theorem laneEvent_irq (i : Nat) : IrqFrame (d.bset (Reg.LANE_EVENT l) i true) (d.laneEvent l i) := event_frame d _ _ _
theorem bget_laneEvent (l i j : Nat) (hi : i < 32) :
    (d.laneEvent l i).bget (Reg.LANE_EVENT l) j = if j = i then true else d.bget (Reg.LANE_EVENT l) j :=
  bget_event d _ i j _ hi (not_isPend_lane l 0x40)
theorem rd_laneEvent_ne (i : Nat) {o : Nat} (h : o ≠ 0x40) : (d.laneEvent l i).rd (Reg.lane l + o) = d.rd (Reg.lane l + o) :=
  rd_event_ne d _ _ _ (laneReg_ne l h) (not_isPend_lane l o)
theorem laneEvent_walk (l i : Nat) (hi : i < 32) : Walk l d (d.laneEvent l i) :=
  ⟨laneEvent_step d l i, event_sends d _ _ _, fun _ _ _ h => rd_laneEvent_ne d i h, fun j hj => by
    rw [bget_laneEvent d l i j hi, hj, ite_self]⟩
theorem laneState_laneEvent (l i : Nat) : (d.laneEvent l i).laneState l = d.laneState l :=
  laneState_of_rd (rd_laneEvent_ne d i (o := 0x14) (by decide))
theorem lane_laneEvent (l i k : Nat) : (d.laneEvent l i).lane k = d.lane k := ((laneEvent_irq d i).lane k).trans (lane_bset d _ i true k)

theorem groupClear_sends (l : Nat) : Sends d (d.groupClear l) :=
  .ite (.ite (linkUpH_sends d _) (.refl d)) (.ite (portEval_sends d _) (.refl d))

/-! Steps. A lane whose slices are at rest. -/

section
variable {d : Dev} (hl : l < 1024) (hc : Quiet d)
include hl hc

theorem groupEval_walk : Walk l d (d.groupEval l) :=
  .of_same (groupEval_step d l hl hc) (groupEval_sends d l) (fun _ => rd_groupEval d hl hc hl)
theorem laneState_groupEval : (d.groupEval l).laneState l = d.laneState l :=
  laneState_of_rd (rd_groupEval d hl hc hl (laneStateReg l))
theorem groupClear_walk : Walk l d (d.groupClear l) :=
  .of_same (groupClear_step d l hl hc) (groupClear_sends d l) (fun _ => rd_groupClear d hl hc hl)
theorem laneState_groupClear : (d.groupClear l).laneState l = d.laneState l :=
  laneState_of_rd (rd_groupClear d hl hc hl (laneStateReg l))

theorem laneTo_walk (st : Nat) : Walk l d (d.laneTo l st) where
  toLaneStep := laneTo_step d l st hl hc
  toSends := (wr_sends d _ _).trans (groupEval_sends _ l)
  reg o h1 h2 _ := rd_laneTo d hl hc (laneReg_own l h1) (laneReg_ne l h2)
  event i hi := (bget_of_rd (rd_laneTo d hl hc (laneReg_own l (by decide)) (laneReg_ne l (by decide))) i).trans hi
theorem lane_laneTo (st k : Nat) : (d.laneTo l st).lane k = d.lane k := by
  have hs := laneFld_step d l _ 3 0 st (laneStateReg l)
  exact ((groupEval_port _ l hl (hs.calm hc)).lane k).trans (lane_fset d _ 3 0 st k)
theorem laneTrain_walk : Walk l d (d.laneTrain l) := by
  have h1 := updLane_step d l (fun x => { x with timer := true, asked := false, lowSnr := false, sent := if x.timer then x.sent else 0 })
  exact .trans ⟨h1, .of_eq rfl, fun _ _ _ _ => rfl, fun _ => id⟩ (laneTo_walk hl (h1.calm hc) lsTrain)
/-- The training timer runs in TRAIN. -/
theorem timer_laneTrain : ((d.laneTrain l).lane l).timer = true := by
  have h1 := updLane_step d l (fun x => { x with timer := true, asked := false, lowSnr := false, sent := if x.timer then x.sent else 0 })
  rw [laneTrain, lane_laneTo hl (h1.calm hc), lane_updLane, if_pos rfl]
theorem leaveWait_walk : Walk l d (d.leaveWait l) := by
  unfold leaveWait
  split
  · split
    · exact laneTo_walk hl hc _
    · exact laneTrain_walk hl hc
  · exact .refl l d
theorem laneWait_walk : Walk l d (d.laneWait l) :=
  (laneTo_walk hl hc lsWait).trans (leaveWait_walk hl ((laneTo_walk hl hc lsWait).calm hc))
/-- Without a signal WAIT_SIGNAL is not left. -/
theorem laneState_laneWait (hlos : d.bget (Reg.LANE_RX_STATUS l) 0 = true) : (d.laneWait l).laneState l = lsWait := by
  have hw := laneTo_walk hl hc lsWait
  have hm : (d.laneTo l lsWait).maySignal l = false := by simp [maySignal, bget_of_rd hw.rxStatus, hlos]
  rw [laneWait, laneState_leaveWait _ hl (hw.calm hc), laneState_laneTo d hl hc (by decide), hm]
  rfl

end

/-- The lane as it enters DATA: coefficients held, no timer, lock. -/
def dataEntry (d : Dev) (l : Nat) : Dev :=
  (d.updLane l (fun x => { x with held := true, timer := false })).bset (Reg.LANE_RX_STATUS l) 2 true
/-- The lane as it enters FAIL: the cause, coefficients no longer held. -/
def failEntry (d : Dev) (l cause : Nat) : Dev :=
  (d.fset (Reg.LANE_TRAIN_STATUS l) 11 8 cause).updLane l (fun x => { x with held := false, timer := false })

theorem dataEntry_step (l : Nat) : LaneStep l d (d.dataEntry l) :=
  (updLane_step d l _).trans (laneBit_step _ l _ 2 true (laneReg_own l (by decide)))
theorem failEntry_step (l cause : Nat) : LaneStep l d (d.failEntry l cause) :=
  (laneFld_step d l _ 11 8 cause (laneReg_own l (by decide))).trans (updLane_step _ l _)
theorem lane_dataEntry (l : Nat) : (d.dataEntry l).lane l = { d.lane l with held := true, timer := false } :=
  (lane_bset _ _ 2 true l).trans ((lane_updLane d l l _).trans (if_pos rfl))
theorem lane_failEntry (l cause : Nat) : (d.failEntry l cause).lane l = { d.lane l with held := false, timer := false } :=
  (lane_updLane _ l l _).trans ((if_pos rfl).trans (by rw [lane_fset]))
theorem event_laneData (l : Nat) : (d.laneData l).bget (Reg.LANE_EVENT l) 2 = true :=
  (bget_laneEvent _ l 2 2 (by decide)).trans (if_pos rfl)
theorem event_laneFail (l cause : Nat) : (d.laneFail l cause).bget (Reg.LANE_EVENT l) 3 = true :=
  (bget_laneEvent _ l 3 3 (by decide)).trans (if_pos rfl)

section
variable {d : Dev} (hl : l < 1024) (hc : Quiet d)
include hl hc

theorem laneData_walk : Walk l (d.dataEntry l) (d.laneData l) :=
  (laneTo_walk hl ((dataEntry_step d l).calm hc) lsData).trans (laneEvent_walk _ l 2 (by decide))
theorem held_laneData : ((d.laneData l).lane l).held = true := by
  have h := (lane_laneEvent ((d.dataEntry l).laneTo l lsData) l 2 l).trans (lane_laneTo hl ((dataEntry_step d l).calm hc) lsData l)
  exact congrArg Lane.held (h.trans (lane_dataEntry d l))
theorem laneFail_walk (cause : Nat) : Walk l (d.failEntry l cause) (d.laneFail l cause) :=
  (laneTo_walk hl ((failEntry_step d l cause).calm hc) lsFail).trans (laneEvent_walk _ l 3 (by decide))
theorem held_laneFail (cause : Nat) : ((d.laneFail l cause).lane l).held = false := by
  have h := (lane_laneEvent ((d.failEntry l cause).laneTo l lsFail) l 3 l).trans
    (lane_laneTo hl ((failEntry_step d l cause).calm hc) lsFail l)
  exact congrArg Lane.held (h.trans (lane_failEntry d l cause))
theorem cause_laneFail {cause : Nat} (h : cause < 16) : (d.laneFail l cause).fget (Reg.LANE_TRAIN_STATUS l) 11 8 = cause := by
  rw [fget_of_rd (laneFail_walk hl hc cause).trainStatus]
  have hf : (d.fset (Reg.LANE_TRAIN_STATUS l) 11 8 cause).fget (Reg.LANE_TRAIN_STATUS l) 11 8 = cause := by
    exact (fget_fset d _ 11 8 cause (by decide) (by decide)).trans (Nat.mod_eq_of_lt h)
  exact (fget_of_rd (rd_updLane _ l _ _) 11 8).trans hf

end

end Machine.Dev

end Sys2Proof

/-!
SUPPORT. The detectors of a lane (R75, R76): what each of them writes before the lane's walk goes on, and where the walk then stands.
-/
namespace Sys2Proof

open Machine

namespace Machine.Dev

/-! Port settings, which no lane writes (R95, R114). -/

theorem macCfg_kept (l p : Nat) : ¬ ofLane l (Reg.MAC_CFG p) ∧ ¬ portReg (Reg.MAC_CFG p) ∧ ¬ isPend (Reg.MAC_CFG p) := by
  refine ⟨fun ⟨h1, h2⟩ => ?_, ?_, not_isPend (.inr ?_)⟩
  · simp only [Reg.MAC_CFG, Reg.mac, Reg.lane, Reg.spar] at h1 h2; omega
  · rintro (⟨q, h | h | ⟨c, hc, h⟩⟩ | ⟨n, hn, h⟩ | h)
    · simp only [Reg.MAC_CFG, Reg.MAC_STATUS, Reg.mac, Reg.spar] at h; omega
    · simp only [Reg.MAC_CFG, Reg.MAC_EVENT, Reg.mac, Reg.spar] at h; omega
    · simp only [Reg.MAC_CFG, Reg.MAC_FLUSH_CNT, Reg.mac, Reg.spar] at h; omega
    · simp only [Reg.MAC_CFG, Reg.STK_HL_STATUS, Reg.mac, Reg.spar] at h; omega
    · simp only [Reg.MAC_CFG, Reg.STK_EVENT, Reg.mac, Reg.spar] at h; omega
  · simp only [Reg.MAC_CFG, Reg.mac, Reg.spar]; omega
theorem sparMode_kept (l n : Nat) : ¬ ofLane l (Reg.MAC_SPAR_MODE n) ∧ ¬ portReg (Reg.MAC_SPAR_MODE n) ∧ ¬ isPend (Reg.MAC_SPAR_MODE n) := by
  refine ⟨fun ⟨h1, h2⟩ => ?_, ?_, not_isPend (.inr ?_)⟩
  · simp only [Reg.MAC_SPAR_MODE, Reg.lane, Reg.spar] at h1 h2; omega
  · rintro (⟨q, h | h | ⟨c, hc, h⟩⟩ | ⟨m, hm, h⟩ | h)
    · simp only [Reg.MAC_SPAR_MODE, Reg.MAC_STATUS, Reg.mac, Reg.spar] at h; omega
    · simp only [Reg.MAC_SPAR_MODE, Reg.MAC_EVENT, Reg.mac, Reg.spar] at h; omega
    · simp only [Reg.MAC_SPAR_MODE, Reg.MAC_FLUSH_CNT, Reg.mac, Reg.spar] at h; omega
    · simp only [Reg.MAC_SPAR_MODE, Reg.STK_HL_STATUS, Reg.spar] at h; omega
    · simp only [Reg.MAC_SPAR_MODE, Reg.STK_EVENT, Reg.spar] at h; omega
  · simp only [Reg.MAC_SPAR_MODE, Reg.spar]; omega

namespace LaneStep

variable {l : Nat} {d e : Dev} (h : LaneStep l d e)
include h
theorem macCfg (p : Nat) : e.rd (Reg.MAC_CFG p) = d.rd (Reg.MAC_CFG p) :=
  h.rd _ (macCfg_kept l p).1 (macCfg_kept l p).2.1 (macCfg_kept l p).2.2
theorem portMode (n : Nat) : e.portMode n = d.portMode n :=
  fget_of_rd (h.rd _ (sparMode_kept l n).1 (sparMode_kept l n).2.1 (sparMode_kept l n).2.2) 2 0
theorem widthAt (k : Nat) : e.widthAt k = d.widthAt k := congrArg groupWidth (h.portMode _)
theorem groupBase (k : Nat) : e.groupBase k = d.groupBase k := by rw [Dev.groupBase, Dev.groupBase, h.widthAt]

end LaneStep

/-! Single bits and fields of a lane's registers. -/

section
variable (d : Dev) (l : Nat)

theorem rxBit_step (i : Nat) (b : Bool) : LaneStep l d (d.bset (Reg.LANE_RX_STATUS l) i b) :=
  laneBit_step d l _ i b (laneReg_own l (by decide))
theorem rxField_step (hi lo v : Nat) : LaneStep l d (d.fset (Reg.LANE_RX_STATUS l) hi lo v) :=
  laneFld_step d l _ hi lo v (laneReg_own l (by decide))
theorem laneState_rxBit (i : Nat) (b : Bool) : (d.bset (Reg.LANE_RX_STATUS l) i b).laneState l = d.laneState l :=
  laneState_of_rd (rd_bset_ne d i b (laneReg_ne l (by decide)))
theorem laneState_rxField (hi lo v : Nat) : (d.fset (Reg.LANE_RX_STATUS l) hi lo v).laneState l = d.laneState l :=
  laneState_of_rd (rd_fset_ne d hi lo v (laneReg_ne l (by decide)))

end

/-! The signal goes (R75, R78). -/

/-- The lane whose LOS was seen, before its walk goes on. -/
def losSeen (d : Dev) (l : Nat) : Dev := (d.bset (Reg.LANE_RX_STATUS l) 0 true).laneEvent l 0
/-- The lane whose LOL was seen, before its walk goes on. -/
def lolSeen (d : Dev) (l : Nat) : Dev :=
  ((d.bset (Reg.LANE_RX_STATUS l) 1 true).bset (Reg.LANE_RX_STATUS l) 2 false).laneEvent l 1

theorem losSeen_step (d : Dev) (l : Nat) : LaneStep l d (d.losSeen l) := (rxBit_step d l 0 true).trans (laneEvent_step _ l 0)
theorem lolSeen_step (d : Dev) (l : Nat) : LaneStep l d (d.lolSeen l) :=
  ((rxBit_step d l 1 true).trans (rxBit_step _ l 2 false)).trans (laneEvent_step _ l 1)
theorem rxStatus_losSeen (d : Dev) (l : Nat) :
    (d.losSeen l).rd (Reg.LANE_RX_STATUS l) = (d.bset (Reg.LANE_RX_STATUS l) 0 true).rd (Reg.LANE_RX_STATUS l) :=
  rd_laneEvent_ne _ 0 (o := 0x18) (by decide)
theorem rxStatus_lolSeen (d : Dev) (l : Nat) : (d.lolSeen l).rd (Reg.LANE_RX_STATUS l) =
    ((d.bset (Reg.LANE_RX_STATUS l) 1 true).bset (Reg.LANE_RX_STATUS l) 2 false).rd (Reg.LANE_RX_STATUS l) :=
  rd_laneEvent_ne _ 1 (o := 0x18) (by decide)
theorem laneState_losSeen (d : Dev) (l : Nat) : (d.losSeen l).laneState l = d.laneState l :=
  (laneState_laneEvent _ l 0).trans (laneState_rxBit d l 0 true)
theorem laneState_lolSeen (d : Dev) (l : Nat) : (d.lolSeen l).laneState l = d.laneState l :=
  (laneState_laneEvent _ l 1).trans ((laneState_rxBit _ l 2 false).trans (laneState_rxBit d l 1 true))

section
variable {d : Dev} {l : Nat} (hl : l < 1024) (hc : Quiet d)
include hl hc

theorem losOn_walk (h : d.bget (Reg.LANE_RX_STATUS l) 0 = false) : Walk l (d.losSeen l) (d.losOn l) := by
  have hseen := (losSeen_step d l).calm hc
  rw [losOn, if_neg (by simp [h])]
  dsimp only
  split
  · exact laneTo_walk hl hseen lsWait
  · exact groupEval_walk hl hseen
theorem laneState_losOn (h : d.bget (Reg.LANE_RX_STATUS l) 0 = false) :
    (d.losOn l).laneState l = if d.laneState l = lsTrain ∨ d.laneState l = lsData then lsWait else d.laneState l := by
  have hseen := (losSeen_step d l).calm hc
  rw [losOn, if_neg (by simp [h])]
  dsimp only
  split
  · exact laneState_laneTo _ hl hseen (by decide)
  · exact (laneState_groupEval hl hseen).trans (laneState_losSeen d l)
theorem lolOn_walk (h : d.bget (Reg.LANE_RX_STATUS l) 1 = false) : Walk l (d.lolSeen l) (d.lolOn l) := by
  have hseen := (lolSeen_step d l).calm hc
  rw [lolOn, if_neg (by simp [h])]
  dsimp only
  split
  · exact laneWait_walk hl hseen
  · exact groupEval_walk hl hseen
/-- LOL takes a lane out of DATA alone; with LOS too it stays in WAIT_SIGNAL. -/
theorem laneState_lolOn (h : d.bget (Reg.LANE_RX_STATUS l) 1 = false) :
    (d.laneState l ≠ lsData → (d.lolOn l).laneState l = d.laneState l) ∧
      (d.laneState l = lsData → d.bget (Reg.LANE_RX_STATUS l) 0 = true → (d.lolOn l).laneState l = lsWait) := by
  have hseen := (lolSeen_step d l).calm hc
  rw [lolOn, if_neg (by simp [h])]
  dsimp only
  refine ⟨fun hd => ?_, fun hd hlos => ?_⟩
  · rw [if_neg hd]
    exact (laneState_groupEval hl hseen).trans (laneState_lolSeen d l)
  · rw [if_pos hd]
    refine laneState_laneWait hl hseen ((bget_of_rd (rxStatus_lolSeen d l) 0).trans ?_)
    simp [bget_bset, hlos]

/-! The signal returns (R75 to R78). -/

/-- WAIT_SIGNAL left where its condition holds, and the port or link after it. -/
theorem signalBack_walk : Walk l d ((d.leaveWait l).groupClear l) :=
  (leaveWait_walk hl hc).trans (groupClear_walk hl ((leaveWait_walk hl hc).calm hc))
theorem laneState_signalBack : ((d.leaveWait l).groupClear l).laneState l =
    if d.laneState l = lsWait ∧ d.maySignal l = true then d.wayOut l else d.laneState l :=
  (laneState_groupClear hl ((leaveWait_walk hl hc).calm hc)).trans (laneState_leaveWait d hl hc)

end

/-- Without auto-negotiation the end of LOS is all that WAIT_SIGNAL waits for. -/
theorem maySignal_losOff {d : Dev} {l : Nat} (h : d.bget (Reg.MAC_CFG (d.groupBase l)) 2 = false) :
    (d.bset (Reg.LANE_RX_STATUS l) 0 false).maySignal l = true := by
  have hs := rxBit_step d l 0 false
  have hm := bget_of_rd (hs.macCfg (d.groupBase l)) 2
  rw [maySignal, hs.groupBase, hm, h, bget_bset_same _ _ _ _ (by decide)]
  simp
theorem wayOut_rxBit (d : Dev) (l i : Nat) (b : Bool) : (d.bset (Reg.LANE_RX_STATUS l) i b).wayOut l = d.wayOut l := by
  have hne : Reg.LANE_TRAIN_CTRL l ≠ Reg.LANE_RX_STATUS l := laneReg_ne l (by decide)
  rw [wayOut, wayOut, lane_bset, bget_bset_ne d i 24 b hne]

/-- The lane whose LOL ended, before its walk goes on. -/
def lolOver (d : Dev) (l : Nat) : Dev := (d.bset (Reg.LANE_RX_STATUS l) 1 false).bset (Reg.LANE_RX_STATUS l) 2 true
theorem lolOver_step (d : Dev) (l : Nat) : LaneStep l d (d.lolOver l) := (rxBit_step d l 1 false).trans (rxBit_step _ l 2 true)

section
variable {d : Dev} {l : Nat} (hl : l < 1024) (hc : Quiet d)
include hl hc

theorem losOff_walk : Walk l (d.bset (Reg.LANE_RX_STATUS l) 0 false) (d.losOff l) :=
  signalBack_walk hl ((rxBit_step d l 0 false).calm hc)
theorem laneState_losOff : (d.losOff l).laneState l =
    if d.laneState l = lsWait ∧ (d.bset (Reg.LANE_RX_STATUS l) 0 false).maySignal l = true then d.wayOut l else d.laneState l := by
  have h := laneState_signalBack hl ((rxBit_step d l 0 false).calm hc)
  rwa [laneState_rxBit, wayOut_rxBit] at h
theorem lolOff_walk : Walk l (d.lolOver l) (d.lolOff l) := signalBack_walk hl ((lolOver_step d l).calm hc)
theorem laneState_lolOff (h : d.laneState l ≠ lsWait) : (d.lolOff l).laneState l = d.laneState l := by
  have hst := laneState_signalBack hl ((lolOver_step d l).calm hc)
  rw [lolOver, laneState_rxBit, laneState_rxBit, if_neg (fun hx => h hx.1)] at hst
  exact hst

end

end Machine.Dev

open Machine.Dev

/-- A command that changes nothing leaves what a lane's command must leave. -/
theorem laneFrame_refl (l : Nat) (s : State) : LaneFrame l s s := (LaneStep.refl l s.toDev).frame

/-- A command of a lane that leaves the device as it is. -/
theorem runs_laneSame {c : Instr} {s : State} {l : Nat} {post : State → Prop} (he : exec c s = finish s s.toDev) (hs : Calm s)
    (hp : post s) : Runs c s (fun t => LaneFrame l s t ∧ post t) := runs_same he hs.1 ⟨laneFrame_refl l s, hp⟩
/-- A command of a lane whose walk goes on from `b`. -/
theorem runs_walk {c : Instr} {s : State} {l : Nat} {b d : Dev} {post : State → Prop} (he : exec c s = finish s d) (hs : Calm s)
    (hb : LaneStep l s.toDev b) (hw : Walk l b d) (hp : ∀ t : State, t.toDev = d → post t) :
    Runs c s (fun t => LaneFrame l s t ∧ post t) := runs_lane he hs (hb.trans hw.toLaneStep) fun hf => ⟨hf, hp _ rfl⟩

section
variable {s : State} (hs : Calm s) (l : Fin 1024)
include hs

theorem runs_losAssert (level cclks : Nat) : Runs (.losAssert l level cclks) s (fun t => LaneFrame l s t ∧
    (¬ (level < s.losLevel l ∧ 1500 ≤ cclks) → t = s) ∧ (level < s.losLevel l ∧ 1500 ≤ cclks →
      t.bget (Reg.LANE_RX_STATUS l) 0 = true ∧ (s.bget (Reg.LANE_RX_STATUS l) 0 = false → t.bget (Reg.LANE_EVENT l) 0 = true ∧
        t.laneState l = if s.laneState l = lsTrain ∨ s.laneState l = lsData then lsWait else s.laneState l))) := by
  by_cases hd : level < s.losLevel l ∧ 1500 ≤ cclks
  · have he : exec (.losAssert l level cclks) s = finish s (s.losOn l) := congrArg (finish s) (if_pos hd)
    cases hlos : s.bget (Reg.LANE_RX_STATUS l) 0 with
    | true =>
      rw [losOn, if_pos hlos] at he
      exact runs_laneSame he hs ⟨fun h => absurd hd h, fun _ => ⟨hlos, nofun⟩⟩
    | false =>
      have hw := losOn_walk l.isLt hs.2 hlos
      have hst := laneState_losOn l.isLt hs.2 hlos
      refine runs_walk he hs (losSeen_step s.toDev l) hw fun t ht => ?_
      rw [← ht] at hw hst
      refine ⟨fun h => absurd hd h, fun _ => ⟨?_, fun _ => ⟨?_, hst⟩⟩⟩
      · rw [bget_of_rd hw.rxStatus, bget_of_rd (rxStatus_losSeen s.toDev l), bget_bset_same _ _ _ _ (by decide)]
      · exact hw.event 0 ((bget_laneEvent _ l 0 0 (by decide)).trans (if_pos rfl))
  · exact runs_laneSame (congrArg (finish s) (if_neg hd)) hs ⟨fun _ => rfl, fun h => absurd h hd⟩

theorem runs_losDeassert (level cclks : Nat) : Runs (.losDeassert l level cclks) s (fun t => LaneFrame l s t ∧
    (¬ (s.losOffLevel l < level ∧ 15000 ≤ cclks) → t = s) ∧ (s.losOffLevel l < level ∧ 15000 ≤ cclks →
      t.bget (Reg.LANE_RX_STATUS l) 0 = false ∧ (s.laneState l ≠ lsWait → t.laneState l = s.laneState l) ∧
      (s.laneState l = lsWait → s.bget (Reg.MAC_CFG (s.groupBase l)) 2 = false → t.laneState l = s.wayOut l))) := by
  by_cases hd : s.losOffLevel l < level ∧ 15000 ≤ cclks
  · have he : exec (.losDeassert l level cclks) s = finish s (s.losOff l) := congrArg (finish s) (if_pos hd)
    have hw := losOff_walk l.isLt hs.2
    have hst := laneState_losOff l.isLt hs.2
    refine runs_walk he hs (rxBit_step s.toDev l 0 false) hw fun t ht => ?_
    rw [← ht] at hw hst
    refine ⟨fun h => absurd hd h, fun _ => ⟨?_, fun h => hst.trans ?_, fun h hn => hst.trans ?_⟩⟩
    · rw [bget_of_rd hw.rxStatus, bget_bset_same _ _ _ _ (by decide)]
    · rw [if_neg (fun hx => h hx.1)]
    · rw [if_pos ⟨h, maySignal_losOff hn⟩]
  · exact runs_laneSame (congrArg (finish s) (if_neg hd)) hs ⟨fun _ => rfl, fun h => absurd h hd⟩

/-- An offset that leaves LOL as it is (R75): it stands in the status, and nothing else changes. -/
theorem runs_offset {c : Instr} {ppm : BitVec 16} (he : exec c s = finish s (s.fset (Reg.LANE_RX_STATUS l) 31 16 ppm.toNat)) :
    Runs c s (fun t => LaneFrame l s t ∧ t.fget (Reg.LANE_RX_STATUS l) 31 16 = ppm.toNat ∧
      OnlyRegs (fun a => a = Reg.LANE_RX_STATUS l) s t ∧ t.bget (Reg.LANE_RX_STATUS l) 1 = s.bget (Reg.LANE_RX_STATUS l) 1) := by
  have hb := rxField_step s.toDev l 31 16 ppm.toNat
  have hr := wr_regFrame s.toDev (own := fun a => a = Reg.LANE_RX_STATUS l) rfl (setFld (s.rd (Reg.LANE_RX_STATUS l)) 31 16 ppm.toNat)
  have hp := fget_fset s.toDev (Reg.LANE_RX_STATUS l) 31 16 ppm.toNat (by decide) (by decide)
  have h1 := bget_fset_other s.toDev (Reg.LANE_RX_STATUS l) 31 16 ppm.toNat 1 (by decide) (by decide) (by decide)
  refine runs_walk he hs hb (.refl _ _) fun t ht => ?_
  rw [← ht] at hp h1
  have hr' : RegFrame (fun a => a = Reg.LANE_RX_STATUS l) s.toDev t.toDev := ht.symm ▸ hr
  exact ⟨hp.trans (Nat.mod_eq_of_lt ppm.isLt), ⟨hr'.rd, hr'.beside⟩, h1⟩

theorem runs_lolAssert (ppm : BitVec 16) (run : Nat) : Runs (.lolAssert l ppm run) s (fun t => LaneFrame l s t ∧
    t.fget (Reg.LANE_RX_STATUS l) 31 16 = ppm.toNat ∧
    (¬ s.lolLimit l < ppmAbs ppm.toNat → run < 256 → OnlyRegs (fun a => a = Reg.LANE_RX_STATUS l) s t ∧
      t.bget (Reg.LANE_RX_STATUS l) 1 = s.bget (Reg.LANE_RX_STATUS l) 1) ∧
    (s.lolLimit l < ppmAbs ppm.toNat ∨ 256 ≤ run → t.bget (Reg.LANE_RX_STATUS l) 1 = true ∧
      (s.bget (Reg.LANE_RX_STATUS l) 1 = false → t.bget (Reg.LANE_RX_STATUS l) 2 = false ∧ t.bget (Reg.LANE_EVENT l) 1 = true ∧
        (s.laneState l ≠ lsData → t.laneState l = s.laneState l) ∧
        (s.laneState l = lsData → s.bget (Reg.LANE_RX_STATUS l) 0 = true → t.laneState l = lsWait)))) := by
  by_cases hd : s.lolLimit l < ppmAbs ppm.toNat ∨ 256 ≤ run
  · have he : exec (.lolAssert l ppm run) s = finish s ((s.fset (Reg.LANE_RX_STATUS l) 31 16 ppm.toNat).lolOn l) :=
      congrArg (finish s) (if_pos hd)
    have hoff : ¬ s.lolLimit l < ppmAbs ppm.toNat → ¬ run < 256 := fun h1 h2 => hd.elim h1 (fun h => absurd h2 (by omega))
    cases hlol : s.bget (Reg.LANE_RX_STATUS l) 1 with
    | true =>
      have hon : (s.fset (Reg.LANE_RX_STATUS l) 31 16 ppm.toNat).bget (Reg.LANE_RX_STATUS l) 1 = true :=
        (bget_fset_other _ _ 31 16 _ 1 (by decide) (by decide) (by decide)).trans hlol
      rw [lolOn, if_pos hon] at he
      obtain ⟨t, hx, hq, hf, hp, -, ho⟩ := runs_offset hs l he
      exact ⟨t, hx, hq, hf, hp, fun h1 h2 => absurd h2 (hoff h1), fun _ => ⟨ho.trans hlol, nofun⟩⟩
    | false =>
      have hb := rxField_step s.toDev l 31 16 ppm.toNat
      have hbit : ∀ i < 16, (s.fset (Reg.LANE_RX_STATUS l) 31 16 ppm.toNat).bget (Reg.LANE_RX_STATUS l) i = s.bget (Reg.LANE_RX_STATUS l) i :=
        fun i hi => bget_fset_other _ _ 31 16 _ i (by decide) (by omega) (.inl hi)
      have hfld : (s.fset (Reg.LANE_RX_STATUS l) 31 16 ppm.toNat).fget (Reg.LANE_RX_STATUS l) 31 16 = ppm.toNat :=
        (fget_fset _ _ 31 16 _ (by decide) (by decide)).trans (Nat.mod_eq_of_lt ppm.isLt)
      have hstate := laneState_rxField s.toDev l 31 16 ppm.toNat
      generalize s.fset (Reg.LANE_RX_STATUS l) 31 16 ppm.toNat = d at *
      have hw := lolOn_walk l.isLt (hb.calm hs.2) ((hbit 1 (by decide)).trans hlol)
      obtain ⟨hkeep, hwait⟩ := laneState_lolOn l.isLt (hb.calm hs.2) ((hbit 1 (by decide)).trans hlol)
      have hrx := hw.rxStatus.trans (rxStatus_lolSeen d l)
      refine runs_walk he hs (hb.trans (lolSeen_step d l)) hw fun t ht => ?_
      rw [← ht] at hw hkeep hwait hrx
      rw [hstate] at hkeep hwait
      refine ⟨?_, fun h1 h2 => absurd h2 (hoff h1), fun _ => ⟨?_, fun _ => ⟨?_, ?_, hkeep,
        fun h h0 => hwait h ((hbit 0 (by decide)).trans h0)⟩⟩⟩
      · rw [fget_of_rd hrx, fget_bset_other _ _ _ _ _ _ (by decide) (by decide), fget_bset_other _ _ _ _ _ _ (by decide) (by decide), hfld]
      · rw [bget_of_rd hrx]; simp [bget_bset]
      · rw [bget_of_rd hrx]; simp [bget_bset]
      · exact hw.event 1 ((bget_laneEvent _ l 1 1 (by decide)).trans (if_pos rfl))
  · have he : exec (.lolAssert l ppm run) s = finish s (s.fset (Reg.LANE_RX_STATUS l) 31 16 ppm.toNat) := congrArg (finish s) (if_neg hd)
    obtain ⟨t, hx, hq, hf, hp, ho⟩ := runs_offset hs l he
    exact ⟨t, hx, hq, hf, hp, fun _ _ => ho, fun h => absurd h hd⟩

theorem runs_lolDeassert (ppm : BitVec 16) (run : Nat) : Runs (.lolDeassert l ppm run) s (fun t => LaneFrame l s t ∧
    t.fget (Reg.LANE_RX_STATUS l) 31 16 = ppm.toNat ∧
    (s.lolLimit l < ppmAbs ppm.toNat ∨ run < 4096 → OnlyRegs (fun a => a = Reg.LANE_RX_STATUS l) s t ∧
      t.bget (Reg.LANE_RX_STATUS l) 1 = s.bget (Reg.LANE_RX_STATUS l) 1) ∧
    (¬ s.lolLimit l < ppmAbs ppm.toNat → 4096 ≤ run → t.bget (Reg.LANE_RX_STATUS l) 1 = false ∧ t.bget (Reg.LANE_RX_STATUS l) 2 = true ∧
      (s.laneState l ≠ lsWait → t.laneState l = s.laneState l))) := by
  by_cases hd : ppmAbs ppm.toNat ≤ s.lolLimit l ∧ 4096 ≤ run
  · have he : exec (.lolDeassert l ppm run) s = finish s ((s.fset (Reg.LANE_RX_STATUS l) 31 16 ppm.toNat).lolOff l) :=
      congrArg (finish s) (if_pos hd)
    have hb := rxField_step s.toDev l 31 16 ppm.toNat
    have hfld : (s.fset (Reg.LANE_RX_STATUS l) 31 16 ppm.toNat).fget (Reg.LANE_RX_STATUS l) 31 16 = ppm.toNat :=
      (fget_fset _ _ 31 16 _ (by decide) (by decide)).trans (Nat.mod_eq_of_lt ppm.isLt)
    have hstate := laneState_rxField s.toDev l 31 16 ppm.toNat
    generalize s.fset (Reg.LANE_RX_STATUS l) 31 16 ppm.toNat = d at *
    have hw := lolOff_walk l.isLt (hb.calm hs.2)
    have hkeep := laneState_lolOff l.isLt (hb.calm hs.2)
    refine runs_walk he hs (hb.trans (lolOver_step d l)) hw fun t ht => ?_
    rw [← ht] at hw hkeep
    rw [hstate] at hkeep
    have hrx : t.rd (Reg.LANE_RX_STATUS l) = _ := hw.rxStatus
    refine ⟨?_, fun h => absurd h (by omega), fun _ _ => ⟨?_, ?_, hkeep⟩⟩
    · rw [fget_of_rd hrx, lolOver, fget_bset_other _ _ _ _ _ _ (by decide) (by decide),
        fget_bset_other _ _ _ _ _ _ (by decide) (by decide), hfld]
    · rw [bget_of_rd hrx]; simp [lolOver, bget_bset]
    · rw [bget_of_rd hrx]; simp [lolOver, bget_bset]
  · have he : exec (.lolDeassert l ppm run) s = finish s (s.fset (Reg.LANE_RX_STATUS l) 31 16 ppm.toNat) := congrArg (finish s) (if_neg hd)
    obtain ⟨t, hx, hq, hf, hp, ho⟩ := runs_offset hs l he
    exact ⟨t, hx, hq, hf, hp, fun _ => ho, fun h1 h2 => absurd ⟨Nat.not_lt.1 h1, h2⟩ hd⟩

end

/-- Settles O4: one lemma for each command. -/
theorem laneDetectors : Obligations.LaneDetectors := by
  unfold Obligations.LaneDetectors
  intro s l level cclks run ppm hs
  exact ⟨runs_losAssert hs l level cclks, runs_lolAssert hs l ppm run, runs_losDeassert hs l level cclks, runs_lolDeassert hs l ppm run⟩

end Sys2Proof

/-!
SUPPORT. The walk's other ways (R77, R78, R93): out of RESUME, WAIT_PARTNER and FAIL, and the training timer at its end.
-/
namespace Sys2Proof

open Machine

namespace Machine.Dev

variable (d : Dev) (l : Nat)

/-- Entering DATA sets lock and leaves the fields of the status above it. -/
theorem bget_dataEntry_lock : (d.dataEntry l).bget (Reg.LANE_RX_STATUS l) 2 = true := bget_bset_same _ _ 2 true (by decide)
theorem fget_dataEntry {hi lo : Nat} (hlo : 2 < lo) (hhi : hi < 32) :
    (d.dataEntry l).fget (Reg.LANE_RX_STATUS l) hi lo = d.fget (Reg.LANE_RX_STATUS l) hi lo :=
  (fget_bset_other _ _ 2 hi lo true hhi (.inr hlo)).trans (fget_of_rd (rd_updLane d l _ _) hi lo)

/-- The lane locked in RESUME at an SNR estimate (R77). -/
def locked (snr : Nat) : Dev := (d.setSnr l snr).bset (Reg.LANE_RX_STATUS l) 2 true

theorem locked_step (snr : Nat) : LaneStep l d (d.locked l snr) := (rxField_step d l 15 8 snr).trans (rxBit_step _ l 2 true)
theorem fget_locked {snr : Nat} (h : snr < 256) : (d.locked l snr).fget (Reg.LANE_RX_STATUS l) 15 8 = snr := by
  rw [locked, fget_bset_other _ _ _ _ _ _ (by decide) (by decide), setSnr, fget_fset _ _ _ _ _ (by decide) (by decide)]
  exact Nat.mod_eq_of_lt h
theorem bget_locked (snr : Nat) : (d.locked l snr).bget (Reg.LANE_RX_STATUS l) 2 = true := bget_bset_same _ _ 2 true (by decide)
theorem laneState_locked (snr : Nat) : (d.locked l snr).laneState l = d.laneState l :=
  (laneState_rxBit _ l 2 true).trans (laneState_rxField d l 15 8 snr)

end Machine.Dev

open Machine.Dev

section
variable {s : State} (hs : Calm s) (l : Fin 1024)
include hs

theorem runs_resumeLock (snr : BitVec 8) : Runs (.resumeLock l snr) s (fun t => LaneFrame l s t ∧
    (s.laneState l ≠ lsResume → t = s) ∧ (s.laneState l = lsResume →
      t.fget (Reg.LANE_RX_STATUS l) 15 8 = snr.toNat ∧ t.bget (Reg.LANE_RX_STATUS l) 2 = true ∧
      t.laneState l = if s.minSnr l ≤ snr.toNat then lsData else lsResume)) := by
  by_cases hr : s.laneState l = lsResume
  · have he : exec (.resumeLock l snr) s = finish s (if s.minSnr l ≤ snr.toNat then (s.locked l snr.toNat).laneData l
        else s.locked l snr.toNat) := congrArg (finish s) (if_pos hr)
    have hb := locked_step s.toDev l snr.toNat
    have hsnr := fget_locked s.toDev l snr.isLt
    have hlock := bget_locked s.toDev l snr.toNat
    have hst := laneState_locked s.toDev l snr.toNat
    generalize s.locked l snr.toNat = d at *
    by_cases hm : s.minSnr l ≤ snr.toNat
    · rw [if_pos hm] at he
      have hw := laneData_walk l.isLt (hb.calm hs.2)
      have hdata := laneState_laneData d l.isLt (hb.calm hs.2)
      refine runs_walk he hs (hb.trans (dataEntry_step d l)) hw fun t ht => ?_
      rw [← ht] at hw hdata
      refine ⟨fun h => absurd hr h, fun _ => ⟨?_, ?_, by rw [hdata, if_pos hm]⟩⟩
      · rw [fget_of_rd hw.rxStatus, fget_dataEntry _ _ (by decide) (by decide), hsnr]
      · rw [bget_of_rd hw.rxStatus, bget_dataEntry_lock]
    · rw [if_neg hm] at he
      refine runs_walk he hs hb (.refl _ _) fun t ht => ?_
      rw [← ht] at hsnr hlock hst
      exact ⟨fun h => absurd hr h, fun _ => ⟨hsnr, hlock, by rw [hst, hr, if_neg hm]⟩⟩
  · exact runs_laneSame (congrArg (finish s) (if_neg hr)) hs ⟨fun _ => rfl, fun h => absurd h hr⟩

theorem runs_resumeTimeout : Runs (.resumeTimeout l) s (fun t => LaneFrame l s t ∧ (s.laneState l ≠ lsResume → t = s) ∧
    (s.laneState l = lsResume → t.laneState l = lsTrain ∧ (t.lane l).timer = true)) := by
  by_cases hr : s.laneState l = lsResume
  · have hst := laneState_laneTrain s.toDev l.isLt hs.2
    have htimer := timer_laneTrain l.isLt hs.2
    refine runs_walk (congrArg (finish s) (if_pos hr)) hs (.refl l _) (laneTrain_walk l.isLt hs.2) fun t ht => ?_
    rw [← ht] at hst htimer
    exact ⟨fun h => absurd hr h, fun _ => ⟨hst, htimer⟩⟩
  · exact runs_laneSame (congrArg (finish s) (if_neg hr)) hs ⟨fun _ => rfl, fun h => absurd h hr⟩

theorem runs_partnerReady : Runs (.partnerReady l) s (fun t => LaneFrame l s t ∧ (s.laneState l ≠ lsPartner → t = s) ∧
    (s.laneState l = lsPartner → t.laneState l = lsData ∧ (t.lane l).held = true ∧ t.bget (Reg.LANE_EVENT l) 2 = true)) := by
  by_cases hr : s.laneState l = lsPartner
  · have hst := laneState_laneData s.toDev l.isLt hs.2
    have hheld := held_laneData l.isLt hs.2
    have hev := event_laneData s.toDev l
    refine runs_walk (congrArg (finish s) (if_pos hr)) hs (dataEntry_step _ l) (laneData_walk l.isLt hs.2) fun t ht => ?_
    rw [← ht] at hst hheld hev
    exact ⟨fun h => absurd hr h, fun _ => ⟨hst, hheld, hev⟩⟩
  · exact runs_laneSame (congrArg (finish s) (if_neg hr)) hs ⟨fun _ => rfl, fun h => absurd h hr⟩

/-- The cause of a training that has run out of time (R78). -/
theorem runs_trainTimeout (ms : Nat) (partnerFailed : Bool) : Runs (.trainTimeout l ms partnerFailed) s (fun t => LaneFrame l s t ∧
    (¬ ((s.laneState l = lsTrain ∨ s.laneState l = lsPartner) ∧ 100 * atLeast1 (s.fget (Reg.LANE_TRAIN_CTRL l) 22 16) ≤ ms) → t = s) ∧
    ((s.laneState l = lsTrain ∨ s.laneState l = lsPartner) ∧ 100 * atLeast1 (s.fget (Reg.LANE_TRAIN_CTRL l) 22 16) ≤ ms →
      t.laneState l = lsFail ∧ t.bget (Reg.LANE_EVENT l) 3 = true ∧ (t.lane l).held = false ∧
      t.fget (Reg.LANE_TRAIN_STATUS l) 11 8 =
        if partnerFailed then 4 else if (s.lane l).lowSnr = true ∧ s.laneState l = lsTrain then 2 else 1)) := by
  by_cases hd : (s.laneState l = lsTrain ∨ s.laneState l = lsPartner) ∧ 100 * atLeast1 (s.fget (Reg.LANE_TRAIN_CTRL l) 22 16) ≤ ms
  · have hlt : (if partnerFailed then 4 else if (s.lane l).lowSnr = true ∧ s.laneState l = lsTrain then 2 else 1) < 16 := by
      split
      · decide
      · split <;> decide
    have he : exec (.trainTimeout l ms partnerFailed) s = finish s (s.laneFail l
        (if partnerFailed then 4 else if (s.lane l).lowSnr = true ∧ s.laneState l = lsTrain then 2 else 1)) := by
      refine (congrArg (finish s) (if_pos hd)).trans ?_
      simp only [Bool.and_eq_true, beq_iff_eq]
    generalize (if partnerFailed then 4 else if (s.lane l).lowSnr = true ∧ s.laneState l = lsTrain then 2 else 1) = cause at *
    have hst := laneState_laneFail s.toDev (c := cause) l.isLt hs.2
    have hheld := held_laneFail l.isLt hs.2 cause
    have hev := event_laneFail s.toDev l cause
    have hcause := cause_laneFail l.isLt hs.2 hlt
    refine runs_walk he hs (failEntry_step _ l cause) (laneFail_walk l.isLt hs.2 cause) fun t ht => ?_
    rw [← ht] at hst hheld hev hcause
    exact ⟨fun h => absurd hd h, fun _ => ⟨hst, hev, hheld, hcause⟩⟩
  · exact runs_laneSame (congrArg (finish s) (if_neg hd)) hs ⟨fun _ => rfl, fun h => absurd h hd⟩

theorem runs_failRetry : Runs (.failRetry l) s (fun t => LaneFrame l s t ∧ (s.laneState l ≠ lsFail → t = s) ∧
    (s.laneState l = lsFail → s.bget (Reg.LANE_RX_STATUS l) 0 = true → t.laneState l = lsWait)) := by
  by_cases hr : s.laneState l = lsFail
  · have hst := laneState_laneWait l.isLt hs.2
    refine runs_walk (congrArg (finish s) (if_pos hr)) hs (.refl l _) (laneWait_walk l.isLt hs.2) fun t ht => ?_
    rw [← ht] at hst
    exact ⟨fun h => absurd hr h, fun _ => hst⟩
  · exact runs_laneSame (congrArg (finish s) (if_neg hr)) hs ⟨fun _ => rfl, fun h => absurd h hr⟩

end

/-- Settles O5: one lemma for each command. -/
theorem laneWalk : Obligations.LaneWalk := by
  unfold Obligations.LaneWalk
  intro s l snr ms partnerFailed hs
  exact ⟨runs_resumeLock hs l snr, runs_resumeTimeout hs l, runs_partnerReady hs l, runs_trainTimeout hs l ms partnerFailed,
    runs_failRetry hs l⟩

end Sys2Proof

/-!
SUPPORT. The low-power state of a lane (R83, R84, R87), and the lanes that start at a wake (R85): what one lane's start leaves of another
lane, and the READY that may follow.
-/
namespace Sys2Proof

open Machine

namespace Machine.Dev

variable (d : Dev) (l : Nat)

/-! Into the low-power state and out of it. -/

theorem lpBit_step (i : Nat) (b : Bool) : LaneStep l d (d.bset (Reg.LANE_LP_CTRL l) i b) :=
  laneBit_step d l _ i b (laneReg_own l (by decide))
theorem laneTest_of_rd {d e : Dev} {l : Nat} (h : e.rd (Reg.LANE_TEST_CTRL l) = d.rd (Reg.LANE_TEST_CTRL l)) : e.laneTest l = d.laneTest l := by
  rw [laneTest, laneTest, fget_of_rd h, fget_of_rd h]

/-- The low-power state as REQ asks for it (R83). -/
def lpAsked : Dev :=
  ((d.bset (Reg.LANE_LP_CTRL l) 0 true).bset (Reg.LANE_LP_CTRL l) 1 true).bset (Reg.LANE_LP_CTRL l) 2 false
theorem lpAsked_step : LaneStep l d (d.lpAsked l) := ((lpBit_step d l 0 true).trans (lpBit_step _ l 1 true)).trans (lpBit_step _ l 2 false)

/-- The exit from the low-power state completed, before the lane's walk goes on (R84). -/
def lpLeft : Dev := ((d.bset (Reg.LANE_LP_CTRL l) 2 false).bset (Reg.LANE_LP_CTRL l) 1 false).laneEvent l 6
theorem lpLeft_step : LaneStep l d (d.lpLeft l) :=
  ((lpBit_step d l 2 false).trans (lpBit_step _ l 1 false)).trans (laneEvent_step _ l 6)
/-- Of the lane's registers its control and its events are written. -/
theorem rd_lpLeft {o : Nat} (h : o ≠ 0x24) (he : o ≠ 0x40) : (d.lpLeft l).rd (Reg.lane l + o) = d.rd (Reg.lane l + o) := by
  have hne : Reg.lane l + o ≠ Reg.LANE_LP_CTRL l := laneReg_ne l h
  rw [lpLeft, rd_laneEvent_ne _ _ he, rd_bset_ne _ _ _ hne, rd_bset_ne _ _ _ hne]
theorem bget_lpLeft : (d.lpLeft l).bget (Reg.LANE_LP_CTRL l) 1 = false ∧ (d.lpLeft l).bget (Reg.LANE_LP_CTRL l) 2 = false := by
  have h : (d.lpLeft l).rd (Reg.LANE_LP_CTRL l) = _ := rd_laneEvent_ne _ 6 (o := 0x24) (by decide)
  rw [bget_of_rd h, bget_of_rd h]
  simp [bget_bset]
theorem laneTest_lpLeft : (d.lpLeft l).laneTest l = d.laneTest l := laneTest_of_rd (rd_lpLeft d l (o := 0x28) (by decide) (by decide))

section
variable {d : Dev} {l : Nat} (hl : l < 1024) (hc : Quiet d)
include hl hc

theorem lpExitDone_walk (h : d.bget (Reg.LANE_LP_CTRL l) 2 = true) : Walk l (d.lpLeft l) (d.lpExitDone l) := by
  have hleft := (lpLeft_step d l).calm hc
  rw [lpExitDone, if_pos h]
  dsimp only
  split
  · exact laneTo_walk hl hleft lsTest
  · exact laneWait_walk hl hleft
/-- Out of the low-power state: to TEST under a test, to WAIT_SIGNAL without a signal (R84, R87). -/
theorem laneState_lpExitDone (h : d.bget (Reg.LANE_LP_CTRL l) 2 = true) :
    (d.laneTest l = true → (d.lpExitDone l).laneState l = lsTest) ∧
      (d.laneTest l = false → d.bget (Reg.LANE_RX_STATUS l) 0 = true → (d.lpExitDone l).laneState l = lsWait) := by
  have hleft := (lpLeft_step d l).calm hc
  rw [lpExitDone, if_pos h, ← laneTest_lpLeft]
  refine ⟨fun ht => ?_, fun ht hlos => ?_⟩
  · exact (congrArg (Dev.laneState · l) (if_pos ht)).trans (laneState_laneTo _ hl hleft (by decide))
  · have hlos' : (d.lpLeft l).bget (Reg.LANE_RX_STATUS l) 0 = true := (bget_of_rd (rd_lpLeft d l (o := 0x18) (by decide) (by decide)) 0).trans hlos
    exact (congrArg (Dev.laneState · l) (if_neg (by rw [← lpLeft, ht]; decide))).trans (laneState_laneWait hl hleft hlos')

/-! The start of a lane (R78, R85). -/

theorem laneStart_step : LaneStep l d (d.laneStart l) := by
  unfold laneStart
  split
  · exact .refl l d
  · split
    · exact laneTo_step d l lsTest hl hc
    · split
      · exact laneWait_step d l hl hc
      · exact .refl l d
/-- Where a lane that is OFF starts: TEST under a test, WAIT_SIGNAL where used without a signal; else it stays. -/
theorem laneState_laneStart (h : d.laneState l = lsOff) : (d.laneTest l = true → (d.laneStart l).laneState l = lsTest) ∧
    (d.laneTest l = false → d.laneUsed l = false → (d.laneStart l).laneState l = lsOff) ∧
    (d.laneTest l = false → d.laneUsed l = true → d.bget (Reg.LANE_RX_STATUS l) 0 = true → (d.laneStart l).laneState l = lsWait) := by
  have hlow : d.laneState l ≠ lsLow := by rw [h]; decide
  rw [laneStart, if_neg hlow]
  refine ⟨fun ht => ?_, fun ht hu => ?_, fun ht hu hlos => ?_⟩
  · rw [if_pos ht]
    exact laneState_laneTo d hl hc (by decide)
  · rw [if_neg (by simp [ht]), if_neg (by simp [hu]), h]
  · rw [if_neg (by simp [ht]), if_pos hu]
    exact laneState_laneWait hl hc hlos

end

/-- A lane started where it is OFF. -/
def startOff (d : Dev) (k : Nat) : Dev := if d.laneState k = lsOff then d.laneStart k else d
theorem startOff_step {k : Nat} (hk : k < 1024) (hc : Quiet d) : LaneStep k d (d.startOff k) := by
  unfold startOff
  split
  · exact laneStart_step hk hc
  · exact .refl k d

/-- The device without what lanes, ports and links change. -/
def outsideLanes (d : Dev) : Dev := { d.around with lanes := [], freeCtr := 0 }

/-- `e` differs from `d` by steps of lanes other than `l`. -/
structure OtherLanes (l : Nat) (d e : Dev) : Prop where
  own : ∀ a, ofLane l a → e.rd a = d.rd a
  macCfg : ∀ p, e.rd (Reg.MAC_CFG p) = d.rd (Reg.MAC_CFG p)
  portMode : ∀ n, e.portMode n = d.portMode n
  outside : e.outsideLanes = d.outsideLanes
  calm : Quiet d → Quiet e

namespace OtherLanes

variable {l : Nat} {d e f : Dev}

theorem refl (l : Nat) (d : Dev) : OtherLanes l d d := ⟨fun _ _ => rfl, fun _ => rfl, fun _ => rfl, rfl, id⟩
theorem trans (h : OtherLanes l d e) (g : OtherLanes l e f) : OtherLanes l d f :=
  ⟨fun a ha => (g.own a ha).trans (h.own a ha), fun p => (g.macCfg p).trans (h.macCfg p), fun n => (g.portMode n).trans (h.portMode n),
    g.outside.trans h.outside, g.calm ∘ h.calm⟩
/-- The registers of two lanes lie apart. -/
theorem of_step {k : Nat} (hl : l < 1024) (hne : k ≠ l) (h : LaneStep k d e) : OtherLanes l d e where
  own a ha := by
    obtain ⟨hport, hpend⟩ := ofLane_kept hl ha
    refine h.rd a (fun hk => ?_) hport hpend
    obtain ⟨h1, h2⟩ := ha
    obtain ⟨h3, h4⟩ := hk
    simp only [Reg.lane, Reg.spar] at h1 h2 h3 h4
    omega
  macCfg := h.macCfg
  portMode := h.portMode
  outside := h.around
  calm := h.calm

variable (h : OtherLanes l d e)
include h
theorem laneState : e.laneState l = d.laneState l := laneState_of_rd (h.own _ (laneStateReg l))
theorem laneTest : e.laneTest l = d.laneTest l := laneTest_of_rd (h.own _ (laneReg_own l (by decide)))
theorem los : e.bget (Reg.LANE_RX_STATUS l) 0 = d.bget (Reg.LANE_RX_STATUS l) 0 := bget_of_rd (h.own _ (laneReg_own l (by decide))) 0
theorem laneUsed : e.laneUsed l = d.laneUsed l := by
  have hw : e.widthAt l = d.widthAt l := congrArg groupWidth (h.portMode _)
  rw [Dev.laneUsed, Dev.laneUsed, isHalyard, isHalyard, h.portMode, groupBase, groupBase, hw, bget_of_rd (h.macCfg _)]

end OtherLanes

/-- A run of starts of other lanes. -/
theorem foldl_startOff_otherLanes {l : Nat} (hl : l < 1024) : ∀ (ks : List Nat) (d : Dev), Quiet d → (∀ k ∈ ks, k < 1024 ∧ k ≠ l) →
    OtherLanes l d (ks.foldl startOff d)
  | [], d, _, _ => .refl l d
  | k :: ks, d, hc, hk => by
    obtain ⟨h1, h2⟩ := hk k List.mem_cons_self
    have h := OtherLanes.of_step hl h2 (startOff_step d h1 hc)
    exact h.trans (foldl_startOff_otherLanes hl ks _ (h.calm hc) (fun j hj => hk j (List.mem_cons_of_mem k hj)))

/-- Every lane that is OFF started (R85). -/
def lanesStarted : Dev := (upto 1024).foldl startOff d

/-- Lane `l` starts once, and the other lanes' starts leave it. -/
theorem lanesStarted_split {d : Dev} {l : Nat} (hl : l < 1024) (hc : Quiet d) :
    ∃ e, OtherLanes l d e ∧ OtherLanes l (e.startOff l) d.lanesStarted := by
  obtain ⟨before, after, hsplit⟩ := List.append_of_mem (List.mem_range.2 hl)
  have hnodup : (before ++ l :: after).Nodup := hsplit ▸ List.nodup_range
  have hlt : ∀ k ∈ before ++ l :: after, k < 1024 := fun k hk => List.mem_range.1 (hsplit ▸ hk)
  obtain ⟨-, hafter, hdisj⟩ := List.nodup_append.1 hnodup
  have hb := foldl_startOff_otherLanes hl before d hc (fun k hk => ⟨hlt k (by simp [hk]), hdisj k hk l List.mem_cons_self⟩)
  refine ⟨_, hb, ?_⟩
  have ha := foldl_startOff_otherLanes hl after _ ((startOff_step _ hl (hb.calm hc)).calm (hb.calm hc))
    (fun k hk => ⟨hlt k (by simp [hk]), fun e => (List.nodup_cons.1 hafter).1 (e ▸ hk)⟩)
  rw [lanesStarted, upto, hsplit, List.foldl_append, List.foldl_cons]
  exact ha

/-- What a lane that was OFF has become where every lane has started. -/
theorem laneState_lanesStarted {d : Dev} {l : Nat} (hl : l < 1024) (hc : Quiet d) :
    (d.laneState l ≠ lsOff → d.lanesStarted.laneState l = d.laneState l) ∧ (d.laneState l = lsOff →
      (d.laneTest l = true → d.lanesStarted.laneState l = lsTest) ∧
      (d.laneTest l = false → d.laneUsed l = false → d.lanesStarted.laneState l = lsOff) ∧
      (d.laneTest l = false → d.laneUsed l = true → d.bget (Reg.LANE_RX_STATUS l) 0 = true → d.lanesStarted.laneState l = lsWait)) := by
  obtain ⟨e, hb, ha⟩ := lanesStarted_split hl hc
  rw [ha.laneState, ← hb.laneState, ← hb.laneTest, ← hb.laneUsed, ← hb.los, startOff]
  refine ⟨fun h => by rw [if_neg h], fun h => ?_⟩
  rw [if_pos h]
  exact laneState_laneStart hl (hb.calm hc) h
theorem lanesStarted_outside {d : Dev} (hc : Quiet d) : d.lanesStarted.outsideLanes = d.outsideLanes := by
  obtain ⟨e, hb, ha⟩ := lanesStarted_split (l := 0) (by decide) hc
  exact ha.outside.trans ((startOff_step e (k := 0) (by decide) (hb.calm hc)).around.trans hb.outside)

/-! READY (R410, R383). -/

/-- The device in RUN with a bit set and characters sent, the wake behind it. -/
def readied (a : Nat) (cs : List Byte) : Dev :=
  (((d.toPower .run).bset a 4 true).say cs).updIsland (fun y => { y with woken := false })
/-- The device without registers, outputs, interrupts and the island. -/
def besideIsland (d : Dev) : Dev := { d.beside with island := {} }
theorem besideIsland_of_beside {d e : Dev} (h : e.beside = d.beside) : e.besideIsland = d.besideIsland :=
  congrArg (fun x : Dev => { x with island := {} }) h
theorem besideIsland_updIsland (f : Island → Island) : (d.updIsland f).besideIsland = d.besideIsland := rfl
theorem say_beside (cs : List Byte) : (d.say cs).beside = d.beside := by
  rw [say_eq]
  rfl
theorem readied_besideIsland (a : Nat) (cs : List Byte) : (d.readied a cs).besideIsland = d.besideIsland :=
  calc (d.readied a cs).besideIsland
    _ = (((d.toPower .run).bset a 4 true).say cs).besideIsland := besideIsland_updIsland _ _
    _ = ((d.toPower .run).bset a 4 true).besideIsland := besideIsland_of_beside (say_beside _ cs)
    _ = (d.toPower .run).besideIsland := besideIsland_of_beside (beside_wr _ a _)
    _ = d.besideIsland := besideIsland_updIsland d _
theorem rd_readied {a b : Nat} (h : b ≠ a) (cs : List Byte) : (d.readied a cs).rd b = d.rd b := by
  have hsay : (((d.toPower .run).bset a 4 true).say cs).rd b = ((d.toPower .run).bset a 4 true).rd b := by
    rw [say_eq]
    rfl
  exact hsay.trans (rd_bset_ne (d.toPower .run) 4 true h)
theorem lanesDone_readied (a : Nat) (cs : List Byte) : (d.readied a cs).island.lanesDone = d.island.lanesDone := by
  rw [readied, say_eq]
  rfl

/-- The device without what lanes, ports and links, and the island change. -/
def resting (d : Dev) : Dev := { d.outsideLanes with island := {} }
theorem resting_of_besideIsland {d e : Dev} (h : e.besideIsland = d.besideIsland) : e.resting = d.resting :=
  congrArg (fun x : Dev => { x with cnts := [], ports := [], spars := [], slices := [], stack := {}, lanes := [], freeCtr := 0 }) h
theorem resting_lanesStarted {d : Dev} (hc : Quiet d) : d.lanesStarted.resting = d.resting :=
  congrArg (fun x : Dev => { x with island := {} }) (lanesStarted_outside hc)

/-- READY leaves the lanes done, and touches the island, its own bit, outputs and interrupts alone. -/
theorem wakeReady_post : d.wakeReady.island.lanesDone = d.island.lanesDone ∧
    (∀ a, a ≠ Reg.GLB_SLEEP_STATUS → ¬ isPend a → d.wakeReady.rd a = d.rd a) ∧ d.wakeReady.besideIsland = d.besideIsland := by
  have hready : ∀ (ks : List Nat) (cs : List Byte) (a : Nat), (ks.foldl pendSet (d.readied a cs)).island.lanesDone = d.island.lanesDone ∧
      (∀ b, b ≠ a → ¬ isPend b → (ks.foldl pendSet (d.readied a cs)).rd b = d.rd b) ∧
      (ks.foldl pendSet (d.readied a cs)).besideIsland = d.besideIsland := by
    intro ks cs a
    have h := foldl_frame pendSet pendSet_frame ks (d.readied a cs)
    exact ⟨(congrArg Island.lanesDone h.island).trans (lanesDone_readied d a cs), fun b hb hp => (h.rd b hp).trans (rd_readied d hb cs),
      (besideIsland_of_beside h.beside).trans (readied_besideIsland d a cs)⟩
  unfold wakeReady
  dsimp only
  split
  · exact hready _ _ _
  · exact ⟨rfl, fun _ _ _ => rfl, rfl⟩

/-- The lanes done, and READY where nothing else is awaited. -/
def restarted (d : Dev) : Dev := (d.updIsland (fun x => { x with lanesDone := true })).wakeReady
theorem restarted_post : d.restarted.island.lanesDone = true ∧ (∀ a, a ≠ Reg.GLB_SLEEP_STATUS → ¬ isPend a → d.restarted.rd a = d.rd a) ∧
    d.restarted.besideIsland = d.besideIsland := by
  obtain ⟨hdone, hrd, hb⟩ := wakeReady_post (d.updIsland (fun x => { x with lanesDone := true }))
  exact ⟨hdone, hrd, hb.trans (besideIsland_updIsland d _)⟩
theorem lanesReady_eq : d.lanesReady = d.lanesStarted.restarted := by
  unfold lanesReady lanesStarted restarted startOff
  rfl
theorem laneState_ne_sleep (l : Nat) : Reg.LANE_STATE l ≠ Reg.GLB_SLEEP_STATUS := by
  simp only [Reg.LANE_STATE, Reg.lane, Reg.spar, Reg.GLB_SLEEP_STATUS]
  omega

end Machine.Dev

open Machine.Dev

section
variable {s : State} (hs : Calm s) (l : Fin 1024)
include hs

theorem runs_laneLpEnter : Runs (.laneLpEnter l) s (fun t => LaneFrame l s t ∧ t.bget (Reg.LANE_LP_CTRL l) 0 = true ∧
    t.bget (Reg.LANE_LP_CTRL l) 1 = true ∧ t.bget (Reg.LANE_LP_CTRL l) 2 = false ∧ t.laneState l = lsLow) := by
  have he : exec (.laneLpEnter l) s = finish s ((s.lpAsked l).laneTo l lsLow) := rfl
  have hb := lpAsked_step s.toDev l
  have hw := laneTo_walk l.isLt (hb.calm hs.2) lsLow
  have hst := laneState_laneTo (st := lsLow) _ l.isLt (hb.calm hs.2) (by decide)
  refine runs_walk he hs hb hw fun t ht => ?_
  rw [← ht] at hw hst
  have hlp : t.rd (Reg.LANE_LP_CTRL l) = _ := hw.lpCtrl
  rw [bget_of_rd hlp, bget_of_rd hlp, bget_of_rd hlp]
  exact ⟨by simp [lpAsked, bget_bset], by simp [lpAsked, bget_bset], by simp [lpAsked, bget_bset], hst⟩

theorem runs_laneLpExit : Runs (.laneLpExit l) s (fun t => OnlyRegs (fun a => a = Reg.LANE_LP_CTRL l) s t ∧
    t.bget (Reg.LANE_LP_CTRL l) 0 = false ∧ t.bget (Reg.LANE_LP_CTRL l) 1 = s.bget (Reg.LANE_LP_CTRL l) 1 ∧
    t.bget (Reg.LANE_LP_CTRL l) 2 = (s.bget (Reg.LANE_LP_CTRL l) 2 || s.bget (Reg.LANE_LP_CTRL l) 1)) := by
  have h0 := bset_regFrame_self s.toDev (Reg.LANE_LP_CTRL l) 0 false
  cases hlp : s.bget (Reg.LANE_LP_CTRL l) 1 with
  | true =>
    have he : exec (.laneLpExit l) s = finish s ((s.bset (Reg.LANE_LP_CTRL l) 0 false).bset (Reg.LANE_LP_CTRL l) 2 true) :=
      congrArg (finish s) (if_pos hlp)
    have h := h0.trans (bset_regFrame_self _ (Reg.LANE_LP_CTRL l) 2 true)
    refine runs_beside he hs.1 h.beside ⟨⟨h.rd, h.beside⟩, ?_⟩
    simp [bget_bset, hlp]
  | false =>
    have he : exec (.laneLpExit l) s = finish s (s.bset (Reg.LANE_LP_CTRL l) 0 false) :=
      congrArg (finish s) (if_neg (by simp [hlp]))
    refine runs_beside he hs.1 h0.beside ⟨⟨h0.rd, h0.beside⟩, ?_⟩
    simp [bget_bset, hlp]

theorem runs_laneLpExitDone : Runs (.laneLpExitDone l) s (fun t => LaneFrame l s t ∧ (s.bget (Reg.LANE_LP_CTRL l) 2 = false → t = s) ∧
    (s.bget (Reg.LANE_LP_CTRL l) 2 = true → t.bget (Reg.LANE_LP_CTRL l) 2 = false ∧ t.bget (Reg.LANE_LP_CTRL l) 1 = false ∧
      t.bget (Reg.LANE_EVENT l) 6 = true ∧ (s.laneTest l = true → t.laneState l = lsTest) ∧
      (s.laneTest l = false → s.bget (Reg.LANE_RX_STATUS l) 0 = true → t.laneState l = lsWait))) := by
  cases hlp : s.bget (Reg.LANE_LP_CTRL l) 2 with
  | true =>
    have hw := lpExitDone_walk l.isLt hs.2 hlp
    have hst := laneState_lpExitDone l.isLt hs.2 hlp
    obtain ⟨h1, h2⟩ := bget_lpLeft s.toDev l
    refine runs_walk rfl hs (lpLeft_step _ l) hw fun t ht => ?_
    rw [← ht] at hw hst
    refine ⟨nofun, fun _ => ⟨?_, ?_, ?_, hst⟩⟩
    · rw [bget_of_rd hw.lpCtrl, h2]
    · rw [bget_of_rd hw.lpCtrl, h1]
    · exact hw.event 6 ((bget_laneEvent _ l 6 6 (by decide)).trans (if_pos rfl))
  | false => exact runs_laneSame (congrArg (finish s) (if_neg (by simp [hlp]))) hs ⟨fun _ => rfl, nofun⟩

/-- A command whose device keeps what neither lanes nor the island hold. -/
theorem runs_resting {c : Instr} {d : Dev} (he : exec c s = finish s d) (hd : d.resting = s.resting) : Runs c s (fun t => t.toDev = d) :=
  runs_quiet he hs.1 (congrArg Dev.fault hd :) (congrArg Dev.fmem hd :) (congrArg Dev.stores hd :) (congrArg Dev.fuses hd :) rfl

theorem runs_laneRestartDone : Runs .laneRestartDone s (fun t => t.island.lanesDone = true ∧
    (s.laneState l ≠ lsOff → t.laneState l = s.laneState l) ∧
    (s.laneState l = lsOff → (s.laneTest l = true → t.laneState l = lsTest) ∧
      (s.laneTest l = false → s.laneUsed l = false → t.laneState l = lsOff) ∧
      (s.laneTest l = false → s.laneUsed l = true → s.bget (Reg.LANE_RX_STATUS l) 0 = true → t.laneState l = lsWait))) := by
  have he : exec .laneRestartDone s = execLaneRestartDone s := rfl
  rw [execLaneRestartDone, lanesReady_eq] at he
  obtain ⟨hdone, hrd, hb⟩ := restarted_post s.lanesStarted
  obtain ⟨t, hx, hq, ht⟩ := runs_resting hs he ((resting_of_besideIsland hb).trans (resting_lanesStarted hs.2))
  have hst := laneState_lanesStarted l.isLt hs.2
  rw [← laneState_of_rd (hrd _ (laneState_ne_sleep l) (not_isPend_lane l 0x14)), ← ht] at hst
  exact ⟨t, hx, hq, ht ▸ hdone, hst⟩

end

/-- Settles O9: one lemma for each command. -/
theorem laneLowPower : Obligations.LaneLowPower := by
  unfold Obligations.LaneLowPower
  intro s l hs
  exact ⟨runs_laneLpEnter hs l, runs_laneLpExit hs l, runs_laneLpExitDone hs l, runs_laneRestartDone hs l⟩

end Sys2Proof

/-!
SUPPORT. The end of local training (R78, R79, R81, R82): what a lane has heard, and what the way out of TRAIN keeps of it.
-/
namespace Sys2Proof

open Machine

namespace Machine

/-! The estimate that the requests reach (R79). -/

theorem best_askStep_lt (k goal : Nat) {a : Ask} (t : TapStep) (h : a.best < 256) : (askStep k goal a t).best < 256 := by
  unfold askStep
  split
  · exact h
  · dsimp only
    split
    · exact t.snr.isLt
    · exact h
theorem best_askSteps_lt (k goal : Nat) : ∀ (steps : List TapStep) (a : Ask), a.best < 256 → (steps.foldl (askStep k goal) a).best < 256
  | [], _, h => h
  | t :: steps, _, h => best_askSteps_lt k goal steps _ (best_askStep_lt k goal t h)
theorem askDone_iff (goal : Nat) (a : Ask) : askDone goal a = true ↔ goal ≤ a.best ∨ 8 ≤ a.run := by simp [askDone]

namespace Dev

/-! The mapping of a partner lane (R81). -/

theorem laneMap_eq_one {w i j : Nat} : (laneMap w i j == 1) = true ↔ j ≠ i ∧ j + i + 1 = w ∧ 1 < w := by
  unfold laneMap
  split
  · simp; omega
  · split
    · simp; omega
    · simp; omega
theorem laneMap_eq_two {w i j : Nat} (hw : 1 < w) (hi : j ≠ i) (hr : j + i + 1 ≠ w) : laneMap w i j = 2 := by
  rw [laneMap, if_neg (by omega), if_neg (by omega)]

/-- `e` keeps what training wrote into the status of lane `l`, and what had been sent. -/
structure TrainKept (l : Nat) (d e : Dev) : Prop extends LaneStep l d e, Sends d e where
  field : ∀ hi lo, hi < 32 → hi < 8 ∨ 11 < lo → e.fget (Reg.LANE_TRAIN_STATUS l) hi lo = d.fget (Reg.LANE_TRAIN_STATUS l) hi lo
  bits : ∀ i < 8, e.bget (Reg.LANE_TRAIN_STATUS l) i = d.bget (Reg.LANE_TRAIN_STATUS l) i
  snr : e.fget (Reg.LANE_RX_STATUS l) 15 8 = d.fget (Reg.LANE_RX_STATUS l) 15 8

namespace TrainKept

variable {l : Nat} {d e f : Dev}

theorem refl (l : Nat) (d : Dev) : TrainKept l d d := ⟨.refl l d, .refl d, fun _ _ _ _ => rfl, fun _ _ => rfl, rfl⟩
theorem trans (h : TrainKept l d e) (g : TrainKept l e f) : TrainKept l d f :=
  ⟨h.toLaneStep.trans g.toLaneStep, h.toSends.trans g.toSends, fun hi lo h1 h2 => (g.field hi lo h1 h2).trans (h.field hi lo h1 h2),
    fun i hi => (g.bits i hi).trans (h.bits i hi), g.snr.trans h.snr⟩
/-- A step that leaves the status of training and the estimate. -/
theorem of_rd (h : LaneStep l d e) (g : Sends d e) (hst : e.rd (Reg.LANE_TRAIN_STATUS l) = d.rd (Reg.LANE_TRAIN_STATUS l))
    (hrx : e.fget (Reg.LANE_RX_STATUS l) 15 8 = d.fget (Reg.LANE_RX_STATUS l) 15 8) : TrainKept l d e :=
  ⟨h, g, fun hi lo _ _ => fget_of_rd hst hi lo, fun i _ => bget_of_rd hst i, hrx⟩
theorem of_walk (h : Walk l d e) : TrainKept l d e := of_rd h.toLaneStep h.toSends h.trainStatus (fget_of_rd h.rxStatus 15 8)
theorem of_updLane (d : Dev) (l : Nat) (f : Lane → Lane) : TrainKept l d (d.updLane l f) :=
  of_rd (updLane_step d l f) (.of_eq rfl) (rd_updLane d l f _) (fget_of_rd (rd_updLane d l f _) 15 8)
theorem of_cause (d : Dev) (l c : Nat) : TrainKept l d (d.fset (Reg.LANE_TRAIN_STATUS l) 11 8 c) where
  toLaneStep := laneFld_step d l _ 11 8 c (laneReg_own l (by decide))
  toSends := wr_sends d _ _
  field hi lo h1 h2 := fget_fset_other d _ 11 8 c hi lo (by decide) h1 h2
  bits i h := bget_fset_other d _ 11 8 c i (by decide) (by omega) (.inl h)
  snr := fget_of_rd (rd_fset_ne d 11 8 c (laneReg_ne l (by decide))) 15 8
/-- A field of the receiver's status beside the estimate. -/
theorem of_rxField (d : Dev) (l : Nat) {hi lo : Nat} (v : Nat) (h : lo ≤ hi) (hd : 15 < lo ∨ hi < 8) :
    TrainKept l d (d.fset (Reg.LANE_RX_STATUS l) hi lo v) :=
  of_rd (rxField_step d l hi lo v) (wr_sends d _ _) (rd_fset_ne d hi lo v (laneReg_ne l (by decide)))
    (fget_fset_other d _ hi lo v 15 8 h (by decide) hd)
/-- A field of the equalizer. -/
theorem of_eqField (d : Dev) (l hi lo v : Nat) : TrainKept l d (d.fset (Reg.LANE_RX_EQ l) hi lo v) :=
  of_rd (laneFld_step d l _ hi lo v (laneReg_own l (by decide))) (wr_sends d _ _) (rd_fset_ne d hi lo v (laneReg_ne l (by decide)))
    (fget_of_rd (rd_fset_ne d hi lo v (laneReg_ne l (by decide))) 15 8)
theorem of_freeCtr (d : Dev) (l n : Nat) : TrainKept l d { d with freeCtr := n } :=
  of_rd ⟨fun _ _ _ _ => rfl, fun _ _ => rfl, rfl, id⟩ (.of_eq rfl) rfl rfl

end TrainKept

variable (d : Dev) (l : Nat)

theorem trainedFree_kept : TrainKept l d (d.trainedFree l) := by
  unfold trainedFree
  exact ((((TrainKept.of_freeCtr d l _).trans (.of_eqField _ l 4 0 _)).trans (.of_rxField _ l _ (by decide) (.inl (by decide)))).trans
    (.of_eqField _ l 13 8 _)).trans (.of_updLane _ l _)
theorem dataEntry_kept : TrainKept l d (d.dataEntry l) :=
  (TrainKept.of_updLane d l _).trans (.of_rxField _ l _ (by decide) (.inr (by decide)))
theorem failEntry_kept (c : Nat) : TrainKept l d (d.failEntry l c) := (TrainKept.of_cause d l c).trans (.of_updLane _ l _)

/-! What a lane hears at the end of its training. -/

/-- The requests of a lane in training and the estimate they reach; none with TRAIN_EN = 0. -/
def trainAsks (snr partner : Nat) (steps : List TapStep) : Ask :=
  if d.bget (Reg.LANE_TRAIN_CTRL l) 0 then d.asks l snr partner steps else { best := snr }
/-- Does the receiver ask no more? -/
def trainStopped (a : Ask) : Bool := !d.bget (Reg.LANE_TRAIN_CTRL l) 0 || askDone (d.minSnr l + 16) a
/-- Lane reversal: forced, or as heard (R81). -/
def trainRev (partner : Nat) : Bool :=
  if d.fget (Reg.LANE_CFG l) 5 4 = 1 then false else if d.fget (Reg.LANE_CFG l) 5 4 = 2 then true
  else laneMap (atLeast1 (d.widthAt l)) (l - d.groupBase l) partner == 1
/-- Polarity: forced, or as heard (R81). -/
def trainPol (inverted : Bool) : Bool :=
  if d.fget (Reg.LANE_CFG l) 2 1 = 1 then false else if d.fget (Reg.LANE_CFG l) 2 1 = 2 then true else inverted

theorem best_trainAsks_lt {snr : Nat} (h : snr < 256) (partner : Nat) (steps : List TapStep) : (d.trainAsks l snr partner steps).best < 256 := by
  unfold trainAsks
  split
  · exact best_askSteps_lt _ _ steps _ h
  · exact h
theorem trainStopped_iff (a : Ask) : d.trainStopped l a = true ↔
    d.bget (Reg.LANE_TRAIN_CTRL l) 0 = false ∨ d.minSnr l + 16 ≤ a.best ∨ 8 ≤ a.run := by
  rw [trainStopped, Bool.or_eq_true, askDone_iff]
  simp

theorem fset_outs (a hi lo v : Nat) : (d.fset a hi lo v).outs = d.outs := rfl
theorem bset_outs (a i : Nat) (b : Bool) : (d.bset a i b).outs = d.outs := rfl

/-- The status of training as heard: the count of requests, the partner lane, reversal and polarity. -/
def statusHeard (sent partner : Nat) (rev inv : Bool) : Dev :=
  (((d.fset (Reg.LANE_TRAIN_STATUS l) 31 16 (min 65535 sent)).fset (Reg.LANE_TRAIN_STATUS l) 7 5 partner).bset
    (Reg.LANE_TRAIN_STATUS l) 4 rev).bset (Reg.LANE_TRAIN_STATUS l) 3 inv

section
variable {d l} {sent partner : Nat} {rev inv : Bool}

theorem statusHeard_step : LaneStep l d (d.statusHeard l sent partner rev inv) := by
  have hown : ofLane l (Reg.LANE_TRAIN_STATUS l) := laneReg_own l (by decide)
  exact (((laneFld_step d l _ 31 16 _ hown).trans (laneFld_step _ l _ 7 5 partner hown)).trans (laneBit_step _ l _ 4 rev hown)).trans
    (laneBit_step _ l _ 3 inv hown)
theorem rd_statusHeard_ne {o : Nat} (h : o ≠ 0x10) : (d.statusHeard l sent partner rev inv).rd (Reg.lane l + o) = d.rd (Reg.lane l + o) := by
  have hne : Reg.lane l + o ≠ Reg.LANE_TRAIN_STATUS l := laneReg_ne l h
  rw [statusHeard, rd_bset_ne _ _ _ hne, rd_bset_ne _ _ _ hne, rd_fset_ne _ _ _ _ hne, rd_fset_ne _ _ _ _ hne]
theorem statusHeard_outs : (d.statusHeard l sent partner rev inv).outs = d.outs := by
  rw [statusHeard, bset_outs, bset_outs, fset_outs, fset_outs]
theorem sent_statusHeard : (d.statusHeard l sent partner rev inv).fget (Reg.LANE_TRAIN_STATUS l) 31 16 = min 65535 sent := by
  rw [statusHeard, fget_bset_other _ _ _ _ _ _ (by decide) (by decide), fget_bset_other _ _ _ _ _ _ (by decide) (by decide),
    fget_fset_other _ _ _ _ _ _ _ (by decide) (by decide) (by decide), fget_fset _ _ _ _ _ (by decide) (by decide)]
  exact Nat.mod_eq_of_lt (Nat.lt_of_le_of_lt (Nat.min_le_left _ _) (by decide))
theorem partner_statusHeard (h : partner < 8) : (d.statusHeard l sent partner rev inv).fget (Reg.LANE_TRAIN_STATUS l) 7 5 = partner := by
  rw [statusHeard, fget_bset_other _ _ _ _ _ _ (by decide) (by decide), fget_bset_other _ _ _ _ _ _ (by decide) (by decide),
    fget_fset _ _ _ _ _ (by decide) (by decide)]
  exact Nat.mod_eq_of_lt h
theorem rev_statusHeard : (d.statusHeard l sent partner rev inv).bget (Reg.LANE_TRAIN_STATUS l) 4 = rev := by simp [statusHeard, bget_bset]
theorem pol_statusHeard : (d.statusHeard l sent partner rev inv).bget (Reg.LANE_TRAIN_STATUS l) 3 = inv := by simp [statusHeard, bget_bset]

end

/-- The lane's requests counted, and whether its estimate stayed low (R78, R79). -/
def askedOf (a : Ask) : Dev := d.updLane l (fun x => { x with
  asked := true, sent := (d.lane l).sent + a.sent, lowSnr := d.trainStopped l a && decide (a.best < d.minSnr l) })
/-- The status of training as a lane that asked so hears it. -/
def statusOf (partner : Nat) (inverted : Bool) (a : Ask) : Dev :=
  (d.askedOf l a).statusHeard l ((d.lane l).sent + a.sent) partner (d.trainRev l partner) (d.trainPol l inverted)
/-- The lane at the local end of its training, before its walk goes on. -/
def trainHeard (partner : Nat) (inverted : Bool) (a : Ask) : Dev := ((d.statusOf l partner inverted a).setSnr l a.best).emits a.outs
/-- The lane trained, its free values taken and the cause of a failure cleared. -/
def trained : Dev := (d.trainedFree l).fset (Reg.LANE_TRAIN_STATUS l) 11 8 0

theorem trained_kept : TrainKept l d (d.trained l) := (trainedFree_kept d l).trans (.of_cause _ l 0)

theorem trainDone_eq (h : d.laneState l = lsTrain) (snr partner : Nat) (inverted : Bool) (steps : List TapStep) :
    d.trainDone l snr partner inverted steps =
      if !(d.fget (Reg.LANE_CFG l) 5 4 == 1 || d.fget (Reg.LANE_CFG l) 5 4 == 2) &&
          !d.mapOk l (laneMap (atLeast1 (d.widthAt l)) (l - d.groupBase l) partner) then
        (d.trainHeard l partner inverted (d.trainAsks l snr partner steps)).laneFail l 3
      else if d.trainStopped l (d.trainAsks l snr partner steps) && decide (d.minSnr l ≤ (d.trainAsks l snr partner steps).best) then
        if d.bget (Reg.LANE_TRAIN_CTRL l) 0 then
          ((d.trainHeard l partner inverted (d.trainAsks l snr partner steps)).trained l).laneTo l lsPartner
        else ((d.trainHeard l partner inverted (d.trainAsks l snr partner steps)).trained l).laneData l
      else d.trainHeard l partner inverted (d.trainAsks l snr partner steps) := by
  rw [trainDone, if_neg (not_not_intro h)]
  rfl

/-! What a message after the estimate leaves. -/

theorem rd_emits (os : List Output) (a : Nat) : (d.emits os).rd a = d.rd a := rfl
theorem fget_emits (os : List Output) (a hi lo : Nat) : (d.emits os).fget a hi lo = d.fget a hi lo := rfl
theorem emits_outs (os : List Output) : (d.emits os).outs = d.outs ++ os := rfl
theorem emits_step (os : List Output) : LaneStep l d (d.emits os) := ⟨fun _ _ _ _ => rfl, fun _ _ => rfl, rfl, id⟩
theorem setSnr_outs (n : Nat) : (d.setSnr l n).outs = d.outs := wr_outs _ _ _

section
variable {d l} {partner : Nat} {inverted : Bool} {a : Ask}

theorem trainHeard_step : LaneStep l d (d.trainHeard l partner inverted a) :=
  ((updLane_step d l _).trans statusHeard_step).trans ((rxField_step _ l 15 8 _).trans (emits_step _ l _))
theorem trainHeard_calm (hc : Quiet d) (partner : Nat) (inverted : Bool) (a : Ask) : Quiet (d.trainHeard l partner inverted a) :=
  trainHeard_step.calm hc
theorem outs_trainHeard : (d.trainHeard l partner inverted a).outs = d.outs ++ a.outs := by
  rw [trainHeard, emits_outs, setSnr_outs, statusOf, statusHeard_outs, askedOf, updLane_outs]
/-- After the status the estimate alone is written. -/
theorem rd_trainHeard {o : Nat} (h : o ≠ 0x18) :
    (d.trainHeard l partner inverted a).rd (Reg.lane l + o) = (d.statusOf l partner inverted a).rd (Reg.lane l + o) := by
  have hne : Reg.lane l + o ≠ Reg.LANE_RX_STATUS l := laneReg_ne l h
  rw [trainHeard, rd_emits, setSnr, rd_fset_ne _ _ _ _ hne]
theorem laneState_trainHeard : (d.trainHeard l partner inverted a).laneState l = d.laneState l :=
  (laneState_of_rd (rd_trainHeard (o := 0x14) (by decide))).trans 
    ((laneState_of_rd (rd_statusHeard_ne (o := 0x14) (by decide))).trans (laneState_of_rd (rd_updLane d l _ _)))
theorem snr_trainHeard (h : a.best < 256) : (d.trainHeard l partner inverted a).fget (Reg.LANE_RX_STATUS l) 15 8 = a.best := by
  rw [trainHeard, fget_emits, setSnr, fget_fset _ _ _ _ _ (by decide) (by decide)]
  exact Nat.mod_eq_of_lt h

/-- What a device that keeps it shows of what was heard. -/
theorem TrainKept.heard {e : Dev} (h : TrainKept l (d.trainHeard l partner inverted a) e) (hp : partner < 8) (hb : a.best < 256) :
    (∃ more, e.outs = d.outs ++ a.outs ++ more) ∧ e.fget (Reg.LANE_TRAIN_STATUS l) 31 16 = min 65535 ((d.lane l).sent + a.sent) ∧
    e.fget (Reg.LANE_TRAIN_STATUS l) 7 5 = partner ∧ e.fget (Reg.LANE_RX_STATUS l) 15 8 = a.best ∧
    e.bget (Reg.LANE_TRAIN_STATUS l) 3 = d.trainPol l inverted ∧ e.bget (Reg.LANE_TRAIN_STATUS l) 4 = d.trainRev l partner := by
  have hrd : (d.trainHeard l partner inverted a).rd (Reg.LANE_TRAIN_STATUS l) = _ := rd_trainHeard (o := 0x10) (by decide)
  obtain ⟨more, houts⟩ := h.outs
  refine ⟨⟨more, by rw [← houts, outs_trainHeard]⟩, ?_, ?_, h.snr.trans (snr_trainHeard hb), ?_, ?_⟩
  · exact (h.field 31 16 (by decide) (by decide)).trans ((fget_of_rd hrd 31 16).trans sent_statusHeard)
  · exact (h.field 7 5 (by decide) (by decide)).trans ((fget_of_rd hrd 7 5).trans (partner_statusHeard hp))
  · exact (h.bits 3 (by decide)).trans ((bget_of_rd hrd 3).trans pol_statusHeard)
  · exact (h.bits 4 (by decide)).trans ((bget_of_rd hrd 4).trans rev_statusHeard)

end

/-! The way out of TRAIN (R78, R81). -/

section
variable {d l} (hl : l < 1024) (hc : Quiet d)
include hl hc

theorem laneFail_kept (c : Nat) : TrainKept l d (d.laneFail l c) :=
  (failEntry_kept d l c).trans (.of_walk (laneFail_walk hl hc c))
theorem toPartner_kept : TrainKept l d ((d.trained l).laneTo l lsPartner) :=
  (trained_kept d l).trans (.of_walk (laneTo_walk hl ((trained_kept d l).calm hc) lsPartner))
theorem toData_kept : TrainKept l d ((d.trained l).laneData l) :=
  ((trained_kept d l).trans (dataEntry_kept _ l)).trans (.of_walk (laneData_walk hl ((trained_kept d l).calm hc)))

variable (h : d.laneState l = lsTrain) {snr partner : Nat} {inverted : Bool} {steps : List TapStep}
include h

theorem trainDone_kept :
    TrainKept l (d.trainHeard l partner inverted (d.trainAsks l snr partner steps)) (d.trainDone l snr partner inverted steps) := by
  rw [trainDone_eq d l h]
  have hheard := trainHeard_calm (l := l) hc partner inverted (d.trainAsks l snr partner steps)
  split
  · exact laneFail_kept hl hheard 3
  · split
    · split
      · exact toPartner_kept hl hheard
      · exact toData_kept hl hheard
    · exact .refl l _
/-- With reversal forced the mapping is not judged: the way is that of the estimate alone. -/
theorem laneState_trainDone (hf : d.fget (Reg.LANE_CFG l) 5 4 = 1 ∨ d.fget (Reg.LANE_CFG l) 5 4 = 2) :
    (d.trainDone l snr partner inverted steps).laneState l =
      if d.trainStopped l (d.trainAsks l snr partner steps) = true ∧ d.minSnr l ≤ (d.trainAsks l snr partner steps).best then
        if d.bget (Reg.LANE_TRAIN_CTRL l) 0 then lsPartner else lsData
      else lsTrain := by
  rw [trainDone_eq d l h, if_neg (by rcases hf with hf | hf <;> simp [hf])]
  have hheard := trainHeard_calm (l := l) hc partner inverted (d.trainAsks l snr partner steps)
  have htrained := (trained_kept _ l).calm hheard
  simp only [Bool.and_eq_true, decide_eq_true_eq]
  split
  · split
    · exact laneState_laneTo _ hl htrained (by decide)
    · exact laneState_laneData _ hl htrained
  · exact laneState_trainHeard.trans h
/-- A mapping as heard that is neither identity nor reversal. -/
theorem trainDone_unmapped (hf : d.fget (Reg.LANE_CFG l) 5 4 = 0) (hw : 1 < atLeast1 (d.widthAt l)) (hi : partner ≠ l - d.groupBase l)
    (hr : partner + (l - d.groupBase l) + 1 ≠ atLeast1 (d.widthAt l)) :
    (d.trainDone l snr partner inverted steps).laneState l = lsFail ∧
      (d.trainDone l snr partner inverted steps).fget (Reg.LANE_TRAIN_STATUS l) 11 8 = 3 := by
  have hheard := trainHeard_calm (l := l) hc partner inverted (d.trainAsks l snr partner steps)
  rw [trainDone_eq d l h, laneMap_eq_two hw hi hr, if_pos (by simp [hf, mapOk])]
  exact ⟨laneState_laneFail _ hl hheard, cause_laneFail hl hheard (by decide)⟩

end

/-! What was heard, in the statement's words. -/

theorem trainPol_of {inverted : Bool} : (d.fget (Reg.LANE_CFG l) 2 1 = 1 → d.trainPol l inverted = false) ∧
    (d.fget (Reg.LANE_CFG l) 2 1 = 2 → d.trainPol l inverted = true) ∧ (d.fget (Reg.LANE_CFG l) 2 1 = 0 → d.trainPol l inverted = inverted) := by
  refine ⟨fun h => ?_, fun h => ?_, fun h => ?_⟩ <;> simp [trainPol, h]
theorem trainRev_of {partner : Nat} : (d.fget (Reg.LANE_CFG l) 5 4 = 1 → d.trainRev l partner = false) ∧
    (d.fget (Reg.LANE_CFG l) 5 4 = 2 → d.trainRev l partner = true) ∧
    (d.fget (Reg.LANE_CFG l) 5 4 = 0 → (d.trainRev l partner = true ↔ partner ≠ l - d.groupBase l ∧
      partner + (l - d.groupBase l) + 1 = atLeast1 (d.widthAt l) ∧ 1 < atLeast1 (d.widthAt l))) := by
  refine ⟨fun h => by simp [trainRev, h], fun h => by simp [trainRev, h], fun h => ?_⟩
  rw [trainRev, if_neg (by simp [h]), if_neg (by simp [h]), laneMap_eq_one]

end Dev
end Machine

open Machine.Dev

/-- Settles O6: the lane hears, and the way out of TRAIN keeps what it heard. -/
theorem laneTrained : Obligations.LaneTrained := by
  unfold Obligations.LaneTrained
  intro s l snr partner inverted steps hs cfg st ctrl w b i en k goal first a stopped
  have ha : a = s.trainAsks l snr.toNat partner steps := rfl
  have hstop : s.trainStopped l a = true ↔ stopped := s.trainStopped_iff l a
  clear_value a stopped
  subst ha
  by_cases hst : s.laneState l = lsTrain
  · have hstep := trainHeard_step (d := s.toDev) (l := l) (partner := partner) (inverted := inverted)
      (a := s.trainAsks l snr.toNat partner steps)
    have hkept := trainDone_kept (snr := snr.toNat) (partner := partner) (inverted := inverted) (steps := steps) l.isLt hs.2 hst
    have hforced := laneState_trainDone (snr := snr.toNat) (partner := partner) (inverted := inverted) (steps := steps) l.isLt hs.2 hst
    have hmap := trainDone_unmapped (snr := snr.toNat) (partner := partner) (inverted := inverted) (steps := steps) l.isLt hs.2 hst
    have hbest := s.best_trainAsks_lt l snr.isLt partner steps
    generalize s.trainAsks l snr.toNat partner steps = a at *
    refine runs_walk rfl hs (hstep.trans hkept.toLaneStep) (.refl _ _) fun t ht => ?_
    rw [← ht] at hkept hforced hmap
    obtain ⟨houts, hsent, hpartner, hsnr, hpol, hrev⟩ := hkept.heard partner.isLt hbest
    obtain ⟨hpol1, hpol2, hpol0⟩ := s.trainPol_of l (inverted := inverted)
    obtain ⟨hrev1, hrev2, hrev0⟩ := s.trainRev_of l (partner := partner)
    rw [← hpol] at hpol1 hpol2 hpol0
    rw [← hrev] at hrev1 hrev2 hrev0
    refine ⟨fun h => absurd hst h, fun _ => ⟨houts, hsent, hpartner, hsnr, hpol1, hpol2, hpol0, hrev1, hrev2, hrev0,
      fun hf => ⟨fun h => ?ready, fun h => ?stays⟩, hmap⟩⟩
    case ready => exact (hforced hf).trans (if_pos ⟨hstop.2 h.1, h.2⟩)
    case stays => exact (hforced hf).trans (if_neg fun hx => h ⟨hstop.1 hx.1, hx.2⟩)
  · exact runs_laneSame (congrArg (finish s) (if_pos hst)) hs ⟨fun _ => rfl, fun h => absurd h hst⟩

end Sys2Proof

/-!
SUPPORT. What a lane does besides its walk: adaptation and bursts (R73, R74), and the checker of test patterns with its counters (R88,
R89, R90).
-/
namespace Sys2Proof

open Machine

namespace Machine

/-! A value moved by at most 1 (R73). -/

theorem clamp_stepTo {lo hi x : Int} (y : Int) (h1 : lo ≤ x) (h2 : x ≤ hi) : (max lo (min hi (Dev.stepTo x y)) - x).natAbs ≤ 1 ∧
    lo ≤ max lo (min hi (Dev.stepTo x y)) ∧ max lo (min hi (Dev.stepTo x y)) ≤ hi := by
  unfold Dev.stepTo
  split
  · omega
  · split <;> omega
/-- Six bits in two's complement read back as written. -/
theorem sgn_unsgn_six {x : Int} (h1 : -32 ≤ x) (h2 : x ≤ 31) : sgn 6 (unsgn 6 x) = x := by
  show (if (x % 64).toNat % 64 < 32 then (((x % 64).toNat % 64 : Nat) : Int) else (((x % 64).toNat % 64 : Nat) : Int) - 64) = x
  split <;> omega
theorem sgn_six_range (n : Nat) : -32 ≤ sgn 6 n ∧ sgn 6 n ≤ 31 := by
  simp only [sgn]
  split <;> omega
theorem unsgn_six_lt (x : Int) : unsgn 6 x < 64 := by
  simp only [unsgn]
  omega

namespace Dev

variable (d : Dev) (l : Nat)

/-! Adaptation (R73). -/

/-- Does an update move the taps? -/
def adapting : Bool := d.bget (Reg.LANE_TRAIN_CTRL l) 25 && !d.bget (Reg.LANE_RX_STATUS l) 3 && !d.bget (Reg.LANE_RX_STATUS l) 0
  && (d.laneState l == lsData || d.laneState l == lsPartner)
/-- The feed-forward taps moved toward others. -/
def tapsMoved (old new : List Int) : List Int :=
  (upto 24).map (fun i => max (-128) (min 127 (stepTo (old.getD i 0) (new.getD i (old.getD i 0)))))

theorem adapt_on {d : Dev} {l : Nat} (h : d.adapting l = true) (ffe : List Int) (dfe : Int) : d.adapt l ffe dfe =
    (d.updLane l (fun x => { x with ffe := tapsMoved x.ffe ffe })).fset (Reg.LANE_RX_EQ l) 13 8
      (unsgn 6 (max (-32) (min 31 (stepTo (sgn 6 (d.fget (Reg.LANE_RX_EQ l) 13 8)) dfe)))) := if_pos h
theorem adapt_off {d : Dev} {l : Nat} (h : d.adapting l = false) (ffe : List Int) (dfe : Int) : d.adapt l ffe dfe = d :=
  if_neg (fun hx => Bool.noConfusion (h.symm.trans hx))
theorem adapting_eq_false (h : d.bget (Reg.LANE_TRAIN_CTRL l) 25 = false ∨ d.bget (Reg.LANE_RX_STATUS l) 3 = true ∨
    d.bget (Reg.LANE_RX_STATUS l) 0 = true ∨ (d.laneState l ≠ lsData ∧ d.laneState l ≠ lsPartner)) : d.adapting l = false := by
  rcases h with h | h | h | ⟨h, h'⟩
  · simp [adapting, h]
  · simp [adapting, h]
  · simp [adapting, h]
  · simp [adapting, h, h']
/-- Each tap moves by at most 1 and stays in range. -/
theorem tapsMoved_near {old : List Int} (new : List Int) {i : Nat} (hi : i < 24) {x : Int} (hx : old[i]? = some x) (h1 : -128 ≤ x)
    (h2 : x ≤ 127) : ∃ y, (tapsMoved old new)[i]? = some y ∧ (y - x).natAbs ≤ 1 ∧ -128 ≤ y ∧ y ≤ 127 := by
  refine ⟨max (-128) (min 127 (stepTo x (new.getD i x))), ?_, clamp_stepTo _ h1 h2⟩
  simp [tapsMoved, upto, hi, hx]

/-- The device without registers, outputs, interrupts and lanes. -/
def besideLanes (d : Dev) : Dev := { d.beside with lanes := [] }
theorem besideLanes_of_beside {d e : Dev} (h : e.beside = d.beside) : e.besideLanes = d.besideLanes :=
  congrArg (fun x : Dev => { x with lanes := [] }) h
theorem besideLanes_updLane (f : Lane → Lane) : (d.updLane l f).besideLanes = d.besideLanes := rfl

/-- The equalizer's feedback tap after an update. -/
theorem dfe_adapt {d : Dev} {l : Nat} (h : d.adapting l = true) (ffe : List Int) (dfe : Int) :
    sgn 6 ((d.adapt l ffe dfe).fget (Reg.LANE_RX_EQ l) 13 8) = max (-32) (min 31 (stepTo (sgn 6 (d.fget (Reg.LANE_RX_EQ l) 13 8)) dfe)) := by
  obtain ⟨h1, h2⟩ := sgn_six_range (d.fget (Reg.LANE_RX_EQ l) 13 8)
  obtain ⟨-, h3, h4⟩ := clamp_stepTo dfe h1 h2
  rw [adapt_on h, fget_fset _ _ _ _ _ (by decide) (by decide)]
  exact (congrArg (sgn 6) (Nat.mod_eq_of_lt (unsgn_six_lt _))).trans (sgn_unsgn_six h3 h4)
theorem ffe_adapt {d : Dev} {l : Nat} (h : d.adapting l = true) (ffe : List Int) (dfe : Int) :
    ((d.adapt l ffe dfe).lane l).ffe = tapsMoved (d.lane l).ffe ffe := by
  rw [adapt_on h, lane_fset, lane_updLane, if_pos rfl]
/-- What an update leaves. -/
theorem adapt_kept {d : Dev} {l : Nat} (h : d.adapting l = true) (ffe : List Int) (dfe : Int) :
    (∀ a, a ≠ Reg.LANE_RX_EQ l → (d.adapt l ffe dfe).rd a = d.rd a) ∧ (∀ k, k ≠ l → (d.adapt l ffe dfe).lane k = d.lane k) ∧
    (d.adapt l ffe dfe).besideLanes = d.besideLanes ∧
    (d.adapt l ffe dfe).fget (Reg.LANE_RX_EQ l) 4 0 = d.fget (Reg.LANE_RX_EQ l) 4 0 := by
  rw [adapt_on h]
  refine ⟨fun a ha => ?_, fun k hk => ?_, ?_, ?_⟩
  · rw [rd_fset_ne _ _ _ _ ha, rd_updLane]
  · rw [lane_fset, lane_updLane, if_neg hk]
  · exact (besideLanes_of_beside (beside_wr _ _ _)).trans (besideLanes_updLane d l _)
  · exact (fget_fset_other _ _ 13 8 _ 4 0 (by decide) (by decide) (by decide)).trans (fget_of_rd (rd_updLane d l _ _) 4 0)

/-! The counters of a checker (R89). -/

/-- The device without registers, outputs, interrupts and counters. -/
def uncounted (d : Dev) : Dev := { d.beside with cnts := [] }
theorem uncounted_of_beside {d e : Dev} (h : e.beside = d.beside) : e.uncounted = d.uncounted :=
  congrArg (fun x : Dev => { x with cnts := [] }) h
theorem uncounted_cntSet (a : Nat) (v : BitVec 64) : (d.cntSet a v).uncounted = d.uncounted := rfl

/-- The counters of lane `l`'s checker. -/
def chkCnt (l a : Nat) : Prop := a = Reg.C_LANE_PRBS_ERR l ∨ a = Reg.C_LANE_PRBS_BITS l

/-- `e` differs from `d` by what the checker of lane `l` counts, with its events. -/
structure CountStep (l : Nat) (d e : Dev) : Prop where
  rd : ∀ a, a ≠ Reg.LANE_EVENT l → ¬ isPend a → e.rd a = d.rd a
  uncounted : e.uncounted = d.uncounted
  cnt : ∀ a, ¬ chkCnt l a → e.cnt a = d.cnt a

/-- `e` differs from `d` by symbols at the checker of lane `l`. -/
structure ChkStep (l : Nat) (d e : Dev) : Prop where
  rd : ∀ a, a ≠ Reg.LANE_RX_STATUS l → a ≠ Reg.LANE_EVENT l → ¬ isPend a → e.rd a = d.rd a
  lane : ∀ k, k ≠ l → e.lane k = d.lane k
  besideLanes : { e.beside with cnts := [], lanes := [] } = { d.beside with cnts := [], lanes := [] }
  cnt : ∀ a, ¬ chkCnt l a → e.cnt a = d.cnt a

namespace CountStep

variable {l : Nat} {d e f : Dev}

theorem refl (l : Nat) (d : Dev) : CountStep l d d := ⟨fun _ _ _ => rfl, rfl, fun _ _ => rfl⟩
theorem trans (h : CountStep l d e) (g : CountStep l e f) : CountStep l d f :=
  ⟨fun a h1 h2 => (g.rd a h1 h2).trans (h.rd a h1 h2), g.uncounted.trans h.uncounted, fun a ha => (g.cnt a ha).trans (h.cnt a ha)⟩
theorem of_irq (h : IrqFrame d e) : CountStep l d e := ⟨fun a _ => h.rd a, uncounted_of_beside h.beside, fun a _ => h.cnt a⟩
theorem of_event (d : Dev) (l i : Nat) : CountStep l d (d.laneEvent l i) :=
  .trans ⟨fun _ h _ => rd_bset_ne d i true h, uncounted_of_beside (beside_wr d _ _), fun a _ => cnt_wr d _ _ a⟩ (.of_irq (laneEvent_irq d i))
theorem of_cntAdd (d : Dev) {l a : Nat} (n : Nat) (h : chkCnt l a) : CountStep l d (d.cntAdd a n) :=
  ⟨fun b _ _ => rd_cntSet d a _ b, uncounted_cntSet d a _, fun b hb => (cnt_cntAdd d a n b).trans (if_neg fun x : b = a => hb (x ▸ h))⟩

variable (h : CountStep l d e)
include h
theorem lanes : e.lanes = d.lanes := (congrArg Dev.lanes h.uncounted :)
theorem fault : e.fault = d.fault := (congrArg Dev.fault h.uncounted :)
theorem fmem : e.fmem = d.fmem := (congrArg Dev.fmem h.uncounted :)
theorem stores : e.stores = d.stores := (congrArg Dev.stores h.uncounted :)
theorem fuses : e.fuses = d.fuses := (congrArg Dev.fuses h.uncounted :)
theorem chk : ChkStep l d e :=
  ⟨fun a _ h1 h2 => h.rd a h1 h2, fun k _ => by rw [lane, lane, h.lanes], congrArg (fun x : Dev => { x with lanes := [] }) h.uncounted, h.cnt⟩

end CountStep

namespace ChkStep

variable {l : Nat} {d e f : Dev}

theorem refl (l : Nat) (d : Dev) : ChkStep l d d := (CountStep.refl l d).chk
theorem trans (h : ChkStep l d e) (g : ChkStep l e f) : ChkStep l d f :=
  ⟨fun a h1 h2 h3 => (g.rd a h1 h2 h3).trans (h.rd a h1 h2 h3), fun k hk => (g.lane k hk).trans (h.lane k hk),
    g.besideLanes.trans h.besideLanes, fun a ha => (g.cnt a ha).trans (h.cnt a ha)⟩
theorem of_updLane (d : Dev) (l : Nat) (f : Lane → Lane) : ChkStep l d (d.updLane l f) :=
  ⟨fun a _ _ _ => rd_updLane d l f a, fun k hk => (lane_updLane d l k f).trans (if_neg hk),
    congrArg (fun x : Dev => { x with cnts := [] }) (besideLanes_updLane d l f), fun a _ => cnt_updLane d l f a⟩
theorem of_rxBit (d : Dev) (l i : Nat) (b : Bool) : ChkStep l d (d.bset (Reg.LANE_RX_STATUS l) i b) :=
  ⟨fun _ h _ _ => rd_bset_ne d i b h, fun k _ => lane_bset d _ i b k,
    congrArg (fun x : Dev => { x with cnts := [], lanes := [] }) (beside_wr d _ _), fun a _ => cnt_wr d _ _ a⟩
theorem foldl {α : Type} {g : Dev → α → Dev} (hg : ∀ d a, ChkStep l d (g d a)) : ∀ (xs : List α) (d : Dev), ChkStep l d (xs.foldl g d)
  | [], d => refl l d
  | x :: xs, d => (hg d x).trans (foldl hg xs (g d x))

variable (h : ChkStep l d e)
include h
theorem fault : e.fault = d.fault := (congrArg Dev.fault h.besideLanes :)
theorem fmem : e.fmem = d.fmem := (congrArg Dev.fmem h.besideLanes :)
theorem stores : e.stores = d.stores := (congrArg Dev.stores h.besideLanes :)
theorem fuses : e.fuses = d.fuses := (congrArg Dev.fuses h.besideLanes :)

end ChkStep

/-! A symbol at the checker (R89). -/

/-- The two counters lie apart. -/
theorem prbsErr_ne_bits : Reg.C_LANE_PRBS_ERR l ≠ Reg.C_LANE_PRBS_BITS l := laneReg_ne l (by decide)

/-- Two bits counted with `n` errors. -/
def prbsCounted (n : Nat) : Dev := (d.cntAdd (Reg.C_LANE_PRBS_BITS l) 2).cntAdd (Reg.C_LANE_PRBS_ERR l) n
theorem prbsCounted_step (n : Nat) : CountStep l d (d.prbsCounted l n) := (CountStep.of_cntAdd d 2 (.inr rfl)).trans (.of_cntAdd _ n (.inl rfl))
theorem bits_prbsCounted (n : Nat) : (d.prbsCounted l n).cnt (Reg.C_LANE_PRBS_BITS l) = addSat (d.cnt (Reg.C_LANE_PRBS_BITS l)) 2 := by
  rw [prbsCounted, cnt_cntAdd, if_neg (prbsErr_ne_bits l).symm, cnt_cntAdd, if_pos rfl, addSat]
theorem err_prbsCounted (n : Nat) : (d.prbsCounted l n).cnt (Reg.C_LANE_PRBS_ERR l) = addSat (d.cnt (Reg.C_LANE_PRBS_ERR l)) n := by
  rw [prbsCounted, cnt_cntAdd, if_pos rfl, cnt_cntAdd, if_neg (prbsErr_ne_bits l), addSat]

/-- A symbol counted by a locked checker, with its event where it had an error. -/
def symCounted (n : Nat) : Dev := if 0 < n then (d.prbsCounted l n).laneEvent l 4 else d.prbsCounted l n
theorem symCounted_step (n : Nat) : CountStep l d (d.symCounted l n) := by
  unfold symCounted
  split
  · exact (prbsCounted_step d l n).trans (.of_event _ l 4)
  · exact prbsCounted_step d l n
theorem cnt_laneEvent (i a : Nat) : (d.laneEvent l i).cnt a = d.cnt a := ((laneEvent_irq d i).cnt a).trans (cnt_wr d _ _ a)
theorem cnt_symCounted (n : Nat) : (d.symCounted l n).cnt (Reg.C_LANE_PRBS_BITS l) = addSat (d.cnt (Reg.C_LANE_PRBS_BITS l)) 2 ∧
    (d.symCounted l n).cnt (Reg.C_LANE_PRBS_ERR l) = addSat (d.cnt (Reg.C_LANE_PRBS_ERR l)) n := by
  unfold symCounted
  split
  · rw [cnt_laneEvent, cnt_laneEvent]
    exact ⟨bits_prbsCounted d l n, err_prbsCounted d l n⟩
  · exact ⟨bits_prbsCounted d l n, err_prbsCounted d l n⟩
theorem event_symCounted {n : Nat} (h : 0 < n) : (d.symCounted l n).bget (Reg.LANE_EVENT l) 4 = true := by
  rw [symCounted, if_pos h, bget_laneEvent _ l 4 4 (by decide), if_pos rfl]


/-- The errors of a level at a checker that runs on by itself. -/
def symErrors (p : Nat) (c : Checker) (x : Nat) : Nat :=
  pairDiff (patternPair p (if c.inv then c.invHist else c.hist)) (grayBits (if c.inv then 3 - x else x))
/-- Which of the last 64 symbols had an error. -/
def symMissed (p : Nat) (c : Checker) (x : Nat) : List Bool := (decide (0 < symErrors p c x) :: c.missed).take 64
/-- The checker that stays locked: its pattern runs on. -/
def follow (p : Nat) (c : Checker) (x : Nat) : Checker :=
  let h := if c.inv then c.invHist else c.hist
  let h' := histCut (4 * h + patternPair p h)
  { c with hist := if c.inv then c.hist else h', invHist := if c.inv then h' else c.invHist, missed := symMissed p c x }

/-- Lock lost. -/
def lockLost : Dev := ((d.updLane l (fun y => { y with chk := {} })).bset (Reg.LANE_RX_STATUS l) 4 false).laneEvent l 5
/-- The checker of a lane set. -/
def setChk (c : Checker) : Dev := d.updLane l (fun y => { y with chk := c })
/-- The checker that seeks, and its lock (R89). -/
def soughtChk (c : Checker) : Dev :=
  if 64 ≤ c.run ∨ 64 ≤ c.invRun then (d.setChk l c).bset (Reg.LANE_RX_STATUS l) 4 true else d.setChk l c

theorem chkSym_locked {d : Dev} {l : Nat} (h : d.bget (Reg.LANE_RX_STATUS l) 4 = true) (p x : Nat) : chkSym l p d x =
    if 16 ≤ (symMissed p (d.lane l).chk x).countP id then (d.symCounted l (symErrors p (d.lane l).chk x)).lockLost l
    else (d.symCounted l (symErrors p (d.lane l).chk x)).setChk l (follow p (d.lane l).chk x) := if_pos h
theorem chkSym_unlocked {d : Dev} {l : Nat} (h : d.bget (Reg.LANE_RX_STATUS l) 4 = false) (p x : Nat) :
    chkSym l p d x = d.soughtChk l ((d.lane l).chk.seek p x) := if_neg (by rw [h]; decide)

theorem lockLost_step : ChkStep l d (d.lockLost l) :=
  ((ChkStep.of_updLane d l _).trans (.of_rxBit _ l 4 false)).trans (CountStep.of_event _ l 5).chk
theorem soughtChk_step (c : Checker) : ChkStep l d (d.soughtChk l c) := by
  unfold soughtChk
  split
  · exact (ChkStep.of_updLane d l _).trans (.of_rxBit _ l 4 true)
  · exact .of_updLane d l _
theorem chkSym_step (p x : Nat) : ChkStep l d (chkSym l p d x) := by
  cases h : d.bget (Reg.LANE_RX_STATUS l) 4 with
  | true =>
    rw [chkSym_locked h]
    have hcounted := (symCounted_step d l (symErrors p (d.lane l).chk x)).chk
    split
    · exact hcounted.trans (lockLost_step _ l)
    · exact hcounted.trans (.of_updLane _ l _)
  | false =>
    rw [chkSym_unlocked h]
    exact soughtChk_step d l _

/-! What a symbol leaves of the counters, the lock and its events. -/

theorem cnt_lockLost (a : Nat) : (d.lockLost l).cnt a = d.cnt a := by
  rw [lockLost, cnt_laneEvent, bset, fset, cnt_wr, cnt_updLane]
theorem lock_lockLost : (d.lockLost l).bget (Reg.LANE_RX_STATUS l) 4 = false := by
  have h : (d.lockLost l).rd (Reg.LANE_RX_STATUS l) = _ := rd_laneEvent_ne _ 5 (o := 0x18) (by decide)
  rw [bget_of_rd h, bget_bset_same _ _ _ _ (by decide)]
theorem event_lockLost {i : Nat} : (d.lockLost l).bget (Reg.LANE_EVENT l) i = if i = 5 then true else d.bget (Reg.LANE_EVENT l) i := by
  have hne : Reg.LANE_EVENT l ≠ Reg.LANE_RX_STATUS l := laneReg_ne l (by decide)
  rw [lockLost, bget_laneEvent _ l 5 i (by decide), bget_bset_ne _ 4 i false hne, bget_of_rd (rd_updLane d l _ _)]
theorem lock_symCounted (n : Nat) : (d.symCounted l n).bget (Reg.LANE_RX_STATUS l) 4 = d.bget (Reg.LANE_RX_STATUS l) 4 :=
  bget_of_rd ((symCounted_step d l n).rd _ (laneReg_ne l (by decide)) (not_isPend_lane l 0x18)) 4

/-- A symbol at a locked checker. -/
theorem chkSym_counts {d : Dev} {l : Nat} (h : d.bget (Reg.LANE_RX_STATUS l) 4 = true) (p x : Nat) :
    (chkSym l p d x).cnt (Reg.C_LANE_PRBS_BITS l) = addSat (d.cnt (Reg.C_LANE_PRBS_BITS l)) 2 ∧
    (chkSym l p d x).cnt (Reg.C_LANE_PRBS_ERR l) = addSat (d.cnt (Reg.C_LANE_PRBS_ERR l)) (symErrors p (d.lane l).chk x) ∧
    (0 < symErrors p (d.lane l).chk x → (chkSym l p d x).bget (Reg.LANE_EVENT l) 4 = true) ∧
    (chkSym l p d x).bget (Reg.LANE_RX_STATUS l) 4 = decide ((symMissed p (d.lane l).chk x).countP id < 16) ∧
    (16 ≤ (symMissed p (d.lane l).chk x).countP id → (chkSym l p d x).bget (Reg.LANE_EVENT l) 5 = true) := by
  obtain ⟨hbits, herr⟩ := cnt_symCounted d l (symErrors p (d.lane l).chk x)
  have hev := fun h => event_symCounted d l (n := symErrors p (d.lane l).chk x) h
  have hlock := lock_symCounted d l (symErrors p (d.lane l).chk x)
  rw [chkSym_locked h]
  generalize d.symCounted l (symErrors p (d.lane l).chk x) = e at *
  split
  next hm =>
    refine ⟨(cnt_lockLost e l _).trans hbits, (cnt_lockLost e l _).trans herr, fun hn => ?_, ?_, fun _ => ?_⟩
    · rw [event_lockLost, hev hn, ite_self]
    · rw [lock_lockLost, decide_eq_false (by omega)]
    · rw [event_lockLost, if_pos rfl]
  next hm => exact ⟨hbits, herr, hev, (hlock.trans h).trans (decide_eq_true (by omega)).symm, fun hx => absurd hx hm⟩
/-- A symbol at an unlocked checker. -/
theorem chkSym_seeks {d : Dev} {l : Nat} (h : d.bget (Reg.LANE_RX_STATUS l) 4 = false) (p x : Nat) :
    ((chkSym l p d x).lane l).chk = (d.lane l).chk.seek p x ∧ (chkSym l p d x).bget (Reg.LANE_RX_STATUS l) 4 =
      decide (64 ≤ ((d.lane l).chk.seek p x).run ∨ 64 ≤ ((d.lane l).chk.seek p x).invRun) := by
  rw [chkSym_unlocked h]
  generalize (d.lane l).chk.seek p x = c
  have hchk : ((d.setChk l c).lane l).chk = c := congrArg Lane.chk ((lane_updLane d l l _).trans (if_pos rfl))
  unfold soughtChk
  split
  next hl =>
    refine ⟨(congrArg Lane.chk (lane_bset _ _ 4 true l)).trans hchk, ?_⟩
    rw [bget_bset_same _ _ _ _ (by decide), decide_eq_true hl]
  next hl => exact ⟨hchk, (bget_of_rd (rd_updLane d l _ _) 4).trans (h.trans (decide_eq_false hl).symm)⟩

/-! Symbols received (R87, R91). -/

/-- Symbols sent back by a far-end loopback. -/
def sentBack (syms : List (Fin 4)) : Dev :=
  if d.laneState l = lsTest ∧ d.fget (Reg.LANE_TEST_CTRL l) 10 8 = 3 then d.emit (.symbols l (d.txLevels l (d.rxLevels l syms))) else d
theorem sentBack_eq (syms : List (Fin 4)) : d.sentBack l syms = { d with outs := (d.sentBack l syms).outs } := by
  unfold sentBack
  split <;> rfl

theorem received_low (h : d.laneState l = lsLow) (syms : List (Fin 4)) : d.received l syms = d := if_pos h
theorem received_eq {d : Dev} {l : Nat} (h : d.laneState l ≠ lsLow) (syms : List (Fin 4)) : d.received l syms =
    if d.chkPattern l = 0 then d.sentBack l syms else (d.rxLevels l syms).foldl (chkSym l (d.chkPattern l)) (d.sentBack l syms) := if_neg h
theorem chkPattern_off (h : d.fget (Reg.LANE_TEST_CTRL l) 7 4 = 0 ∨ 7 < d.fget (Reg.LANE_TEST_CTRL l) 7 4) : d.chkPattern l = 0 := by
  simp only [chkPattern]
  split <;> omega
theorem chkPattern_on (h : d.fget (Reg.LANE_TEST_CTRL l) 7 4 ≤ 7) : d.chkPattern l = d.fget (Reg.LANE_TEST_CTRL l) 7 4 := if_pos h
theorem genPattern_off (h : d.fget (Reg.LANE_TEST_CTRL l) 3 0 = 0 ∨ 8 < d.fget (Reg.LANE_TEST_CTRL l) 3 0) : d.genPattern l = 0 := by
  simp only [genPattern]
  split <;> omega
theorem genPattern_on (h : d.fget (Reg.LANE_TEST_CTRL l) 3 0 ≤ 8) : d.genPattern l = d.fget (Reg.LANE_TEST_CTRL l) 3 0 := if_pos h

theorem sentBack_frame (syms : List (Fin 4)) : IrqFrame d (d.sentBack l syms) := by
  unfold sentBack
  split
  · exact emit_frame d _
  · exact .refl d
theorem received_step (syms : List (Fin 4)) : ChkStep l d (d.received l syms) := by
  by_cases h : d.laneState l = lsLow
  · rw [received_low d l h]
    exact .refl l d
  · have hback := (CountStep.of_irq (l := l) (sentBack_frame d l syms)).chk
    rw [received_eq h]
    split
    · exact hback
    · exact hback.trans (.foldl (fun e x => chkSym_step e l _ x) _ _)
/-- Without a pattern to check, symbols are sent back and no more. -/
theorem received_off (h : d.fget (Reg.LANE_TEST_CTRL l) 7 4 = 0 ∨ 7 < d.fget (Reg.LANE_TEST_CTRL l) 7 4) (syms : List (Fin 4)) :
    d.received l syms = { d with outs := (d.received l syms).outs } := by
  by_cases hlow : d.laneState l = lsLow
  · rw [received_low d l hlow]
  · rw [received_eq hlow, if_pos (chkPattern_off d l h)]
    exact sentBack_eq d l syms
/-- One symbol at a checker that is on. -/
theorem received_one {d : Dev} {l : Nat} (hlow : d.laneState l ≠ lsLow) (h1 : 1 ≤ d.fget (Reg.LANE_TEST_CTRL l) 7 4)
    (h7 : d.fget (Reg.LANE_TEST_CTRL l) 7 4 ≤ 7) (x : Fin 4) : d.received l [x] = chkSym l (d.fget (Reg.LANE_TEST_CTRL l) 7 4)
      (d.sentBack l [x]) (if d.bget (Reg.LANE_TRAIN_STATUS l) 3 then 3 - x.val else x.val) := by
  rw [received_eq hlow, chkPattern_on d l h7, if_neg (by omega)]
  rfl

/-! Injected symbols and the clear of the counters (R89, R90). -/

/-- An injected symbol sent, where the transmitter sends what the generator makes. -/
def injectSent : Dev :=
  if d.fget (Reg.LANE_TEST_CTRL l) 10 8 = 2 ∨ d.fget (Reg.LANE_TEST_CTRL l) 10 8 = 3 then d else d.emit (.injectedSymbol l)
theorem injectSent_frame : IrqFrame d (d.injectSent l) := by
  unfold injectSent
  split
  · exact .refl d
  · exact emit_frame d _
theorem outs_injectSent (h2 : d.fget (Reg.LANE_TEST_CTRL l) 10 8 ≠ 2) (h3 : d.fget (Reg.LANE_TEST_CTRL l) 10 8 ≠ 3) :
    (d.injectSent l).outs = d.outs ++ [.injectedSymbol l] := by
  rw [injectSent, if_neg (by simp [h2, h3])]
  rfl

/-- One error counted, with its event. -/
def injectCounted : Dev := (d.prbsCounted l 1).laneEvent l 4
theorem injectCounted_step : CountStep l d (d.injectCounted l) := (prbsCounted_step d l 1).trans (.of_event _ l 4)
theorem injectCounted_sends : Sends d (d.injectCounted l) :=
  ((cntAdd_sends d _ 2).trans (cntAdd_sends _ _ 1)).trans (event_sends _ _ _ _)
theorem injectCounted_post : (d.injectCounted l).bget (Reg.LANE_EVENT l) 4 = true ∧
    (d.injectCounted l).cnt (Reg.C_LANE_PRBS_ERR l) = addSat (d.cnt (Reg.C_LANE_PRBS_ERR l)) 1 :=
  ⟨(bget_laneEvent _ l 4 4 (by decide)).trans (if_pos rfl), (cnt_laneEvent _ l 4 _).trans (err_prbsCounted d l 1)⟩

theorem inject_off {again : Bool} (h : again = true ∨ d.genPattern l = 0 ∨ d.laneState l ≠ lsTest) : d.inject l again = d :=
  if_pos (by rcases h with h | h | h <;> simp [h])
theorem inject_on {d : Dev} {l : Nat} (hg : d.genPattern l ≠ 0) (ht : d.laneState l = lsTest) : d.inject l false =
    if (d.fget (Reg.LANE_TEST_CTRL l) 10 8 = 1 ∨ d.fget (Reg.LANE_TEST_CTRL l) 10 8 = 2) ∧ d.bget (Reg.LANE_RX_STATUS l) 4 = true ∧
        d.chkPattern l = d.genPattern l then (d.injectSent l).injectCounted l
    else d.injectSent l := if_neg (by simp [hg, ht])
theorem inject_step (again : Bool) : CountStep l d (d.inject l again) := by
  by_cases h : again = true ∨ d.genPattern l = 0 ∨ d.laneState l ≠ lsTest
  · rw [inject_off d l h]
    exact .refl l d
  · simp only [not_or, Bool.not_eq_true, not_not] at h
    obtain ⟨rfl, hg, ht⟩ := h
    have hsent := CountStep.of_irq (l := l) (injectSent_frame d l)
    rw [inject_on hg ht]
    split
    · exact hsent.trans (injectCounted_step _ l)
    · exact hsent
/-- What an injected symbol sends. -/
theorem inject_outs {d : Dev} {l : Nat} (hg : d.genPattern l ≠ 0) (ht : d.laneState l = lsTest)
    (h2 : d.fget (Reg.LANE_TEST_CTRL l) 10 8 ≠ 2) (h3 : d.fget (Reg.LANE_TEST_CTRL l) 10 8 ≠ 3) :
    ∃ more, (d.inject l false).outs = d.outs ++ .injectedSymbol l :: more := by
  have hsends : Sends (d.injectSent l) (d.inject l false) := by
    rw [inject_on hg ht]
    exact .ite (injectCounted_sends _ l) (.refl _)
  obtain ⟨more, h⟩ := hsends.outs
  exact ⟨more, by rw [← h, outs_injectSent d l h2 h3, List.append_assoc]; rfl⟩
/-- The lane's own checker counts it where a near-end loopback brings it back. -/
theorem inject_counts {d : Dev} {l : Nat} (hg : d.genPattern l ≠ 0) (ht : d.laneState l = lsTest)
    (hl : d.fget (Reg.LANE_TEST_CTRL l) 10 8 = 1 ∨ d.fget (Reg.LANE_TEST_CTRL l) 10 8 = 2) (hlock : d.bget (Reg.LANE_RX_STATUS l) 4 = true)
    (hc : d.chkPattern l = d.genPattern l) : (d.inject l false).bget (Reg.LANE_EVENT l) 4 = true ∧
      (d.inject l false).cnt (Reg.C_LANE_PRBS_ERR l) = addSat (d.cnt (Reg.C_LANE_PRBS_ERR l)) 1 := by
  rw [inject_on hg ht, if_pos ⟨hl, hlock, hc⟩, ← (injectSent_frame d l).cnt]
  exact injectCounted_post _ l
theorem cnt_prbsClear (a : Nat) : (d.prbsClear l).cnt a = if a = Reg.C_LANE_PRBS_ERR l ∨ a = Reg.C_LANE_PRBS_BITS l then 0 else d.cnt a := by
  rw [prbsClear, cnt_cntSet, cnt_cntSet, ← ite_or]
  simp only [or_comm]

end Dev
end Machine

open Machine.Dev

section
variable {s : State} (hs : Safe s) (l : Fin 1024)
include hs

theorem runs_adaptationUpdate (ffe : List Int) (dfe : Int) : Runs (.adaptationUpdate l ffe dfe) s (fun t =>
    (∀ a, a ≠ Reg.LANE_RX_EQ l → t.rd a = s.rd a) ∧ (∀ k, k ≠ (l : Nat) → t.lane k = s.lane k) ∧
    t.besideLanes = s.besideLanes ∧ t.fget (Reg.LANE_RX_EQ l) 4 0 = s.fget (Reg.LANE_RX_EQ l) 4 0 ∧
    (s.bget (Reg.LANE_TRAIN_CTRL l) 25 = false ∨ s.bget (Reg.LANE_RX_STATUS l) 3 = true ∨ s.bget (Reg.LANE_RX_STATUS l) 0 = true ∨
      (s.laneState l ≠ lsData ∧ s.laneState l ≠ lsPartner) → t = s) ∧
    (sgn 6 (t.fget (Reg.LANE_RX_EQ l) 13 8) - sgn 6 (s.fget (Reg.LANE_RX_EQ l) 13 8)).natAbs ≤ 1 ∧
    (∀ i < 24, ∀ x, (s.lane l).ffe[i]? = some x → -128 ≤ x → x ≤ 127 →
      ∃ y, (t.lane l).ffe[i]? = some y ∧ (y - x).natAbs ≤ 1 ∧ -128 ≤ y ∧ y ≤ 127)) := by
  cases h : s.adapting l with
  | true =>
    obtain ⟨hrd, hlane, hb, hpeak⟩ := adapt_kept h ffe dfe
    obtain ⟨h1, h2⟩ := sgn_six_range (s.fget (Reg.LANE_RX_EQ l) 13 8)
    refine runs_quiet rfl hs (congrArg Dev.fault hb :) (congrArg Dev.fmem hb :) (congrArg Dev.stores hb :) (congrArg Dev.fuses hb :)
      ⟨hrd, hlane, hb, hpeak, fun hoff => ?_, ?_, fun i hi x hx hx1 hx2 => ?_⟩
    · exact Bool.noConfusion (h.symm.trans (s.adapting_eq_false l hoff))
    · rw [dfe_adapt h]
      exact (clamp_stepTo dfe h1 h2).1
    · rw [ffe_adapt h]
      exact tapsMoved_near ffe hi hx hx1 hx2
  | false =>
    exact runs_same (congrArg (finish s) (adapt_off h ffe dfe)) hs ⟨fun _ _ => rfl, fun _ _ => rfl, rfl, rfl, fun _ => rfl, by simp,
      fun _ _ x hx h1 h2 => ⟨x, hx, by simp, h1, h2⟩⟩

theorem runs_burstDetect : Runs (.burstDetect l) s (fun t => OnlyRegs (fun a => a = Reg.LANE_RX_STATUS l ∨ a = Reg.LANE_EVENT l) s t ∧
    t.bget (Reg.LANE_RX_STATUS l) 3 = true ∧ t.bget (Reg.LANE_EVENT l) 8 = true) := by
  have h : RegFrame (fun a => a = Reg.LANE_RX_STATUS l ∨ a = Reg.LANE_EVENT l) s.toDev ((s.bset (Reg.LANE_RX_STATUS l) 3 true).laneEvent l 8) :=
    (bset_regFrame _ (.inl rfl) 3 true).trans (event_regFrame _ (.inr rfl) 8 _)
  refine runs_beside rfl hs h.beside ⟨⟨h.rd, h.beside⟩, ?_, ?_⟩
  · have hrx : ((s.bset (Reg.LANE_RX_STATUS l) 3 true).laneEvent l 8).rd (Reg.LANE_RX_STATUS l) = _ :=
      rd_laneEvent_ne _ 8 (o := 0x18) (by decide)
    exact (bget_of_rd hrx 3).trans (bget_bset_same _ _ 3 true (by decide))
  · exact (bget_laneEvent _ l 8 8 (by decide)).trans (if_pos rfl)

theorem runs_burstFreezeEnd : Runs (.burstFreezeEnd l) s (fun t => OnlyRegs (fun a => a = Reg.LANE_RX_STATUS l) s t ∧
    t.bget (Reg.LANE_RX_STATUS l) 3 = false ∧ ∀ i, i ≠ 3 → t.bget (Reg.LANE_RX_STATUS l) i = s.bget (Reg.LANE_RX_STATUS l) i) := by
  have h := bset_regFrame_self s.toDev (Reg.LANE_RX_STATUS l) 3 false
  have hbit := fun i => bget_bset s.toDev (Reg.LANE_RX_STATUS l) 3 i false (by decide)
  exact runs_beside rfl hs h.beside ⟨⟨h.rd, h.beside⟩, (hbit 3).trans (if_pos rfl), fun i hi => (hbit i).trans (if_neg hi)⟩

/-- Symbols received, by either of the two commands that say what the checker found. -/
theorem runs_received {c : Instr} {syms : List (Fin 4)} (he : exec c s = finish s (s.received l syms)) : Runs c s (fun t =>
    (∀ a, a ≠ Reg.LANE_RX_STATUS l → a ≠ Reg.LANE_EVENT l → ¬ isPend a → t.rd a = s.rd a) ∧
    (∀ k, k ≠ (l : Nat) → t.lane k = s.lane k) ∧
    { t.beside with cnts := [], lanes := [] } = { s.beside with cnts := [], lanes := [] } ∧ SameCounters (chkCnt l) s t ∧
    (s.laneState l = lsLow → t = s) ∧
    (s.fget (Reg.LANE_TEST_CTRL l) 7 4 = 0 ∨ 7 < s.fget (Reg.LANE_TEST_CTRL l) 7 4 → t = { s with outs := t.outs })) := by
  have h := received_step s.toDev l syms
  exact runs_quiet he hs h.fault h.fmem h.stores h.fuses ⟨h.rd, h.lane, h.besideLanes, h.cnt,
    fun hlow => congrArg (fun x : Dev => (⟨x, s.pending⟩ : State)) (received_low s.toDev l hlow syms),
    fun hoff => congrArg (fun x : Dev => (⟨x, s.pending⟩ : State)) (received_off s.toDev l hoff syms)⟩

/-- One symbol received. -/
theorem runs_receivedOne {c : Instr} {x : Fin 4} (he : exec c s = finish s (s.received l [x])) {p level : Nat}
    (hp : p = s.fget (Reg.LANE_TEST_CTRL l) 7 4) (hx : level = if s.bget (Reg.LANE_TRAIN_STATUS l) 3 then 3 - x.val else x.val) :
    Runs c s (fun t => s.laneState l ≠ lsLow → 1 ≤ p → p ≤ 7 →
      (s.bget (Reg.LANE_RX_STATUS l) 4 = true →
        t.cnt (Reg.C_LANE_PRBS_BITS l) = addSat (s.cnt (Reg.C_LANE_PRBS_BITS l)) 2 ∧
        t.cnt (Reg.C_LANE_PRBS_ERR l) = addSat (s.cnt (Reg.C_LANE_PRBS_ERR l)) (symErrors p (s.lane l).chk level) ∧
        (0 < symErrors p (s.lane l).chk level → t.bget (Reg.LANE_EVENT l) 4 = true) ∧
        t.bget (Reg.LANE_RX_STATUS l) 4 = decide ((symMissed p (s.lane l).chk level).countP id < 16) ∧
        (16 ≤ (symMissed p (s.lane l).chk level).countP id → t.bget (Reg.LANE_EVENT l) 5 = true)) ∧
      (s.bget (Reg.LANE_RX_STATUS l) 4 = false → (t.lane l).chk = (s.lane l).chk.seek p level ∧
        t.bget (Reg.LANE_RX_STATUS l) 4 =
          decide (64 ≤ ((s.lane l).chk.seek p level).run ∨ 64 ≤ ((s.lane l).chk.seek p level).invRun))) := by
  subst hp hx
  have h := received_step s.toDev l [x]
  refine runs_quiet he hs h.fault h.fmem h.stores h.fuses fun hlow h1 h7 => ?_
  have hback := sentBack_frame s.toDev l [x]
  have hlock := hback.bget (Reg.LANE_RX_STATUS l) 4 (not_isPend_lane l 0x18)
  rw [← hlock, ← hback.lane, ← hback.cnt, ← hback.cnt, received_one hlow h1 h7]
  exact ⟨fun hl => chkSym_counts hl _ _, fun hl => chkSym_seeks hl _ _⟩

theorem runs_prbsInject (again : Bool) : Runs (.prbsInject l again) s (fun t =>
    (∀ a, a ≠ Reg.LANE_EVENT l → ¬ isPend a → t.rd a = s.rd a) ∧ t.uncounted = s.uncounted ∧ SameCounters (chkCnt l) s t ∧
    (again = true ∨ s.fget (Reg.LANE_TEST_CTRL l) 3 0 = 0 ∨ 8 < s.fget (Reg.LANE_TEST_CTRL l) 3 0 ∨ s.laneState l ≠ lsTest → t = s) ∧
    (again = false → 1 ≤ s.fget (Reg.LANE_TEST_CTRL l) 3 0 → s.fget (Reg.LANE_TEST_CTRL l) 3 0 ≤ 8 → s.laneState l = lsTest →
      (s.fget (Reg.LANE_TEST_CTRL l) 10 8 ≠ 2 → s.fget (Reg.LANE_TEST_CTRL l) 10 8 ≠ 3 →
        ∃ more, t.outs = s.outs ++ .injectedSymbol l :: more) ∧
      (s.fget (Reg.LANE_TEST_CTRL l) 10 8 = 1 ∨ s.fget (Reg.LANE_TEST_CTRL l) 10 8 = 2 → s.bget (Reg.LANE_RX_STATUS l) 4 = true →
        s.fget (Reg.LANE_TEST_CTRL l) 7 4 = s.fget (Reg.LANE_TEST_CTRL l) 3 0 → s.fget (Reg.LANE_TEST_CTRL l) 3 0 ≤ 7 →
        t.bget (Reg.LANE_EVENT l) 4 = true ∧
          t.cnt (Reg.C_LANE_PRBS_ERR l) = addSat (s.cnt (Reg.C_LANE_PRBS_ERR l)) 1))) := by
  have h := inject_step s.toDev l again
  refine runs_quiet rfl hs h.fault h.fmem h.stores h.fuses ⟨h.rd, h.uncounted, h.cnt, fun hoff => ?_, fun ha h1 h8 ht => ?_⟩
  · have hoff' : again = true ∨ s.genPattern l = 0 ∨ s.laneState l ≠ lsTest := by
      obtain ha | hg | hg | ht := hoff
      · exact .inl ha
      · exact .inr (.inl (genPattern_off s.toDev l (.inl hg)))
      · exact .inr (.inl (genPattern_off s.toDev l (.inr hg)))
      · exact .inr (.inr ht)
    exact congrArg (fun x : Dev => (⟨x, s.pending⟩ : State)) (inject_off s.toDev l hoff')
  · subst ha
    have hg := genPattern_on s.toDev l h8
    refine ⟨inject_outs (by omega) ht, fun hl hlock hc h7 => inject_counts (by omega) ht hl hlock ?_⟩
    rw [chkPattern_on s.toDev l (by omega), hg, hc]

theorem runs_prbsClr : Runs (.prbsClr l) s (fun t =>
    (∀ a, t.cnt a = if a = Reg.C_LANE_PRBS_ERR l ∨ a = Reg.C_LANE_PRBS_BITS l then 0 else s.cnt a) ∧ t = { s with cnts := t.cnts }) :=
  runs_quiet rfl hs rfl rfl rfl rfl ⟨cnt_prbsClear s.toDev l, rfl⟩

end

/-- Settles O8: one lemma for each command; the checker's two commands share theirs. -/
theorem laneUpkeep : Obligations.LaneUpkeep := by
  unfold Obligations.LaneUpkeep
  refine ⟨fun s l ffe dfe hs => ⟨runs_adaptationUpdate hs l ffe dfe, runs_burstDetect hs l, runs_burstFreezeEnd hs l⟩, ?_⟩
  intro s l syms x again hs
  refine ⟨fun mk hmk => ?_, runs_prbsInject hs l again, runs_prbsClr hs l⟩
  have he : ∀ ys, exec (mk ys) s = finish s (s.received l ys) := by
    rcases List.mem_pair.1 hmk with rfl | rfl
    · exact fun _ => rfl
    · exact fun _ => rfl
  exact ⟨runs_received hs l (he syms), runs_receivedOne hs l (he [x]) rfl rfl⟩

end Sys2Proof

/-!
SUPPORT. The status of a port (R99, R101, R111): what a port or link that rises or falls writes into MAC_STATUS, and what it leaves there.
-/
namespace Sys2Proof

open Machine

namespace Machine.Dev

/-- The status word of port `p`. -/
def portStatus (d : Dev) (p : Nat) : Word := d.rd (Reg.MAC_STATUS p)

/-- The alignment, the outcome of negotiation and the fence of port `p`: the status bits 1 to 7, which no rise or fall writes. -/
def steady (d : Dev) (p : Nat) : Nat := d.fget (Reg.MAC_STATUS p) 7 1

variable (d : Dev) (p : Nat)

theorem portStatus_of_regs {d e : Dev} (p : Nat) (h : e.regs = d.regs) : e.portStatus p = d.portStatus p :=
  congrArg (SMap.get Reg.resetVal · (Reg.MAC_STATUS p)) h
theorem bget_of_status {d e : Dev} {p : Nat} (h : e.portStatus p = d.portStatus p) (i : Nat) :
    e.bget (Reg.MAC_STATUS p) i = d.bget (Reg.MAC_STATUS p) i := bget_of_rd h i
theorem steady_of_status {d e : Dev} {p : Nat} (h : e.portStatus p = d.portStatus p) : e.steady p = d.steady p := fget_of_rd h 7 1
theorem bget_of_steady {d e : Dev} {p i : Nat} (h : e.steady p = d.steady p) (h1 : 1 ≤ i) (h7 : i ≤ 7) :
    e.bget (Reg.MAC_STATUS p) i = d.bget (Reg.MAC_STATUS p) i := by
  have hbit (x : Dev) : (x.steady p).testBit (i - 1) = x.bget (Reg.MAC_STATUS p) i := by
    rw [steady, fget, testBit_fld, Nat.add_sub_cancel' h1, decide_eq_true (by omega), Bool.true_and, bget]
  rw [← hbit, ← hbit, h]

theorem not_isPend_mac (p o : Nat) : ¬ isPend (Reg.mac p + o) := not_isPend (.inr (by simp only [Reg.mac, Reg.spar]; omega))

/-! Registers other than the status, and units. -/

section
variable {a : Nat} (h : Reg.MAC_STATUS p ≠ a)
include h

theorem portStatus_wr (v : Word) : (d.wr a v).portStatus p = d.portStatus p := rd_wr_ne d v h
theorem portStatus_event (i src : Nat) : (d.event a i src).portStatus p = d.portStatus p := rd_event_ne d a i src h (not_isPend_mac p 4)

end

@[simp] theorem portStatus_updPort (q : Nat) (f : Port → Port) : (d.updPort q f).portStatus p = d.portStatus p :=
  portStatus_of_regs p (updPort_regs d q f)
@[simp] theorem portStatus_updSpar (n : Nat) (f : Spar → Spar) : (d.updSpar n f).portStatus p = d.portStatus p :=
  portStatus_of_regs p (updSpar_regs d n f)
@[simp] theorem portStatus_updSlice (m : Nat) (f : Slice → Slice) : (d.updSlice m f).portStatus p = d.portStatus p :=
  portStatus_of_regs p (updSlice_regs d m f)
@[simp] theorem portStatus_updLink (n : Nat) (f : Link → Link) : (d.updLink n f).portStatus p = d.portStatus p :=
  portStatus_of_regs p (updLink_regs d n f)
@[simp] theorem portStatus_updLane (l : Nat) (f : Lane → Lane) : (d.updLane l f).portStatus p = d.portStatus p :=
  portStatus_of_regs p (updLane_regs d l f)
@[simp] theorem portStatus_emit (o : Output) : (d.emit o).portStatus p = d.portStatus p :=
  portStatus_of_regs p (emit_regs d o)
@[simp] theorem portStatus_cntAdd (a n : Nat) : (d.cntAdd a n).portStatus p = d.portStatus p :=
  portStatus_of_regs p (cntSet_regs d a _)
@[simp] theorem portStatus_inc (a : Nat) : (d.inc a).portStatus p = d.portStatus p := portStatus_cntAdd d p a 1
@[simp] theorem portStatus_flag (src detail : Nat) (inj grey : Bool) (aux : Nat) : (d.flag src detail inj grey aux).portStatus p = d.portStatus p :=
  portStatus_of_regs p (flag_regs d src detail inj grey aux)
@[simp] theorem portStatus_ite (c : Prop) [Decidable c] (x y : Dev) :
    (if c then x else y).portStatus p = if c then x.portStatus p else y.portStatus p := by split <;> rfl
@[simp] theorem portStatus_foldl {α : Type} {f : Dev → α → Dev} (hf : ∀ d a, (f d a).portStatus p = d.portStatus p) (l : List α) (d : Dev) :
    (l.foldl f d).portStatus p = d.portStatus p := foldl_keeps (portStatus · p) f hf l d

/-- The status is a register of its port alone. -/
theorem macStatus_ne_mac {q o : Nat} (h4 : o ≠ 4) (h : o < 0x400) : Reg.MAC_STATUS p ≠ Reg.mac q + o := by
  simp only [Reg.MAC_STATUS, Reg.mac, Reg.spar]
  omega
theorem macStatus_ne_spar {n o : Nat} (h : o < 0x8000 ∨ 0xA000 ≤ o) (h' : o < 0x40000) : Reg.MAC_STATUS p ≠ Reg.spar n + o := by
  simp only [Reg.MAC_STATUS, Reg.mac, Reg.spar]
  omega
theorem macStatus_ne_lane {l o : Nat} (h : o < 0x1000) : Reg.MAC_STATUS p ≠ Reg.lane l + o := by
  simp only [Reg.MAC_STATUS, Reg.mac, Reg.lane, Reg.spar]
  omega
theorem macStatus_ne_low {a : Nat} (h : a < 0x01000000) : Reg.MAC_STATUS p ≠ a := by
  simp only [Reg.MAC_STATUS, Reg.mac, Reg.spar]
  omega

@[simp] theorem portStatus_macEvent (q i : Nat) : (d.macEvent q i).portStatus p = d.portStatus p :=
  portStatus_event d p (macStatus_ne_mac p (by decide) (by decide)) i _
@[simp] theorem portStatus_bufEvent (n i : Nat) : (d.bufEvent n i).portStatus p = d.portStatus p :=
  portStatus_event d p (macStatus_ne_spar p (by decide) (by decide)) i _
@[simp] theorem portStatus_stkEvent (i : Nat) : (d.stkEvent i).portStatus p = d.portStatus p :=
  portStatus_event d p (macStatus_ne_low p (by decide)) i _
@[simp] theorem portStatus_linkStatus (n : Nat) (v : Word) : (d.wr (Reg.STK_HL_STATUS n) v).portStatus p = d.portStatus p :=
  portStatus_wr d p (macStatus_ne_low p (by simp only [Reg.STK_HL_STATUS]; omega)) v
@[simp] theorem portStatus_laneState (l v : Nat) : (d.fset (Reg.LANE_STATE l) 3 0 v).portStatus p = d.portStatus p :=
  portStatus_wr d p (macStatus_ne_lane p (by decide)) _

/-! Pauses (R109, R156) and the buffers (R147, R149, R150). -/

@[simp] theorem portStatus_pfcSend (q c timer : Nat) : (d.pfcSend q c timer).portStatus p = d.portStatus p := by
  unfold pfcSend pfcOut
  simp
@[simp] theorem portStatus_pauseSync (q : Nat) : (d.pauseSync q).portStatus p = d.portStatus p := by
  unfold pauseSync
  simp
@[simp] theorem portStatus_ownerSync (o : Nat) : (d.ownerSync o).portStatus p = d.portStatus p := by
  unfold ownerSync
  simp
@[simp] theorem portStatus_sliceSettle (m : Nat) : (d.sliceSettle m).portStatus p = d.portStatus p := by
  have hpeak (e : Dev) (v : Nat) : (e.fset (Reg.BUF_OCC_PEAK m) 12 0 v).portStatus p = e.portStatus p :=
    portStatus_wr e p (macStatus_ne_spar p (by decide) (by decide)) _
  unfold sliceSettle
  simp [hpeak]
@[simp] theorem portStatus_slotEnd (owners : List Nat) : (d.slotEnd owners).portStatus p = d.portStatus p := by
  unfold slotEnd
  simp [pauseSyncAll]
@[simp] theorem portStatus_injected (src : Nat) (e : Ecc) : (d.injected src e).2.2.portStatus p = d.portStatus p := by
  unfold injected
  split
  · exact portStatus_wr d p (macStatus_ne_low p (by decide)) _
  · rfl
@[simp] theorem portStatus_descCheck (m : Nat) : (d.descCheck m).portStatus p = d.portStatus p := by
  have h := portStatus_injected d p (65 + 3 * m) .good
  unfold descCheck
  generalize d.injected (65 + 3 * m) .good = x at *
  obtain ⟨err, inj, e⟩ := x
  cases err <;> simpa using h
@[simp] theorem portStatus_decRef (m i n : Nat) : (d.decRef m i n).portStatus p = d.portStatus p := by
  unfold decRef
  dsimp only
  split <;> simp
@[simp] theorem portStatus_copiesGone (c : Cell) (n : Nat) : (d.copiesGone c n).portStatus p = d.portStatus p := by
  unfold copiesGone
  simp

/-! The flush of an output (R111, R151). -/

@[simp] theorem portStatus_countFlush (q : Nat) : (d.countFlush q).portStatus p = d.portStatus p := by
  have hcount : Reg.MAC_STATUS p ≠ Reg.MAC_FLUSH_CNT (q / 9) (q % 9) := by
    simp only [Reg.MAC_STATUS, Reg.MAC_FLUSH_CNT, Reg.mac, Reg.spar]
    omega
  unfold countFlush regInc
  simp [portStatus_wr d p hcount]
@[simp] theorem portStatus_countFlushN (q n : Nat) : (d.countFlushN q n).portStatus p = d.portStatus p := by
  induction n generalizing d with
  | zero => rfl
  | succ n ih => rw [countFlushN, ih, portStatus_countFlush]
@[simp] theorem portStatus_mcSkip (q m i : Nat) : (mcSkip q d m i).portStatus p = d.portStatus p := by
  unfold mcSkip
  split <;> simp
@[simp] theorem portStatus_unlinkQ (m q : Nat) : (d.unlinkQ m q).portStatus p = d.portStatus p := by
  unfold unlinkQ
  simp
@[simp] theorem portStatus_flushCopies (o q : Nat) : (d.flushCopies o q).portStatus p = d.portStatus p := by
  unfold flushCopies
  simp
@[simp] theorem portStatus_flushOutput (q : Nat) : (d.flushOutput q).portStatus p = d.portStatus p := by
  unfold flushOutput
  simp [mcPrune, setExp]
@[simp] theorem portStatus_dropTabled (q : Nat) : (d.dropTabled q).portStatus p = d.portStatus p := by
  unfold dropTabled
  simp
@[simp] theorem portStatus_downFlush (q lo hi : Nat) : (d.downFlush q lo hi).portStatus p = d.portStatus p := by
  unfold downFlush
  simp

/-! Ports and links that rise and fall (R99, R111, R423). -/

/-- A field of a register, this one or another, reads as before where a field apart from it was written. -/
theorem fget_fset_apart (a b : Nat) {hi lo x y : Nat} (v : Nat) (h : lo ≤ hi) (hx : x < 32) (hd : x < lo ∨ hi < y) :
    (d.fset a hi lo v).fget b x y = d.fget b x y := by
  by_cases hb : b = a
  · rw [hb]
    exact fget_fset_other d a hi lo v x y h hx hd
  · exact fget_fset_ne d hi lo v x y hb

/-- A fall writes LINK and the pauses, a rise LINK alone. -/
theorem portStatus_portDown (q : Nat) : (d.portDown q).portStatus p =
    ((d.bset (Reg.MAC_STATUS q) 0 false).fset (Reg.MAC_STATUS q) 15 8 0).portStatus p := by
  unfold portDown
  simp
theorem portStatus_portUp (q : Nat) : (d.portUp q).portStatus p = (d.bset (Reg.MAC_STATUS q) 0 true).portStatus p := by
  unfold portUp
  simp
theorem linkUp_portDown : (d.portDown p).linkUp p = false :=
  (bget_of_status (portStatus_portDown d p p) 0).trans ((bget_fset_other _ _ _ _ _ _ (by decide) (by decide) (by decide)).trans
    (bget_bset_same d _ _ _ (by decide)))
theorem linkUp_portUp : (d.portUp p).linkUp p = true :=
  (bget_of_status (portStatus_portUp d p p) 0).trans (bget_bset_same d _ _ _ (by decide))
/-- A port that follows its conditions is up exactly where they hold. -/
theorem linkUp_portEval : (d.portEval p).linkUp p = d.portShould p := by
  unfold portEval
  cases hs : d.portShould p <;> cases hu : d.linkUp p
  · simpa using hu
  · simpa using linkUp_portDown d p
  · simpa using linkUp_portUp d p
  · simpa using hu

@[simp] theorem steady_ite (c : Prop) [Decidable c] (x y : Dev) : (if c then x else y).steady p = if c then x.steady p else y.steady p := by
  split <;> rfl
@[simp] theorem steady_portEval (q : Nat) : (d.portEval q).steady p = d.steady p := by
  have hup : (d.portUp q).steady p = d.steady p :=
    (steady_of_status (portStatus_portUp d p q)).trans (fget_fset_apart d _ _ _ (by decide) (by decide) (by decide))
  have hdown : (d.portDown q).steady p = d.steady p :=
    (steady_of_status (portStatus_portDown d p q)).trans ((fget_fset_apart _ _ _ _ (by decide) (by decide) (by decide)).trans
      (fget_fset_apart d _ _ _ (by decide) (by decide) (by decide)))
  unfold portEval
  simp [hup, hdown]
@[simp] theorem steady_groupEval (l : Nat) : (d.groupEval l).steady p = d.steady p := by
  have hdown (n : Nat) : (d.linkDown n).steady p = d.steady p := by
    apply steady_of_status
    unfold linkDown
    simp
  have hup (n : Nat) : (d.linkUpH n).steady p = d.steady p := by
    have hstatus (e : Dev) : (e.bset (Reg.STK_HL_STATUS n) 31 true).portStatus p = e.portStatus p := portStatus_linkStatus e p n _
    have hresend : (d.linkResend n).portStatus p = d.portStatus p := portStatus_foldl p (fun x f => portStatus_emit x p _) _ d
    apply steady_of_status
    unfold linkUpH
    simp [hstatus, hresend]
  unfold groupEval
  simp [hdown, hup]

/-! Lanes that move (R78). -/

@[simp] theorem steady_laneTo (l st : Nat) : (d.laneTo l st).steady p = d.steady p :=
  (steady_groupEval _ p l).trans (steady_of_status (portStatus_laneState d p l st))
@[simp] theorem steady_leaveWait (l : Nat) : (d.leaveWait l).steady p = d.steady p := by
  have htrain : (d.laneTrain l).steady p = d.steady p := steady_laneTo _ p l lsTrain
  unfold leaveWait
  simp [htrain]

end Machine.Dev

end Sys2Proof

/-!
SUPPORT. Alignment (R99): the port follows its conditions after its bit was written.
-/
namespace Sys2Proof

open Machine

namespace Machine.Dev

/-- A bit of a port's status written. -/
theorem statusBit_port (d : Dev) (p i : Nat) (b : Bool) : PortFrame d (d.bset (Reg.MAC_STATUS p) i b) := portReg_wr d _ _ (macStatus_port p)

namespace PortFrame

variable {d e : Dev} (h : PortFrame d e)
include h
theorem fault : e.fault = d.fault := (congrArg Dev.fault h.around :)
theorem fmem : e.fmem = d.fmem := (congrArg Dev.fmem h.around :)
theorem stores : e.stores = d.stores := (congrArg Dev.stores h.around :)
theorem fuses : e.fuses = d.fuses := (congrArg Dev.fuses h.around :)
theorem macCfg (p : Nat) : e.rd (Reg.MAC_CFG p) = d.rd (Reg.MAC_CFG p) := (LaneStep.of_port (l := 0) h).macCfg p
theorem portMode (n : Nat) : e.portMode n = d.portMode n := (LaneStep.of_port (l := 0) h).portMode n
theorem named (p : Nat) : e.named p = d.named p := by rw [Dev.named, Dev.named, h.portMode]
theorem groupLanes (p : Nat) : e.groupLanes p = d.groupLanes p := by rw [Dev.groupLanes, Dev.groupLanes, widthAt, widthAt, h.portMode]

end PortFrame

/-- A lane carries data as before where a port's status was written. -/
theorem laneGood_statusBit (d : Dev) (p i l : Nat) (b : Bool) : (d.bset (Reg.MAC_STATUS p) i b).laneGood l = d.laneGood l := by
  have hrd (o : Nat) (ho : o < 0x1000) : (d.bset (Reg.MAC_STATUS p) i b).rd (Reg.lane l + o) = d.rd (Reg.lane l + o) :=
    rd_bset_ne d i b (macStatus_ne_lane p ho).symm
  have hrx : (d.bset (Reg.MAC_STATUS p) i b).fget (Reg.LANE_RX_STATUS l) 1 0 = d.fget (Reg.LANE_RX_STATUS l) 1 0 :=
    fget_of_rd (hrd 0x18 (by decide)) 1 0
  rw [laneGood, laneGood, laneState_of_rd (hrd 0x14 (by decide)), hrx]

/-- Without alignment a port's conditions fail (R99). -/
theorem portShould_unaligned {d : Dev} {p : Nat} (h : d.bget (Reg.MAC_STATUS p) 1 = false) : d.portShould p = false := by
  simp [portShould, h]
/-- The conditions of an aligned port (R76, R99). -/
theorem portShould_aligned {d : Dev} {p : Nat} (h : d.bget (Reg.MAC_STATUS p) 1 = true) (hn : d.named p = true)
    (hchip : d.fault.downChips.contains (p / 128) = false) (hen : d.bget (Reg.MAC_CFG p) 0 = true) (hl : ∀ l ∈ d.groupLanes p, d.laneGood l = true)
    (han : d.bget (Reg.MAC_CFG p) 2 = false ∨ d.bget (Reg.MAC_STATUS p) 2 = true) : d.portShould p = true := by
  rw [portShould, hn, hchip, hen, h, List.all_eq_true.2 hl]
  rcases han with han | han <;> simp [han]

/-- The alignment bit written, and the port after it. -/
def aligned (d : Dev) (p : Nat) (b : Bool) : Dev := (d.bset (Reg.MAC_STATUS p) 1 b).portEval p

theorem aligned_port {d : Dev} (hc : Quiet d) (p : Nat) (b : Bool) : PortFrame d (d.aligned p b) :=
  (statusBit_port d p 1 b).trans (portEval_port _ p ((statusBit_port d p 1 b).calm hc))
theorem align_aligned (d : Dev) (p : Nat) (b : Bool) : (d.aligned p b).bget (Reg.MAC_STATUS p) 1 = b :=
  (bget_of_steady (steady_portEval _ p p) (by decide) (by decide)).trans (bget_bset_same d _ 1 b (by decide))
theorem linkUp_alignLoss (d : Dev) (p : Nat) : (d.aligned p false).linkUp p = false :=
  (linkUp_portEval _ p).trans (portShould_unaligned (bget_bset_same d _ 1 false (by decide)))
theorem linkUp_alignGain {d : Dev} {p : Nat} (hn : d.named p = true) (hchip : d.fault.downChips.contains (p / 128) = false)
    (hen : d.bget (Reg.MAC_CFG p) 0 = true) (hl : ∀ l ∈ d.groupLanes p, d.laneGood l = true)
    (han : d.bget (Reg.MAC_CFG p) 2 = false ∨ d.bget (Reg.MAC_STATUS p) 2 = true) : (d.aligned p true).linkUp p = true := by
  have hf := statusBit_port d p 1 true
  have hbit : (d.bset (Reg.MAC_STATUS p) 1 true).bget (Reg.MAC_STATUS p) 2 = d.bget (Reg.MAC_STATUS p) 2 :=
    (bget_bset d _ 1 2 true (by decide)).trans (if_neg (by decide))
  refine (linkUp_portEval _ p).trans (portShould_aligned (bget_bset_same d _ 1 true (by decide)) ((hf.named p).trans hn) ?_
    ((bget_of_rd (hf.macCfg p) 0).trans hen) (fun l h => ?_) ?_)
  · rw [hf.fault, hchip]
  · rw [laneGood_statusBit, hl l (hf.groupLanes p ▸ h)]
  · rwa [bget_of_rd (hf.macCfg p), hbit]

end Machine.Dev

open Machine.Dev

/-- A command of a port whose meaning keeps what a port that rises or falls keeps. -/
theorem runs_port {c : Instr} {s : State} {d : Dev} {post : State → Prop} (he : exec c s = finish s d) (hs : Calm s)
    (h : PortFrame s.toDev d) (hp : post { toDev := d, pending := s.pending }) : Runs c s (fun t => PortsFrame s t ∧ post t) :=
  runs_quiet he hs.1 h.fault h.fmem h.stores h.fuses ⟨⟨h.rd, h.around⟩, hp⟩
theorem runs_portSame {c : Instr} {s : State} {post : State → Prop} (he : exec c s = finish s s.toDev) (hs : Calm s) (hp : post s) :
    Runs c s (fun t => PortsFrame s t ∧ post t) := runs_port he hs (.refl s.toDev) hp

/-- Settles O10: the loss by `linkUp_alignLoss`, the gain by `linkUp_alignGain`. -/
theorem portAlignment : Obligations.PortAlignment := by
  unfold Obligations.PortAlignment
  intro s p hs
  cases hn : s.named p with
  | false =>
    exact ⟨runs_portSame (congrArg (finish s) (if_neg (by simp [hn]))) hs ⟨fun _ => rfl, nofun⟩,
      runs_portSame (congrArg (finish s) (if_neg (by simp [hn]))) hs ⟨fun _ => rfl, nofun⟩⟩
  | true =>
    refine ⟨runs_port (congrArg (finish s) (if_pos hn)) hs (aligned_port hs.2 p false) ⟨nofun, fun _ => ?_⟩,
      runs_port (congrArg (finish s) (if_pos hn)) hs (aligned_port hs.2 p true) ⟨nofun, fun _ => ⟨?_, fun hchip hen hl han => ?_⟩⟩⟩
    · exact ⟨align_aligned s.toDev p false, linkUp_alignLoss s.toDev p⟩
    · exact align_aligned s.toDev p true
    · refine linkUp_alignGain hn hchip hen (fun l h => ?_) han
      obtain ⟨hdata, hrx⟩ := hl l h
      simp [laneGood, hdata, hrx]

end Sys2Proof

/-!
SUPPORT. Auto-negotiation (R101): the lanes of a group that fall back to WAIT_SIGNAL or leave it, and the port after them.
-/
namespace Sys2Proof

open Machine

namespace Machine.Dev

/-- `e` differs from `d` by what the lanes of groups and their ports and links do: no status bit but those of a rise or fall, and nothing outside
lanes, ports and links. -/
structure GroupStep (d e : Dev) : Prop extends Sends d e where
  steady : ∀ p, e.steady p = d.steady p
  outside : e.outsideLanes = d.outsideLanes
  calm : Quiet d → Quiet e

namespace GroupStep

theorem refl (d : Dev) : GroupStep d d := ⟨.refl d, fun _ => rfl, rfl, id⟩
theorem trans {d e f : Dev} (h : GroupStep d e) (g : GroupStep e f) : GroupStep d f :=
  ⟨h.toSends.trans g.toSends, fun p => (g.steady p).trans (h.steady p), g.outside.trans h.outside, g.calm ∘ h.calm⟩
/-- Steps of lanes in a row. -/
theorem foldl {f : Dev → Nat → Dev} (hf : ∀ d l, l < 1024 → Quiet d → GroupStep d (f d l)) :
    ∀ (ls : List Nat) (d : Dev), (∀ l ∈ ls, l < 1024) → Quiet d → GroupStep d (ls.foldl f d)
  | [], d, _, _ => refl d
  | l :: ls, d, hl, hc => by
    have h := hf d l (hl l List.mem_cons_self) hc
    exact h.trans (foldl hf ls _ (fun k hk => hl k (List.mem_cons_of_mem l hk)) (h.calm hc))

end GroupStep

/-- The lanes of a named port's group are lanes of the device. -/
theorem groupLanes_lt {d : Dev} {p l : Nat} (hp : p < 1024) (hn : d.named p = true) (hl : l ∈ d.groupLanes p) : l < 1024 := by
  obtain ⟨i, hi, rfl⟩ := List.mem_map.1 hl
  replace hi : i < groupWidth (d.portMode (p / 8)) := List.mem_range.1 hi
  unfold named at hn
  split at hn <;> simp_all [groupWidth] <;> omega

/-- A lane that trains or carries data falls back to WAIT_SIGNAL. -/
def toWait (d : Dev) (l : Nat) : Dev := if 3 ≤ d.laneState l ∧ d.laneState l ≤ 7 then d.laneTo l lsWait else d

section
variable {d : Dev} {l : Nat} (hl : l < 1024) (hc : Quiet d)
include hl hc

theorem laneTo_group (st : Nat) : GroupStep d (d.laneTo l st) :=
  have hw := laneTo_walk hl hc st
  ⟨hw.toSends, fun p => steady_laneTo d p l st, hw.around, hw.calm⟩
theorem toWait_group : GroupStep d (d.toWait l) := by
  unfold toWait
  split
  · exact laneTo_group hl hc lsWait
  · exact .refl d
theorem leaveWait_group : GroupStep d (d.leaveWait l) :=
  have hw := leaveWait_walk hl hc
  ⟨hw.toSends, fun p => steady_leaveWait d p l, hw.around, hw.calm⟩
theorem toWait_step : LaneStep l d (d.toWait l) := by
  unfold toWait
  split
  · exact laneTo_step d l lsWait hl hc
  · exact .refl l d
/-- Another lane, or one outside those states, keeps its state. -/
theorem laneState_toWait {k : Nat} (hk : k < 1024) :
    (d.toWait l).laneState k = if k = l ∧ 3 ≤ d.laneState k ∧ d.laneState k ≤ 7 then lsWait else d.laneState k := by
  by_cases hkl : k = l
  · subst hkl
    unfold toWait
    split
    · next h => rw [if_pos ⟨rfl, h⟩, laneState_laneTo d hl hc (by decide)]
    · next h => rw [if_neg (fun hx => h hx.2)]
  · rw [if_neg (fun hx => hkl hx.1)]
    exact (OtherLanes.of_step hk (Ne.symm hkl) (toWait_step hl hc)).laneState

end

/-- The lanes of a list that train or carry data have fallen back. -/
theorem laneState_foldl_toWait {k : Nat} (hk : k < 1024) : ∀ (ls : List Nat) (d : Dev), (∀ l ∈ ls, l < 1024) → Quiet d →
    (ls.foldl toWait d).laneState k = if k ∈ ls ∧ 3 ≤ d.laneState k ∧ d.laneState k ≤ 7 then lsWait else d.laneState k
  | [], d, _, _ => by simp
  | l :: ls, d, hl, hc => by
    have hlt := hl l List.mem_cons_self
    rw [List.foldl_cons, laneState_foldl_toWait hk ls _ (fun j hj => hl j (List.mem_cons_of_mem l hj)) ((toWait_group hlt hc).calm hc),
      laneState_toWait hlt hc hk]
    by_cases hr : 3 ≤ d.laneState k ∧ d.laneState k ≤ 7
    · by_cases hkl : k = l
      · rw [if_pos (⟨hkl, hr⟩ : k = l ∧ _), ite_self, if_pos ⟨hkl ▸ List.mem_cons_self, hr⟩]
      · simp [hkl]
    · simp [hr]

/-! Restart, the last page and the retry. -/

/-- The outcome of negotiation written. -/
def outcome (d : Dev) (p : Nat) (done : Bool) : Dev := (d.bset (Reg.MAC_STATUS p) 2 done).bset (Reg.MAC_STATUS p) 3 false
/-- Negotiation restarted, before the base page is sent. -/
def anRestarted (d : Dev) (p : Nat) : Dev := (((d.outcome p false).groupLanes p).foldl toWait (d.outcome p false)).portEval p
/-- Negotiation resolved to the port's rate. -/
def anResolved (d : Dev) (p : Nat) : Dev := (((d.outcome p true).groupLanes p).foldl leaveWait (d.outcome p true)).portEval p

theorem outcome_port (d : Dev) (p : Nat) (done : Bool) : PortFrame d (d.outcome p done) :=
  (statusBit_port d p 2 done).trans (statusBit_port _ p 3 false)
theorem bget_outcome (d : Dev) (p : Nat) (done : Bool) :
    (d.outcome p done).bget (Reg.MAC_STATUS p) 2 = done ∧ (d.outcome p done).bget (Reg.MAC_STATUS p) 3 = false := by
  simp [outcome, bget_bset]
theorem laneState_outcome (d : Dev) (p l : Nat) (done : Bool) : (d.outcome p done).laneState l = d.laneState l := by
  have hne : Reg.LANE_STATE l ≠ Reg.MAC_STATUS p := (macStatus_ne_lane p (by decide)).symm
  exact laneState_of_rd ((rd_bset_ne _ 3 false hne).trans (rd_bset_ne d 2 done hne))
theorem outcome_sends (d : Dev) (p : Nat) (done : Bool) : Sends d (d.outcome p done) := (wr_sends d _ _).trans (wr_sends _ _ _)

theorem portEval_group {d : Dev} (hc : Quiet d) (p : Nat) : GroupStep d (d.portEval p) :=
  have hp := portEval_port d p hc
  ⟨portEval_sends d p, fun q => steady_portEval d q p, congrArg (fun x : Dev => { x with lanes := [], freeCtr := 0 }) hp.around, hp.calm⟩

section
variable {d : Dev} {p : Nat} (hp : p < 1024) (hn : d.named p = true) (hc : Quiet d)
include hp hn hc

/-- Lanes of the group that step after the outcome was written, and the port after them. -/
theorem group_after {f : Dev → Nat → Dev} (hf : ∀ d l, l < 1024 → Quiet d → GroupStep d (f d l)) (done : Bool) :
    GroupStep (d.outcome p done) ((((d.outcome p done).groupLanes p).foldl f (d.outcome p done)).portEval p) := by
  have ho := outcome_port d p done
  have hg := GroupStep.foldl hf _ (d.outcome p done) (fun l h => groupLanes_lt hp ((ho.named p).trans hn) h) (ho.calm hc)
  exact hg.trans (portEval_group (hg.calm (ho.calm hc)) p)
theorem anRestarted_group : GroupStep (d.outcome p false) (d.anRestarted p) := group_after hp hn hc (fun _ _ => toWait_group) false
theorem anResolved_group : GroupStep (d.outcome p true) (d.anResolved p) := group_after hp hn hc (fun _ _ => leaveWait_group) true

/-- A lane of the group that trained or carried data waits for a signal after a restart. -/
theorem laneState_anRestarted {l : Nat} (hl : l ∈ d.groupLanes p) (h3 : 3 ≤ d.laneState l) (h7 : d.laneState l ≤ 7) :
    (d.anRestarted p).laneState l = lsWait := by
  have ho := outcome_port d p false
  have hlanes : ∀ k ∈ (d.outcome p false).groupLanes p, k < 1024 := fun k h => groupLanes_lt hp ((ho.named p).trans hn) h
  have hg := GroupStep.foldl (fun _ _ => toWait_group) _ _ hlanes (ho.calm hc)
  have hlt := groupLanes_lt hp hn hl
  have hkept := laneState_of_rd ((portEval_port _ p (hg.calm (ho.calm hc))).rd _ (ofLane_kept hlt (laneStateReg l)).1
    (ofLane_kept hlt (laneStateReg l)).2)
  have hwait := laneState_foldl_toWait hlt _ _ hlanes (ho.calm hc)
  have hmem : l ∈ (d.outcome p false).groupLanes p := by rwa [ho.groupLanes]
  rw [← laneState_outcome d p l false] at h3 h7
  rw [if_pos ⟨hmem, h3, h7⟩] at hwait
  exact hkept.trans hwait

end

/-- Without AN_EN, or for a port that no breakout names, nothing is restarted. -/
theorem anStart_off {d : Dev} {p : Nat} (h : (d.named p && d.bget (Reg.MAC_CFG p) 2) = false) : d.anStart p = d := if_neg (by simp [h])
theorem anStart_on {d : Dev} {p : Nat} (h : (d.named p && d.bget (Reg.MAC_CFG p) 2) = true) : d.anStart p =
    if d.bget (Reg.MAC_CFG p) 0 = true then (d.anRestarted p).emit (.basePage p (d.portRate p / 1000)) else d.anRestarted p := by
  rw [anStart, if_pos h]
  rfl

/-- A restart of port `p`, as the statement says it. -/
def Restarted (p : Nat) (d e : Dev) : Prop := e.bget (Reg.MAC_STATUS p) 2 = false ∧ e.bget (Reg.MAC_STATUS p) 3 = false ∧
  ∀ l ∈ d.groupLanes p, 3 ≤ d.laneState l → d.laneState l ≤ 7 → e.laneState l = lsWait
/-- The base page that an enabled port sends last. -/
def PageSent (p : Nat) (d e : Dev) : Prop :=
  d.bget (Reg.MAC_CFG p) 0 = true → ∃ more : List Output, e.outs = d.outs ++ more ++ [Output.basePage p (d.portRate p / 1000)]

/-- The base page is sent by an enabled port, and changes nothing else. -/
theorem paged_post {d e : Dev} {p : Nat} (hr : Restarted p d e) (hs : Sends d e) :
    let f := if d.bget (Reg.MAC_CFG p) 0 = true then e.emit (.basePage p (d.portRate p / 1000)) else e
    f.outsideLanes = e.outsideLanes ∧ Restarted p d f ∧ PageSent p d f := by
  intro f
  by_cases hen : d.bget (Reg.MAC_CFG p) 0 = true
  · obtain ⟨more, hmore⟩ := hs.outs
    rw [show f = e.emit _ from if_pos hen]
    exact ⟨rfl, hr, fun _ => ⟨more, congrArg (· ++ _) hmore.symm⟩⟩
  · rw [show f = e from if_neg hen]
    exact ⟨rfl, hr, fun h => absurd h hen⟩
/-- Where negotiation runs a restart leaves its outcome open, the lanes waiting, and the base page of an enabled port sent. -/
theorem anStart_post {d : Dev} {p : Nat} (hp : p < 1024) (hc : Quiet d) (h : (d.named p && d.bget (Reg.MAC_CFG p) 2) = true) :
    (d.anStart p).outsideLanes = (d.outcome p false).outsideLanes ∧ Restarted p d (d.anStart p) ∧ PageSent p d (d.anStart p) := by
  have hn : d.named p = true := (Bool.and_eq_true_iff.1 h).1
  have hg := anRestarted_group hp hn hc
  obtain ⟨h2, h3⟩ := bget_outcome d p false
  have hrestart : Restarted p d (d.anRestarted p) :=
    ⟨(bget_of_steady (hg.steady p) (by decide) (by decide)).trans h2, (bget_of_steady (hg.steady p) (by decide) (by decide)).trans h3,
      fun l hl => laneState_anRestarted hp hn hc hl⟩
  obtain ⟨hout, hpost⟩ := paged_post hrestart ((outcome_sends d p false).trans hg.toSends)
  rw [anStart_on h]
  exact ⟨hout.trans hg.outside, hpost⟩

/-- Does the partner's last page settle negotiation on an enabled port that has not resolved it (R101)? -/
def anOpen (d : Dev) (p : Nat) : Bool := d.named p && d.bget (Reg.MAC_CFG p) 2 && d.bget (Reg.MAC_CFG p) 0 && !d.bget (Reg.MAC_STATUS p) 2

section
variable {d : Dev} {p : Nat} {rates : List Nat}

theorem anPage_off (h : d.anOpen p = false) : d.anPage p rates = d := if_neg (Bool.eq_false_iff.mp h)
theorem anPage_common (h : d.anOpen p = true) (hr : rates.contains (d.portRate p / 1000) = true) : d.anPage p rates = d.anResolved p :=
  (if_pos h).trans (if_pos hr)
/-- What a page with the port's rate leaves of the outcome. -/
theorem bget_anResolved (hp : p < 1024) (hn : d.named p = true) (hc : Quiet d) :
    (d.anResolved p).bget (Reg.MAC_STATUS p) 2 = true ∧ (d.anResolved p).bget (Reg.MAC_STATUS p) 3 = false := by
  have hg := anResolved_group hp hn hc
  obtain ⟨h2, h3⟩ := bget_outcome d p true
  exact ⟨(bget_of_steady (hg.steady p) (by decide) (by decide)).trans h2, (bget_of_steady (hg.steady p) (by decide) (by decide)).trans h3⟩
theorem anPage_apart (h : d.anOpen p = true) (hr : rates.contains (d.portRate p / 1000) = false) :
    d.anPage p rates = (d.bset (Reg.MAC_STATUS p) 3 true).macEvent p 1 := (if_pos h).trans (if_neg (Bool.eq_false_iff.mp hr))

end

end Machine.Dev

open Machine.Dev

/-- A command whose meaning is that lanes of a group step after the outcome was written. -/
theorem runs_group {c : Instr} {s : State} {d : Dev} {p : Nat} {done : Bool} {post : State → Prop} (he : exec c s = finish s d) (hs : Calm s)
    (h : d.outsideLanes = (s.outcome p done).outsideLanes) (hp : post { toDev := d, pending := s.pending }) : Runs c s post := by
  have hout : d.outsideLanes = s.outsideLanes :=
    h.trans (congrArg (fun x : Dev => { x with lanes := [], freeCtr := 0 }) (outcome_port s.toDev p done).around)
  exact runs_quiet he hs.1 (congrArg Dev.fault hout :) (congrArg Dev.fmem hout :) (congrArg Dev.stores hout :) (congrArg Dev.fuses hout :) hp

/-- A last page that does not name the port's rate: AN_FAIL with its event, and no other register. -/
theorem anApart_post (d : Dev) (p : Nat) :
    let e := (d.bset (Reg.MAC_STATUS p) 3 true).event (Reg.MAC_EVENT p) 1 (sparSrc (p / 8) 0)
    RegFrame (fun a => a = Reg.MAC_STATUS p ∨ a = Reg.MAC_EVENT p) d e ∧
      e.bget (Reg.MAC_STATUS p) 3 = true ∧ e.bget (Reg.MAC_EVENT p) 1 = true := by
  refine ⟨(bset_regFrame d (own := fun a => a = Reg.MAC_STATUS p ∨ a = Reg.MAC_EVENT p) (.inl rfl) 3 true).trans
    (event_regFrame _ (a := Reg.MAC_EVENT p) (.inr rfl) 1 (sparSrc (p / 8) 0)), ?_, ?_⟩
  · exact (bget_of_status (portStatus_macEvent _ p p 1) 3).trans (bget_bset_same _ _ _ _ (by decide))
  · exact (bget_event _ (Reg.MAC_EVENT p) 1 1 _ (by decide) (not_isPend_mac p 0x24)).trans (if_pos rfl)

section
variable {s : State} (hs : Calm s) (p : Fin 1024)
include hs

theorem runs_anStart {c : Instr} (he : exec c s = finish s (s.anStart p)) : Runs c s (fun t =>
    ((s.named p && s.bget (Reg.MAC_CFG p) 2) = false → t = s) ∧
    ((s.named p && s.bget (Reg.MAC_CFG p) 2) = true → Restarted p s.toDev t.toDev ∧ PageSent p s.toDev t.toDev)) := by
  cases han : s.named p && s.bget (Reg.MAC_CFG p) 2 with
  | false => exact runs_same (he.trans (congrArg (finish s) (anStart_off han))) hs.1 ⟨fun _ => rfl, nofun⟩
  | true =>
    obtain ⟨hout, hpost⟩ := anStart_post p.isLt hs.2 han
    exact runs_group he hs hout ⟨nofun, fun _ => hpost⟩

theorem runs_anRetry : Runs (.anRetry p) s (fun t =>
    ((s.named p && s.bget (Reg.MAC_CFG p) 2) = false ∨ s.bget (Reg.MAC_STATUS p) 3 = false → t = s) ∧
    ((s.named p && s.bget (Reg.MAC_CFG p) 2) = true → s.bget (Reg.MAC_STATUS p) 3 = true →
      Restarted p s.toDev t.toDev ∧ PageSent p s.toDev t.toDev)) := by
  cases hfail : s.bget (Reg.MAC_STATUS p) 3 with
  | false => exact runs_same (congrArg (finish s) (if_neg (by simp [hfail]))) hs.1 ⟨fun _ => rfl, fun _ => nofun⟩
  | true =>
    obtain ⟨t, hx, hq, hoff, hon⟩ := runs_anStart hs p (c := .anRetry p) (congrArg (finish s) (if_pos hfail))
    exact ⟨t, hx, hq, fun h => hoff (h.resolve_right nofun), fun han _ => hon han⟩

theorem runs_anPageReceive (rates : List Nat) : Runs (.anPageReceive p rates) s (fun t =>
    ((s.named p && s.bget (Reg.MAC_CFG p) 2) = false ∨ s.bget (Reg.MAC_CFG p) 0 = false ∨ s.bget (Reg.MAC_STATUS p) 2 = true → t = s) ∧
    ((s.named p && s.bget (Reg.MAC_CFG p) 2) = true → s.bget (Reg.MAC_CFG p) 0 = true → s.bget (Reg.MAC_STATUS p) 2 = false →
      (rates.contains (s.portRate p / 1000) = true → t.bget (Reg.MAC_STATUS p) 2 = true ∧ t.bget (Reg.MAC_STATUS p) 3 = false) ∧
      (rates.contains (s.portRate p / 1000) = false → t.bget (Reg.MAC_STATUS p) 3 = true ∧ t.bget (Reg.MAC_EVENT p) 1 = true ∧
        OnlyRegs (fun a => a = Reg.MAC_STATUS p ∨ a = Reg.MAC_EVENT p) s t))) := by
  have he : exec (.anPageReceive p rates) s = finish s (s.anPage p rates) := rfl
  cases hon : s.anOpen p with
  | false =>
    refine runs_same (he.trans (congrArg (finish s) (anPage_off hon))) hs.1 ⟨fun _ => rfl, fun han hen hdone => ?_⟩
    simp [anOpen, han, hen, hdone] at hon
  | true =>
    obtain ⟨⟨han, hen⟩, hdone⟩ : ((s.named p && s.bget (Reg.MAC_CFG p) 2) = true ∧ s.bget (Reg.MAC_CFG p) 0 = true) ∧
        s.bget (Reg.MAC_STATUS p) 2 = false := by simpa [anOpen] using hon
    have hidle : ¬ ((s.named p && s.bget (Reg.MAC_CFG p) 2) = false ∨ s.bget (Reg.MAC_CFG p) 0 = false ∨
        s.bget (Reg.MAC_STATUS p) 2 = true) := by
      simp [han, hen, hdone]
    cases hr : rates.contains (s.portRate p / 1000) with
    | true =>
      have hn : s.named p = true := (Bool.and_eq_true_iff.1 han).1
      have hpost := bget_anResolved p.isLt hn hs.2
      refine runs_group (d := s.anResolved p) (p := p) (done := true) (he.trans (congrArg (finish s) (anPage_common hon hr))) hs
        (anResolved_group p.isLt hn hs.2).outside ?_
      dsimp only
      exact ⟨fun h => absurd h hidle, fun _ _ _ => ⟨fun _ => hpost, nofun⟩⟩
    | false =>
      obtain ⟨hf, hfail, hev⟩ := anApart_post s.toDev p
      refine runs_regFrame (he.trans (congrArg (finish s) (anPage_apart hon hr))) hs.1 hf fun ho => ?_
      exact ⟨fun h => absurd h hidle, fun _ _ _ => ⟨nofun, fun _ => ⟨hfail, hev, ho⟩⟩⟩

end

/-- Settles O11: one lemma for each command. -/
theorem autoNegotiation : Obligations.AutoNegotiation := by
  unfold Obligations.AutoNegotiation
  intro s p rates hs
  exact ⟨runs_anStart hs p rfl, runs_anRetry hs p, runs_anPageReceive hs p rates⟩

end Sys2Proof

/-!
SUPPORT. Pause (R109, R110): what a PFC frame received writes, and the PFC frames that a port sends again.
-/
namespace Sys2Proof

open Machine

namespace Machine.Dev

/-! A PFC frame received (R110). -/

/-- One class of a PFC frame: where the frame names it, its pause is as `on` says. -/
def pauseStep (st vec : Nat) (on : Nat → Bool) (d : Dev) (c : Nat) : Dev := if bit vec c then d.bset st (8 + c) (on c) else d

section
variable (st vec : Nat) (on : Nat → Bool)

theorem bget_pauseStep (d : Dev) {a : Nat} (ha : a < 8) (c : Nat) :
    (d.pauseStep st vec on a).bget st (8 + c) = if c = a ∧ bit vec c then on c else d.bget st (8 + c) := by
  unfold pauseStep
  by_cases hca : c = a
  · subst hca
    cases hb : bit vec c with
    | true => simp [bget_bset_same d st (8 + c) (on c) (by omega)]
    | false => simp
  · rw [if_neg (c := c = a ∧ bit vec c) (fun h => hca h.1)]
    split
    · rw [bget_bset d st _ _ _ (by omega), if_neg (by omega)]
    · rfl

/-- The classes of a list, one after the other. -/
theorem bget_foldl_pauseStep (c : Nat) : ∀ (l : List Nat) (d : Dev), (∀ a ∈ l, a < 8) →
    (l.foldl (pauseStep st vec on) d).bget st (8 + c) = if c ∈ l ∧ bit vec c then on c else d.bget st (8 + c)
  | [], d, _ => by simp
  | a :: l, d, hl => by
    rw [List.foldl_cons, bget_foldl_pauseStep c l _ (fun b hb => hl b (List.mem_cons_of_mem a hb)),
      bget_pauseStep st vec on d (hl a List.mem_cons_self) c]
    by_cases hl' : c ∈ l <;> by_cases hb : bit vec c = true <;> simp [hl', hb]

theorem foldl_pauseStep_regFrame (l : List Nat) (d : Dev) : RegFrame (fun a => a = st) d (l.foldl (pauseStep st vec on) d) :=
  RegFrame.foldl _ (fun x c => by
    unfold pauseStep
    split
    · exact bset_regFrame_self x st _ _
    · exact .refl x) l d

end

section
variable (d : Dev) (p : Nat) (f : Bytes)

theorem macControl_pfc (ho : beAt f 14 2 = 0x0101) : d.macControl p f true =
    (upto 8).foldl (pauseStep (Reg.MAC_STATUS p) (beAt f 16 2 &&& d.fget (Reg.MAC_PFC_CFG p) 31 24) (fun c => beAt f (18 + 2 * c) 2 != 0))
      (d.inc (Reg.C_MAC_RX_PFC p)) := if_pos ho

/-- What a good PFC frame leaves: its counter, no spar changed, and the pauses it names. -/
theorem macControl_pfc_post (ho : beAt f 14 2 = 0x0101) :
    let e := d.macControl p f true
    e.cnt (Reg.C_MAC_RX_PFC p) = (d.inc (Reg.C_MAC_RX_PFC p)).cnt (Reg.C_MAC_RX_PFC p) ∧ e.spars = d.spars ∧
      ∀ c < 8, e.bget (Reg.MAC_STATUS p) (8 + c) =
        if bit (beAt f 16 2 &&& d.fget (Reg.MAC_PFC_CFG p) 31 24) c then decide (beAt f (18 + 2 * c) 2 ≠ 0)
        else d.bget (Reg.MAC_STATUS p) (8 + c) := by
  rw [macControl_pfc d p f ho]
  generalize beAt f 16 2 &&& d.fget (Reg.MAC_PFC_CFG p) 31 24 = vec
  have h := foldl_pauseStep_regFrame (Reg.MAC_STATUS p) vec (fun c => beAt f (18 + 2 * c) 2 != 0) (upto 8) (d.inc (Reg.C_MAC_RX_PFC p))
  refine ⟨cnt_of_beside h.beside _, (congrArg Dev.spars h.beside :), fun c hc => ?_⟩
  have hmem : c ∈ upto 8 := List.mem_range.2 hc
  have hon : (beAt f (18 + 2 * c) 2 != 0) = decide (beAt f (18 + 2 * c) 2 ≠ 0) := Bool.eq_iff_iff.2 (by simp)
  have hinc : (d.inc (Reg.C_MAC_RX_PFC p)).bget (Reg.MAC_STATUS p) (8 + c) = d.bget (Reg.MAC_STATUS p) (8 + c) := rfl
  rw [bget_foldl_pauseStep (Reg.MAC_STATUS p) vec _ c (upto 8) _ (fun a ha => List.mem_range.mp ha)]
  simp only [hmem, true_and, hon, hinc]

/-- Codewords that are counted leave a register of the port other than MAC_EVENT. -/
theorem rd_rxCounted (errs : List Nat) {o : Nat} (ho : o ≠ 0x24) : (d.rxCounted p errs).rd (Reg.mac p + o) = d.rd (Reg.mac p + o) := by
  obtain ⟨g, h⟩ := fecCount_regFrame (d.ungateParse (p / 8)) p errs
  exact h.rd _ (by simp only [Reg.MAC_EVENT]; omega) (not_isPend_mac p o)

variable {d p f}

/-- A good PFC frame received on an up port that no fence holds. -/
theorem frameIn_pfc (hn : d.named p = true) (hu : d.linkUp p = true) (hf : d.rxFenced p = false) (hl : 64 ≤ f.length)
    (hb : f.length ≤ d.maxFrame p) (hg : fcsGood f = true) (hc : isControl f = true) (ho : beAt f 14 2 = 0x0101) :
    let e := d.frameIn p f false [] false
    e.cnt (Reg.C_MAC_RX_PFC p) = addSat (d.cnt (Reg.C_MAC_RX_PFC p)) 1 ∧ e.spars = d.spars ∧
      ∀ c < 8, e.bget (Reg.MAC_STATUS p) (8 + c) =
        if bit (beAt f 16 2 &&& d.fget (Reg.MAC_PFC_CFG p) 31 24) c then decide (beAt f (18 + 2 * c) 2 ≠ 0)
        else d.bget (Reg.MAC_STATUS p) (8 + c) := by
  have he : d.frameIn p f false [] false = (d.rxCounted p []).macControl p f true := by
    rw [frameIn_control f false [] false (by rw [hn, hu]; rfl) hf hl hc hb, hg]
    rfl
  obtain ⟨hcnt, hspars, hbits⟩ := macControl_pfc_post (d.rxCounted p []) p f ho
  have hmask : (d.rxCounted p []).fget (Reg.MAC_PFC_CFG p) 31 24 = d.fget (Reg.MAC_PFC_CFG p) 31 24 :=
    fget_of_rd (rd_rxCounted d p [] (by decide)) 31 24
  have hst (i : Nat) : (d.rxCounted p []).bget (Reg.MAC_STATUS p) i = d.bget (Reg.MAC_STATUS p) i :=
    bget_of_rd (rd_rxCounted d p [] (by decide)) i
  intro e
  rw [show e = _ from he]
  refine ⟨hcnt.trans (cnt_rxCounted_inc d p [] (by decide)), hspars.trans (rxCounted_spars d p []), fun c h8 => ?_⟩
  rw [hbits c h8, hst, hmask]

end

/-! PFC frames sent (R109). -/

/-- PFC frames of the classes in `l`, one after the other. -/
def pfcSends (d : Dev) (p timer : Nat) (l : List Nat) : Dev := l.foldl (fun x c => x.pfcSend p c timer) d
/-- The classes whose pause a port repeats: none while it is down or fenced. -/
def heldPauses (d : Dev) (p : Nat) : List Nat :=
  if d.linkUp p && !d.portFenced p then (upto 8).filter (fun i => bit (d.port p).txPause i) else []

theorem pfcAgain_eq (d : Dev) (p : Nat) : d.pfcAgain p = d.pfcSends p (d.quanta p) (d.heldPauses p) := by
  unfold pfcAgain pfcSends heldPauses
  split
  · exact List.foldl_filter.symm
  · rfl

/-- A port that sends nothing sends them at once, each counted. -/
theorem pfcSends_idle (p timer : Nat) : ∀ (l : List Nat) (d : Dev), d.sending p = false → ∃ v,
    d.pfcSends p timer l = { d with cnts := v, outs := d.outs ++ l.map (fun c => Output.pfc p (pfcBytes c timer)) } ∧
      ∀ a, a ≠ Reg.C_MAC_TX_PFC p → ({ d with cnts := v } : Dev).cnt a = d.cnt a
  | [], d, _ => ⟨d.cnts, by simp [pfcSends], fun _ _ => rfl⟩
  | c :: l, d, h => by
    obtain ⟨v, he, hv⟩ := pfcSends_idle p timer l (d.pfcOut p c timer) h
    refine ⟨v, ?_, fun a ha => (hv a ha).trans (cnt_inc_ne d ha)⟩
    have h1 : d.pfcSends p timer (c :: l) = (d.pfcOut p c timer).pfcSends p timer l :=
      congrArg (fun x : Dev => x.pfcSends p timer l) (if_neg (Bool.eq_false_iff.mp h))
    rw [h1, he]
    simp [pfcOut, emit, inc, cntAdd, cntSet]

/-- A port that is sending a frame keeps them for after it. -/
theorem pfcSends_busy (p timer : Nat) : ∀ (l : List Nat) (d : Dev), d.sending p = true → ∃ ps,
    d.pfcSends p timer l = { d with ports := ps } ∧ (∀ k, k ≠ p → ({ d with ports := ps } : Dev).port k = d.port k) ∧
      ({ d with ports := ps } : Dev).port p = { d.port p with pfcDue := (d.port p).pfcDue ++ l.map (fun c => (c, timer)) }
  | [], d, _ => ⟨d.ports, rfl, fun _ _ => rfl, by simp⟩
  | c :: l, d, h => by
    have hport := port_updPort d p
    have hp := (hport p (fun x => { x with pfcDue := x.pfcDue ++ [(c, timer)] })).trans (if_pos rfl)
    have hs : (d.updPort p (fun x => { x with pfcDue := x.pfcDue ++ [(c, timer)] })).sending p = true := by
      rw [sending, hp]
      exact h
    obtain ⟨ps, he, ho, hps⟩ := pfcSends_busy p timer l _ hs
    refine ⟨ps, ?_, fun k hk => (ho k hk).trans ((hport k _).trans (if_neg hk)), hps.trans (by simp [hp])⟩
    exact (congrArg (fun x : Dev => x.pfcSends p timer l) (if_pos h)).trans he

end Machine.Dev

open Machine.Dev

section
variable {s : State} (hs : Safe s) (p : Fin 1024)
include hs

theorem runs_pfcReceive {f : Bytes} {post : State → Prop}
    (hp : post { toDev := s.frameIn p f false [] false, pending := s.pending }) : Runs (.pfcReceive p f) s post := by
  have h := (frameIn_rxFrame (d := s.toDev) (p := p) f false [] false).outside
  exact runs_quiet rfl hs (congrArg Dev.fault h :) (congrArg Dev.fmem h :) (congrArg Dev.stores h :) (congrArg Dev.fuses h :) hp

theorem runs_pfcPauseExpire (c : Fin 8) : Runs (.pfcPauseExpire p c) s (fun t =>
    OnlyRegs (fun a => a = Reg.MAC_STATUS p) s t ∧ t.bget (Reg.MAC_STATUS p) (8 + c) = false ∧
    ∀ i, i ≠ 8 + (c : Nat) → t.bget (Reg.MAC_STATUS p) i = s.bget (Reg.MAC_STATUS p) i) := by
  have hc : 8 + (c : Nat) < 32 := by omega
  refine runs_regFrame rfl hs (bset_regFrame_self s.toDev _ _ _) fun ho => ⟨ho, bget_bset_same s.toDev _ _ _ hc, fun i hi => ?_⟩
  exact (bget_bset s.toDev _ _ i _ hc).trans (if_neg hi)

theorem runs_pfcRepeat : Runs (.pfcRepeat p) s (fun t =>
    t.regs = s.regs ∧ { t.beside with cnts := [], ports := [] } = { s.beside with cnts := [], ports := [] } ∧
    SameCounters (fun a => a = Reg.C_MAC_TX_PFC p) s t ∧
    (s.sending p = false → t.ports = s.ports ∧
      t.outs = s.outs ++ (s.heldPauses p).map (fun i => Output.pfc p (pfcBytes i (s.quanta p)))) ∧
    (s.sending p = true → t.outs = s.outs ∧ t.cnts = s.cnts ∧ (∀ k, k ≠ (p : Nat) → t.port k = s.port k) ∧
      t.port p = { s.port p with pfcDue := (s.port p).pfcDue ++ (s.heldPauses p).map (fun i => (i, s.quanta p)) })) := by
  have he : exec (.pfcRepeat p) s = finish s (s.pfcSends p (s.quanta p) (s.heldPauses p)) := congrArg (finish s) (pfcAgain_eq s.toDev p)
  cases hb : s.sending p with
  | false =>
    obtain ⟨v, hd, hv⟩ := pfcSends_idle p (s.quanta p) (s.heldPauses p) s.toDev hb
    rw [hd] at he
    exact runs_quiet he hs rfl rfl rfl rfl ⟨rfl, rfl, hv, fun _ => ⟨rfl, rfl⟩, nofun⟩
  | true =>
    obtain ⟨ps, hd, ho, hp⟩ := pfcSends_busy p (s.quanta p) (s.heldPauses p) s.toDev hb
    rw [hd] at he
    exact runs_quiet he hs rfl rfl rfl rfl ⟨rfl, rfl, fun _ _ => rfl, nofun, fun _ => ⟨rfl, rfl, ho, hp⟩⟩

end

/-- Settles O13: one lemma for each command. -/
theorem pauseFrames : Obligations.PauseFrames := by
  unfold Obligations.PauseFrames
  intro s p f c hs
  refine ⟨runs_pfcReceive hs p fun hn hu hf hl hb hg hc ho => ?_, runs_pfcPauseExpire hs p c, runs_pfcRepeat hs p⟩
  obtain ⟨hcnt, hspars, hbits⟩ := frameIn_pfc hn hu hf hl hb hg hc ho
  exact ⟨hcnt, hspars, hbits c c.isLt⟩

end Sys2Proof

/-!
SUPPORT. The timestamp FIFO (R108), the end of a FEC window (R100), and a port's fence (R112).
-/
namespace Sys2Proof

open Machine

namespace Machine.Dev

/-! The timestamp FIFO (R108). -/

section
variable {d : Dev} {p : Nat}

/-- A read that finds no stamp. -/
theorem tsPop_none (h : d.named p = false ∨ (d.port p).tsFifo = []) : d.tsPop p = d.emit (.readData (Reg.MAC_PTP_TX_SEQ p) 0) := by
  unfold tsPop
  split
  · rfl
  · next hn =>
    rw [h.resolve_left (by simpa using hn)]

/-- The stamp registers after a pop. -/
def tsTaken (d : Dev) (p stamp : Nat) (rest : List (Nat × Nat)) : Dev :=
  ((d.updPort p (fun x => { x with tsFifo := rest })).wr (Reg.MAC_PTP_TX_TS_LO p) (wd stamp)).wr (Reg.MAC_PTP_TX_TS_HI p) (wd (stamp / 2 ^ 32))

/-- A read that pops the oldest stamp. -/
theorem tsPop_some (hn : d.named p = true) {stamp seq : Nat} {rest : List (Nat × Nat)} (h : (d.port p).tsFifo = (stamp, seq) :: rest) :
    d.tsPop p = (d.tsTaken p stamp rest).emit (.readData (Reg.MAC_PTP_TX_SEQ p) (wd (2 ^ 31 + seq % 65536))) := by
  rw [tsPop, if_neg (by simp [hn]), h, tsTaken, ← Nat.shiftRight_eq_div_pow]

/-- `e` differs from `d` by a popped stamp: the FIFO of the port and the stamp registers. -/
structure TsTaken (d : Dev) (p stamp : Nat) (rest : List (Nat × Nat)) (e : Dev) : Prop where
  outs : e.outs = d.outs
  outside : { e.beside with ports := [] } = { d.beside with ports := [] }
  fifo : (e.port p).tsFifo = rest
  lo : e.rd (Reg.MAC_PTP_TX_TS_LO p) = wd stamp
  hi : e.rd (Reg.MAC_PTP_TX_TS_HI p) = wd (stamp / 2 ^ 32)
  rd : ∀ a, a ≠ Reg.MAC_PTP_TX_TS_LO p → a ≠ Reg.MAC_PTP_TX_TS_HI p → e.rd a = d.rd a

theorem outs_portThenRegs (d : Dev) (p : Nat) (g : Port → Port) (a b : Nat) (v w : Word) :
    (((d.updPort p g).wr a v).wr b w).outs = d.outs := rfl
theorem outside_portThenRegs (d : Dev) (p : Nat) (g : Port → Port) (a b : Nat) (v w : Word) :
    { (((d.updPort p g).wr a v).wr b w).beside with ports := [] } = { d.beside with ports := [] } := rfl
theorem tsTaken_tsTaken (d : Dev) (p stamp : Nat) (rest : List (Nat × Nat)) : TsTaken d p stamp rest (d.tsTaken p stamp rest) where
  outs := outs_portThenRegs d p _ _ _ _ _
  outside := outside_portThenRegs d p _ _ _ _ _
  fifo := by rw [tsTaken, port_wr, port_wr, port_updPort, if_pos rfl]
  lo := (rd_wr_ne _ _ (by simp only [Reg.MAC_PTP_TX_TS_LO, Reg.MAC_PTP_TX_TS_HI]; omega)).trans (rd_wr_same _ _ _)
  hi := rd_wr_same _ _ _
  rd _ hlo hhi := (rd_wr_ne _ _ hhi).trans (rd_wr_ne _ _ hlo)

end

/-! The end of a FEC window (R100). -/

section
variable (d : Dev) (p : Nat) (errs : List Nat)

/-- Every counter but those of the codewords is as before. -/
theorem cnt_fecCounters_ne {a : Nat} (h : ¬ (a = Reg.C_MAC_FEC_CORR_CW p ∨ a = Reg.C_MAC_FEC_CORR_SYM p ∨ a = Reg.C_MAC_FEC_UNCORR_CW p)) :
    (d.fecCounters p errs).cnt a = d.cnt a := by
  obtain ⟨hcw, hsym, hun⟩ : a ≠ Reg.C_MAC_FEC_CORR_CW p ∧ a ≠ Reg.C_MAC_FEC_CORR_SYM p ∧ a ≠ Reg.C_MAC_FEC_UNCORR_CW p := by
    simpa using h
  rw [fecCounters, cnt_cntAdd, if_neg hun, cnt_cntAdd, if_neg hsym, cnt_cntAdd, if_neg hcw]

/-- Codewords counted: the port's own state and MAC_EVENT beside the counters. -/
theorem fecCount_post :
    let e := d.fecCount p errs
    (∀ a, ¬ a = Reg.MAC_EVENT p → ¬ isPend a → e.rd a = d.rd a) ∧
      { e.beside with ports := [], cnts := [] } = { d.beside with ports := [], cnts := [] } ∧
      (∀ a, e.cnt a = (d.fecCounters p errs).cnt a) ∧ ∀ k, k ≠ p → e.port k = d.port k := by
  obtain ⟨g, h⟩ := fecCount_regFrame d p errs
  have hcnt (a : Nat) : (d.fecCount p errs).cnt a = (d.fecCounters p errs).cnt a := (cnt_of_beside h.beside a).trans (cnt_updPort _ p g a)
  obtain ⟨v, hv⟩ : ∃ v, d.fecCounters p errs = { d with cnts := v } := ⟨_, rfl⟩
  rw [hv] at h
  refine ⟨h.rd, congrArg (fun x : Dev => { x with ports := [], cnts := [] }) h.beside, hcnt, fun k hk => ?_⟩
  have hports := congrArg Dev.ports h.beside
  exact (congrArg (SMap.get (fun _ => ({} : Port)) · k) hports).trans ((port_updPort { d with cnts := v } p k g).trans (if_neg hk))

/-- The threshold's event (R100). -/
theorem fecCount_event (hb : 0 < (errs.filter (fun e => decide (15 < e))).length) (hf : (d.port p).fecFired = false)
    (ht : atLeast1 (d.fget (Reg.MAC_FEC_THRESH p) 15 0) ≤ (d.port p).fecCount + (errs.filter (fun e => decide (15 < e))).length) :
    (d.fecCount p errs).bget (Reg.MAC_EVENT p) 2 = true := by
  have hhit : (decide (atLeast1 (d.fget (Reg.MAC_FEC_THRESH p) 15 0) ≤ (d.port p).fecCount + (errs.filter (fun e => decide (15 < e))).length) &&
      !(d.port p).fecFired && decide (0 < (errs.filter (fun e => decide (15 < e))).length)) = true := by
    rw [hf, decide_eq_true ht, decide_eq_true hb]
    rfl
  rw [show d.fecCount p errs = _ from if_pos hhit]
  exact (bget_event _ (Reg.MAC_EVENT p) 2 2 _ (by decide) (not_isPend_mac p 0x24)).trans (if_pos rfl)

/-- The window's count restarted. -/
def windowClosed (d : Dev) (p : Nat) : Dev := d.updPort p (fun x => { x with fecCount := 0, fecFired := false })

theorem port_windowClosed : ((d.windowClosed p).port p).fecCount = 0 ∧ ((d.windowClosed p).port p).fecFired = false ∧
    ∀ k, k ≠ p → (d.windowClosed p).port k = d.port k := by
  have h := (port_updPort d p p (fun x => { x with fecCount := 0, fecFired := false })).trans (if_pos rfl)
  exact ⟨congrArg Port.fecCount h, congrArg Port.fecFired h, fun k hk => (port_updPort d p k _).trans (if_neg hk)⟩

variable {d p}

theorem fecWindow_off (h : d.named p = false ∨ d.linkUp p = false) : d.fecWindow p errs = d.windowClosed p :=
  congrArg (windowClosed · p) (if_neg (by rcases h with h | h <;> simp [h]))
theorem fecWindow_on (hn : d.named p = true) (hu : d.linkUp p = true) : d.fecWindow p errs = (d.fecCount p errs).windowClosed p :=
  congrArg (windowClosed · p) (if_pos (by rw [hn, hu]; rfl))

end

/-! A port's fence (R112). -/

section
variable {d : Dev} {p : Nat}

theorem macCmd_kept (p : Nat) : ¬ portReg (Reg.MAC_CMD p) ∧ ¬ isPend (Reg.MAC_CMD p) := by
  refine ⟨?_, not_isPend_mac p 8⟩
  rintro (⟨q, h | h | ⟨c, hc, h⟩⟩ | ⟨n, hn, h⟩ | h)
  · simp only [Reg.MAC_CMD, Reg.MAC_STATUS, Reg.mac, Reg.spar] at h; omega
  · simp only [Reg.MAC_CMD, Reg.MAC_EVENT, Reg.mac, Reg.spar] at h; omega
  · simp only [Reg.MAC_CMD, Reg.MAC_FLUSH_CNT, Reg.mac, Reg.spar] at h; omega
  · simp only [Reg.MAC_CMD, Reg.STK_HL_STATUS, Reg.mac, Reg.spar] at h; omega
  · simp only [Reg.MAC_CMD, Reg.STK_EVENT, Reg.mac, Reg.spar] at h; omega

theorem quiet_wr {a : Nat} (v : Word) (hc : Quiet d) (ha : ∀ m, ∀ o < 0x18, Reg.spar m + 0x18000 + o ≠ a) : Quiet (d.wr a v) :=
  hc.of_same rfl (fun _ => rfl) (fun m o ho => rd_wr_ne d v (ha m o ho))
theorem quiet_macCmd (on : Bool) (hc : Quiet d) : Quiet (d.bset (Reg.MAC_CMD p) 0 on) :=
  quiet_wr _ hc (fun m o ho => by simp only [Reg.MAC_CMD, Reg.mac, Reg.spar]; omega)

/-- A fence in force. -/
theorem fenceOn_port (hc : Quiet d) : PortFrame d (d.fenceOn p) := by
  have h1 := ((statusBit_port d p 4 true).trans (portReg_wr _ _ (setFld ((d.bset (Reg.MAC_STATUS p) 4 true).rd (Reg.MAC_STATUS p)) 15 8 0)
    (macStatus_port p))).trans (updPort_port _ p (fun x => { x with pfcDue := [] }))
  exact (h1.trans (downFlush_port _ p 0 8 (h1.calm hc))).trans (dropTabled_port _ _)
theorem portFenced_fenceOn (d : Dev) (p : Nat) : (d.fenceOn p).portFenced p = true := by
  have h : (d.fenceOn p).portStatus p = ((d.bset (Reg.MAC_STATUS p) 4 true).fset (Reg.MAC_STATUS p) 15 8 0).portStatus p := by
    unfold fenceOn
    simp
  refine (bget_of_status h 4).trans ((bget_fset_other _ _ 15 8 0 4 (by decide) (by decide) (.inl (by decide))).trans
    (bget_bset_same d _ 4 true (by decide)))

/-- A fence lifted, or held by another of its causes. -/
theorem fenceOff_port (d : Dev) (p : Nat) : PortFrame d (d.fenceOff p) := by
  unfold fenceOff
  split
  · exact .refl d
  · exact ((statusBit_port d p 4 false).trans (updPort_port _ p _)).trans (pauseSync_port _ p)
theorem portFenced_fenceOff (h : (d.bget (Reg.MAC_CMD p) 0 || d.loader.fence || d.inBlack) = false) : (d.fenceOff p).portFenced p = false := by
  have hs : (d.fenceOff p).portStatus p = (d.bset (Reg.MAC_STATUS p) 4 false).portStatus p := by
    unfold fenceOff
    rw [if_neg (Bool.eq_false_iff.mp h)]
    simp
  exact (bget_of_status hs 4).trans (bget_bset_same d _ 4 false (by decide))

/-- FENCE written on a named port, in each direction (R112). -/
theorem fenceWrite_on (hn : d.named p = true) :
    d.fenceWrite p true = if d.rxFenced p then d.bset (Reg.MAC_CMD p) 0 true else (d.bset (Reg.MAC_CMD p) 0 true).fenceOn p := by
  rw [fenceWrite, if_neg (by simp [hn]), if_pos rfl]
theorem fenceWrite_off (hn : d.named p = true) : d.fenceWrite p false = (d.bset (Reg.MAC_CMD p) 0 false).fenceOff p := by
  rw [fenceWrite, if_neg (by simp [hn]), if_neg Bool.false_ne_true]

theorem fenceWrite_port (hc : Quiet d) (hn : d.named p = true) (on : Bool) : PortFrame (d.bset (Reg.MAC_CMD p) 0 on) (d.fenceWrite p on) := by
  cases on with
  | true =>
    rw [fenceWrite_on hn]
    split
    · exact .refl _
    · exact fenceOn_port (quiet_macCmd true hc)
  | false =>
    rw [fenceWrite_off hn]
    exact fenceOff_port _ p

/-- FENCE holds the port: it is fenced already, or the fence is put in force. -/
theorem portFenced_fenceWrite_on (hn : d.named p = true) : (d.fenceWrite p true).portFenced p = true := by
  rw [fenceWrite_on hn]
  split
  · next hf =>
    have h4 : d.portFenced p = true := (Bool.and_eq_true_iff.1 hf).1
    exact (bget_of_rd (rd_bset_ne d 0 true (macStatus_ne_mac p (by decide) (by decide))) 4).trans h4
  · exact portFenced_fenceOn _ p

/-- A device that differs by a released FENCE alone, with no other cause of a fence. -/
theorem portFenced_released {e : Dev} (hf : RegFrame (fun a => a = Reg.MAC_CMD p) d e) (hcmd : e.bget (Reg.MAC_CMD p) 0 = false)
    (hl : d.loader.fence = false) (hb : d.inBlack = false) : (e.fenceOff p).portFenced p = false := by
  have hload : e.loader = d.loader := (congrArg Dev.loader hf.beside :)
  have hblack : e.inBlack = d.inBlack :=
    hf.bget 0 (by simp only [Reg.FLT_STATUS, Reg.MAC_CMD, Reg.mac, Reg.spar]; omega) (not_isPend (.inr (by decide)))
  exact portFenced_fenceOff (by rw [hcmd, hload, hblack, hl, hb]; rfl)
theorem portFenced_fenceWrite_off (hn : d.named p = true) (hl : d.loader.fence = false) (hb : d.inBlack = false) :
    (d.fenceWrite p false).portFenced p = false := by
  rw [fenceWrite_off hn]
  exact portFenced_released (bset_regFrame_self d _ 0 false) (bget_bset_same d _ 0 false (by decide)) hl hb

end

end Machine.Dev

open Machine.Dev

/-- A command that ends with an output. -/
theorem runs_emit {c : Instr} {s : State} {d : Dev} {o : Output} {post : State → Prop} (he : exec c s = finish s (d.emit o)) (hs : Safe s)
    (hf : d.fault = s.fault) (hm : d.fmem = s.fmem) (ht : d.stores = s.stores) (hu : d.fuses = s.fuses)
    (hp : post { toDev := { d with outs := d.outs ++ [o] }, pending := s.pending }) : Runs c s post := runs_quiet he hs hf hm ht hu hp

/-- A command that writes registers of its own and then acts as ports do. -/
theorem runs_regThenPort {c : Instr} {s : State} {b d : Dev} {own : Nat → Prop} {post : State → Prop} (he : exec c s = finish s d) (hs : Calm s)
    (hb : RegFrame own s.toDev b) (h : PortFrame b d) (hp : post { toDev := d, pending := s.pending }) : Runs c s (fun t =>
      (∀ a, ¬ own a → ¬ portReg a → ¬ isPend a → t.rd a = s.rd a) ∧ t.around = s.around ∧ post t) := by
  have ha : d.around = s.around :=
    h.around.trans (congrArg (fun x : Dev => { x with cnts := [], ports := [], spars := [], slices := [], stack := {} }) hb.beside)
  exact runs_quiet he hs.1 (congrArg Dev.fault ha :) (congrArg Dev.fmem ha :) (congrArg Dev.stores ha :) (congrArg Dev.fuses ha :)
    ⟨fun a h0 h1 h2 => (h.rd a h1 h2).trans (hb.rd a h0 h2), ha, hp⟩

/-- What a read of MAC_PTP_TX_SEQ leaves, without and with a stamp (R108). -/
def TsPopped (p : Nat) (s t : State) : Prop :=
    (s.named p = false ∨ (s.port p).tsFifo = [] → t = { s with outs := s.outs ++ [.readData (Reg.MAC_PTP_TX_SEQ p) 0] }) ∧
    (s.named p = true → ∀ stamp seq rest, (s.port p).tsFifo = (stamp, seq) :: rest → (t.port p).tsFifo = rest ∧
      t.rd (Reg.MAC_PTP_TX_TS_LO p) = wd stamp ∧ t.rd (Reg.MAC_PTP_TX_TS_HI p) = wd (stamp / 2 ^ 32) ∧
      t.outs = s.outs ++ [.readData (Reg.MAC_PTP_TX_SEQ p) (wd (2 ^ 31 + seq % 65536))] ∧
      (∀ a, a ≠ Reg.MAC_PTP_TX_TS_LO p → a ≠ Reg.MAC_PTP_TX_TS_HI p → t.rd a = s.rd a) ∧
      { t.beside with ports := [] } = { s.beside with ports := [] })

theorem runs_tsTaken {c : Instr} {s : State} {p : Nat} {e : Dev} {stamp seq : Nat} {rest : List (Nat × Nat)}
    (he : exec c s = finish s (e.emit (.readData (Reg.MAC_PTP_TX_SEQ p) (wd (2 ^ 31 + seq % 65536))))) (hs : Safe s)
    (h : TsTaken s.toDev p stamp rest e) (hn : s.named p = true) (hf : (s.port p).tsFifo = (stamp, seq) :: rest) : Runs c s (TsPopped p s) := by
  have hout := h.outside
  refine runs_emit he hs (congrArg Dev.fault hout :) (congrArg Dev.fmem hout :) (congrArg Dev.stores hout :) (congrArg Dev.fuses hout :)
    ⟨fun h' => absurd h' (by simp [hn, hf]), fun _ stamp' seq' rest' hf' => ?_⟩
  obtain ⟨⟨rfl, rfl⟩, rfl⟩ : (stamp = stamp' ∧ seq = seq') ∧ rest = rest' := by simpa using hf.symm.trans hf'
  exact ⟨h.fifo, h.lo, h.hi, congrArg (· ++ _) h.outs, h.rd, hout⟩

theorem runs_ptpTsPop {s : State} (hs : Safe s) (p : Fin 1024) : Runs (.ptpTsPop p) s (TsPopped p s) := by
  by_cases h : s.named p = false ∨ (s.port p).tsFifo = []
  · refine runs_emit (congrArg (finish s) (tsPop_none h)) hs rfl rfl rfl rfl ⟨fun _ => rfl, fun hn stamp seq rest hf => ?_⟩
    exact absurd h (by simp [hn, hf])
  · have hn : s.named p = true := by simpa using fun hn => h (.inl hn)
    obtain ⟨⟨stamp, seq⟩, rest, hf⟩ := List.exists_cons_of_ne_nil (fun hf => h (.inr hf))
    exact runs_tsTaken (congrArg (finish s) (tsPop_some hn hf)) hs (tsTaken_tsTaken s.toDev p stamp rest) hn hf

theorem runs_portFence {s : State} (hs : Calm s) (p : Fin 1024) (on : Bool) : Runs (.portFence p on) s (fun t =>
    (∀ a, a ≠ Reg.MAC_CMD p → ¬ portReg a → ¬ isPend a → t.rd a = s.rd a) ∧ t.around = s.around ∧
    (s.named p = false → t = s) ∧ (s.named p = true → t.bget (Reg.MAC_CMD p) 0 = on ∧ (on = true → t.portFenced p = true) ∧
      (on = false → s.loader.fence = false → s.inBlack = false → t.portFenced p = false))) := by
  cases hn : s.named p with
  | false => exact runs_same (congrArg (finish s) (if_pos (by simp [hn]))) hs.1 ⟨fun _ _ _ _ => rfl, rfl, fun _ => rfl, nofun⟩
  | true =>
    have h := fenceWrite_port hs.2 hn on
    have hcmd : (s.fenceWrite p on).bget (Reg.MAC_CMD p) 0 = on :=
      (bget_of_rd (h.rd _ (macCmd_kept p).1 (macCmd_kept p).2) 0).trans (bget_bset_same s.toDev _ 0 on (by decide))
    refine runs_regThenPort rfl hs (bset_regFrame_self s.toDev (Reg.MAC_CMD p) 0 on) h ⟨nofun, fun _ => ⟨hcmd, ?_, ?_⟩⟩
    · rintro rfl
      exact portFenced_fenceWrite_on hn
    · rintro rfl
      exact portFenced_fenceWrite_off hn

theorem runs_fecWindowEnd {s : State} (hs : Safe s) (p : Fin 1024) (cws : List Nat) : Runs (.fecWindowEnd p cws) s (fun t =>
    OnlyRegs (fun a => a = Reg.MAC_EVENT p) s { t with ports := s.ports, cnts := s.cnts } ∧
    SameCounters (fun a => a = Reg.C_MAC_FEC_CORR_CW p ∨ a = Reg.C_MAC_FEC_CORR_SYM p ∨ a = Reg.C_MAC_FEC_UNCORR_CW p) s t ∧
    (t.port p).fecCount = 0 ∧ (t.port p).fecFired = false ∧ (∀ k, k ≠ (p : Nat) → t.port k = s.port k) ∧
    (s.named p = false ∨ s.linkUp p = false → t = { s with ports := t.ports }) ∧
    (s.named p = true → s.linkUp p = true →
      t.cnt (Reg.C_MAC_FEC_UNCORR_CW p) = addSat (s.cnt (Reg.C_MAC_FEC_UNCORR_CW p)) (cws.filter (fun e => decide (15 < e))).length ∧
      (0 < (cws.filter (fun e => decide (15 < e))).length → (s.port p).fecFired = false →
        atLeast1 (s.fget (Reg.MAC_FEC_THRESH p) 15 0) ≤ (s.port p).fecCount + (cws.filter (fun e => decide (15 < e))).length →
        t.bget (Reg.MAC_EVENT p) 2 = true))) := by
  by_cases h : s.named p = false ∨ s.linkUp p = false
  · obtain ⟨hcount, hfired, hports⟩ := port_windowClosed s.toDev p
    refine runs_quiet (congrArg (finish s) (fecWindow_off cws h)) hs rfl rfl rfl rfl
      ⟨⟨fun _ _ _ => rfl, rfl⟩, fun _ _ => rfl, hcount, hfired, hports, fun _ => rfl, fun hn hu => ?_⟩
    exact absurd h (by simp [hn, hu])
  · obtain ⟨hn, hu⟩ : s.named p = true ∧ s.linkUp p = true := by simpa using h
    obtain ⟨hrd, hbeside, hcnt, hkept⟩ := fecCount_post s.toDev p cws
    have hev := fecCount_event s.toDev p cws
    obtain ⟨huncorr, -, -⟩ := cnt_fecCounters s.toDev p cws
    have he : exec (.fecWindowEnd p cws) s = finish s ((s.fecCount p cws).windowClosed p) := congrArg (finish s) (fecWindow_on cws hn hu)
    generalize s.fecCount p cws = e at he hrd hbeside hcnt hkept hev
    obtain ⟨hcount, hfired, hports⟩ := port_windowClosed e p
    refine runs_quiet he hs (congrArg Dev.fault hbeside :) (congrArg Dev.fmem hbeside :) (congrArg Dev.stores hbeside :)
      (congrArg Dev.fuses hbeside :) ⟨⟨hrd, ?_⟩, fun a ha => (hcnt a).trans (cnt_fecCounters_ne s.toDev p cws ha), hcount, hfired,
        fun k hk => (hports k hk).trans (hkept k hk), fun h' => absurd h' h, fun _ _ => ⟨(hcnt _).trans huncorr, hev⟩⟩
    exact congrArg (fun x : Dev => { x with ports := s.ports, cnts := s.cnts }) hbeside

/-- Settles O14: one lemma for each command. -/
theorem portFencesAndStamps : Obligations.PortFencesAndStamps := by
  unfold Obligations.PortFencesAndStamps
  exact ⟨fun s p hs => runs_ptpTsPop hs p, fun s p on cws hs => ⟨runs_portFence hs p on, runs_fecWindowEnd hs.1 p cws⟩⟩

end Sys2Proof

/-!
SUPPORT. Admission (R103, R155, R179, R208): what the offer of a parsed frame leaves alone, and its outcomes.
-/
namespace Sys2Proof

open Machine

namespace Machine.Dev

/-- The device without counters, spars and ports. -/
def outsideIn (d : Dev) : Dev := { d.beside with cnts := [], spars := [], ports := [] }

/-! Pauses that follow their signals (R109). -/

/-- `e` differs from `d` by pauses signalled: ports, counters and outputs. -/
structure Signals (d e : Dev) : Prop where
  regs : e.regs = d.regs
  spars : e.spars = d.spars
  outside : e.outsideIn = d.outsideIn

namespace Signals

theorem refl (d : Dev) : Signals d d := ⟨rfl, rfl, rfl⟩
theorem trans {d e f : Dev} (h : Signals d e) (g : Signals e f) : Signals d f :=
  ⟨g.regs.trans h.regs, g.spars.trans h.spars, g.outside.trans h.outside⟩
theorem foldl {α : Type} {f : Dev → α → Dev} (hf : ∀ d a, Signals d (f d a)) : ∀ (l : List α) (d : Dev), Signals d (l.foldl f d)
  | [], d => refl d
  | a :: l, d => (hf d a).trans (foldl hf l (f d a))
theorem ite {d x y : Dev} {c : Prop} [Decidable c] (hx : Signals d x) (hy : Signals d y) : Signals d (if c then x else y) := by
  split
  · exact hx
  · exact hy

end Signals

section
variable (d : Dev)

theorem updPort_signals (p : Nat) (f : Port → Port) : Signals d (d.updPort p f) := ⟨rfl, rfl, rfl⟩
theorem cntEmit_signals (a : Nat) (o : Output) : Signals d ((d.inc a).emit o) := ⟨rfl, rfl, rfl⟩
theorem pfcSend_signals (p c t : Nat) : Signals d (d.pfcSend p c t) := .ite (updPort_signals d p _) (cntEmit_signals d _ _)
theorem pauseSync_signals (p : Nat) : Signals d (d.pauseSync p) :=
  .ite (.refl d) (.ite (.refl d) ((updPort_signals d p _).trans
    (.foldl (fun x c => .ite (pfcSend_signals x p c _) (.ite (pfcSend_signals x p c 0) (.refl x))) _ _)))

end

/-! What the offer of a frame leaves alone. -/

/-- `e` differs from `d` by what a frame offered at spar `n` does: two event registers, the spar, counters and ports. -/
structure InFrame (n : Nat) (d e : Dev) : Prop where
  rd : ∀ a, ¬ (a = Reg.CORE_EVENT n ∨ a = Reg.EQ_EVENT n) → ¬ isPend a → e.rd a = d.rd a
  spar : ∀ k, k ≠ n → e.spar k = d.spar k
  outside : e.outsideIn = d.outsideIn

namespace InFrame
variable {n : Nat}

theorem refl (d : Dev) : InFrame n d d := ⟨fun _ _ _ => rfl, fun _ _ => rfl, rfl⟩
theorem trans {d e f : Dev} (h : InFrame n d e) (g : InFrame n e f) : InFrame n d f :=
  ⟨fun a h1 h2 => (g.rd a h1 h2).trans (h.rd a h1 h2), fun k hk => (g.spar k hk).trans (h.spar k hk), g.outside.trans h.outside⟩
theorem ite {d x y : Dev} {c : Prop} [Decidable c] (hx : InFrame n d x) (hy : InFrame n d y) : InFrame n d (if c then x else y) := by
  split
  · exact hx
  · exact hy
theorem of_signals {d e : Dev} (h : Signals d e) : InFrame n d e :=
  ⟨fun a _ _ => congrArg (SMap.get Reg.resetVal · a) h.regs, fun k _ => congrArg (SMap.get (fun _ => ({} : Spar)) · k) h.spars, h.outside⟩
theorem of_regFrame {d e : Dev} (h : RegFrame (fun a => a = Reg.CORE_EVENT n ∨ a = Reg.EQ_EVENT n) d e) : InFrame n d e :=
  ⟨h.rd, fun k _ => congrArg (SMap.get (fun _ => ({} : Spar)) · k) (congrArg Dev.spars h.beside :),
    congrArg (fun x : Dev => { x with cnts := [], spars := [], ports := [] }) h.beside⟩

end InFrame

section
variable (d : Dev) (n : Nat)

theorem updSpar_inFrame (f : Spar → Spar) : InFrame n d (d.updSpar n f) :=
  ⟨fun _ _ _ => rfl, fun k hk => (spar_updSpar d n k f).trans (if_neg hk), rfl⟩
theorem inc_inFrame (a : Nat) : InFrame n d (d.inc a) := ⟨fun _ _ _ => rfl, fun _ _ => rfl, rfl⟩
theorem coreEvent_inFrame (i : Nat) : InFrame n d (d.coreEvent n i) := .of_regFrame (event_regFrame d (.inl rfl) i _)
theorem eqEvent_inFrame (i : Nat) : InFrame n d (d.eqEvent n i) := .of_regFrame (event_regFrame d (.inr rfl) i _)
theorem spars_event (a i src : Nat) : (d.event a i src).spars = d.spars := (congrArg Dev.spars (event_regFrame_self d a i src).beside :)
theorem spar_coreEvent (i k : Nat) : (d.coreEvent n i).spar k = d.spar k :=
  congrArg (SMap.get (fun _ => ({} : Spar)) · k) (spars_event d _ i _)
theorem spar_inc (a k : Nat) : (d.inc a).spar k = d.spar k := rfl
theorem enterRest_inFrame (p : Nat) : InFrame n d (d.enterRest n p) := .ite (updSpar_inFrame d n _) (.refl d)
theorem inSync_inFrame : InFrame n d (d.inSync n) :=
  .ite (.refl d) ((updSpar_inFrame d n _).trans (.of_signals (.foldl (fun x i => pauseSync_signals x (8 * n + i)) _ _)))

theorem spars_pauseSyncs : ((upto 8).foldl (fun x i => x.pauseSync (8 * n + i)) d).spars = d.spars :=
  (Signals.foldl (fun x i => pauseSync_signals x (8 * n + i)) (upto 8) d).spars
/-- The pause signal of the ingress FIFO at its thresholds. -/
def pauseWanted : Bool :=
  decide (d.fget (Reg.CORE_IN_THR n) 25 16 ≤ (d.spar n).inFifo.length) ||
    ((d.spar n).inPause && decide (d.fget (Reg.CORE_IN_THR n) 9 0 ≤ (d.spar n).inFifo.length))
theorem inSync_eq : d.inSync n = if d.pauseWanted n = (d.spar n).inPause then d
    else (upto 8).foldl (fun x i => x.pauseSync (8 * n + i)) (d.updSpar n (fun y => { y with inPause := d.pauseWanted n })) := rfl
/-- The pause signal writes one field of the spar. -/
theorem spar_inSync : ∃ b, (d.inSync n).spar n = { d.spar n with inPause := b } := by
  rw [inSync_eq]
  split
  · exact ⟨_, rfl⟩
  · exact ⟨d.pauseWanted n, (congrArg (SMap.get (fun _ => ({} : Spar)) · n) (spars_pauseSyncs _ n)).trans
      ((spar_updSpar d n n _).trans (if_pos rfl))⟩

end

/-! Refusals (R155, R208). -/

section
variable (d : Dev) (n : Nat) (r : Result)

/-- Every refusal counts, and one by a drop profile sets its event. -/
theorem refusal_counts {g : Dev → Dev} (h : d.refusal n r = some g) (e : Dev) : InFrame n e (g e) ∧ (g e).spars = e.spars := by
  unfold refusal at h
  by_cases h8 : r.cls = 8
  · rw [if_pos h8] at h
    cases h
  rw [if_neg h8] at h
  split at h
  · cases h
    exact ⟨inc_inFrame e n _, rfl⟩
  split at h
  · cases h
    exact ⟨inc_inFrame e n _, rfl⟩
  split at h
  · cases h
    exact ⟨(inc_inFrame e n _).trans (eqEvent_inFrame _ n 0), spars_event (e.inc _) _ 0 _⟩
  · cases h

theorem refusal_mgmt (h : r.cls = 8) : d.refusal n r = none := if_pos h
theorem refusal_owner (h : r.cls ≠ 8) (ho : d.tf 0x0601 0 r.owner 0 20 0 ≤ d.ownerCount r.owner) :
    d.refusal n r = some (fun x => x.inc (Reg.C_BUF_OWNER_DROP n)) := (if_neg h).trans (if_pos ho)

/-- The limits do not ask what is in the ingress FIFO (R155, R208). -/
theorem depthOf_updSpar (k : Nat) {f : Spar → Spar} (hr : (f (d.spar k)).reorder = (d.spar k).reorder)
    (hs : (f (d.spar k)).staging = (d.spar k).staging) (q : Nat) : (d.updSpar k f).depthOf q = d.depthOf q := by
  obtain ⟨hreorder, hstaging⟩ : ((d.updSpar k f).spar (outSpar q)).reorder = (d.spar (outSpar q)).reorder ∧
      ((d.updSpar k f).spar (outSpar q)).staging = (d.spar (outSpar q)).staging := by
    rw [spar_updSpar]
    split
    · next h => rw [h, hr, hs]; exact ⟨rfl, rfl⟩
    · exact ⟨rfl, rfl⟩
  unfold depthOf
  dsimp only
  rw [hreorder, hstaging]
  rfl
theorem refusal_updSpar (k : Nat) {f : Spar → Spar} (hr : (f (d.spar k)).reorder = (d.spar k).reorder)
    (hs : (f (d.spar k)).staging = (d.spar k).staging) : (d.updSpar k f).refusal n r = d.refusal n r := by
  have hp (q colour : Nat) : (d.updSpar k f).profileRefuses q colour = d.profileRefuses q colour := by
    unfold profileRefuses
    rw [depthOf_updSpar d k hr hs]
    rfl
  unfold refusal
  rw [hp]
  rfl

end

/-! The rest of the port's earlier frame enters (R179). -/

section
variable (d : Dev) (n p : Nat)

/-- The spar after the rest of the frame from port `p` entered. -/
def restEntered (y : Spar) (p : Nat) : Spar :=
  { y with inFifo := y.inFifo ++ (y.entering.filter (fun e => e.port == p)).flatMap (·.rest), entering := y.entering.filter (fun e => e.port != p) }

theorem enterRest_spar : (d.enterRest n p).spar n = restEntered (d.spar n) p := by
  unfold enterRest
  split
  · exact (spar_updSpar d n n _).trans (if_pos rfl)
  · next h =>
    have hne : ∀ e ∈ (d.spar n).entering, e.port ≠ p := by simpa using h
    have hnone : (d.spar n).entering.filter (fun e => e.port == p) = [] := List.filter_eq_nil_iff.2 (by simpa using hne)
    have hall : (d.spar n).entering.filter (fun e => e.port != p) = (d.spar n).entering := List.filter_eq_self.2 (by simpa using hne)
    rw [restEntered, hnone, hall, List.flatMap_nil, List.append_nil]
theorem refusal_enterRest (m : Nat) (r : Result) : (d.enterRest n p).refusal m r = d.refusal m r := by
  unfold enterRest
  split
  · exact refusal_updSpar d m r n rfl rfl
  · rfl
theorem cnt_enterRest (a : Nat) : (d.enterRest n p).cnt a = d.cnt a := by
  unfold enterRest
  split
  · exact cnt_updSpar d n _ a
  · rfl

end

/-! The outcomes of an offer (R103). -/

/-- The parsed frame taken. -/
def parsedTaken (d : Dev) (n : Nat) (rest : List Frame) : Dev := d.updSpar n (fun y => { y with parsed := rest })
/-- The frame taken, with the rest of its port's earlier frame in the FIFO. -/
def offered (d : Dev) (n : Nat) (f : Frame) (rest : List Frame) : Dev := (d.parsedTaken n rest).enterRest n f.port
/-- The cells reserved for a frame. -/
def cellsNeeded (d : Dev) (f : Frame) : Nat := ceilDiv (if f.port < 1024 then d.maxFrame f.port else f.bytes.length) 256
/-- Is a frame dropped under Black? -/
def dropsBlack (d : Dev) (f : Frame) : Bool := decide (f.port < 1024) && d.inBlack && f.res.cls != 8
/-- Has the ingress FIFO room for `need` cells beside what is reserved in it? -/
def hasRoom (d : Dev) (n need : Nat) : Bool :=
  decide ((d.spar n).inFifo.length + ((d.spar n).entering.map (fun e => e.need - e.inn)).sum + need ≤ 512)

section
variable (d : Dev) (n : Nat) (f : Frame) (rest : List Frame)

theorem spar_parsedTaken : (d.parsedTaken n rest).spar n = { d.spar n with parsed := rest } := (spar_updSpar d n n _).trans (if_pos rfl)
theorem spar_offered : (d.offered n f rest).spar n = restEntered { d.spar n with parsed := rest } f.port :=
  (enterRest_spar _ n f.port).trans (congrArg (restEntered · f.port) (spar_parsedTaken d n rest))
theorem offered_inFrame : InFrame n d (d.offered n f rest) := (updSpar_inFrame d n _).trans (enterRest_inFrame _ n f.port)
theorem cnt_offered (a : Nat) : (d.offered n f rest).cnt a = d.cnt a := (cnt_enterRest _ n f.port a).trans (cnt_updSpar d n _ a)
theorem refusal_offered (r : Result) : (d.offered n f rest).refusal n r = d.refusal n r :=
  (refusal_enterRest _ n f.port n r).trans (refusal_updSpar d n r n rfl rfl)
theorem refusal_parsedTaken (r : Result) : (d.parsedTaken n rest).refusal n r = d.refusal n r := refusal_updSpar d n r n rfl rfl

variable {d n f rest}

theorem offer_none (h : (d.spar n).parsed = []) : d.offer n = d := by
  unfold offer
  rw [h]

variable (h : (d.spar n).parsed = f :: rest)
include h

theorem offer_black (hb : d.dropsBlack f = true) : d.offer n = (d.parsedTaken n rest).inc (Reg.C_MAC_RX_FENCE_DROP f.port) := by
  unfold offer
  rw [h]
  exact if_pos hb

variable (hb : d.dropsBlack f = false)
include hb

theorem offer_full (hr : (d.offered n f rest).hasRoom n (d.cellsNeeded f) = false) :
    d.offer n = ((d.offered n f rest).inc (Reg.C_CORE_IN_DROP n)).coreEvent n 3 := by
  unfold offer
  rw [h]
  exact (if_neg (Bool.eq_false_iff.mp hb)).trans (if_pos (Nat.not_le.mp (of_decide_eq_false hr)))

variable (hr : (d.offered n f rest).hasRoom n (d.cellsNeeded f) = true)
include hr

theorem offer_refused {g : Dev → Dev} (hg : d.refusal n f.res = some g) : d.offer n = g (d.offered n f rest) := by
  unfold offer
  rw [h]
  refine ((if_neg (Bool.eq_false_iff.mp hb)).trans (if_neg (Nat.not_lt.mpr (of_decide_eq_true hr)))).trans ?_
  have hg' := (refusal_offered d n f rest f.res).trans hg
  unfold offered parsedTaken at *
  rw [hg']
theorem offer_admitted (hg : d.refusal n f.res = none) :
    d.offer n = ((d.offered n f rest).enterFrame n f.port (d.cellsNeeded f) (cellsOf n f.res f.bytes f.bad)).inSync n := by
  unfold offer
  rw [h]
  refine ((if_neg (Bool.eq_false_iff.mp hb)).trans (if_neg (Nat.not_lt.mpr (of_decide_eq_true hr)))).trans ?_
  have hg' := (refusal_offered d n f rest f.res).trans hg
  unfold offered parsedTaken cellsNeeded at *
  rw [hg']

end

/-! What is left of the spar, and of everything else. -/

section
variable (d : Dev) (n : Nat) (f : Frame) (rest : List Frame)

/-- The spar after an admitted frame began to enter. -/
def frameEntered (y : Spar) (p need : Nat) (cs : List Cell) : Spar :=
  if p < 1024 ∧ 1 < cs.length then
    { y with inFifo := y.inFifo ++ cs.take 1, entering := y.entering ++ [{ port := p, need := need, inn := 1, rest := cs.drop 1 }] }
  else { y with inFifo := y.inFifo ++ cs }

theorem parsed_frameEntered (y : Spar) (p need : Nat) (cs : List Cell) : (frameEntered y p need cs).parsed = y.parsed := by
  unfold frameEntered
  split <;> rfl
theorem spar_enterFrame (p need : Nat) (cs : List Cell) : (d.enterFrame n p need cs).spar n = frameEntered (d.spar n) p need cs :=
  (spar_updSpar d n n _).trans (if_pos rfl)
theorem enterFrame_inFrame (p need : Nat) (cs : List Cell) : InFrame n d (d.enterFrame n p need cs) := updSpar_inFrame d n _

variable {d n f rest} (h : (d.spar n).parsed = f :: rest)
include h

theorem spar_offer_black (hb : d.dropsBlack f = true) : (d.offer n).spar n = { d.spar n with parsed := rest } := by
  rw [offer_black h hb]
  exact spar_parsedTaken d n rest

variable (hb : d.dropsBlack f = false)
include hb

theorem spar_offer_full (hr : (d.offered n f rest).hasRoom n (d.cellsNeeded f) = false) :
    (d.offer n).spar n = restEntered { d.spar n with parsed := rest } f.port := by
  rw [offer_full h hb hr, spar_coreEvent, spar_inc, spar_offered]

variable (hr : (d.offered n f rest).hasRoom n (d.cellsNeeded f) = true)
include hr

theorem spar_offer_refused {g : Dev → Dev} (hg : d.refusal n f.res = some g) :
    (d.offer n).spar n = restEntered { d.spar n with parsed := rest } f.port := by
  rw [offer_refused h hb hr hg]
  exact (congrArg (SMap.get (fun _ => ({} : Spar)) · n) (refusal_counts d n f.res hg _).2).trans (spar_offered d n f rest)
theorem spar_offer_admitted (hg : d.refusal n f.res = none) : ∃ b, (d.offer n).spar n =
    { frameEntered (restEntered { d.spar n with parsed := rest } f.port) f.port (d.cellsNeeded f) (cellsOf n f.res f.bytes f.bad) with
      inPause := b } := by
  obtain ⟨b, hs⟩ := spar_inSync ((d.offered n f rest).enterFrame n f.port (d.cellsNeeded f) (cellsOf n f.res f.bytes f.bad)) n
  exact ⟨b, by rw [offer_admitted h hb hr hg, hs, spar_enterFrame, spar_offered]⟩

omit hb hr

/-- A frame offered is taken from the parsed frames, whatever becomes of it. -/
theorem offer_taken : InFrame n d (d.offer n) ∧ ((d.offer n).spar n).parsed = rest := by
  cases hb : d.dropsBlack f with
  | true =>
    rw [spar_offer_black h hb, offer_black h hb]
    exact ⟨(updSpar_inFrame d n _).trans (inc_inFrame _ n _), rfl⟩
  | false =>
    have hin := offered_inFrame d n f rest
    cases hr : (d.offered n f rest).hasRoom n (d.cellsNeeded f) with
    | false =>
      rw [spar_offer_full h hb hr, offer_full h hb hr]
      exact ⟨hin.trans ((inc_inFrame _ n _).trans (coreEvent_inFrame _ n 3)), rfl⟩
    | true =>
      cases hg : d.refusal n f.res with
      | some g =>
        rw [spar_offer_refused h hb hr hg, offer_refused h hb hr hg]
        exact ⟨hin.trans (refusal_counts d n f.res hg _).1, rfl⟩
      | none =>
        obtain ⟨b, hs⟩ := spar_offer_admitted h hb hr hg
        rw [hs, offer_admitted h hb hr hg]
        exact ⟨hin.trans ((enterFrame_inFrame _ n _ _ _).trans (inSync_inFrame _ n)), parsed_frameEntered _ _ _ _⟩

end

theorem offer_inFrame (d : Dev) (n : Nat) : InFrame n d (d.offer n) := by
  cases h : (d.spar n).parsed with
  | nil =>
    rw [offer_none h]
    exact .refl d
  | cons f rest => exact (offer_taken h).1

/-! The counts and the event of a drop. -/

section
variable {d : Dev} {n : Nat} {f : Frame} {rest : List Frame} (h : (d.spar n).parsed = f :: rest)
include h

theorem cnt_offer_black (hb : d.dropsBlack f = true) :
    (d.offer n).cnt (Reg.C_MAC_RX_FENCE_DROP f.port) = addSat (d.cnt (Reg.C_MAC_RX_FENCE_DROP f.port)) 1 := by
  rw [offer_black h hb, cnt_inc_same]
  exact congrArg (addSat · 1) (cnt_updSpar d n _ _)

variable (hb : d.dropsBlack f = false)
include hb

theorem offer_full_post (hr : (d.offered n f rest).hasRoom n (d.cellsNeeded f) = false) : (d.offer n).bget (Reg.CORE_EVENT n) 3 = true ∧
    (d.offer n).cnt (Reg.C_CORE_IN_DROP n) = addSat (d.cnt (Reg.C_CORE_IN_DROP n)) 1 := by
  rw [offer_full h hb hr]
  constructor
  · refine (bget_event _ (Reg.CORE_EVENT n) 3 3 _ (by decide) (not_isPend (.inr ?_))).trans (if_pos rfl)
    simp only [Reg.CORE_EVENT, Reg.spar]
    omega
  · refine (cnt_of_beside (event_regFrame_self ((d.offered n f rest).inc _) (Reg.CORE_EVENT n) 3 _).beside _).trans ?_
    rw [cnt_inc_same, cnt_offered]
theorem cnt_offer_owner (hr : (d.offered n f rest).hasRoom n (d.cellsNeeded f) = true)
    (hg : d.refusal n f.res = some (fun x => x.inc (Reg.C_BUF_OWNER_DROP n))) :
    (d.offer n).cnt (Reg.C_BUF_OWNER_DROP n) = addSat (d.cnt (Reg.C_BUF_OWNER_DROP n)) 1 := by
  rw [offer_refused h hb hr hg, cnt_inc_same, cnt_offered]

end

/-- The room in the ingress FIFO after the rest of the port's earlier frame entered. -/
theorem hasRoom_offered (d : Dev) (n : Nat) (f : Frame) (rest : List Frame) (need : Nat) : (d.offered n f rest).hasRoom n need =
    decide ((restEntered (d.spar n) f.port).inFifo.length + ((restEntered (d.spar n) f.port).entering.map (fun e => e.need - e.inn)).sum + need
      ≤ 512) := by
  rw [hasRoom, spar_offered]
  rfl

end Machine.Dev

open Machine.Dev

theorem runs_firstCellOffer {s : State} (hs : Safe s) (n : Fin 128) {post : State → Prop}
    (hp : post { toDev := s.offer n, pending := s.pending }) : Runs (.firstCellOffer n) s post := by
  have h := (offer_inFrame s.toDev n).outside
  exact runs_quiet rfl hs (congrArg Dev.fault h :) (congrArg Dev.fmem h :) (congrArg Dev.stores h :) (congrArg Dev.fuses h :) hp

/-- Settles O31: the four outcomes of an offer, each by its effect on the spar and the counters. -/
theorem frameAdmission : Obligations.FrameAdmission := by
  unfold Obligations.FrameAdmission
  intro s n f rest hs
  have hin := offer_inFrame s.toDev n
  refine runs_firstCellOffer hs n ⟨fun h => ?_, hin.rd, hin.spar, hin.outside, fun h => ?_⟩
  · rw [offer_none h]
  have hroom := hasRoom_offered s.toDev n f rest (s.cellsNeeded f)
  refine ⟨(offer_taken h).2, fun hb => ?_, fun hb hr => ?_, fun hb hr h8 ho => ?_, fun hb hr hok => ?_⟩
  · have hspar := spar_offer_black h hb
    exact ⟨(congrArg Spar.inFifo hspar :), (congrArg Spar.entering hspar :), cnt_offer_black h hb⟩
  · have hspar := spar_offer_full h hb (hroom.trans hr)
    exact ⟨(congrArg Spar.inFifo hspar :), (congrArg Spar.entering hspar :), offer_full_post h hb (hroom.trans hr)⟩
  · have hg := refusal_owner s.toDev n f.res h8 ho
    have hspar := spar_offer_refused h hb (hroom.trans hr) hg
    exact ⟨(congrArg Spar.inFifo hspar :), (congrArg Spar.entering hspar :), cnt_offer_owner h hb (hroom.trans hr) hg⟩
  · have hg : s.refusal n f.res = none := by
      rcases hok with h8 | hnone
      · exact refusal_mgmt s.toDev n f.res h8
      · exact (refusal_parsedTaken s.toDev n rest f.res).symm.trans (Option.isNone_iff_eq_none.mp hnone)
    obtain ⟨b, hspar⟩ := spar_offer_admitted h hb (hroom.trans hr) hg
    constructor
    · intro hpart
      have hc : f.port < 1024 ∧ 1 < (cellsOf n f.res f.bytes f.bad).length := by simpa using hpart
      rw [frameEntered, if_pos hc] at hspar
      exact ⟨(congrArg Spar.inFifo hspar :), (congrArg Spar.entering hspar :)⟩
    · intro hpart
      have hc : ¬ (f.port < 1024 ∧ 1 < (cellsOf n f.res f.bytes f.bad).length) := by simpa using hpart
      rw [frameEntered, if_neg hc] at hspar
      exact ⟨(congrArg Spar.inFifo hspar :), (congrArg Spar.entering hspar :)⟩

end Sys2Proof

/-!
SUPPORT. A report that makes no reaction (R388, R390, R396, R397, R399): which registers the collector writes for it, and how a command
whose reports are all of this kind ends.
-/
namespace Sys2Proof

open Machine

namespace Machine.Dev

/-! What the collector writes. -/

/-- `e` differs from `d` in registers of `own`, in the collector's own state, and in what the interrupt controller does on events. -/
structure FaultFrame (own : Nat → Prop) (d e : Dev) : Prop where
  rd : ∀ a, ¬ own a → ¬ isPend a → e.rd a = d.rd a
  due : e.fault.due = d.fault.due
  outside : { e.beside with fault := {} } = { d.beside with fault := {} }

namespace FaultFrame

variable {own : Nat → Prop} {d e f : Dev}

theorem refl (d : Dev) : FaultFrame own d d := ⟨fun _ _ _ => rfl, rfl, rfl⟩
theorem trans (h : FaultFrame own d e) (g : FaultFrame own e f) : FaultFrame own d f :=
  ⟨fun a h1 h2 => (g.rd a h1 h2).trans (h.rd a h1 h2), g.due.trans h.due, g.outside.trans h.outside⟩
theorem mono {own' : Nat → Prop} (h : FaultFrame own d e) (hm : ∀ a, own a → own' a) : FaultFrame own' d e :=
  ⟨fun a h1 h2 => h.rd a (h1 ∘ hm a) h2, h.due, h.outside⟩
theorem of_regFrame (h : RegFrame own d e) : FaultFrame own d e :=
  ⟨h.rd, (congrArg (fun x : Dev => x.fault.due) h.beside :), congrArg (fun x : Dev => { x with fault := {} }) h.beside⟩
theorem ite {x y : Dev} {c : Prop} [Decidable c] (hx : FaultFrame own d x) (hy : FaultFrame own d y) :
    FaultFrame own d (if c then x else y) := by
  split
  · exact hx
  · exact hy

theorem spar (h : FaultFrame own d e) (k : Nat) : e.spar k = d.spar k :=
  congrArg (SMap.get (fun _ => ({} : Spar)) · k) (congrArg Dev.spars h.outside :)
theorem cnt (h : FaultFrame own d e) (a : Nat) : e.cnt a = d.cnt a :=
  congrArg (SMap.get (fun _ => (0 : BitVec 64)) · a) (congrArg Dev.cnts h.outside :)
theorem bget (h : FaultFrame own d e) {a : Nat} (i : Nat) (h1 : ¬ own a) (h2 : ¬ isPend a) : e.bget a i = d.bget a i :=
  congrArg (wbit · i) (h.rd a h1 h2)

end FaultFrame

/-- The registers that keep what has been reported: the first-source latches and the log. -/
def noteReg (a : Nat) : Prop := (0x200100 ≤ a ∧ a < 0x200140) ∨ a = Reg.FLT_LOG_STATUS ∨ (0x200400 ≤ a ∧ a < 0x200800)
/-- What a report without a reaction writes beside its class's count: those, and the states of the classes. -/
def recordReg (a : Nat) : Prop := noteReg a ∨ (0x200040 ≤ a ∧ a < 0x200080)
/-- The registers that reports without a reaction write. -/
def reportReg (a : Nat) : Prop := recordReg a ∨ (0x200140 ≤ a ∧ a < 0x200180)

theorem faultReg_of_reportReg {a : Nat} (h : reportReg a) : faultReg a := by
  simp only [reportReg, recordReg, noteReg, Reg.FLT_LOG_STATUS] at h
  simp only [faultReg]
  omega
theorem not_reportReg_inj : ¬ reportReg Reg.FLT_INJ := by
  simp only [reportReg, recordReg, noteReg, Reg.FLT_LOG_STATUS, Reg.FLT_INJ]
  omega
theorem not_isPend_inj : ¬ isPend Reg.FLT_INJ := not_isPend (.inr (by decide))

section
variable {c : Nat} (hc : c < 16)
include hc

theorem noteReg_first : noteReg (Reg.FLT_FIRST c) := .inl (by simp only [Reg.FLT_FIRST]; omega)
theorem recordReg_state : recordReg (Reg.FLT_CLASS_STATE c) := .inr (by simp only [Reg.FLT_CLASS_STATE]; omega)
theorem reportReg_count : reportReg (Reg.FLT_COUNT c) := .inr (by simp only [Reg.FLT_COUNT]; omega)
theorem not_recordReg_count : ¬ recordReg (Reg.FLT_COUNT c) := by
  simp only [recordReg, noteReg, Reg.FLT_LOG_STATUS, Reg.FLT_COUNT]
  omega
theorem not_noteReg_state : ¬ noteReg (Reg.FLT_CLASS_STATE c) := by
  simp only [noteReg, Reg.FLT_LOG_STATUS, Reg.FLT_CLASS_STATE]
  omega
theorem not_isPend_state : ¬ isPend (Reg.FLT_CLASS_STATE c) := not_isPend (.inr (by simp only [Reg.FLT_CLASS_STATE]; omega))
theorem not_isPend_count : ¬ isPend (Reg.FLT_COUNT c) := not_isPend (.inr (by simp only [Reg.FLT_COUNT]; omega))
theorem state_ne_count (k : Nat) : Reg.FLT_CLASS_STATE c ≠ Reg.FLT_COUNT k := by simp only [Reg.FLT_CLASS_STATE, Reg.FLT_COUNT]; omega

end

section
variable {own : Nat → Prop} (d : Dev)

theorem wr_faultFrame {a : Nat} (h : own a) (v : Word) : FaultFrame own d (d.wr a v) := .of_regFrame (wr_regFrame d h v)
theorem updFault_faultFrame (f : Faults → Faults) (hf : (f d.fault).due = d.fault.due) : FaultFrame own d (d.updFault f) :=
  ⟨fun _ _ _ => rfl, hf, rfl⟩
theorem irqSync_faultFrame (s : Nat) : FaultFrame own d (d.irqSync s) := .of_regFrame (.of_irq (irqSync_frame d s))

/-- A run of operations that keep the frame for the members of a list. -/
theorem FaultFrame.foldl_mem {α : Type} {f : Dev → α → Dev} : ∀ (l : List α), (∀ a ∈ l, ∀ d, FaultFrame own d (f d a)) →
    ∀ d, FaultFrame own d (l.foldl f d)
  | [], _, d => .refl d
  | a :: l, hf, d => (hf a List.mem_cons_self d).trans (foldl_mem l (fun b hb => hf b (List.mem_cons_of_mem _ hb)) (f d a))

/-- The latch of the first source takes a report (R396). -/
theorem firstLatch_faultFrame {c : Nat} (hc : c < 16) (src eff : Nat) (esc : Bool) : FaultFrame noteReg d (d.firstLatch c src eff esc) :=
  .ite (wr_faultFrame d (noteReg_first hc) _) (wr_faultFrame d (noteReg_first hc) _)

/-- An entry written to the log, with no injection into its memory (R397, R398). -/
theorem logPut_faultFrame (ws : List Word) (h : d.armed 39 = false) : FaultFrame noteReg d (d.logPut ws) := by
  have hstatus (e : Dev) (hi lo v : Nat) : FaultFrame noteReg e (e.fset Reg.FLT_LOG_STATUS hi lo v) := wr_faultFrame e (.inr (.inl rfl)) _
  have hpos : d.fget Reg.FLT_LOG_STATUS 4 0 < 2 ^ 5 := Nat.mod_lt _ (by decide)
  have hlog : FaultFrame noteReg d
      ((upto 8).foldl (fun x i => x.wr (Reg.FLT_LOG (d.fget Reg.FLT_LOG_STATUS 4 0 * 8 + i)) (ws.getD i 0)) d) := by
    refine FaultFrame.foldl_mem _ (fun i hi x => wr_faultFrame x (.inr (.inr ?_)) _) d
    have hi : i < 8 := List.mem_range.mp hi
    simp only [Reg.FLT_LOG]
    omega
  unfold logPut
  dsimp only
  rw [h, if_neg Bool.false_ne_true]
  exact .ite (.refl d) (FaultFrame.ite ((hlog.trans (hstatus _ _ _ _)).trans (hstatus _ _ _ _)) (hlog.trans (hstatus _ _ _ _)))
theorem logEntry_faultFrame (ws : List Word) (h : d.armed 39 = false) : FaultFrame noteReg d (d.logEntry ws) :=
  .ite (updFault_faultFrame d _ rfl) (.ite (.refl d) ((updFault_faultFrame d _ rfl).trans (logPut_faultFrame _ _ h)))

/-- CAUSE and RESETTING follow in the states of the classes. -/
theorem classSync_faultFrame : FaultFrame recordReg d d.classSync :=
  FaultFrame.foldl_mem _ (fun _ hc x => (wr_faultFrame x (recordReg_state (List.mem_range.mp hc)) _).trans
    (wr_faultFrame _ (recordReg_state (List.mem_range.mp hc)) _)) d

end

/-! One report (R388, R390). -/

theorem armed_of_rd {d e : Dev} (h : e.rd Reg.FLT_INJ = d.rd Reg.FLT_INJ) (src : Nat) : e.armed src = d.armed src := by
  rw [armed, armed, bget, bget, fget, fget, h]

/-- The effective severity of a report handled now. -/
def effOf (d : Dev) (c : Nat) (r : Due) : Nat := effSev (d.classLevel c) (if r.grey then 0 else d.progSev r.src)

/-- A report latched and logged, its class counted. -/
def reportNoted (d : Dev) (c : Nat) (r : Due) : Dev :=
  let prog := if r.grey then 0 else d.progSev r.src
  let esc := decide (d.effOf c r ≠ prog)
  let d1 := (d.regInc (Reg.FLT_COUNT c)).firstLatch c r.src (d.effOf c r) esc
  if r.src = 39 then d1
  else d1.logEntry (logWords r.src c prog (d.effOf c r) esc r.inj false r.detail (d.rd Reg.GLB_PERIOD_COUNT).toNat d.nowU)

/-- A class raised by a source that reports into it. -/
def raised (d : Dev) (c src lv : Nat) : Dev :=
  (d.fset (Reg.FLT_CLASS_STATE c) 1 0 lv).updFault (fun x => { x with
    reported := SMap.upd (fun _ => []) x.reported c (fun l => if l.contains src then l else l ++ [src])
    lastSrc := SMap.put x.lastSrc c src })

section
variable {d : Dev} {c : Nat} {r : Due} (hc : fltClass? r.src = some c)
include hc

/-- A report as it is handled: noted, its class raised, its level input evaluated, and then the reactions. -/
theorem report_eq : d.report r =
    let eff := d.effOf c r
    let d3 := if eff = 0 then d.reportNoted c r
      else (d.reportNoted c r).raised c r.src (max (d.classLevel c) eff)
    let d4 := if eff = 0 then d3 else d3.irqSync c
    let d5 := if 2 ≤ eff then d4.react c r.src r.detail r.aux else d4
    if eff = 3 then d5.enterBlack else d5 := by
  unfold report
  rw [hc]
  rfl

/-- A Grey report is noted alone. -/
theorem report_grey (he : d.effOf c r = 0) : d.report r = d.reportNoted c r := by
  rw [report_eq hc, he]
  rfl
/-- An Amber report raises its class too. -/
theorem report_amber (he : d.effOf c r = 1) :
    d.report r = ((d.reportNoted c r).raised c r.src (max (d.classLevel c) 1)).irqSync c := by
  rw [report_eq hc, he]
  rfl

variable (h39 : d.armed 39 = false)
include h39

theorem reportNoted_faultFrame : FaultFrame noteReg (d.regInc (Reg.FLT_COUNT c)) (d.reportNoted c r) := by
  have hcl := fltClass_lt hc
  have hfirst := firstLatch_faultFrame (d.regInc (Reg.FLT_COUNT c)) hcl r.src (d.effOf c r)
    (decide (d.effOf c r ≠ if r.grey then 0 else d.progSev r.src))
  have hcount : (d.regInc (Reg.FLT_COUNT c)).rd Reg.FLT_INJ = d.rd Reg.FLT_INJ :=
    rd_wr_ne d _ (fun e => not_reportReg_inj (e ▸ reportReg_count hcl))
  have hinj := (hfirst.rd _ (not_reportReg_inj ∘ .inl ∘ .inl) not_isPend_inj).trans hcount
  exact .ite hfirst (hfirst.trans (logEntry_faultFrame _ _ ((armed_of_rd hinj 39).trans h39)))

variable (he : d.effOf c r ≤ 1)
include he

/-- A report without a reaction writes its class's count once, and records. -/
theorem report_records : FaultFrame recordReg (d.regInc (Reg.FLT_COUNT c)) (d.report r) := by
  have hnoted := (reportNoted_faultFrame hc h39).mono (own' := recordReg) (fun _ => .inl)
  rcases Nat.le_one_iff_eq_zero_or_eq_one.mp he with h | h
  · rw [report_grey hc h]
    exact hnoted
  · rw [report_amber hc h]
    exact hnoted.trans (((wr_faultFrame _ (recordReg_state (fltClass_lt hc)) _).trans (updFault_faultFrame _ _ rfl)).trans
      (irqSync_faultFrame _ c))
theorem report_faultFrame : FaultFrame reportReg d (d.report r) :=
  (wr_faultFrame d (reportReg_count (fltClass_lt hc)) _).trans ((report_records hc h39 he).mono (fun _ => .inl))
theorem rd_count_report : (d.report r).rd (Reg.FLT_COUNT c) = wd (min (2 ^ 32 - 1) ((d.rd (Reg.FLT_COUNT c)).toNat + 1)) :=
  ((report_records hc h39 he).rd _ (not_recordReg_count (fltClass_lt hc)) (not_isPend_count (fltClass_lt hc))).trans (rd_wr_same d _ _)

end

/-! The reports of a command. -/

/-- Mildness asks for the levels of the classes, the programmed severities and the armed injection alone. -/
theorem Mild.of_same {d e : Dev} {src : Nat} (h : d.Mild src) (hstate : ∀ c < 16, e.rd (Reg.FLT_CLASS_STATE c) = d.rd (Reg.FLT_CLASS_STATE c))
    (htabs : e.tabs = d.tabs) (h39 : e.armed 39 = false) : e.Mild src := by
  obtain ⟨-, c, hc, he⟩ := h
  have hlevel : e.classLevel c = d.classLevel c := congrArg (fld · 1 0) (hstate c (fltClass_lt hc))
  have hprog : e.progSev src = d.progSev src := by rw [progSev, progSev, tf, tf, tab, tab, htabs]
  exact ⟨h39, c, hc, by rwa [hlevel, hprog]⟩
/-- A report of a mild source, or a Grey one of it, makes no reaction. -/
theorem Mild.effOf {d : Dev} {src c : Nat} {r : Due} (h : d.Mild src) (hr : r.src = src) (hc : fltClass? src = some c) : d.effOf c r ≤ 1 := by
  obtain ⟨-, k, hk, he⟩ := h
  cases Option.some.inj (hc.symm.trans hk)
  rw [Dev.effOf, hr]
  cases r.grey
  · exact he
  · exact Nat.zero_le 1

/-- Reports of one source, all but the last of them Grey. -/
def Gentle (src : Nat) : List Due → Prop
  | [] => True
  | r :: rs => r.src = src ∧ (r.grey = true ∨ rs = []) ∧ Gentle src rs

theorem Gentle.src {src : Nat} : ∀ {rs : List Due}, Gentle src rs → ∀ r ∈ rs, r.src = src
  | r :: rs, ⟨hr, _, hrs⟩, x, hx => by
    rcases List.mem_cons.mp hx with rfl | hx
    · exact hr
    · exact hrs.src x hx

/-- A Grey report leaves its source mild. -/
theorem Mild.report_grey {d : Dev} {src : Nat} {r : Due} (h : d.Mild src) (hr : r.src = src) (hg : r.grey = true) : (d.report r).Mild src := by
  obtain ⟨h39, c, hc, -⟩ := id h
  have hcl := fltClass_lt hc
  subst hr
  have heff : d.effOf c r = 0 := by
    rw [Dev.effOf, hg]
    rfl
  have hframe := report_faultFrame hc h39 (Nat.le_of_eq heff |>.trans (Nat.zero_le 1))
  refine h.of_same (fun k hk => ?_) (congrArg Dev.tabs hframe.outside :)
    ((armed_of_rd (hframe.rd _ not_reportReg_inj not_isPend_inj) 39).trans h39)
  rw [Dev.report_grey hc heff, (reportNoted_faultFrame hc h39).rd _ (not_noteReg_state hk) (not_isPend_state hk)]
  exact rd_wr_ne d _ (state_ne_count hk c)

/-- Reports of a mild source, handled in turn. -/
theorem reports_faultFrame {src : Nat} : ∀ (rs : List Due) (d : Dev), Gentle src rs → d.Mild src → FaultFrame reportReg d (rs.foldl report d)
  | [], d, _, _ => .refl d
  | r :: rs, d, ⟨hr, hlast, hrs⟩, hm => by
    obtain ⟨h39, c, hc, -⟩ := id hm
    have hhead : FaultFrame reportReg d (d.report r) := report_faultFrame (hr ▸ hc) h39 (hm.effOf hr hc)
    rcases hlast with hg | rfl
    · exact hhead.trans (reports_faultFrame rs _ hrs (hm.report_grey hr hg))
    · exact hhead

/-- The device with no report waiting. -/
def dueCleared (d : Dev) : Dev := d.updFault (fun x => { x with due := [] })

end Machine.Dev

/-- A member that no other of the list comes before stays behind them. -/
theorem insertBy_last {α : Type} {le : α → α → Bool} {x : α} : ∀ {l : List α}, (∀ y ∈ l, le y x = true) → insertBy le x l = l ++ [x]
  | [], _ => rfl
  | y :: l, h => by
    rw [insertBy, if_pos (h y List.mem_cons_self), insertBy_last (fun z hz => h z (List.mem_cons_of_mem _ hz))]
    rfl

namespace Machine.Dev

/-- Reports of one source are handled in the order in which they were made. -/
theorem bySource_same {src : Nat} {rs : List Due} (h : ∀ r ∈ rs, r.src = src) : bySource rs = rs := by
  have hfold : ∀ (l acc : List Due), (∀ r ∈ l, r.src = src) → (∀ r ∈ acc, r.src = src) →
      l.foldl (fun acc x => insertBy (fun a b => decide (a.src ≤ b.src)) x acc) acc = acc ++ l := by
    intro l
    induction l with
    | nil => exact fun acc _ _ => (List.append_nil acc).symm
    | cons x l ih =>
      intro acc hl hacc
      have hx := hl x List.mem_cons_self
      have hle : ∀ y ∈ acc, decide (y.src ≤ x.src) = true := fun y hy => decide_eq_true (Nat.le_of_eq ((hacc y hy).trans hx.symm))
      rw [List.foldl_cons, insertBy_last hle, ih _ (fun r hr => hl r (List.mem_cons_of_mem _ hr)), List.append_assoc]
      · rfl
      · simpa [or_imp, forall_and] using ⟨hacc, hx⟩
  exact hfold rs [] h nofun

section
variable {d : Dev} {src : Nat} (hg : Gentle src d.fault.due) (hm : d.Mild src)
include hg hm

/-- The collector handles the reports of a mild source in one round. -/
theorem raiseDue_gentle (hne : d.fault.due ≠ []) : d.raiseDue = (d.fault.due.foldl report d.dueCleared).classSync := by
  have hdue : (d.fault.due.foldl report d.dueCleared).fault.due = [] := (reports_faultFrame _ d.dueCleared hg hm).due
  have hne' : d.fault.due.isEmpty = false := by simpa using hne
  rw [raiseDue, hne', if_neg Bool.false_ne_true]
  unfold raiseRounds
  rw [hne', if_neg Bool.false_ne_true, bySource_same hg.src]
  show (raiseRounds (d.fault.due.foldl report d.dueCleared) 2).classSync = _
  rw [raiseRounds, hdue]
  rfl
theorem raiseDue_faultFrame : FaultFrame reportReg d.dueCleared d.raiseDue := by
  by_cases h : d.fault.due = []
  · rw [raiseDue_none d h]
    exact ⟨fun _ _ _ => rfl, h, rfl⟩
  · rw [raiseDue_gentle hg hm h]
    exact (reports_faultFrame _ d.dueCleared hg hm).trans ((classSync_faultFrame _).mono (fun _ => .inl))
omit hg in
/-- A report alone counts once in its class. -/
theorem rd_count_raiseDue {r : Due} {c : Nat} (hr : r.src = src) (hdue : d.fault.due = [r]) (hc : fltClass? src = some c) :
    d.raiseDue.rd (Reg.FLT_COUNT c) = wd (min (2 ^ 32 - 1) ((d.rd (Reg.FLT_COUNT c)).toNat + 1)) := by
  have hcl := fltClass_lt hc
  have hg : Gentle src d.fault.due := by
    rw [hdue]
    exact ⟨hr, .inr rfl, trivial⟩
  rw [raiseDue_gentle hg hm (by simp [hdue]), hdue, (classSync_faultFrame _).rd _ (not_recordReg_count hcl) (not_isPend_count hcl)]
  exact rd_count_report (d := d.dueCleared) (hr ▸ hc) hm.1 (hm.effOf hr hc)

end

end Machine.Dev

open Machine.Dev

/-- The device without counters, spars, slices and the collector's own state. -/
def besideReports (d : Dev) : Dev := { d.beside with cnts := [], spars := [], slices := [], fault := {} }

/-- A command whose reports, if it makes any, are those of a mild source. -/
theorem runs_gentle {c : Instr} {s : State} {d : Dev} {src : Nat} {post : State → Prop} (he : exec c s = finish s d) (hs : Safe s)
    (ho : besideReports d = besideReports s.toDev) (hg : Gentle src d.fault.due) (hm : d.Mild src)
    (hp : FaultFrame reportReg d.dueCleared d.raiseDue → post { toDev := d.raiseDue, pending := s.pending }) : Runs c s post := by
  have hframe := raiseDue_faultFrame hg hm
  have hout : besideReports d.raiseDue = besideReports s.toDev :=
    (congrArg (fun x : Dev => { x with cnts := [], spars := [], slices := [] }) hframe.outside).trans ho
  have hsettle : Dev.settle s.toDev d.raiseDue = d.raiseDue :=
    settle_quiet _ _ ((congrArg Dev.stores hout :).trans hs.2.1) (congrArg Dev.fmem hout :) (congrArg Dev.fuses hout :)
  exact ⟨{ toDev := d.raiseDue, pending := s.pending }, by rw [he, finish_next, hsettle], rfl, hp hframe⟩

end Sys2Proof

/-!
SUPPORT. The scrubbers of parse stores and slices (R138, R139, R172, R399): the error that a read finds, what it does to the unit, and
its report.
-/
namespace Sys2Proof

open Machine

/-- What is listed at a key is read there. -/
theorem Machine.SMap.get?_put_same {α : Type} (k : Nat) (v : α) : ∀ m : SMap α, SMap.get? (SMap.put m k v) k = some v
  | [] => by simp [SMap.put, SMap.get?]
  | (j, u) :: m => by
    rw [SMap.put]
    split
    · simp [SMap.get?]
    · next hj =>
      split
      · simp [SMap.get?]
      · simp [SMap.get?, hj, get?_put_same k v m]

namespace Machine.Dev

/-! The injection that an access takes (R399). -/

/-- The device once an access of source `src` has taken an injection armed for it. -/
def injTaken (d : Dev) (src : Nat) : Dev := if d.armed src then d.disarm else d

section
variable (d : Dev) (src : Nat)

theorem injTaken_armed (h : d.armed src = true) : d.injTaken src = d.disarm := if_pos h
theorem injTaken_idle (h : d.armed src = false) : d.injTaken src = d := if_neg (Bool.eq_false_iff.mp h)
theorem injTaken_regFrame : RegFrame (fun a => a = Reg.FLT_INJ) d (d.injTaken src) := by
  unfold injTaken
  split
  · exact bset_regFrame_self d Reg.FLT_INJ 31 false
  · exact .refl d
theorem bget_disarm : d.disarm.bget Reg.FLT_INJ 31 = false := bget_bset_same d _ 31 false (by decide)
theorem armed_disarm : d.disarm.armed src = false := by rw [armed, bget_disarm, Bool.false_and]
theorem Mild.injTaken {d : Dev} {src : Nat} (h : d.Mild src) : (d.injTaken src).Mild src := by
  have hframe := injTaken_regFrame d src
  refine h.of_same (fun c hc => hframe.rd _ ?_ (not_isPend_state hc)) (congrArg Dev.tabs hframe.beside :) ?_
  · simp only [Reg.FLT_CLASS_STATE, Reg.FLT_INJ]
    omega
  · cases ha : d.armed src with
    | true => rw [injTaken_armed d src ha, armed_disarm]
    | false => rw [injTaken_idle d src ha, h.1]

theorem injected_idle (e : Ecc) (h : d.armed src = false) : d.injected src e = (e, false, d) := if_neg (Bool.eq_false_iff.mp h)
theorem injected_dev (e : Ecc) : (d.injected src e).2.2 = d.injTaken src := by
  unfold injected injTaken
  split <;> rfl
/-- Every injection is an error. -/
theorem injected_error {e : Ecc} (h : d.armed src = true ∨ e ≠ .good) : (d.injected src e).1 ≠ .good := by
  unfold injected
  split
  · split <;> nofun
  · next hn => exact h.resolve_left hn

end

end Machine.Dev

open Machine.Dev

/-! One report of a mild source (R388). -/

/-- `t` is `e` after its report of source `src`, which takes the injection that was armed for it in `s`. -/
structure ScrubReported (src : Nat) (s e t : Dev) : Prop where
  rd : ∀ a, ¬ faultReg a → ¬ isPend a → t.rd a = s.rd a
  outside : { t.beside with fault := {} } = { e.beside with fault := {} }
  inj : s.armed src = true → t.bget Reg.FLT_INJ 31 = false
  count : ∀ c, fltClass? src = some c → (t.rd (Reg.FLT_COUNT c)).toNat = min (2 ^ 32 - 1) ((s.rd (Reg.FLT_COUNT c)).toNat + 1)

/-- A command that takes an injection, changes a unit and makes one report. -/
theorem runs_scrub {c : Instr} {s : State} {e : Dev} {src det : Nat} {inj grey : Bool} {post : State → Prop}
    (he : exec c s = finish s (e.flag src det inj grey)) (hs : Safe s) (hm : s.Mild src) (hregs : e.regs = (s.injTaken src).regs)
    (hfault : e.fault = s.fault) (ho : besideReports e = besideReports s.toDev) (hp : ∀ t : State, ScrubReported src s.toDev e t.toDev → post t) :
    Runs c s post := by
  have htaken := injTaken_regFrame s.toDev src
  have hdue : (e.flag src det inj grey).fault.due = [{ src := src, detail := det, inj := inj, grey := grey, aux := 0 }] := by
    show e.fault.due ++ [_] = _
    rw [hfault, hs.2.2]
    rfl
  have hrd (a : Nat) : e.rd a = (s.injTaken src).rd a := congrArg (SMap.get Reg.resetVal · a) hregs
  have hmild : (e.flag src det inj grey).Mild src :=
    hm.injTaken.of_same (fun c _ => hrd _) ((congrArg Dev.tabs ho :).trans (congrArg Dev.tabs htaken.beside :).symm)
      ((armed_of_rd (hrd _) 39).trans hm.injTaken.1)
  have hgentle : Gentle src (e.flag src det inj grey).fault.due := by
    rw [hdue]
    exact ⟨rfl, .inr rfl, trivial⟩
  refine runs_gentle he hs ho hgentle hmild (fun hf => hp _ ⟨fun a h1 h2 => ?_, hf.outside, fun ha => ?_, ?_⟩)
  · refine (hf.rd a (h1 ∘ faultReg_of_reportReg) h2).trans ((hrd a).trans (htaken.rd a (fun h => h1 ?_) h2))
    subst h
    exact ⟨by decide, by decide⟩
  · refine (hf.bget 31 not_reportReg_inj not_isPend_inj).trans ((bget_of_rd (hrd _) 31).trans ?_)
    rw [injTaken_armed _ _ ha, bget_disarm]
  · intro k hk
    have hcount : (s.injTaken src).rd (Reg.FLT_COUNT k) = s.rd (Reg.FLT_COUNT k) :=
      htaken.rd _ (by have := fltClass_lt hk; simp only [Reg.FLT_COUNT, Reg.FLT_INJ]; omega) (not_isPend_count (fltClass_lt hk))
    rw [rd_count_raiseDue hmild (r := { src := src, detail := det, inj := inj, grey := grey, aux := 0 }) rfl hdue hk, rd_flag, hrd, hcount]
    simp [wd]

namespace Machine.Dev

/-! The parse scrubber (R138, R139). -/

section
variable (d : Dev) (n : Nat) (w : ParseWord) (e : Ecc)

/-- The error that a parse scrubber's read finds: a control store is checked by parity, where every injection is an error beyond it. -/
def parseFound : Ecc := if d.armed (64 + 3 * n) then (if d.injMode && w != .store then .single else .double) else e
/-- What a parse scrubber does with an error. -/
def entryScrubbed : Ecc → Dev
  | .double => d.entryBad n w
  | _ => d

variable {d n w e}

theorem parseScrub_good (ha : d.armed (64 + 3 * n) = false) : d.parseScrub n w .good = d := by
  unfold parseScrub
  simp [ha]
theorem parseFound_error (h : d.armed (64 + 3 * n) = true ∨ e ≠ .good) : d.parseFound n w e ≠ .good := by
  unfold parseFound
  split
  · split <;> nofun
  · next hn => exact h.resolve_left hn
theorem parseScrub_error (h : d.parseFound n w e ≠ .good) : d.parseScrub n w e =
    ((d.injTaken (64 + 3 * n)).entryScrubbed n w (d.parseFound n w e)).flag (64 + 3 * n) n (d.armed (64 + 3 * n))
      (decide (d.parseFound n w e = .single ∧ w ≠ .store)) := by
  unfold parseScrub
  dsimp only
  split
  next hf => exact absurd hf h
  next hf =>
    have hf : d.parseFound n w e = .single := hf
    rw [hf]
    by_cases hw : w = .store <;> simp [hw, entryScrubbed, injTaken]
  next hf =>
    have hf : d.parseFound n w e = .double := hf
    rw [hf]
    simp [entryScrubbed, injTaken]

variable (d n w e)

/-- Entries found in error are kept with the spar. -/
theorem entryBad_frame : (d.entryBad n w).regs = d.regs ∧ (∀ k, k ≠ n → (d.entryBad n w).spar k = d.spar k) ∧
    { (d.entryBad n w).beside with spars := [] } = { d.beside with spars := [] } := by
  unfold entryBad
  split
  · exact ⟨rfl, fun k hk => (spar_updSpar d n k _).trans (if_neg hk), rfl⟩
  · exact ⟨rfl, fun _ _ => rfl, rfl⟩
theorem entryScrubbed_frame : (d.entryScrubbed n w e).regs = d.regs ∧ (∀ k, k ≠ n → (d.entryScrubbed n w e).spar k = d.spar k) ∧
    { (d.entryScrubbed n w e).beside with spars := [] } = { d.beside with spars := [] } := by
  cases e with
  | double => exact entryBad_frame d n w
  | good => exact ⟨rfl, fun _ _ => rfl, rfl⟩
  | single => exact ⟨rfl, fun _ _ => rfl, rfl⟩
omit e in
theorem mem_entryBad {k : Nat} (h : entryKey? n w = some k) : (k, false) ∈ ((d.entryBad n w).spar n).badEntries := by
  unfold entryBad
  rw [h]
  dsimp only
  rw [spar_updSpar, if_pos rfl]
  exact List.mem_append_right _ List.mem_cons_self

end

/-! The slice scrubber (R172). -/

section
variable (d : Dev) (m : Nat) (w : ScrubWord) (e : Ecc)

/-- The source that a word of a slice reports as. -/
def sliceSrc : ScrubWord → Nat
  | .data _ => 26
  | _ => 65 + 3 * m
/-- Cell `i` of a slice marked DISCARD. -/
def cellDiscarded (i : Nat) (c : Cell) : Dev := d.updSlice m (fun y => { y with cells := SMap.put y.cells i { c with discard := true } })
/-- What a slice scrubber does with an error. -/
def cellScrubbed : Ecc → Dev
  | .good => d
  | .single => d.inc (Reg.C_BUF_ECC_CORR m)
  | .double => match w with
    | .data i => match SMap.get? (d.sliceOf m).cells i with
      | some c => (d.cellDiscarded m i c).inc (Reg.C_BUF_ECC_UNCORR_DROP m)
      | none => d
    | _ => d

variable {d m w e}

theorem sliceScrub_eq : d.sliceScrub m w e =
    let r := d.injected (sliceSrc m w) e
    if r.1 = .good then r.2.2 else (r.2.2.cellScrubbed m w r.1).flag (sliceSrc m w) m r.2.1 (decide (r.1 = .single)) := by
  unfold sliceScrub
  cases w with
  | data i =>
    dsimp only [sliceSrc]
    obtain ⟨err, inj, d1⟩ := d.injected 26 e
    cases err with
    | double =>
      cases hc : SMap.get? (d1.sliceOf m).cells i <;> simp [cellScrubbed, cellDiscarded, hc]
    | _ => rfl
  | _ =>
    dsimp only [sliceSrc]
    obtain ⟨err, inj, d1⟩ := d.injected (65 + 3 * m) e
    cases err <;> rfl
theorem sliceScrub_good (ha : d.armed (sliceSrc m w) = false) : d.sliceScrub m w .good = d := by
  rw [sliceScrub_eq, injected_idle d _ _ ha]
  rfl
theorem sliceScrub_error (h : d.armed (sliceSrc m w) = true ∨ e ≠ .good) : d.sliceScrub m w e =
    ((d.injTaken (sliceSrc m w)).cellScrubbed m w (d.injected (sliceSrc m w) e).1).flag (sliceSrc m w) m (d.injected (sliceSrc m w) e).2.1
      (decide ((d.injected (sliceSrc m w) e).1 = .single)) := by
  rw [sliceScrub_eq, ← injected_dev d _ e]
  exact if_neg (injected_error d _ h)

variable (d m w e)

/-- An error found changes its slice and counters alone. -/
theorem cellScrubbed_frame : (d.cellScrubbed m w e).regs = d.regs ∧ (∀ k, k ≠ m → (d.cellScrubbed m w e).sliceOf k = d.sliceOf k) ∧
    { (d.cellScrubbed m w e).beside with cnts := [], slices := [] } = { d.beside with cnts := [], slices := [] } := by
  have hcell (i : Nat) (c : Cell) (k : Nat) (hk : k ≠ m) : (d.cellDiscarded m i c).sliceOf k = d.sliceOf k :=
    (sliceOf_updSlice d m k _).trans (if_neg hk)
  unfold cellScrubbed
  cases e with
  | good => exact ⟨rfl, fun _ _ => rfl, rfl⟩
  | single => exact ⟨rfl, fun _ _ => rfl, rfl⟩
  | double =>
    dsimp only
    split
    · split
      · exact ⟨rfl, hcell _ _, rfl⟩
      · exact ⟨rfl, fun _ _ => rfl, rfl⟩
    · exact ⟨rfl, fun _ _ => rfl, rfl⟩
/-- A double-bit error in a cell in use marks it, and is counted. -/
theorem cellScrubbed_marks {i : Fin 8192} {c : Cell} (h : SMap.get? (d.sliceOf m).cells i = some c) :
    SMap.get? ((d.cellScrubbed m (.data i) .double).sliceOf m).cells i = some { c with discard := true } ∧
    (d.cellScrubbed m (.data i) .double).cnt (Reg.C_BUF_ECC_UNCORR_DROP m) = addSat (d.cnt (Reg.C_BUF_ECC_UNCORR_DROP m)) 1 := by
  have heq : d.cellScrubbed m (.data i) .double = (d.cellDiscarded m i c).inc (Reg.C_BUF_ECC_UNCORR_DROP m) := by simp [cellScrubbed, h]
  have hslice : (d.cellDiscarded m i c).sliceOf m =
      { d.sliceOf m with cells := SMap.put (d.sliceOf m).cells i { c with discard := true } } := (sliceOf_updSlice d m m _).trans (if_pos rfl)
  rw [heq]
  refine ⟨?_, cnt_inc_same _ _⟩
  show SMap.get? ((d.cellDiscarded m i c).sliceOf m).cells i = _
  rw [hslice, SMap.get?_put_same]

end

end Machine.Dev

open Machine.Dev

/-- What a parse scrubber's read leaves. -/
def ParseScrubbed (n : Fin 128) (w : ParseWord) (e : Ecc) (c : Nat) (s t : State) : Prop :=
  SameRegs faultReg s t ∧ (∀ k, k ≠ (n : Nat) → t.spar k = s.spar k) ∧
    { t.beside with spars := [], fault := {} } = { s.beside with spars := [], fault := {} } ∧
    (s.armed (64 + 3 * n) = false → e = .good → t = s) ∧ (s.armed (64 + 3 * n) = true → t.bget Reg.FLT_INJ 31 = false) ∧
    (s.armed (64 + 3 * n) = true ∨ e ≠ .good →
      (t.rd (Reg.FLT_COUNT c)).toNat = min (2 ^ 32 - 1) ((s.rd (Reg.FLT_COUNT c)).toNat + 1)) ∧
    (s.armed (64 + 3 * n) = false → e = .double → ∀ k, entryKey? n w = some k → (k, false) ∈ (t.spar n).badEntries)

theorem runs_parseScrubRead {s : State} (hs : Safe s) (n : Fin 128) (w : ParseWord) (e : Ecc) {c : Nat} (hm : s.Mild (64 + 3 * n))
    (hc : fltClass? (64 + 3 * n) = some c) : Runs (.parseScrubRead n w e) s (ParseScrubbed n w e c s) := by
  by_cases h : s.armed (64 + 3 * n) = true ∨ e ≠ .good
  · obtain ⟨hregs, hspar, hframe⟩ := entryScrubbed_frame (s.injTaken (64 + 3 * n)) n w (s.parseFound n w e)
    have hinj := (injTaken_regFrame s.toDev (64 + 3 * n)).beside
    have hout := hframe.trans (congrArg (fun x : Dev => { x with spars := [] }) hinj)
    refine runs_scrub (congrArg (finish s) (parseScrub_error (parseFound_error h))) hs hm hregs (congrArg Dev.fault hout :)
      (congrArg (fun x : Dev => { x with cnts := [], slices := [], fault := {} }) hout) (fun t ht => ?_)
    have hsame (k : Nat) := congrArg (SMap.get (fun _ => ({} : Spar)) · k) (congrArg Dev.spars ht.outside :)
    have hbefore (k : Nat) := congrArg (SMap.get (fun _ => ({} : Spar)) · k) (congrArg Dev.spars hinj :)
    refine ⟨ht.rd, fun k hk => (hsame k).trans ((hspar k hk).trans (hbefore k)),
      (congrArg (fun x : Dev => { x with spars := [] }) ht.outside).trans (congrArg (fun x : Dev => { x with fault := {} }) hout),
      fun ha he => absurd h (by simp [ha, he]), ht.inj, fun _ => ht.count c hc, fun ha he k hk => ?_⟩
    have hfound : s.parseFound n w e = .double := by rw [parseFound, ha, if_neg Bool.false_ne_true, he]
    have hmem := mem_entryBad (s.injTaken (64 + 3 * n)) n w hk
    rw [hfound] at hsame
    exact (congrArg Spar.badEntries (hsame n)) ▸ hmem
  · obtain ⟨ha, rfl⟩ : s.armed (64 + 3 * n) = false ∧ e = .good := by simpa using h
    exact runs_same (congrArg (finish s) (parseScrub_good ha)) hs
      ⟨fun _ _ _ => rfl, fun _ _ => rfl, rfl, fun _ _ => rfl, fun h' => absurd (ha.symm.trans h') (by decide), fun h' => absurd h' h, nofun⟩

/-- What a slice scrubber's read leaves. -/
def SliceScrubbed (m : Fin 128) (w : ScrubWord) (e : Ecc) (j : Fin 8192) (c : Cell) (s t : State) : Prop :=
  let src := sliceSrc m w
  SameRegs faultReg s t ∧ (∀ k, k ≠ (m : Nat) → t.sliceOf k = s.sliceOf k) ∧
    { t.beside with cnts := [], slices := [], fault := {} } = { s.beside with cnts := [], slices := [], fault := {} } ∧
    (s.armed src = false → e = .good → t = s) ∧ (s.armed src = true → t.bget Reg.FLT_INJ 31 = false) ∧
    (s.armed src = false → e = .single → t.slices = s.slices ∧
      t.cnt (Reg.C_BUF_ECC_CORR m) = addSat (s.cnt (Reg.C_BUF_ECC_CORR m)) 1) ∧
    (s.armed src = false → e = .double → w = .data j → SMap.get? (s.sliceOf m).cells j = some c →
      SMap.get? (t.sliceOf m).cells j = some { c with discard := true } ∧
      t.cnt (Reg.C_BUF_ECC_UNCORR_DROP m) = addSat (s.cnt (Reg.C_BUF_ECC_UNCORR_DROP m)) 1)

theorem runs_sliceScrubRead {s : State} (hs : Safe s) (m : Fin 128) (w : ScrubWord) (e : Ecc) (j : Fin 8192) (c : Cell)
    (hm : s.Mild (sliceSrc m w)) : Runs (.sliceScrubRead m w e) s (SliceScrubbed m w e j c s) := by
  by_cases h : s.armed (sliceSrc m w) = true ∨ e ≠ .good
  · obtain ⟨hregs, hslice, hframe⟩ := cellScrubbed_frame (s.injTaken (sliceSrc m w)) m w (s.injected (sliceSrc m w) e).1
    have hinj := (injTaken_regFrame s.toDev (sliceSrc m w)).beside
    have hout := hframe.trans (congrArg (fun x : Dev => { x with cnts := [], slices := [] }) hinj)
    refine runs_scrub (congrArg (finish s) (sliceScrub_error h)) hs hm hregs (congrArg Dev.fault hout :)
      (congrArg (fun x : Dev => { x with spars := [], fault := {} }) hout) (fun t ht => ?_)
    have hsame (k : Nat) := congrArg (SMap.get (fun _ => ({} : Slice)) · k) (congrArg Dev.slices ht.outside :)
    have hbefore (k : Nat) := congrArg (SMap.get (fun _ => ({} : Slice)) · k) (congrArg Dev.slices hinj :)
    have hcnt (a : Nat) := congrArg (SMap.get (fun _ => (0 : BitVec 64)) · a) (congrArg Dev.cnts ht.outside :)
    have hslices := (congrArg Dev.slices ht.outside :)
    refine ⟨ht.rd, fun k hk => (hsame k).trans ((hslice k hk).trans (hbefore k)),
      (congrArg (fun x : Dev => { x with cnts := [], slices := [] }) ht.outside).trans (congrArg (fun x : Dev => { x with fault := {} }) hout),
      fun ha he => absurd h (by simp [ha, he]), ht.inj, fun ha he => ?_, ?_⟩
    · rw [injected_idle _ _ _ ha, injTaken_idle _ _ ha, he] at hslices hcnt
      exact ⟨hslices, (hcnt _).trans (cnt_inc_same s.toDev _)⟩
    · rintro ha he rfl hcell
      rw [injected_idle _ _ _ ha, injTaken_idle _ _ ha, he] at hsame hcnt
      obtain ⟨hmark, hcount⟩ := cellScrubbed_marks s.toDev m hcell
      exact ⟨(congrArg (fun x : Slice => SMap.get? x.cells j) (hsame m)).trans hmark, (hcnt _).trans hcount⟩
  · obtain ⟨ha, rfl⟩ : s.armed (sliceSrc m w) = false ∧ e = .good := by simpa using h
    exact runs_same (congrArg (finish s) (sliceScrub_good ha)) hs
      ⟨fun _ _ _ => rfl, fun _ _ => rfl, rfl, fun _ _ => rfl, fun h' => absurd (ha.symm.trans h') (by decide), nofun, nofun⟩

/-- Settles O30: each scrubber by the error that its read finds. -/
theorem scrubbers : Obligations.Scrubbers := by
  unfold Obligations.Scrubbers
  refine ⟨fun s n w e c hs hm hc => runs_parseScrubRead hs n w e hm hc, fun s m w e j c hs => ?_⟩
  cases w with
  | data i => exact fun hm => runs_sliceScrubRead hs m (.data i) e j c hm
  | descriptor i => exact fun hm => runs_sliceScrubRead hs m (.descriptor i) e j c hm
  | freeStack => exact fun hm => runs_sliceScrubRead hs m .freeStack e j c hm

end Sys2Proof

/-!
SUPPORT. Parsing and classification (R116, R117, R125, R128, R132, R138, R139): what the parse of a frame leaves alone, and its outcomes.
-/
namespace Sys2Proof

open Machine

namespace Machine.Dev

/-! What the parse of a frame writes. -/

/-- `e` differs from `d` by what the parse engine of spar `n` does with a frame taken: its event register, the spar but its receive queue,
counters, and the reports `rs`. -/
structure ParseFrame (n : Nat) (rs : List Due) (d e : Dev) : Prop where
  rd : ∀ a, a ≠ Reg.PRS_EVENT n → ¬ isPend a → e.rd a = d.rd a
  spar : ∀ k, k ≠ n → e.spar k = d.spar k
  rx : (e.spar n).rx = (d.spar n).rx
  rxTurn : (e.spar n).rxTurn = (d.spar n).rxTurn
  due : e.fault.due = d.fault.due ++ rs
  outside : { e.beside with cnts := [], spars := [], fault := {} } = { d.beside with cnts := [], spars := [], fault := {} }

namespace ParseFrame
variable {n : Nat} {rs rs' : List Due} {d e f : Dev}

theorem refl (d : Dev) : ParseFrame n [] d d := ⟨fun _ _ _ => rfl, fun _ _ => rfl, rfl, rfl, (List.append_nil _).symm, rfl⟩
theorem trans (h : ParseFrame n rs d e) (g : ParseFrame n rs' e f) : ParseFrame n (rs ++ rs') d f :=
  ⟨fun a h1 h2 => (g.rd a h1 h2).trans (h.rd a h1 h2), fun k hk => (g.spar k hk).trans (h.spar k hk), g.rx.trans h.rx,
    g.rxTurn.trans h.rxTurn, by rw [g.due, h.due, List.append_assoc], g.outside.trans h.outside⟩
theorem ite {x y : Dev} {c : Prop} [Decidable c] (hx : ParseFrame n rs d x) (hy : ParseFrame n rs d y) :
    ParseFrame n rs d (if c then x else y) := by
  split
  · exact hx
  · exact hy

end ParseFrame

section
variable (d : Dev) (n : Nat)

theorem inc_parseFrame (a : Nat) : ParseFrame n [] d (d.inc a) :=
  ⟨fun _ _ _ => rfl, fun _ _ => rfl, rfl, rfl, (List.append_nil _).symm, rfl⟩
theorem spar_prsEvent (i k : Nat) : (d.prsEvent n i).spar k = d.spar k :=
  congrArg (SMap.get (fun _ => ({} : Spar)) · k) (congrArg Dev.spars (event_regFrame_self d (Reg.PRS_EVENT n) i (sparSrc n 2)).beside :)
theorem cnt_prsEvent (i a : Nat) : (d.prsEvent n i).cnt a = d.cnt a :=
  cnt_of_beside (event_regFrame_self d (Reg.PRS_EVENT n) i (sparSrc n 2)).beside a
theorem prsEvent_parseFrame (i : Nat) : ParseFrame n [] d (d.prsEvent n i) := by
  have h := event_regFrame_self d (Reg.PRS_EVENT n) i (sparSrc n 2)
  exact ⟨h.rd, fun k _ => spar_prsEvent d n i k, congrArg Spar.rx (spar_prsEvent d n i n), congrArg Spar.rxTurn (spar_prsEvent d n i n),
    (congrArg (fun x : Dev => x.fault.due) h.beside :).trans (List.append_nil _).symm,
    congrArg (fun x : Dev => { x with cnts := [], spars := [], fault := {} }) h.beside⟩
theorem flag_parseFrame (src detail : Nat) (inj grey : Bool) :
    ParseFrame n [{ src := src, detail := detail, inj := inj, grey := grey, aux := 0 }] d (d.flag src detail inj grey) :=
  ⟨fun _ _ _ => rfl, fun _ _ => rfl, rfl, rfl, rfl, rfl⟩
theorem updSpar_parseFrame {f : Spar → Spar} (hrx : (f (d.spar n)).rx = (d.spar n).rx) (hturn : (f (d.spar n)).rxTurn = (d.spar n).rxTurn) :
    ParseFrame n [] d (d.updSpar n f) := by
  have hn : (d.updSpar n f).spar n = f (d.spar n) := (spar_updSpar d n n f).trans (if_pos rfl)
  exact ⟨fun _ _ _ => rfl, fun k hk => (spar_updSpar d n k f).trans (if_neg hk), by rw [hn, hrx], by rw [hn, hturn],
    (List.append_nil _).symm, rfl⟩

theorem memErrDrop_parseFrame (p : Nat) : ParseFrame n [] d (d.memErrDrop n p) :=
  (inc_parseFrame d n _).trans (prsEvent_parseFrame _ n 4)
theorem entryBad_parseFrame (w : ParseWord) : ParseFrame n [] d (d.entryBad n w) := by
  unfold entryBad
  split
  · exact updSpar_parseFrame d n rfl rfl
  · exact .refl d
theorem pathLoss_parseFrame (row mask : Nat) : ParseFrame n [] d (d.pathLoss row mask) := by
  unfold pathLoss
  generalize (upto 8).filter (fun i => bit mask i && (d.remoteQ row i).isNone) = l
  induction l generalizing d with
  | nil => exact .refl d
  | cons a l ih => exact (inc_parseFrame d n _).trans (ih _)
theorem puntTake_parseFrame (p reason : Nat) : ParseFrame n [] d (d.puntTake n p reason).2 := by
  have hbucket (b : Bucket) :
      ParseFrame n [] d (d.updSpar n (fun y => { y with puntBuckets := SMap.set (fun _ => {}) y.puntBuckets reason b })) :=
    updSpar_parseFrame d n rfl rfl
  unfold puntTake
  dsimp only
  split
  · exact (hbucket _).trans (inc_parseFrame _ n _)
  · exact ((hbucket _).trans (inc_parseFrame _ n _)).trans (prsEvent_parseFrame _ n 0)
/-- A frame taken into the parsed frames. -/
theorem parsed_parseFrame (f : Frame) : ParseFrame n [] d (d.updSpar n (fun y => { y with parsed := y.parsed ++ [f] })) :=
  updSpar_parseFrame d n rfl rfl
theorem punt_parseFrame (f : Frame) (reason cls colour rule : Nat) (marks : List Nat) :
    ParseFrame n [] d (d.punt n f reason cls colour rule marks) := by
  have hcount : ParseFrame n [] d (if reason = 0 then (d.inc (Reg.C_PRS_NO_MATCH (f.port % 1024))).prsEvent n 2 else d) :=
    .ite ((inc_parseFrame d n _).trans (prsEvent_parseFrame _ n 2)) (.refl d)
  unfold punt
  dsimp only
  generalize (if reason = 0 then (d.inc (Reg.C_PRS_NO_MATCH (f.port % 1024))).prsEvent n 2 else d) = d1 at *
  have htake := hcount.trans (puntTake_parseFrame d1 n (f.port % 1024) reason)
  exact .ite (htake.trans (parsed_parseFrame _ n _)) htake
theorem puntPlain_parseFrame (f : Frame) (reason : Nat) (marks : List Nat) : ParseFrame n [] d (d.puntPlain n f reason marks) :=
  .ite (inc_parseFrame d n _) (punt_parseFrame d n f reason 0 0 0 marks)
theorem police_parseFrame (i len pre : Nat) : ParseFrame n [] d (d.police n i len pre).2 := by
  unfold police
  dsimp only
  split
  · exact updSpar_parseFrame d n rfl rfl
  split
  · exact updSpar_parseFrame d n rfl rfl
  · exact updSpar_parseFrame d n rfl rfl

end

/-! A classified frame goes on (R132, R134, R136, R393). -/

section
variable (d : Dev) (n : Nat) (f : Frame) (act cls rule : Nat) (v : Verdict) (marks : List Nat)

/-- The meter of management frames, which lets every other frame pass. -/
def mgmtTake : Bool × Dev :=
  if cls = 8 then
    let cfg := Reg.PRS_MGMT_RATE n
    let (ok, b) := d.bucketTake (d.spar n).mgmtBucket (d.fget cfg 23 0) (d.fget cfg 31 24)
    let e := d.updSpar n (fun y => { y with mgmtBucket := b })
    (ok, if ok then e else (e.inc (Reg.C_PRS_MGMT_DROP f.port)).prsEvent n 3)
  else (true, d)
/-- Does the action police the frame? -/
def policed : Bool := decide (cls ≠ 8 ∧ 1 ≤ bits act 34 23 ∧ bits act 34 23 < 2048)
/-- The colour of a frame: that of its policer, else that of its action. -/
def colourTake : Nat × Dev :=
  if cls = 8 then (0, d)
  else if policed act cls then d.police n (bits act 34 23) f.bytes.length (min 2 (bits act 36 35)) else (min 2 (bits act 36 35), d)
/-- A frame sent on by its verdict. -/
def delivered (colour : Nat) : Verdict → Dev
  | .drop c => d.inc c
  | .punt r => d.punt n f r cls colour rule marks
  | .go r => (d.pathLoss n r.stackMask).updSpar n (fun y => { y with parsed := y.parsed ++ [{ f with res := { r with colour := colour } }] })
  | .both r why =>
    ((d.pathLoss n r.stackMask).updSpar n (fun y => { y with
      parsed := y.parsed ++ [{ f with res := { r with colour := colour } }] })).punt n f why cls colour rule marks

theorem passOn_eq : d.passOn n f act cls rule v marks =
    let m := d.mgmtTake n f cls
    let k := m.2.colourTake n f act cls
    if d.inBlack && cls != 8 then d.blackDrop f.port
    else if !m.1 then m.2
    else if policed act cls && decide (k.1 = 2) && wbit ((d.tab 0x0512 n (bits act 34 23)).getD 4 0) 0 then k.2.inc (Reg.C_PRS_RED_DROP f.port)
    else (if bit act 9 && !d.inBlack then k.2.punt n f 4 cls k.1 rule marks else k.2).delivered n f cls rule marks k.1
      (if d.inBlack then .punt 5 else v) := by
  unfold passOn
  rfl

theorem mgmtTake_parseFrame : ParseFrame n [] d (d.mgmtTake n f cls).2 := by
  unfold mgmtTake
  split
  · have hbucket (b : Bucket) : ParseFrame n [] d (d.updSpar n (fun y => { y with mgmtBucket := b })) := updSpar_parseFrame d n rfl rfl
    exact .ite (hbucket _) (((hbucket _).trans (inc_parseFrame _ n _)).trans (prsEvent_parseFrame _ n 3))
  · exact .refl d
theorem colourTake_parseFrame : ParseFrame n [] d (d.colourTake n f act cls).2 := by
  unfold colourTake
  split
  · exact .refl d
  split
  · exact police_parseFrame d n _ _ _
  · exact .refl d
theorem delivered_parseFrame (colour : Nat) : ParseFrame n [] d (d.delivered n f cls rule marks colour v) := by
  cases v with
  | drop c => exact inc_parseFrame d n c
  | punt r => exact punt_parseFrame d n f r cls colour rule marks
  | go r => exact (pathLoss_parseFrame d n n _).trans (parsed_parseFrame _ n _)
  | both r why => exact ((pathLoss_parseFrame d n n _).trans (parsed_parseFrame _ n _)).trans (punt_parseFrame _ n f why cls colour rule marks)
theorem passOn_parseFrame : ParseFrame n [] d (d.passOn n f act cls rule v marks) := by
  have hm := mgmtTake_parseFrame d n f cls
  have hk := hm.trans (colourTake_parseFrame (d.mgmtTake n f cls).2 n f act cls)
  rw [passOn_eq]
  exact .ite (inc_parseFrame d n _) (.ite hm (.ite (hk.trans (inc_parseFrame _ n _))
    ((ParseFrame.ite (hk.trans (punt_parseFrame _ n f 4 cls _ rule marks)) hk).trans (delivered_parseFrame _ n f cls rule _ marks _))))

end

/-- A frame that is neither of management nor policed, and of which no copy is punted: dropped under Black, else on by its verdict. -/
theorem passOn_plain (d : Dev) (n : Nat) (f : Frame) {act cls : Nat} (rule : Nat) (v : Verdict) (marks : List Nat) (hcls : cls ≠ 8)
    (hpol : bits act 34 23 = 0) (hcopy : bit act 9 = false) : d.passOn n f act cls rule v marks =
      if d.inBlack then d.blackDrop f.port else d.delivered n f cls rule marks (min 2 (bits act 36 35)) v := by
  have hpoliced : policed act cls = false := by simp [policed, hpol]
  have hmgmt : d.mgmtTake n f cls = (true, d) := if_neg hcls
  have hcolour : d.colourTake n f act cls = (min 2 (bits act 36 35), d) := (if_neg hcls).trans (if_neg (Bool.eq_false_iff.mp hpoliced))
  rw [passOn_eq]
  simp only [hmgmt, hcolour, hpoliced, hcopy]
  cases d.inBlack <;> simp [hcls]

/-! Classification (R128, R129, R130, R139). -/

section
variable (d : Dev) (n : Nat) (f : Frame) (key : Nat) (marks : List Nat)

theorem classify_parseFrame : ParseFrame n [] d (d.classify n f key marks) := by
  unfold classify
  split
  · exact puntPlain_parseFrame d n f 0 marks
  · exact (ParseFrame.ite (inc_parseFrame d n _) (.refl d)).trans (passOn_parseFrame _ n f _ _ _ _ marks)

/-- The result that rule `i` gives a frame by its own action. -/
def directResult (i : Nat) : Result :=
  let act := wide (d.tab 0x0511 n i)
  { dest := bits act 63 44, cls := actionClass d n f.port f.bytes act, owner := f.port, marks := marks, edit := bits act 7 0, stamp := f.stamp,
    rule := i, prune := bit act 8, inPort := f.port }

variable {d n f key marks}

/-- A rule whose action names its destination directly, with the port for its owner. -/
theorem classify_direct {i : Nat} (hrule : d.ruleHit n key = some i)
    (hsel : bits (wide (d.tab 0x0511 n i)) 43 42 = 1 ∨ bits (wide (d.tab 0x0511 n i)) 43 42 = 3)
    (howner : bit (wide (d.tab 0x0511 n i)) 10 = false) (hport : f.port < 1217) : d.classify n f key marks =
      d.passOn n f (wide (d.tab 0x0511 n i)) (d.directResult n f marks i).cls i (d.resolve n f.port (d.directResult n f marks i)) marks := by
  have hport' : ¬ 1217 ≤ f.port := Nat.not_le.mpr hport
  unfold classify
  rw [hrule]
  rcases hsel with hsel | hsel <;> simp [hsel, howner, hport', directResult]

/-- Where no spar that is listed keeps an entry in error, none does. -/
theorem badEntries_clean (h : ∀ q ∈ d.spars, q.2.badEntries = []) (k : Nat) : (d.spar k).badEntries = [] := by
  by_cases hk : d.spar k = {}
  · rw [hk]
  · exact h _ (SMap.mem_of_get (fun _ => ({} : Spar)) k hk)
/-- No entry is in error where no spar keeps one. -/
theorem readsBad_clean (h : ∀ q ∈ d.spars, q.2.badEntries = []) (key : Nat) : d.readsBad n key = false := by
  have hshared : d.spars.flatMap (fun p => (p.2.badEntries.map (·.1)).filter (fun k => k / 2 ^ 28 == 0x0520)) = [] := by
    rw [List.flatMap_eq_nil_iff]
    intro p hp
    rw [h p hp]
    rfl
  unfold readsBad
  rw [badEntries_clean h n, hshared]
  rfl

end

/-! The frame taken and parsed (R116, R117, R138). -/

/-- The report of an entry in error that a parse finds. -/
def entryReport (n : Nat) (inj grey : Bool) : Due := { src := 64 + 3 * n, detail := n, inj := inj, grey := grey, aux := 0 }

section
variable (d : Dev) (n : Nat) (f : Frame) (rest : List Frame)

/-- The frame taken from the receive queue, and the turn passed on. -/
def frameTaken : Dev := d.updSpar n (fun y => { y with rx := rest, rxTurn := (f.port + 1) % 8 })
theorem spar_frameTaken : (d.frameTaken n f rest).spar n = { d.spar n with rx := rest, rxTurn := (f.port + 1) % 8 } :=
  (spar_updSpar d n n _).trans (if_pos rfl)
theorem parsed_frameTaken : ((d.frameTaken n f rest).spar n).parsed = (d.spar n).parsed := (congrArg Spar.parsed (spar_frameTaken d n f rest) :)
/-- The walk of a frame by its port's settings. -/
def walkOf : Machine.Walk × ParseEnd :=
  let cfg := Reg.PRS_PORT_CFG n (f.port % 8)
  d.parseFrom n (d.fget cfg 4 0) (d.fget cfg 14 6) f.bytes 16 0 (d.fget cfg 31 24) 0 {}
/-- A frame walked and classified. -/
def walked : Dev :=
  let w := (d.walkOf n f).1
  match (d.walkOf n f).2 with
  | .done => d.classifyChecked n f (parseKey f.port w false false) w.marks
  | .depth => (d.inc (Reg.C_PRS_DEPTH_HIT f.port)).classifyChecked n f (parseKey f.port w true false) w.marks
  | .fail _ =>
    let d1 := (d.inc (Reg.C_PRS_PARSE_FAIL f.port)).prsEvent n 1
    match d.fget (Reg.PRS_PORT_CFG n (f.port % 8)) 17 16 with
    | 0 => d1
    | 2 => d1.classifyChecked n f (parseKey f.port w false true) w.marks
    | _ => d1.puntPlain n f 2 w.marks

/-- The entry that a read found in error is kept so. -/
def foundBad : Option (ParseWord × Ecc) → Dev
  | some q => d.entryBad n q.1
  | none => d

/-- A frame taken is parsed, where no injection and no error in an entry drops it. -/
def parseTaken (found : Option (ParseWord × Ecc)) : Dev :=
  if d.armed (64 + 3 * n) then (d.disarm.memErrDrop n f.port).flag (64 + 3 * n) n true
  else if found.any (fun q => q.2 != .good && (q.1 == .store || q.2 == .double)) then
    ((d.foundBad n found).memErrDrop n f.port).flag (64 + 3 * n) n
  else (if found.any (fun q => q.2 == .single) then d.flag (64 + 3 * n) n false true else d).walked n f

theorem parseHead_none (found : Option (ParseWord × Ecc)) (h : rxNext (d.spar n) = none) : d.parseHead n found = d := by
  unfold parseHead
  rw [h]
theorem parseHead_some (found : Option (ParseWord × Ecc)) (h : rxNext (d.spar n) = some (f, rest)) : d.parseHead n found =
    if (d.spar n).reloading then (d.frameTaken n f rest).memErrDrop n f.port
    else (d.frameTaken n f rest).parseTaken n f found := by
  unfold parseHead
  rw [h]
  rfl

/-- Classification with checked entries makes at most one report. -/
theorem classifyChecked_parseFrame (key : Nat) (marks : List Nat) : ∃ rs, (rs = [] ∨ rs = [entryReport n false false]) ∧
    ParseFrame n rs d (d.classifyChecked n f key marks) := by
  unfold classifyChecked
  split
  · exact ⟨_, .inr rfl, (memErrDrop_parseFrame d n _).trans (flag_parseFrame _ n _ n false false)⟩
  · exact ⟨[], .inl rfl, classify_parseFrame d n f key marks⟩
theorem walked_parseFrame : ∃ rs, (rs = [] ∨ rs = [entryReport n false false]) ∧ ParseFrame n rs d (d.walked n f) := by
  have hclassify (e : Dev) (he : ParseFrame n [] d e) (key : Nat) (marks : List Nat) :
      ∃ rs, (rs = [] ∨ rs = [entryReport n false false]) ∧ ParseFrame n rs d (e.classifyChecked n f key marks) := by
    obtain ⟨rs, hrs, h⟩ := classifyChecked_parseFrame e n f key marks
    exact ⟨rs, hrs, he.trans h⟩
  have hfail := (inc_parseFrame d n (Reg.C_PRS_PARSE_FAIL f.port)).trans (prsEvent_parseFrame _ n 1)
  unfold walked
  dsimp only
  split
  · exact hclassify d (.refl d) _ _
  · exact hclassify _ (inc_parseFrame d n _) _ _
  split
  · exact ⟨[], .inl rfl, hfail⟩
  · exact hclassify _ hfail _ _
  · exact ⟨[], .inl rfl, hfail.trans (puntPlain_parseFrame _ n f 2 _)⟩

end

/-! The outcomes of a parse. -/

section
variable {d : Dev} {n : Nat} {f : Frame} {rest : List Frame} (found : Option (ParseWord × Ecc))

theorem gentle_one (inj grey : Bool) : Gentle (64 + 3 * n) [entryReport n inj grey] := ⟨rfl, .inr rfl, trivial⟩
theorem Mild.frameTaken (hm : d.Mild (64 + 3 * n)) : (d.frameTaken n f rest).Mild (64 + 3 * n) := hm.of_same (fun _ _ => rfl) rfl hm.1

theorem parseTaken_parseFrame (hm : d.Mild (64 + 3 * n)) : ∃ d1 rs, RegFrame (fun a => a = Reg.FLT_INJ) d d1 ∧
    d1.Mild (64 + 3 * n) ∧ Gentle (64 + 3 * n) rs ∧ ParseFrame n rs d1 (d.parseTaken n f found) := by
  unfold parseTaken
  split
  next ha =>
    have htaken := injTaken_armed d _ ha
    exact ⟨d.disarm, [entryReport n true false], htaken ▸ injTaken_regFrame d _, htaken ▸ hm.injTaken, gentle_one true false,
      (memErrDrop_parseFrame _ n _).trans (flag_parseFrame _ n _ n true false)⟩
  split
  · have hkept : ParseFrame n [] d (d.foundBad n found) := by
      cases found with
      | none => exact .refl d
      | some q => exact entryBad_parseFrame d n q.1
    exact ⟨d, [entryReport n false false], .refl d, hm, gentle_one false false,
      (hkept.trans (memErrDrop_parseFrame _ n _)).trans (flag_parseFrame _ n _ n false false)⟩
  split
  · obtain ⟨rs, hrs, hwalked⟩ := walked_parseFrame (d.flag (64 + 3 * n) n false true) n f
    refine ⟨d, entryReport n false true :: rs, .refl d, hm, ?_, (flag_parseFrame d n _ n false true).trans hwalked⟩
    rcases hrs with rfl | rfl
    · exact gentle_one false true
    · exact ⟨rfl, .inl rfl, gentle_one false false⟩
  · obtain ⟨rs, hrs, hwalked⟩ := walked_parseFrame d n f
    refine ⟨d, rs, .refl d, hm, ?_, hwalked⟩
    rcases hrs with rfl | rfl
    · trivial
    · exact gentle_one false false

variable (h : rxNext (d.spar n) = some (f, rest))
include h

/-- A frame taken is parsed by its engine alone, which an injection may reach first, and makes reports that are Grey but for the last. -/
theorem parseHead_parseFrame (hm : d.Mild (64 + 3 * n)) : ∃ d1 rs, RegFrame (fun a => a = Reg.FLT_INJ) (d.frameTaken n f rest) d1 ∧
    d1.Mild (64 + 3 * n) ∧ Gentle (64 + 3 * n) rs ∧ ParseFrame n rs d1 (d.parseHead n found) := by
  have hmt := hm.frameTaken (f := f) (rest := rest)
  rw [parseHead_some d n f rest found h]
  generalize d.frameTaken n f rest = d0 at *
  split
  · exact ⟨d0, [], .refl d0, hmt, trivial, memErrDrop_parseFrame d0 n _⟩
  · exact parseTaken_parseFrame found hmt

end

/-- A frame dropped for an error in memory, as it is told from `d`. -/
def MemErrDropped (n p : Nat) (d e : Dev) : Prop :=
  e.cnt (Reg.C_PRS_MEM_ERR_DROP p) = addSat (d.cnt (Reg.C_PRS_MEM_ERR_DROP p)) 1 ∧ e.bget (Reg.PRS_EVENT n) 4 = true ∧
    (e.spar n).parsed = (d.spar n).parsed

theorem not_isPend_prsEvent (n : Nat) : ¬ isPend (Reg.PRS_EVENT n) := not_isPend (.inr (by simp only [Reg.PRS_EVENT, Reg.spar]; omega))
theorem not_faultReg_prsEvent (n : Nat) : ¬ faultReg (Reg.PRS_EVENT n) := by
  simp only [faultReg, Reg.PRS_EVENT, Reg.spar]
  omega
theorem inj_ne_prsEvent (n : Nat) : Reg.FLT_INJ ≠ Reg.PRS_EVENT n := by
  simp only [Reg.FLT_INJ, Reg.PRS_EVENT, Reg.spar]
  omega
theorem ParseFrame.mild {n src : Nat} {rs : List Due} {d e : Dev} (hframe : ParseFrame n rs d e) (h : d.Mild src) : e.Mild src := by
  have hstate (c : Nat) (hc : c < 16) : Reg.FLT_CLASS_STATE c ≠ Reg.PRS_EVENT n := by
    simp only [Reg.FLT_CLASS_STATE, Reg.PRS_EVENT, Reg.spar]
    omega
  exact h.of_same (fun c hc => hframe.rd _ (hstate c hc) (not_isPend_state hc)) (congrArg Dev.tabs hframe.outside :)
    ((armed_of_rd (hframe.rd _ (inj_ne_prsEvent n) not_isPend_inj) 39).trans h.1)
theorem bget_prsEvent (d : Dev) (n : Nat) {i : Nat} (hi : i < 32) : (d.prsEvent n i).bget (Reg.PRS_EVENT n) i = true :=
  (bget_event d _ i i _ hi (not_isPend_prsEvent n)).trans (if_pos rfl)
theorem memErrDropped (d : Dev) (n p : Nat) : MemErrDropped n p d (d.memErrDrop n p) :=
  ⟨(cnt_memErrDrop d p n _).trans (cnt_inc_same d _), bget_prsEvent _ n (by decide), congrArg Spar.parsed (spar_prsEvent (d.inc _) n 4 n)⟩

/-! A drop is the same told from before what leaves counters, the event and the parsed frames alone. -/

namespace MemErrDropped
variable {n p : Nat} {d e : Dev}

theorem of_disarm (he : MemErrDropped n p d.disarm e) : MemErrDropped n p d e := by
  have hcnt : d.disarm.cnt (Reg.C_PRS_MEM_ERR_DROP p) = d.cnt (Reg.C_PRS_MEM_ERR_DROP p) := cnt_wr d _ _ _
  have hspar : d.disarm.spar n = d.spar n := spar_wr d _ _ n
  rwa [MemErrDropped, hcnt, hspar] at he
theorem of_updSpar {g : Spar → Spar} (hg : (g (d.spar n)).parsed = (d.spar n).parsed) (he : MemErrDropped n p (d.updSpar n g) e) :
    MemErrDropped n p d e := by
  have hspar : (d.updSpar n g).spar n = g (d.spar n) := (spar_updSpar d n n g).trans (if_pos rfl)
  obtain ⟨hcnt, hev, hparsed⟩ := he
  exact ⟨hcnt, hev, by rw [hparsed, hspar, hg]⟩
theorem of_entryBad {w : ParseWord} (he : MemErrDropped n p (d.entryBad n w) e) : MemErrDropped n p d e := by
  unfold entryBad at he
  split at he
  · exact he.of_updSpar rfl
  · exact he
theorem flag (he : MemErrDropped n p d e) (src detail : Nat) (inj : Bool) : MemErrDropped n p d (e.flag src detail inj) :=
  ⟨he.1, he.2.1, he.2.2⟩

end MemErrDropped

section
variable {d : Dev} {n : Nat} {f : Frame}

theorem parseTaken_armed (found : Option (ParseWord × Ecc)) (ha : d.armed (64 + 3 * n) = true) :
    MemErrDropped n f.port d (d.parseTaken n f found) ∧ (d.parseTaken n f found).bget Reg.FLT_INJ 31 = false := by
  have hinj := (memErrDrop_parseFrame d.disarm n f.port).rd Reg.FLT_INJ (inj_ne_prsEvent n) not_isPend_inj
  rw [parseTaken, if_pos ha]
  exact ⟨(memErrDropped _ n f.port).of_disarm.flag _ n true, (bget_of_rd ((rd_flag _ _ n true false 0 _).trans hinj) 31).trans (bget_disarm d)⟩
theorem parseTaken_double (w : ParseWord) (ha : d.armed (64 + 3 * n) = false) : MemErrDropped n f.port d (d.parseTaken n f (some (w, .double))) := by
  rw [parseTaken, if_neg (Bool.eq_false_iff.mp ha), if_pos (by simp)]
  exact (memErrDropped _ n f.port).of_entryBad.flag _ n false
theorem parseTaken_clean (ha : d.armed (64 + 3 * n) = false) : d.parseTaken n f none = d.walked n f := by
  rw [parseTaken, if_neg (Bool.eq_false_iff.mp ha), if_neg (by simp), if_neg (by simp)]

end

section
variable {d : Dev} {n : Nat} {f : Frame} {rest : List Frame} {found : Option (ParseWord × Ecc)} (h : rxNext (d.spar n) = some (f, rest))
include h

theorem parseHead_reloading (hr : (d.spar n).reloading = true) : MemErrDropped n f.port d (d.parseHead n found) := by
  rw [parseHead_some d n f rest found h, if_pos hr]
  exact (memErrDropped _ n f.port).of_updSpar rfl

variable (hr : (d.spar n).reloading = false)
include hr

theorem parseHead_taken : d.parseHead n found = (d.frameTaken n f rest).parseTaken n f found :=
  (parseHead_some d n f rest found h).trans (if_neg (Bool.eq_false_iff.mp hr))
theorem parseHead_armed (ha : d.armed (64 + 3 * n) = true) : MemErrDropped n f.port d (d.parseHead n found) ∧
    (d.parseHead n found).bget Reg.FLT_INJ 31 = false := by
  obtain ⟨hdrop, hinj⟩ := parseTaken_armed (d := d.frameTaken n f rest) (f := f) found ha
  rw [parseHead_taken h hr]
  exact ⟨hdrop.of_updSpar rfl, hinj⟩

variable (ha : d.armed (64 + 3 * n) = false)
include ha

theorem parseHead_double {w : ParseWord} (hf : found = some (w, .double)) : MemErrDropped n f.port d (d.parseHead n found) := by
  rw [parseHead_taken h hr, hf]
  exact (parseTaken_double (d := d.frameTaken n f rest) w ha).of_updSpar rfl
theorem parseHead_walked (hf : found = none) : d.parseHead n found = (d.frameTaken n f rest).walked n f := by
  rw [parseHead_taken h hr, hf]
  exact parseTaken_clean (d := d.frameTaken n f rest) ha

end

/-! A frame walked. -/

section
variable {d : Dev} {n : Nat} {f : Frame}

theorem walked_fail {k : Nat} (hw : (d.walkOf n f).2 = .fail k) (hpolicy : d.fget (Reg.PRS_PORT_CFG n (f.port % 8)) 17 16 = 0) :
    d.walked n f = (d.inc (Reg.C_PRS_PARSE_FAIL f.port)).prsEvent n 1 := by
  unfold walked
  rw [hw]
  dsimp only
  rw [hpolicy]
  rfl
theorem walked_fail_post {k : Nat} (hw : (d.walkOf n f).2 = .fail k) (hpolicy : d.fget (Reg.PRS_PORT_CFG n (f.port % 8)) 17 16 = 0) :
    ((d.walked n f).spar n).parsed = (d.spar n).parsed ∧ (d.walked n f).bget (Reg.PRS_EVENT n) 1 = true ∧
    (d.walked n f).cnt (Reg.C_PRS_PARSE_FAIL f.port) = addSat (d.cnt (Reg.C_PRS_PARSE_FAIL f.port)) 1 := by
  rw [walked_fail hw hpolicy]
  exact ⟨congrArg Spar.parsed (spar_prsEvent (d.inc _) n 1 n), bget_prsEvent _ n (by decide), (cnt_prsEvent _ n 1 _).trans (cnt_inc_same d _)⟩
/-- A frame that hits a rule with a direct destination, no policer and no copy. -/
theorem walked_direct {i : Nat} (hclean : ∀ q ∈ d.spars, q.2.badEntries = []) (hw : (d.walkOf n f).2 = .done)
    (hrule : d.ruleHit n (parseKey f.port (d.walkOf n f).1 false false) = some i) (hport : f.port < 1217)
    (hsel : bits (wide (d.tab 0x0511 n i)) 43 42 = 1 ∨ bits (wide (d.tab 0x0511 n i)) 43 42 = 3)
    (howner : bit (wide (d.tab 0x0511 n i)) 10 = false) (hpol : bits (wide (d.tab 0x0511 n i)) 34 23 = 0)
    (hcopy : bit (wide (d.tab 0x0511 n i)) 9 = false) (hcls : (d.directResult n f (d.walkOf n f).1.marks i).cls ≠ 8) : d.walked n f =
      if d.inBlack then d.blackDrop f.port
      else d.delivered n f (d.directResult n f (d.walkOf n f).1.marks i).cls i (d.walkOf n f).1.marks
        (min 2 (bits (wide (d.tab 0x0511 n i)) 36 35)) (d.resolve n f.port (d.directResult n f (d.walkOf n f).1.marks i)) := by
  unfold walked
  rw [hw]
  dsimp only
  rw [classifyChecked, readsBad_clean hclean, if_neg Bool.false_ne_true, classify_direct hrule hsel howner hport,
    passOn_plain d n f i _ _ hcls hpol hcopy]
/-- A frame that goes on joins the parsed frames. -/
theorem parsed_delivered_go (cls rule : Nat) (marks : List Nat) (colour : Nat) (r : Result) :
    ((d.delivered n f cls rule marks colour (.go r)).spar n).parsed = (d.spar n).parsed ++ [{ f with res := { r with colour := colour } }] := by
  have hspars : (d.pathLoss n r.stackMask).spars = d.spars := foldl_keeps Dev.spars (fun x _ => x.inc Reg.C_STK_PATH_DROP) (fun _ _ => rfl) _ d
  have hspar : (d.pathLoss n r.stackMask).spar n = d.spar n := congrArg (SMap.get (fun _ => ({} : Spar)) · n) hspars
  rw [delivered, spar_updSpar, if_pos rfl, hspar]
/-- A frame taken leaves every spar's entries as they were. -/
theorem frameTaken_clean {rest : List Frame} (h : ∀ q ∈ d.spars, q.2.badEntries = []) :
    ∀ q ∈ (d.frameTaken n f rest).spars, q.2.badEntries = [] := by
  intro q hq
  rcases SMap.mem_set (fun _ => ({} : Spar)) hq with ⟨rfl, -⟩ | hq
  · exact badEntries_clean h n
  · exact h q hq

end

end Machine.Dev

open Machine.Dev

/-- `t` is `e` with its reports handled, where `e` is what the parse of frame `f` of spar `n` left of `s`. -/
structure FrameParsed (n : Nat) (f : Frame) (rest : List Frame) (s e t : Dev) : Prop where
  rd : ∀ a, ¬ (a = Reg.PRS_EVENT n ∨ faultReg a) → ¬ isPend a → t.rd a = s.rd a
  others : ∀ k, k ≠ n → t.spar k = s.spar k
  outside : { t.beside with cnts := [], spars := [], fault := {} } = { s.beside with cnts := [], spars := [], fault := {} }
  rx : (t.spar n).rx = rest
  rxTurn : (t.spar n).rxTurn = (f.port + 1) % 8
  spar : t.spar n = e.spar n
  cnt : ∀ a, t.cnt a = e.cnt a
  event : ∀ i, t.bget (Reg.PRS_EVENT n) i = e.bget (Reg.PRS_EVENT n) i
  inj : t.bget Reg.FLT_INJ 31 = e.bget Reg.FLT_INJ 31

theorem FrameParsed.dropped {n p : Nat} {f : Frame} {rest : List Frame} {s e t : Dev} (h : FrameParsed n f rest s e t)
    (he : MemErrDropped n p s e) : MemErrDropped n p s t :=
  ⟨(h.cnt _).trans he.1, (h.event 4).trans he.2.1, (congrArg Spar.parsed h.spar).trans he.2.2⟩

/-- A frame taken, reached by an injection or not, parsed, and the reports of it handled. -/
theorem frameParsed_of_frames {n : Nat} {f : Frame} {rest : List Frame} {rs : List Due} {s d e : Dev}
    (hreg : RegFrame (fun a => a = Reg.FLT_INJ) (s.frameTaken n f rest) d) (hframe : ParseFrame n rs d e)
    (hf : FaultFrame reportReg e.dueCleared e.raiseDue) : FrameParsed n f rest s e e.raiseDue := by
  have hafter (k : Nat) : e.raiseDue.spar k = e.spar k := hf.spar k
  have hbefore (k : Nat) : d.spar k = (s.frameTaken n f rest).spar k :=
    congrArg (SMap.get (fun _ => ({} : Spar)) · k) (congrArg Dev.spars hreg.beside :)
  refine ⟨fun a h1 h2 => ?_, fun k hk => ?_, ?_, ?_, ?_, hafter n, hf.cnt, fun i => ?_, hf.bget 31 not_reportReg_inj not_isPend_inj⟩
  · obtain ⟨h1, hfault⟩ := not_or.mp h1
    have hinj : a ≠ Reg.FLT_INJ := fun h => hfault (h ▸ ⟨by decide, by decide⟩)
    exact (hf.rd a (hfault ∘ faultReg_of_reportReg) h2).trans ((hframe.rd a h1 h2).trans (hreg.rd a hinj h2))
  · rw [hafter, hframe.spar k hk, hbefore]
    exact (spar_updSpar s n k _).trans (if_neg hk)
  · have hout : { e.raiseDue.beside with cnts := [], spars := [], fault := {} } = { d.beside with cnts := [], spars := [], fault := {} } :=
      (congrArg (fun x : Dev => { x with cnts := [], spars := [] }) hf.outside).trans hframe.outside
    exact hout.trans (congrArg (fun x : Dev => { x with cnts := [], spars := [], fault := {} }) hreg.beside)
  · rw [hafter, hframe.rx, hbefore, spar_frameTaken]
  · rw [hafter, hframe.rxTurn, hbefore, spar_frameTaken]
  · exact hf.bget i (not_faultReg_prsEvent n ∘ faultReg_of_reportReg) (not_isPend_prsEvent n)

theorem runs_frameParse {s : State} (hs : Safe s) (n : Fin 128) (found : Option (ParseWord × Ecc)) {f : Frame} {rest : List Frame}
    (hm : s.Mild (64 + 3 * n)) (h : rxNext (s.spar n) = some (f, rest)) {post : State → Prop}
    (hp : ∀ t : State, FrameParsed n f rest s.toDev (s.parseHead n found) t.toDev → post t) : Runs (.frameParse n found) s post := by
  obtain ⟨d, rs, hreg, hmild, hgentle, hframe⟩ := parseHead_parseFrame found h hm
  have he : exec (.frameParse n found) s = finish s (s.parseHead n found) := rfl
  generalize s.parseHead n found = e at *
  have hbefore : besideReports d = besideReports s.toDev :=
    congrArg (fun x : Dev => { x with cnts := [], spars := [], slices := [], fault := {} }) hreg.beside
  have hafter : besideReports e = besideReports d := congrArg (fun x : Dev => { x with slices := [] }) hframe.outside
  have hdue : e.fault.due = rs := by
    have hnone : d.fault.due = s.fault.due := (congrArg (fun x : Dev => x.fault.due) hreg.beside :)
    rw [hframe.due, hnone, hs.2.2, List.nil_append]
  exact runs_gentle he hs (hafter.trans hbefore) (hdue.symm ▸ hgentle) (hframe.mild hmild)
    (fun hf => hp _ (frameParsed_of_frames hreg hframe hf))

theorem runs_parseReloadDone {s : State} (hs : Safe s) (n : Fin 128) : Runs (.parseReloadDone n) s (fun t =>
    (t.spar n).reloading = false ∧ t.bget (Reg.PRS_STATUS n) 0 = false ∧ (∀ a, a ≠ Reg.PRS_STATUS n → t.rd a = s.rd a) ∧
    (∀ k, k ≠ (n : Nat) → t.spar k = s.spar k) ∧ t = { s with regs := t.regs, spars := t.spars }) := by
  have hspar (k : Nat) : (s.prsReloaded n).spar k = if k = n then { s.spar n with reloading := false } else s.spar k :=
    (spar_wr _ _ _ k).trans (spar_updSpar s.toDev n k _)
  have hrd (a : Nat) (ha : a ≠ Reg.PRS_STATUS n) : (s.prsReloaded n).rd a = s.rd a := (rd_bset_ne _ 0 false ha).trans (rd_updSpar _ _ _ a)
  have hbeside := (bset_regFrame_self (s.updSpar n (fun y => { y with reloading := false })) (Reg.PRS_STATUS n) 0 false).beside
  refine runs_quiet rfl hs (congrArg Dev.fault hbeside :) (congrArg Dev.fmem hbeside :) (congrArg Dev.stores hbeside :)
    (congrArg Dev.fuses hbeside :) ⟨?_, bget_bset_same _ _ 0 false (by decide), hrd, fun k hk => (hspar k).trans (if_neg hk), rfl⟩
  exact (congrArg Spar.reloading ((hspar n).trans (if_pos rfl)) :)

/-- Settles O29: a frame taken is dropped by a reload, an injection or an error in an entry, or it is walked. -/
theorem frameParsing : Obligations.FrameParsing := by
  unfold Obligations.FrameParsing
  intro s n found w f rest i r' hs hm
  refine ⟨?_, runs_parseReloadDone hs n⟩
  cases hnext : rxNext (s.spar n) with
  | none =>
    exact runs_same (congrArg (finish s) (parseHead_none _ _ found hnext)) hs
      ⟨fun _ => rfl, fun _ _ _ => rfl, fun _ _ => rfl, rfl, nofun⟩
  | some p =>
    obtain ⟨f0, rest0⟩ := p
    refine runs_frameParse hs n found hm hnext (fun t ht => ⟨nofun, ht.rd, ht.others, ht.outside, fun heq => ?_⟩)
    obtain ⟨rfl, rfl⟩ : f0 = f ∧ rest0 = rest := by simpa using heq
    refine ⟨ht.rx, ht.rxTurn, fun hr => ?_, fun hr ha => ?_, fun hr ha hf => ?_, fun hr ha hf hclean => ?_⟩
    · exact ht.dropped (parseHead_reloading hnext hr)
    · obtain ⟨hdrop, hinj⟩ := parseHead_armed hnext hr ha
      exact ⟨ht.dropped hdrop, ht.inj.trans hinj⟩
    · exact ht.dropped (parseHead_double hnext hr ha hf)
    · have hwalked := parseHead_walked hnext hr ha hf
      refine ⟨fun k hw hpolicy => ?_, fun hw hrule hsel howner hport hpol hcopy hcls => ?_⟩
      · obtain ⟨hparsed, hev, hcnt⟩ := walked_fail_post (d := s.frameTaken n f0 rest0) hw hpolicy
        rw [hwalked] at ht
        exact ⟨(congrArg Spar.parsed ht.spar).trans (hparsed.trans (parsed_frameTaken _ n f0 rest0)), (ht.event 1).trans hev,
          (ht.cnt _).trans hcnt⟩
      · have hdirect := walked_direct (d := s.frameTaken n f0 rest0) (frameTaken_clean hclean) hw hrule hport hsel howner hpol hcopy hcls
        have hblack : (s.frameTaken n f0 rest0).inBlack = s.inBlack := rfl
        rw [hwalked, hdirect, hblack] at ht
        refine ⟨fun hb => ?_, fun hb hgo => ?_⟩
        · rw [hb, if_pos rfl] at ht
          exact ⟨(congrArg Spar.parsed ht.spar).trans (parsed_frameTaken _ n f0 rest0), (ht.cnt _).trans (cnt_inc_same _ _)⟩
        · have hgo' : (s.frameTaken n f0 rest0).resolve n f0.port
              ((s.frameTaken n f0 rest0).directResult n f0 ((s.frameTaken n f0 rest0).walkOf n f0).1.marks i) = .go r' := hgo
          rw [hb, if_neg Bool.false_ne_true, hgo'] at ht
          exact (congrArg Spar.parsed ht.spar).trans ((parsed_delivered_go _ _ _ _ _).trans
            (congrArg (· ++ _) (parsed_frameTaken _ n f0 rest0)))

end Sys2Proof
